-- ==== Sys2Proof/Word.lean ====
section
/-! DEFINITION. The word types of the machine: bytes, 64-bit registers and addresses, 1,024-bit vector registers
and 96-bit instruction words. -/

namespace Sys2Proof

/-- A byte of any memory. -/
abbrev Byte := BitVec 8
/-- A scalar register, an address or a special register (R6). -/
abbrev Word := BitVec 64
/-- A vector register: 32 lanes of 32 bits (R184). -/
abbrev VWord := BitVec 1024
/-- An instruction word (R19). -/
abbrev IWord := BitVec 96

end Sys2Proof
end

