-- ==== Sys2Proof/Syntax.lean ====
section
/-! DEFINITION. The abstract syntax of the machine: the fields every word shares (R19 to R23), the operand
codes (R24), one form structure per set of fields an instruction uses, and `Instr` with one constructor per row of
the opcode table. Rows with a source mnemonic are instructions of a context; rows without one are the steps of the
other agents of the machine, which carry the names of what they act on and have no encoding. -/

namespace Sys2Proof

/-- An operand code (R24, Table 6). `rsv` is a reserved code (0xD0 to 0xFE), `imm` the code 0xFF. -/
inductive Opnd where
  | x (n : BitVec 7)
  | v (n : BitVec 6)
  | p (n : BitVec 3)
  | vm (n : BitVec 3)
  | rsv (c : BitVec 8)
  | imm
deriving DecidableEq, Repr

/-- The fields of bits 84:62 and 37:32 that every format shares (R19, Table 1). -/
structure Head where
  ginv : Bool
  gpred : BitVec 3
  nas : BitVec 3
  next : BitVec 16
  dist : BitVec 4
  yld : Bool
  last : Bool
deriving DecidableEq, Repr

/-- The S-form tail: one semaphore wait and one semaphore signal (R20, Table 2). -/
structure STail where
  wsem : BitVec 8
  wthr : BitVec 8
  ssem : BitVec 8
  sinc : BitVec 4
  wen : Bool
  sen : Bool
  stime : Bool
  cons : Bool
deriving DecidableEq, Repr

/-- The M-form tail (R22, Table 4). -/
structure MTail where
  disp : BitVec 20
  space : BitVec 2
  scope : BitVec 2
  order : BitVec 2
  rtn : BitVec 4
  size : BitVec 2
deriving DecidableEq, Repr

/-- The X-form tail (R23, Table 5). -/
structure XTail where
  ctype : BitVec 3
  pA : BitVec 3
  pB : BitVec 3
  imm23 : BitVec 23
deriving DecidableEq, Repr

/-- S-form; the operand fields in use: none. -/
structure S0 where
  h : Head
  t : STail
deriving DecidableEq, Repr

/-- S-form; the operand fields in use: dst. -/
structure SD where
  h : Head
  d : Opnd
  t : STail
deriving DecidableEq, Repr

/-- S-form; the operand fields in use: srcA. -/
structure SA where
  h : Head
  a : Opnd
  t : STail
deriving DecidableEq, Repr

/-- S-form; the operand fields in use: dst, srcA. -/
structure SDA where
  h : Head
  d : Opnd
  a : Opnd
  t : STail
deriving DecidableEq, Repr

/-- S-form; the operand fields in use: srcA, srcB. -/
structure SAB where
  h : Head
  a : Opnd
  b : Opnd
  t : STail
deriving DecidableEq, Repr

/-- S-form; the operand fields in use: dst, srcA, srcB. -/
structure SDAB where
  h : Head
  d : Opnd
  a : Opnd
  b : Opnd
  t : STail
deriving DecidableEq, Repr

/-- I-form; the operand fields in use: none. -/
structure I0 where
  h : Head
  imm : BitVec 32
deriving DecidableEq, Repr

/-- I-form; the operand fields in use: dst. -/
structure ID where
  h : Head
  d : Opnd
  imm : BitVec 32
deriving DecidableEq, Repr

/-- I-form; the operand fields in use: srcA. -/
structure IA where
  h : Head
  a : Opnd
  imm : BitVec 32
deriving DecidableEq, Repr

/-- I-form; the operand fields in use: dst, srcA. -/
structure IDA where
  h : Head
  d : Opnd
  a : Opnd
  imm : BitVec 32
deriving DecidableEq, Repr

/-- M-form; the operand fields in use: srcA. -/
structure MA where
  h : Head
  a : Opnd
  m : MTail
deriving DecidableEq, Repr

/-- M-form; the operand fields in use: dst, srcA. -/
structure MDA where
  h : Head
  d : Opnd
  a : Opnd
  m : MTail
deriving DecidableEq, Repr

/-- M-form; the operand fields in use: srcA, srcB. -/
structure MAB where
  h : Head
  a : Opnd
  b : Opnd
  m : MTail
deriving DecidableEq, Repr

/-- M-form; the operand fields in use: dst, srcA, srcB. -/
structure MDAB where
  h : Head
  d : Opnd
  a : Opnd
  b : Opnd
  m : MTail
deriving DecidableEq, Repr

/-- X-form; the operand fields in use: srcA, srcB. -/
structure XAB where
  h : Head
  a : Opnd
  b : Opnd
  x : XTail
deriving DecidableEq, Repr

/-- X-form; the operand fields in use: dst, srcA, srcB. -/
structure XDAB where
  h : Head
  d : Opnd
  a : Opnd
  b : Opnd
  x : XTail
deriving DecidableEq, Repr

/-- One constructor per row of the opcode table. -/
inductive Instr where
  | nop (f : S0)
  | add (f : SDAB)
  | addImm (f : IDA)
  | sub (f : SDAB)
  | subImm (f : IDA)
  | mul (f : SDAB)
  | mulImm (f : IDA)
  | mulh (f : SDAB)
  | mulhImm (f : IDA)
  | mulhu (f : SDAB)
  | mulhuImm (f : IDA)
  | div (f : SDAB)
  | divImm (f : IDA)
  | divu (f : SDAB)
  | divuImm (f : IDA)
  | rem (f : SDAB)
  | remImm (f : IDA)
  | remu (f : SDAB)
  | remuImm (f : IDA)
  | and (f : SDAB)
  | andImm (f : IDA)
  | or (f : SDAB)
  | orImm (f : IDA)
  | xor (f : SDAB)
  | xorImm (f : IDA)
  | andn (f : SDAB)
  | andnImm (f : IDA)
  | shl (f : SDAB)
  | shlImm (f : IDA)
  | shr (f : SDAB)
  | shrImm (f : IDA)
  | sra (f : SDAB)
  | sraImm (f : IDA)
  | rotr (f : SDAB)
  | rotrImm (f : IDA)
  | min (f : SDAB)
  | minImm (f : IDA)
  | max (f : SDAB)
  | maxImm (f : IDA)
  | minu (f : SDAB)
  | minuImm (f : IDA)
  | maxu (f : SDAB)
  | maxuImm (f : IDA)
  | abs (f : SDA)
  | neg (f : SDA)
  | clz (f : SDA)
  | ctz (f : SDA)
  | popc (f : SDA)
  | bfx (f : IDA)
  | bfxu (f : IDA)
  | bfi (f : IDA)
  | mov (f : SDA)
  | li (f : ID)
  | lih (f : ID)
  | lea (f : MDA)
  | addW (f : SDAB)
  | addWImm (f : IDA)
  | subW (f : SDAB)
  | subWImm (f : IDA)
  | mulW (f : SDAB)
  | mulWImm (f : IDA)
  | sext (f : IDA)
  | zext (f : IDA)
  | cmpEq (f : XAB)
  | cmpNe (f : XAB)
  | cmpLt (f : XAB)
  | cmpLe (f : XAB)
  | cmpGt (f : XAB)
  | cmpGe (f : XAB)
  | cmpLtu (f : XAB)
  | cmpLeu (f : XAB)
  | cmpGtu (f : XAB)
  | cmpGeu (f : XAB)
  | btest (f : XAB)
  | fcmpEq (f : XAB)
  | fcmpLt (f : XAB)
  | fcmpLe (f : XAB)
  | fcmpUn (f : XAB)
  | pand (f : XAB)
  | por (f : XAB)
  | pxor (f : XAB)
  | pmov (f : SD)
  | pset (f : SA)
  | sel (f : XDAB)
  | fadd (f : SDAB)
  | fsub (f : SDAB)
  | fmul (f : SDAB)
  | fma (f : SDAB)
  | fnma (f : SDAB)
  | fdiv (f : SDAB)
  | fsqrt (f : SDA)
  | fmin (f : SDAB)
  | fmax (f : SDAB)
  | fabs (f : SDA)
  | fneg (f : SDA)
  | fclass (f : SDA)
  | frnd (f : SDA)
  | fcvtFi (f : SDA)
  | fcvtIf (f : SDA)
  | fcvtBf (f : SDA)
  | fcvtFb (f : SDA)
  | fcvtE4 (f : SDA)
  | fcvtE5 (f : SDA)
  | fcvtF4 (f : SDA)
  | fcvtF5 (f : SDA)
  | fsplit (f : SDA)
  | enter (f : I0)
  | leave (f : I0)
  | lcset (f : SA)
  | lcsetImm (f : I0)
  | lcpush (f : S0)
  | lcpop (f : S0)
  | mfs (f : ID)
  | mts (f : IA)
  | yield (f : S0)
  | trap (f : I0)
  | brk (f : I0)
  | irgn (f : S0)
  | launch (f : SAB)
  | join (f : SDA)
  | ldB (f : MDA)
  | ldBu (f : MDA)
  | ldH (f : MDA)
  | ldHu (f : MDA)
  | ldW (f : MDA)
  | ldWu (f : MDA)
  | ldD (f : MDA)
  | ldQ (f : MDA)
  | stB (f : MAB)
  | stH (f : MAB)
  | stW (f : MAB)
  | stD (f : MAB)
  | stQ (f : MAB)
  | ldT (f : MDA)
  | ldS (f : MDAB)
  | tlook (f : SDA)
  | tset (f : SDAB)
  | tinv (f : SDA)
  | tclr (f : SA)
  | rgset (f : SAB)
  | rgclr (f : SA)
  | rgq (f : SDA)
  | ldm (f : MDAB)
  | stm (f : MDAB)
  | amoAdd (f : MDAB)
  | amoAnd (f : MDAB)
  | amoOr (f : MDAB)
  | amoXor (f : MDAB)
  | amoMin (f : MDAB)
  | amoMax (f : MDAB)
  | amoMinu (f : MDAB)
  | amoMaxu (f : MDAB)
  | amoXchg (f : MDAB)
  | amoCas (f : MDAB)
  | amoFadd (f : MDAB)
  | amoFmin (f : MDAB)
  | amoFmax (f : MDAB)
  | amoBfadd2 (f : MDAB)
  | rcell (f : MDAB)
  | rfree (f : MDA)
  | ropFadd (f : MDAB)
  | ropSt (f : MDAB)
  | ropMaxi (f : MDAB)
  | ropBfadd (f : MDAB)
  | rstat (f : MDA)
  | rreissue (f : MDAB)
  | fnc (f : ID)
  | fwait (f : SA)
  | barInit (f : MAB)
  | barArr (f : MDA)
  | barWait (f : MDAB)
  | barArw (f : MDA)
  | barSt (f : MDA)
  | gjoin (f : SDA)
  | gjoinImm (f : ID)
  | gleave (f : SDA)
  | gleaveImm (f : ID)
  | gbar (f : ID)
  | gbarSs (f : IDA)
  | evw (f : MDA)
  | evsig (f : SA)
  | evsigImm (f : I0)
  | semwt (f : SDA)
  | semwtImm (f : ID)
  | semsg (f : SA)
  | semsgImm (f : I0)
  | semrd (f : SDA)
  | semrdImm (f : ID)
  | semset (f : SDA)
  | semsetImm (f : ID)
  | tagwa (f : SDA)
  | tagwaImm (f : ID)
  | tagwl (f : SDA)
  | tagwlImm (f : ID)
  | tagff (f : SDA)
  | tagffImm (f : ID)
  | tagclr (f : SA)
  | tagclrImm (f : I0)
  | settle (f : MA)
  | vld (f : MDA)
  | vlds (f : MDAB)
  | vldx (f : MDAB)
  | vst (f : MAB)
  | vsts (f : MDAB)
  | vstx (f : MDAB)
  | vaddI (f : SDAB)
  | vsubI (f : SDAB)
  | vmulI (f : SDAB)
  | vminI (f : SDAB)
  | vmaxI (f : SDAB)
  | vand (f : SDAB)
  | vor (f : SDAB)
  | vxor (f : SDAB)
  | vshl (f : SDAB)
  | vshlImm (f : IDA)
  | vshr (f : SDAB)
  | vshrImm (f : IDA)
  | vsra (f : SDAB)
  | vsraImm (f : IDA)
  | vaddF (f : SDAB)
  | vsubF (f : SDAB)
  | vmulF (f : SDAB)
  | vfmaF (f : SDAB)
  | vfnmaF (f : SDAB)
  | vminF (f : SDAB)
  | vmaxF (f : SDAB)
  | vabsF (f : SDA)
  | vnegF (f : SDA)
  | vdivF (f : SDAB)
  | vsqrtF (f : SDA)
  | vrcpF (f : SDA)
  | vrsqF (f : SDA)
  | vexp2F (f : SDA)
  | vlog2F (f : SDA)
  | vfmaBf (f : SDAB)
  | vcvt (f : SDAB)
  | vsplit (f : SDAB)
  | vquant (f : SDAB)
  | vdequant (f : SDAB)
  | vrnsTo (f : SDA)
  | vrnsFrom (f : SDA)
  | vcmpEq (f : SDAB)
  | vcmpLt (f : SDAB)
  | vcmpLe (f : SDAB)
  | vcmpFlt (f : SDAB)
  | vcmpFle (f : SDAB)
  | vcmpFun (f : SDAB)
  | vsel (f : SDAB)
  | vmand (f : SDAB)
  | vmor (f : SDAB)
  | vmxor (f : SDAB)
  | vmnot (f : SDA)
  | vmpop (f : SDA)
  | vbcast (f : SDA)
  | vbcastImm (f : ID)
  | vmovx (f : SDAB)
  | vmovxImm (f : IDA)
  | vmovv (f : SDAB)
  | vmovvImm (f : IDA)
  | viota (f : SDA)
  | vperm (f : SDAB)
  | vrot (f : SDAB)
  | vrotImm (f : IDA)
  | vzip (f : SDAB)
  | vunzip (f : SDAB)
  | vmov (f : SDA)
  | vredAddF (f : SDA)
  | vredAddI (f : SDA)
  | vredMinF (f : SDA)
  | vredMaxF (f : SDA)
  | vredMinI (f : SDA)
  | vredMaxI (f : SDA)
  | vscanAddI (f : SDA)
  | vscanAddF (f : SDA)
  | vsetvl (f : SDAB)
  | vsetvlImm (f : ID)
  | vcmul (f : SDAB)
  | mxq (f : SA)
  | mxqr (f : SA)
  | cpq (f : SA)
  | cpqr (f : SA)
  | eqst (f : SDA)
  | mxwm (f : SDA)
  | mxrd (f : SDA)
  | mxrdImm (f : ID)
  | mxwr (f : SAB)
  | mxwrImm (f : IA)
  | mxcap (f : SD)
  | mxgate (f : SA)
  | mxgateImm (f : I0)
  | cpkill (f : SA)
  | cpkillImm (f : I0)
  | svc (f : I0)
  | mbxw (f : SDA)
  | mbxr (f : SDAB)
  | tlbi (f : SDAB)
  | rtld (f : SAB)
  | rtchk (f : SDA)
  | artw (f : SDAB)
  | imap (f : SDAB)
  | ctxsv (f : SDAB)
  | ctxld (f : SDAB)
  | prmt (f : SDA)
  | kill (f : SDA)
  | gpart (f : SDAB)
  | wdog (f : SDAB)
  | wdogImm (f : IDA)
  | proof (f : ID)
  | cntc (f : SDAB)
  | cntcImm (f : IDA)
  | cntr (f : SDA)
  | trc (f : SDAB)
  | trcImm (f : IDA)
  | scrub (f : SDA)
  | keyld (f : SDAB)
  | turnack (f : SDA)
  | rflush (f : MDA)
  | fencecore (f : SDA)
  | flood (f : SDA)
  | halt (f : SA)
  | vectorInstructionExecute (tile : Nat)
  | loadw (tile : Nat)
  | stream (tile : Nat)
  | mma (tile : Nat)
  | zero (tile : Nat)
  | store (tile : Nat)
  | loadacc (tile : Nat)
  | rnsmode (tile : Nat)
  | arrayPowerGate (tile : Nat)
  | matrixQueueWindowWrite (tile : Nat) (rec : BitVec 512)
  | copy (tile : Nat)
  | gather (tile : Nat)
  | scatter (tile : Nat)
  | fill (tile : Nat)
  | quant (tile : Nat)
  | proofstream (tile : Nat)
  | copySectorIssue (tile : Nat)
  | copySectorPerformed (tile : Nat) (cmd : Nat) (sector : Nat)
  | fillCompletion (tile : Nat) (sector : Nat)
  | routineEnd (tile : Nat) (ctx : Nat)
  | postingQueueSend (id : Nat)
  | packetDeliver (id : Nat)
  | homeSliceApply (id : Nat)
  | stampedOperationApply (id : Nat)
  | remoteAccessApply (id : Nat)
  | remoteBarrierUpdate (id : Nat)
  | eventUnitMessage (id : Nat)
  | reply (id : Nat)
  | postedRefusal (id : Nat)
  | pageTableWalk (tile : Nat) (va : BitVec 64) (write : Bool) (fetch : Bool)
  | observe (tile : Nat) (ctx : Nat)
  | treeBarrierRelease (tree : Nat)
  | settlingWatermarkAdvance (owner : Nat) (slice : Nat)
  | collectionWindowClose (owner : Nat)
  | slugPop (cluster : Nat)
  | galleyPush (forme : Nat) (galley : Nat)
  | heldPushApply (forme : Nat) (galley : Nat)
  | budgetIntervalReload (cluster : Nat)
  | sliceExpiry (tile : Nat) (ctx : Nat)
  | watchdogT1 (tile : Nat) (ctx : Nat)
  | watchdogT2 (tile : Nat) (ctx : Nat)
  | watchdogT3 (tile : Nat) (ctx : Nat)
  | indexedLaunchRead (forme : Nat) (galley : Nat)
  | chunkRequest (forme : Nat) (galley : Nat)
  | chunkReport (forme : Nat) (galley : Nat) (chunk : Nat)
  | masterFailover (owner : Nat) (galley : Nat)
  | turnNotice
  | quiesce
  | drainComplete
  | shiftRound
  | resume
  | turnCancel (cause : Nat)
  | ucieFlitReceive (link : Nat) (seqno : Nat) (crcOk : Bool)
  | linkRetrain (link : Nat)
  | linkRetrainComplete (link : Nat)
  | twinCopyArrival (id : Nat)
  | twinTimeout (id : Nat)
  | gatewayIngress (id : Nat)
  | moduleResetRelease
  | clusterPowerUp (die : Nat) (cluster : Nat)
  | go
  | imageRelay (die : Nat)
  | discoveryAnswer (die : Nat) (site : Nat)
  | bstatClear (value : BitVec 64)
  | hdoor
  | ddoorClear
  | windowRead (offset : Nat) (size : Nat)
  | windowWrite (offset : Nat) (size : Nat) (data : BitVec 512)
  | debugStopRequest (mask : BitVec 4)
  | debugStep (mask : BitVec 4)
  | debugGo (mask : BitVec 4)
  | budgetWrite (value : BitVec 64)
  | registerWrite (offset : Nat) (value : BitVec 64)
  | ownerCreate
  | ownerGrow
  | ownerShrink
  | ownerRetire
  | assignKeys
  | releaseKeys
  | attestationRequest
  | scrubComplete (bed : Nat)
  | rollback (owner : Nat)
  | patrolScrub (line : Nat)
  | monitorSample (cluster : Nat) (temp : BitVec 10) (volt : BitVec 14) (osc : BitVec 16)
  | traceCycRecord (tile : Nat) (ctx : Nat)
  | gatewayApplied (id : Nat)
  | linkLevelRetry (link : Nat)
  | uncorrectableError (place : Nat) (key : Nat) (addr : Nat)
deriving DecidableEq, Repr

end Sys2Proof
end

