-- ==== Sys2Proof/WellFormed.lean ====
section
/-! DEFINITION. Which instructions are well formed: the part of the first decode check (R36, Table 10, order 1)
that is not already in the shape of the syntax: must-be-zero fields, excluded M-form combinations (R22), and the
encodings each entry refuses. An ill-formed instruction is the decoding of no word. -/

namespace Sys2Proof

/-- A reserved operand code lies from 0xD0 to 0xFE (R24). -/
def Opnd.wf : Opnd → Bool
  | .rsv c => 0xD0 ≤ c.toNat && c.toNat < 0xFF
  | _ => true

/-- The `next` field must be 0 under SEQ, RET and FIN; bits 15:7 must be 0 under JIND (R31, Table 7). -/
def Head.wf (h : Head) : Bool :=
  if h.nas == 0 || h.nas == 4 || h.nas == 7 then h.next == 0
  else if h.nas == 6 then decide (h.next.toNat < 128)
  else true

/-- Disabled parts of the S-form tail must be 0 (R20). -/
def STail.wf (t : STail) : Bool :=
  (t.wen || (t.wsem == 0 && t.wthr == 0 && !t.cons)) &&
  (t.sen || (t.ssem == 0 && t.sinc == 0 && !t.stime))

/-- What R22 asks of every M-form tail. -/
def MTail.wf (m : MTail) : Bool :=
  (m.rtn == 0 || m.space == 3) && decide (m.size.toNat < 2)

/-- imm23 must be 0 unless srcB is the immediate code (R23). -/
def XTail.wf (x : XTail) (b : Opnd) : Bool := b == .imm || x.imm23 == 0

/-- The shared fields of the form. -/
def S0.wf (f : S0) : Bool := f.h.wf && f.t.wf
/-- The shared fields of the form. -/
def SD.wf (f : SD) : Bool := f.h.wf && f.d.wf && f.t.wf
/-- The shared fields of the form. -/
def SA.wf (f : SA) : Bool := f.h.wf && f.a.wf && f.t.wf
/-- The shared fields of the form. -/
def SDA.wf (f : SDA) : Bool := f.h.wf && f.d.wf && f.a.wf && f.t.wf
/-- The shared fields of the form. -/
def SAB.wf (f : SAB) : Bool := f.h.wf && f.a.wf && f.b.wf && f.t.wf
/-- The shared fields of the form. -/
def SDAB.wf (f : SDAB) : Bool := f.h.wf && f.d.wf && f.a.wf && f.b.wf && f.t.wf
/-- The shared fields of the form. -/
def I0.wf (f : I0) : Bool := f.h.wf
/-- The shared fields of the form. -/
def ID.wf (f : ID) : Bool := f.h.wf && f.d.wf
/-- The shared fields of the form. -/
def IA.wf (f : IA) : Bool := f.h.wf && f.a.wf
/-- The shared fields of the form. -/
def IDA.wf (f : IDA) : Bool := f.h.wf && f.d.wf && f.a.wf
/-- The shared fields of the form. -/
def MA.wf (f : MA) : Bool := f.h.wf && f.a.wf && f.m.wf
/-- The shared fields of the form. -/
def MDA.wf (f : MDA) : Bool := f.h.wf && f.d.wf && f.a.wf && f.m.wf
/-- The shared fields of the form. -/
def MAB.wf (f : MAB) : Bool := f.h.wf && f.a.wf && f.b.wf && f.m.wf
/-- The shared fields of the form. -/
def MDAB.wf (f : MDAB) : Bool := f.h.wf && f.d.wf && f.a.wf && f.b.wf && f.m.wf
/-- The shared fields of the form. -/
def XAB.wf (f : XAB) : Bool := f.h.wf && f.a.wf && f.b.wf && f.x.wf f.b
/-- The shared fields of the form. -/
def XDAB.wf (f : XDAB) : Bool := f.h.wf && f.d.wf && f.a.wf && f.b.wf && f.x.wf f.b

/-- Bit-field immediate (R44): pos in 5:0, width − 1 in 11:6, the rest 0, pos + width at most 64. -/
def bitFieldImm (i : BitVec 32) : Bool :=
  decide (i.toNat < 4096) && decide (i.toNat % 64 + (i.toNat / 64 + 1) ≤ 64)

/-- `sext`/`zext` immediate (R47): n from 1 to 64 in 6:0, the rest 0. -/
def extImm (i : BitVec 32) : Bool := decide (1 ≤ i.toNat) && decide (i.toNat ≤ 64)

/-- `lea` (R46): every tail field but disp and space is 0, and space is not 3. -/
def leaTail (m : MTail) : Bool :=
  m.scope == 0 && m.order == 0 && m.rtn == 0 && m.size == 0 && m.space != 3

/-- Order and scope per space for the accesses of Table 3 (R73, Table 2). -/
def orderScopeOk (m : MTail) : Bool :=
  if m.order == 0 then m.scope == 0
  else if m.space == 0 || m.space == 1 then true
  else decide (2 ≤ m.scope.toNat)

/-- A load: size 0, no release (R22, R73). -/
def loadTail (m : MTail) : Bool := m.size == 0 && m.order != 2 && orderScopeOk m
/-- A store: size 0, no acquire (R22, R73). -/
def storeTail (m : MTail) : Bool := m.size == 0 && m.order != 1 && orderScopeOk m
/-- `ldm` and `stm`: order, scope and size 0 (R79). -/
def plainTail (m : MTail) : Bool := m.size == 0 && m.order == 0 && m.scope == 0
/-- `ld.t` and `ld.s`: space 2, scope 2, size 1, order 0 or 1 (R84, R85). -/
def settledTail (m : MTail) : Bool :=
  m.space == 2 && m.scope == 2 && m.size == 1 && (m.order == 0 || m.order == 1)
/-- Atomics: a posted one takes order 0 or 2 only (R119). -/
def amoTail (d : Opnd) (m : MTail) : Bool :=
  d != .x 0 || m.order == 0 || m.order == 2
/-- Cell instructions: space 2, scope 2, size 1, order 0 (a `rop` also 2) (R125). -/
def cellTail (m : MTail) (rop : Bool) : Bool :=
  m.space == 2 && m.scope == 2 && m.size == 1 && (m.order == 0 || (rop && m.order == 2))
/-- Barrier-object instructions (R141). -/
def barTail (m : MTail) (remote : Bool) : Bool :=
  m.order == 0 && m.size == 0 &&
    ((m.space == 0 && m.scope != 3) || (remote && m.space == 3 && m.scope == 2))
/-- Everything 0 but disp, in the space given (R154, R165). -/
def zeroTail (m : MTail) (sp : BitVec 2) : Bool :=
  m.space == sp && m.scope == 0 && m.order == 0 && m.rtn == 0 && m.size == 0
/-- Vector loads and stores: scope, order, rtn and size 0 (R192). -/
def vecTail (m : MTail) : Bool := m.scope == 0 && m.order == 0 && m.rtn == 0 && m.size == 0
/-- `rflush` (R338): space 2, scope 2 or 3, order, rtn and size 0. -/
def flushTail (m : MTail) : Bool :=
  m.space == 2 && decide (2 ≤ m.scope.toNat) && m.order == 0 && m.rtn == 0 && m.size == 0

/-- Fence immediate (R163): at least one kind in 4:2, the rest of 31:5 0. -/
def fenceImm (i : BitVec 32) : Bool := decide (4 ≤ i.toNat) && decide (i.toNat < 32)
/-- Join operand as an immediate (R147, R148). -/
def joinImm (i : BitVec 32) : Bool :=
  decide (i.toNat < 65536) && (i.getLsbD 11 || decide (i.toNat < 4096))
/-- Semaphore operand as an immediate (R160, Table 9). -/
def semImm (i : BitVec 32) (consOk valZero : Bool) : Bool :=
  decide (i.toNat < 33554432) && (consOk || !i.getLsbD 24) && (!valZero || decide (i.toNat / 256 % 65536 = 0))

/-- What an `evsig` operand may ask of a line (R153, Tables 5 and 6), the must-be-0 bits included. -/
def evsigWordOk (w : Nat) : Bool :=
  let line := w % 64
  let arg := w / 65536 % 256
  let action := w / 16384 % 4
  let remote := w / 512 % 2 == 1
  decide (w < 16777216) && w / 64 % 8 == 0 &&
    (if action == 2 then decide (line < 16) && decide (1 ≤ arg) && decide (arg ≤ 64)
     else arg == 0 &&
      (if action == 0 then decide (line < 16) || decide (32 ≤ line)
       else action == 1 && decide (16 ≤ line) && decide (line < 32) && !remote))
/-- `evsig` operand as an immediate. -/
def evsigImmOk (i : BitVec 32) : Bool := evsigWordOk i.toNat

/-- Numbers of special registers that `mfs` may name (R64 Table 7, R337 Table 8). -/
def readableNumber (n : Nat) : Bool :=
  decide (n ≤ 0x008) || (decide (0x010 ≤ n) && decide (n ≤ 0x01A)) ||
  (decide (0x020 ≤ n) && decide (n ≤ 0x049)) || (decide (0x060 ≤ n) && decide (n ≤ 0x064))
/-- Numbers of special registers that some level may write with `mts`. -/
def writableNumber (n : Nat) : Bool :=
  decide (n ≤ 0x008) || n == 0x014 || n == 0x019 ||
  (decide (0x040 ≤ n) && decide (n ≤ 0x049) && n != 0x046) || (decide (0x060 ≤ n) && decide (n ≤ 0x064))

/-- The instruction passes the first decode check (R36). Steps of other agents are always well formed. -/
def Instr.wf : Instr → Bool
  | .nop f => f.wf
  | .add f => f.wf
  | .addImm f => f.wf
  | .sub f => f.wf
  | .subImm f => f.wf
  | .mul f => f.wf
  | .mulImm f => f.wf
  | .mulh f => f.wf
  | .mulhImm f => f.wf
  | .mulhu f => f.wf
  | .mulhuImm f => f.wf
  | .div f => f.wf
  | .divImm f => f.wf
  | .divu f => f.wf
  | .divuImm f => f.wf
  | .rem f => f.wf
  | .remImm f => f.wf
  | .remu f => f.wf
  | .remuImm f => f.wf
  | .and f => f.wf
  | .andImm f => f.wf
  | .or f => f.wf
  | .orImm f => f.wf
  | .xor f => f.wf
  | .xorImm f => f.wf
  | .andn f => f.wf
  | .andnImm f => f.wf
  | .shl f => f.wf
  | .shlImm f => f.wf
  | .shr f => f.wf
  | .shrImm f => f.wf
  | .sra f => f.wf
  | .sraImm f => f.wf
  | .rotr f => f.wf
  | .rotrImm f => f.wf
  | .min f => f.wf
  | .minImm f => f.wf
  | .max f => f.wf
  | .maxImm f => f.wf
  | .minu f => f.wf
  | .minuImm f => f.wf
  | .maxu f => f.wf
  | .maxuImm f => f.wf
  | .abs f => f.wf
  | .neg f => f.wf
  | .clz f => f.wf
  | .ctz f => f.wf
  | .popc f => f.wf
  | .bfx f => f.wf && (bitFieldImm f.imm)
  | .bfxu f => f.wf && (bitFieldImm f.imm)
  | .bfi f => f.wf && (bitFieldImm f.imm)
  | .mov f => f.wf
  | .li f => f.wf
  | .lih f => f.wf
  | .lea f => f.wf && (leaTail f.m)
  | .addW f => f.wf
  | .addWImm f => f.wf
  | .subW f => f.wf
  | .subWImm f => f.wf
  | .mulW f => f.wf
  | .mulWImm f => f.wf
  | .sext f => f.wf && (extImm f.imm)
  | .zext f => f.wf && (extImm f.imm)
  | .cmpEq f => f.wf
  | .cmpNe f => f.wf
  | .cmpLt f => f.wf
  | .cmpLe f => f.wf
  | .cmpGt f => f.wf
  | .cmpGe f => f.wf
  | .cmpLtu f => f.wf
  | .cmpLeu f => f.wf
  | .cmpGtu f => f.wf
  | .cmpGeu f => f.wf
  | .btest f => f.wf
  | .fcmpEq f => f.wf
  | .fcmpLt f => f.wf
  | .fcmpLe f => f.wf
  | .fcmpUn f => f.wf
  | .pand f => f.wf
  | .por f => f.wf
  | .pxor f => f.wf
  | .pmov f => f.wf
  | .pset f => f.wf
  | .sel f => f.wf && (f.x.ctype == 0 && f.x.pB == 0)
  | .fadd f => f.wf
  | .fsub f => f.wf
  | .fmul f => f.wf
  | .fma f => f.wf
  | .fnma f => f.wf
  | .fdiv f => f.wf
  | .fsqrt f => f.wf
  | .fmin f => f.wf
  | .fmax f => f.wf
  | .fabs f => f.wf
  | .fneg f => f.wf
  | .fclass f => f.wf
  | .frnd f => f.wf
  | .fcvtFi f => f.wf
  | .fcvtIf f => f.wf
  | .fcvtBf f => f.wf
  | .fcvtFb f => f.wf
  | .fcvtE4 f => f.wf
  | .fcvtE5 f => f.wf
  | .fcvtF4 f => f.wf
  | .fcvtF5 f => f.wf
  | .fsplit f => f.wf
  | .enter f => f.wf && (f.imm &&& 7 == 0)
  | .leave f => f.wf && (f.imm &&& 7 == 0)
  | .lcset f => f.wf
  | .lcsetImm f => f.wf
  | .lcpush f => f.wf
  | .lcpop f => f.wf
  | .mfs f => f.wf && (readableNumber f.imm.toNat)
  | .mts f => f.wf && (writableNumber f.imm.toNat)
  | .yield f => f.wf
  | .trap f => f.wf
  | .brk f => f.wf
  | .irgn f => f.wf
  | .launch f => f.wf
  | .join f => f.wf
  | .ldB f => f.wf && (loadTail f.m)
  | .ldBu f => f.wf && (loadTail f.m)
  | .ldH f => f.wf && (loadTail f.m)
  | .ldHu f => f.wf && (loadTail f.m)
  | .ldW f => f.wf && (loadTail f.m)
  | .ldWu f => f.wf && (loadTail f.m)
  | .ldD f => f.wf && (loadTail f.m)
  | .ldQ f => f.wf && (loadTail f.m)
  | .stB f => f.wf && (storeTail f.m)
  | .stH f => f.wf && (storeTail f.m)
  | .stW f => f.wf && (storeTail f.m)
  | .stD f => f.wf && (storeTail f.m)
  | .stQ f => f.wf && (storeTail f.m)
  | .ldT f => f.wf && (settledTail f.m)
  | .ldS f => f.wf && (settledTail f.m)
  | .tlook f => f.wf
  | .tset f => f.wf
  | .tinv f => f.wf
  | .tclr f => f.wf
  | .rgset f => f.wf
  | .rgclr f => f.wf
  | .rgq f => f.wf
  | .ldm f => f.wf && (plainTail f.m)
  | .stm f => f.wf && (plainTail f.m)
  | .amoAdd f => f.wf && (amoTail f.d f.m)
  | .amoAnd f => f.wf && (amoTail f.d f.m)
  | .amoOr f => f.wf && (amoTail f.d f.m)
  | .amoXor f => f.wf && (amoTail f.d f.m)
  | .amoMin f => f.wf && (amoTail f.d f.m)
  | .amoMax f => f.wf && (amoTail f.d f.m)
  | .amoMinu f => f.wf && (amoTail f.d f.m)
  | .amoMaxu f => f.wf && (amoTail f.d f.m)
  | .amoXchg f => f.wf && (amoTail f.d f.m)
  | .amoCas f => f.wf && (amoTail f.d f.m)
  | .amoFadd f => f.wf && (amoTail f.d f.m && f.m.size == 0)
  | .amoFmin f => f.wf && (amoTail f.d f.m && f.m.size == 0)
  | .amoFmax f => f.wf && (amoTail f.d f.m && f.m.size == 0)
  | .amoBfadd2 f => f.wf && (amoTail f.d f.m && f.m.size == 0)
  | .rcell f => f.wf && (cellTail f.m false)
  | .rfree f => f.wf && (cellTail f.m false)
  | .ropFadd f => f.wf && (cellTail f.m true)
  | .ropSt f => f.wf && (cellTail f.m true)
  | .ropMaxi f => f.wf && (cellTail f.m true)
  | .ropBfadd f => f.wf && (cellTail f.m true)
  | .rstat f => f.wf && (cellTail f.m false)
  | .rreissue f => f.wf && (cellTail f.m false)
  | .fnc f => f.wf && (fenceImm f.imm)
  | .fwait f => f.wf
  | .barInit f => f.wf && (barTail f.m false)
  | .barArr f => f.wf && (barTail f.m true)
  | .barWait f => f.wf && (barTail f.m true)
  | .barArw f => f.wf && (barTail f.m true)
  | .barSt f => f.wf && (barTail f.m true)
  | .gjoin f => f.wf
  | .gjoinImm f => f.wf && (joinImm f.imm)
  | .gleave f => f.wf
  | .gleaveImm f => f.wf && (joinImm f.imm)
  | .gbar f => f.wf && (f.imm < 64)
  | .gbarSs f => f.wf && (64 ≤ f.imm && f.imm < 128)
  | .evw f => f.wf && (zeroTail f.m 0)
  | .evsig f => f.wf
  | .evsigImm f => f.wf && (evsigImmOk f.imm)
  | .semwt f => f.wf
  | .semwtImm f => f.wf && (semImm f.imm true false)
  | .semsg f => f.wf
  | .semsgImm f => f.wf && (semImm f.imm false false)
  | .semrd f => f.wf
  | .semrdImm f => f.wf && (semImm f.imm false true)
  | .semset f => f.wf
  | .semsetImm f => f.wf && (semImm f.imm false false)
  | .tagwa f => f.wf
  | .tagwaImm f => f.wf
  | .tagwl f => f.wf
  | .tagwlImm f => f.wf
  | .tagff f => f.wf
  | .tagffImm f => f.wf
  | .tagclr f => f.wf
  | .tagclrImm f => f.wf
  | .settle f => f.wf && (zeroTail f.m 2)
  | .vld f => f.wf && (vecTail f.m)
  | .vlds f => f.wf && (vecTail f.m)
  | .vldx f => f.wf && (vecTail f.m)
  | .vst f => f.wf && (vecTail f.m)
  | .vsts f => f.wf && (vecTail f.m)
  | .vstx f => f.wf && (vecTail f.m)
  | .vaddI f => f.wf
  | .vsubI f => f.wf
  | .vmulI f => f.wf
  | .vminI f => f.wf
  | .vmaxI f => f.wf
  | .vand f => f.wf
  | .vor f => f.wf
  | .vxor f => f.wf
  | .vshl f => f.wf
  | .vshlImm f => f.wf && (f.imm < 32)
  | .vshr f => f.wf
  | .vshrImm f => f.wf && (f.imm < 32)
  | .vsra f => f.wf
  | .vsraImm f => f.wf && (f.imm < 32)
  | .vaddF f => f.wf
  | .vsubF f => f.wf
  | .vmulF f => f.wf
  | .vfmaF f => f.wf
  | .vfnmaF f => f.wf
  | .vminF f => f.wf
  | .vmaxF f => f.wf
  | .vabsF f => f.wf
  | .vnegF f => f.wf
  | .vdivF f => f.wf
  | .vsqrtF f => f.wf
  | .vrcpF f => f.wf
  | .vrsqF f => f.wf
  | .vexp2F f => f.wf
  | .vlog2F f => f.wf
  | .vfmaBf f => f.wf
  | .vcvt f => f.wf
  | .vsplit f => f.wf
  | .vquant f => f.wf
  | .vdequant f => f.wf
  | .vrnsTo f => f.wf
  | .vrnsFrom f => f.wf
  | .vcmpEq f => f.wf
  | .vcmpLt f => f.wf
  | .vcmpLe f => f.wf
  | .vcmpFlt f => f.wf
  | .vcmpFle f => f.wf
  | .vcmpFun f => f.wf
  | .vsel f => f.wf
  | .vmand f => f.wf
  | .vmor f => f.wf
  | .vmxor f => f.wf
  | .vmnot f => f.wf
  | .vmpop f => f.wf
  | .vbcast f => f.wf
  | .vbcastImm f => f.wf
  | .vmovx f => f.wf
  | .vmovxImm f => f.wf && (f.imm < 32)
  | .vmovv f => f.wf
  | .vmovvImm f => f.wf && (f.imm < 32)
  | .viota f => f.wf
  | .vperm f => f.wf
  | .vrot f => f.wf
  | .vrotImm f => f.wf && (f.imm < 32)
  | .vzip f => f.wf
  | .vunzip f => f.wf
  | .vmov f => f.wf
  | .vredAddF f => f.wf
  | .vredAddI f => f.wf
  | .vredMinF f => f.wf
  | .vredMaxF f => f.wf
  | .vredMinI f => f.wf
  | .vredMaxI f => f.wf
  | .vscanAddI f => f.wf
  | .vscanAddF f => f.wf
  | .vsetvl f => f.wf
  | .vsetvlImm f => f.wf && (f.imm < 524288)
  | .vcmul f => f.wf
  | .mxq f => f.wf
  | .mxqr f => f.wf
  | .cpq f => f.wf
  | .cpqr f => f.wf
  | .eqst f => f.wf
  | .mxwm f => f.wf
  | .mxrd f => f.wf
  | .mxrdImm f => f.wf && (f.imm < 64)
  | .mxwr f => f.wf
  | .mxwrImm f => f.wf && (f.imm < 64)
  | .mxcap f => f.wf
  | .mxgate f => f.wf
  | .mxgateImm f => f.wf && (f.imm < 16777216)
  | .cpkill f => f.wf
  | .cpkillImm f => f.wf && (f.imm < 128)
  | .svc f => f.wf
  | .mbxw f => f.wf
  | .mbxr f => f.wf
  | .tlbi f => f.wf
  | .rtld f => f.wf
  | .rtchk f => f.wf
  | .artw f => f.wf
  | .imap f => f.wf
  | .ctxsv f => f.wf
  | .ctxld f => f.wf
  | .prmt f => f.wf
  | .kill f => f.wf
  | .gpart f => f.wf
  | .wdog f => f.wf
  | .wdogImm f => f.wf
  | .proof f => f.wf && (f.imm == 1)
  | .cntc f => f.wf
  | .cntcImm f => f.wf && (f.imm < 262144)
  | .cntr f => f.wf
  | .trc f => f.wf
  | .trcImm f => f.wf && (f.imm < 16)
  | .scrub f => f.wf
  | .keyld f => f.wf
  | .turnack f => f.wf
  | .rflush f => f.wf && (flushTail f.m)
  | .fencecore f => f.wf
  | .flood f => f.wf
  | .halt f => f.wf
  | .vectorInstructionExecute _ => true
  | .loadw _ => true
  | .stream _ => true
  | .mma _ => true
  | .zero _ => true
  | .store _ => true
  | .loadacc _ => true
  | .rnsmode _ => true
  | .arrayPowerGate _ => true
  | .matrixQueueWindowWrite _ _ => true
  | .copy _ => true
  | .gather _ => true
  | .scatter _ => true
  | .fill _ => true
  | .quant _ => true
  | .proofstream _ => true
  | .copySectorIssue _ => true
  | .copySectorPerformed _ _ _ => true
  | .fillCompletion _ _ => true
  | .routineEnd _ _ => true
  | .postingQueueSend _ => true
  | .packetDeliver _ => true
  | .homeSliceApply _ => true
  | .stampedOperationApply _ => true
  | .remoteAccessApply _ => true
  | .remoteBarrierUpdate _ => true
  | .eventUnitMessage _ => true
  | .reply _ => true
  | .postedRefusal _ => true
  | .pageTableWalk _ _ _ _ => true
  | .observe _ _ => true
  | .treeBarrierRelease _ => true
  | .settlingWatermarkAdvance _ _ => true
  | .collectionWindowClose _ => true
  | .slugPop _ => true
  | .galleyPush _ _ => true
  | .heldPushApply _ _ => true
  | .budgetIntervalReload _ => true
  | .sliceExpiry _ _ => true
  | .watchdogT1 _ _ => true
  | .watchdogT2 _ _ => true
  | .watchdogT3 _ _ => true
  | .indexedLaunchRead _ _ => true
  | .chunkRequest _ _ => true
  | .chunkReport _ _ _ => true
  | .masterFailover _ _ => true
  | .turnNotice => true
  | .quiesce => true
  | .drainComplete => true
  | .shiftRound => true
  | .resume => true
  | .turnCancel _ => true
  | .ucieFlitReceive _ _ _ => true
  | .linkRetrain _ => true
  | .linkRetrainComplete _ => true
  | .twinCopyArrival _ => true
  | .twinTimeout _ => true
  | .gatewayIngress _ => true
  | .moduleResetRelease => true
  | .clusterPowerUp _ _ => true
  | .go => true
  | .imageRelay _ => true
  | .discoveryAnswer _ _ => true
  | .bstatClear _ => true
  | .hdoor => true
  | .ddoorClear => true
  | .windowRead _ _ => true
  | .windowWrite _ _ _ => true
  | .debugStopRequest _ => true
  | .debugStep _ => true
  | .debugGo _ => true
  | .budgetWrite _ => true
  | .registerWrite _ _ => true
  | .ownerCreate => true
  | .ownerGrow => true
  | .ownerShrink => true
  | .ownerRetire => true
  | .assignKeys => true
  | .releaseKeys => true
  | .attestationRequest => true
  | .scrubComplete _ => true
  | .rollback _ => true
  | .patrolScrub _ => true
  | .monitorSample _ _ _ _ => true
  | .traceCycRecord _ _ => true
  | .gatewayApplied _ => true
  | .linkLevelRetry _ => true
  | .uncorrectableError _ _ _ => true

end Sys2Proof
end

