-- ==== Sys2Proof/Decode.lean ====
section
/-! DEFINITION. The decoder and, after it, the encoder, both written from the tables of the instruction-word
chapter (R19 to R24, R35) and of the instruction entries. Decoding is total on 96-bit words and on bytes; what it
refuses it refuses by name, and every such refusal is the illegal-instruction fault 0x01 of R36.
The word noncomputable stands where a definition builds one of the later constructors of `Instr`: the Lean
compiler has no room for that many constructors with fields; the kernel evaluates them all the same. -/

namespace Sys2Proof

/-- Why a word is not an instruction (R36, Table 10, order 1). All are cause 0x01. -/
inductive DecErr where
  /-- fewer than 12 bytes were given -/
  | tooShort
  /-- an opcode that R35 does not list -/
  | reservedOpcode
  /-- a listed opcode in a format R35 does not name for it -/
  | wrongFormat
  /-- an operand field the entry does not name is not 0x00 (R21, R22, R40) -/
  | operandNotZero
  /-- any other condition of the first check: see `Instr.wf` -/
  | illFormed
deriving DecidableEq, Repr

/-- The fields of a word before its operation is known (R19, Table 1). -/
structure Fields where
  fmt : BitVec 2
  op : BitVec 9
  h : Head
  dst : BitVec 8
  srcA : BitVec 8
  srcB : BitVec 8
  tail : BitVec 32
deriving DecidableEq, Repr

/-- Bits 95:0 cut into fields (R19, Table 1). -/
def Fields.ofWord (w : IWord) : Fields :=
  { fmt := w.extractLsb' 94 2, op := w.extractLsb' 85 9,
    h := { ginv := w.getLsbD 84, gpred := w.extractLsb' 81 3, nas := w.extractLsb' 78 3,
           next := w.extractLsb' 62 16, dist := w.extractLsb' 34 4, yld := w.getLsbD 33, last := w.getLsbD 32 },
    dst := w.extractLsb' 54 8, srcA := w.extractLsb' 46 8, srcB := w.extractLsb' 38 8,
    tail := w.extractLsb' 0 32 }

/-- The word of a set of fields. -/
def Fields.toWord (f : Fields) : IWord :=
  f.fmt ++ f.op ++ BitVec.ofBool f.h.ginv ++ f.h.gpred ++ f.h.nas ++ f.h.next ++ f.dst ++ f.srcA ++ f.srcB ++
    f.h.dist ++ BitVec.ofBool f.h.yld ++ BitVec.ofBool f.h.last ++ f.tail

/-- Operand codes (R24, Table 6). -/
def Opnd.ofCode (c : BitVec 8) : Opnd :=
  if c.toNat < 0x80 then .x (c.setWidth 7)
  else if c.toNat < 0xC0 then .v (c.setWidth 6)
  else if c.toNat < 0xC8 then .p (c.setWidth 3)
  else if c.toNat < 0xD0 then .vm (c.setWidth 3)
  else if c.toNat < 0xFF then .rsv c
  else .imm
/-- The code of an operand. -/
def Opnd.code : Opnd → BitVec 8
  | .x n => n.setWidth 8
  | .v n => 0x80 + n.setWidth 8
  | .p n => 0xC0 + n.setWidth 8
  | .vm n => 0xC8 + n.setWidth 8
  | .rsv c => c
  | .imm => 0xFF

/-- R20, Table 2. -/
def STail.ofBits (t : BitVec 32) : STail :=
  { wsem := t.extractLsb' 24 8, wthr := t.extractLsb' 16 8, ssem := t.extractLsb' 8 8, sinc := t.extractLsb' 4 4,
    wen := t.getLsbD 3, sen := t.getLsbD 2, stime := t.getLsbD 1, cons := t.getLsbD 0 }
def STail.bits (t : STail) : BitVec 32 :=
  t.wsem ++ t.wthr ++ t.ssem ++ t.sinc ++ BitVec.ofBool t.wen ++ BitVec.ofBool t.sen ++
    BitVec.ofBool t.stime ++ BitVec.ofBool t.cons
/-- R22, Table 4. -/
def MTail.ofBits (t : BitVec 32) : MTail :=
  { disp := t.extractLsb' 12 20, space := t.extractLsb' 10 2, scope := t.extractLsb' 8 2,
    order := t.extractLsb' 6 2, rtn := t.extractLsb' 2 4, size := t.extractLsb' 0 2 }
def MTail.bits (m : MTail) : BitVec 32 := m.disp ++ m.space ++ m.scope ++ m.order ++ m.rtn ++ m.size
/-- R23, Table 5. -/
def XTail.ofBits (t : BitVec 32) : XTail :=
  { ctype := t.extractLsb' 29 3, pA := t.extractLsb' 26 3, pB := t.extractLsb' 23 3, imm23 := t.extractLsb' 0 23 }
def XTail.bits (x : XTail) : BitVec 32 := x.ctype ++ x.pA ++ x.pB ++ x.imm23

def S0.read (F : Fields) : Except DecErr S0 :=
  if F.dst == 0 && F.srcA == 0 && F.srcB == 0 then .ok { h := F.h, t := .ofBits F.tail } else .error .operandNotZero
def S0.fields (op : BitVec 9) (f : S0) : Fields :=
  { fmt := 0, op := op, h := f.h, dst := 0, srcA := 0, srcB := 0, tail := f.t.bits }
def SD.read (F : Fields) : Except DecErr SD :=
  if F.srcA == 0 && F.srcB == 0 then .ok { h := F.h, d := .ofCode F.dst, t := .ofBits F.tail } else .error .operandNotZero
def SD.fields (op : BitVec 9) (f : SD) : Fields :=
  { fmt := 0, op := op, h := f.h, dst := f.d.code, srcA := 0, srcB := 0, tail := f.t.bits }
def SA.read (F : Fields) : Except DecErr SA :=
  if F.dst == 0 && F.srcB == 0 then .ok { h := F.h, a := .ofCode F.srcA, t := .ofBits F.tail } else .error .operandNotZero
def SA.fields (op : BitVec 9) (f : SA) : Fields :=
  { fmt := 0, op := op, h := f.h, dst := 0, srcA := f.a.code, srcB := 0, tail := f.t.bits }
def SDA.read (F : Fields) : Except DecErr SDA :=
  if F.srcB == 0 then .ok { h := F.h, d := .ofCode F.dst, a := .ofCode F.srcA, t := .ofBits F.tail } else .error .operandNotZero
def SDA.fields (op : BitVec 9) (f : SDA) : Fields :=
  { fmt := 0, op := op, h := f.h, dst := f.d.code, srcA := f.a.code, srcB := 0, tail := f.t.bits }
def SAB.read (F : Fields) : Except DecErr SAB :=
  if F.dst == 0 then .ok { h := F.h, a := .ofCode F.srcA, b := .ofCode F.srcB, t := .ofBits F.tail } else .error .operandNotZero
def SAB.fields (op : BitVec 9) (f : SAB) : Fields :=
  { fmt := 0, op := op, h := f.h, dst := 0, srcA := f.a.code, srcB := f.b.code, tail := f.t.bits }
def SDAB.read (F : Fields) : Except DecErr SDAB :=
  .ok { h := F.h, d := .ofCode F.dst, a := .ofCode F.srcA, b := .ofCode F.srcB, t := .ofBits F.tail }
def SDAB.fields (op : BitVec 9) (f : SDAB) : Fields :=
  { fmt := 0, op := op, h := f.h, dst := f.d.code, srcA := f.a.code, srcB := f.b.code, tail := f.t.bits }
def I0.read (F : Fields) : Except DecErr I0 :=
  if F.dst == 0 && F.srcA == 0 && F.srcB == 0 then .ok { h := F.h, imm := F.tail } else .error .operandNotZero
def I0.fields (op : BitVec 9) (f : I0) : Fields :=
  { fmt := 1, op := op, h := f.h, dst := 0, srcA := 0, srcB := 0, tail := f.imm }
def ID.read (F : Fields) : Except DecErr ID :=
  if F.srcA == 0 && F.srcB == 0 then .ok { h := F.h, d := .ofCode F.dst, imm := F.tail } else .error .operandNotZero
def ID.fields (op : BitVec 9) (f : ID) : Fields :=
  { fmt := 1, op := op, h := f.h, dst := f.d.code, srcA := 0, srcB := 0, tail := f.imm }
def IA.read (F : Fields) : Except DecErr IA :=
  if F.dst == 0 && F.srcB == 0 then .ok { h := F.h, a := .ofCode F.srcA, imm := F.tail } else .error .operandNotZero
def IA.fields (op : BitVec 9) (f : IA) : Fields :=
  { fmt := 1, op := op, h := f.h, dst := 0, srcA := f.a.code, srcB := 0, tail := f.imm }
def IDA.read (F : Fields) : Except DecErr IDA :=
  if F.srcB == 0 then .ok { h := F.h, d := .ofCode F.dst, a := .ofCode F.srcA, imm := F.tail } else .error .operandNotZero
def IDA.fields (op : BitVec 9) (f : IDA) : Fields :=
  { fmt := 1, op := op, h := f.h, dst := f.d.code, srcA := f.a.code, srcB := 0, tail := f.imm }
def MA.read (F : Fields) : Except DecErr MA :=
  if F.dst == 0 && F.srcB == 0 then .ok { h := F.h, a := .ofCode F.srcA, m := .ofBits F.tail } else .error .operandNotZero
def MA.fields (op : BitVec 9) (f : MA) : Fields :=
  { fmt := 2, op := op, h := f.h, dst := 0, srcA := f.a.code, srcB := 0, tail := f.m.bits }
def MDA.read (F : Fields) : Except DecErr MDA :=
  if F.srcB == 0 then .ok { h := F.h, d := .ofCode F.dst, a := .ofCode F.srcA, m := .ofBits F.tail } else .error .operandNotZero
def MDA.fields (op : BitVec 9) (f : MDA) : Fields :=
  { fmt := 2, op := op, h := f.h, dst := f.d.code, srcA := f.a.code, srcB := 0, tail := f.m.bits }
def MAB.read (F : Fields) : Except DecErr MAB :=
  if F.dst == 0 then .ok { h := F.h, a := .ofCode F.srcA, b := .ofCode F.srcB, m := .ofBits F.tail } else .error .operandNotZero
def MAB.fields (op : BitVec 9) (f : MAB) : Fields :=
  { fmt := 2, op := op, h := f.h, dst := 0, srcA := f.a.code, srcB := f.b.code, tail := f.m.bits }
def MDAB.read (F : Fields) : Except DecErr MDAB :=
  .ok { h := F.h, d := .ofCode F.dst, a := .ofCode F.srcA, b := .ofCode F.srcB, m := .ofBits F.tail }
def MDAB.fields (op : BitVec 9) (f : MDAB) : Fields :=
  { fmt := 2, op := op, h := f.h, dst := f.d.code, srcA := f.a.code, srcB := f.b.code, tail := f.m.bits }
def XAB.read (F : Fields) : Except DecErr XAB :=
  if F.dst == 0 then .ok { h := F.h, a := .ofCode F.srcA, b := .ofCode F.srcB, x := .ofBits F.tail } else .error .operandNotZero
def XAB.fields (op : BitVec 9) (f : XAB) : Fields :=
  { fmt := 3, op := op, h := f.h, dst := 0, srcA := f.a.code, srcB := f.b.code, tail := f.x.bits }
def XDAB.read (F : Fields) : Except DecErr XDAB :=
  .ok { h := F.h, d := .ofCode F.dst, a := .ofCode F.srcA, b := .ofCode F.srcB, x := .ofBits F.tail }
def XDAB.fields (op : BitVec 9) (f : XDAB) : Fields :=
  { fmt := 3, op := op, h := f.h, dst := f.d.code, srcA := f.a.code, srcB := f.b.code, tail := f.x.bits }

/-- The opcode is permitted in one format only (R35). -/
def oneForm (F : Fields) (fmt : BitVec 2) (r : Except DecErr Instr) : Except DecErr Instr :=
  if F.fmt == fmt then r else .error .wrongFormat
/-- The opcode is permitted in S-form and I-form (R35). -/
def twoForms (F : Fields) (rS rI : Except DecErr Instr) : Except DecErr Instr :=
  if F.fmt == 0 then rS else if F.fmt == 1 then rI else .error .wrongFormat

/-- Opcodes 0x000 to 0x05F: integer, compare and predicate instructions (R41 to R52). -/
def decodeScalar (F : Fields) : Except DecErr Instr :=
  match F.op.toNat with
  | 0x000 => oneForm F 0 (.nop <$> S0.read F)
  | 0x001 => twoForms F (.add <$> SDAB.read F) (.addImm <$> IDA.read F)
  | 0x002 => twoForms F (.sub <$> SDAB.read F) (.subImm <$> IDA.read F)
  | 0x003 => twoForms F (.mul <$> SDAB.read F) (.mulImm <$> IDA.read F)
  | 0x004 => twoForms F (.mulh <$> SDAB.read F) (.mulhImm <$> IDA.read F)
  | 0x005 => twoForms F (.mulhu <$> SDAB.read F) (.mulhuImm <$> IDA.read F)
  | 0x006 => twoForms F (.div <$> SDAB.read F) (.divImm <$> IDA.read F)
  | 0x007 => twoForms F (.divu <$> SDAB.read F) (.divuImm <$> IDA.read F)
  | 0x008 => twoForms F (.rem <$> SDAB.read F) (.remImm <$> IDA.read F)
  | 0x009 => twoForms F (.remu <$> SDAB.read F) (.remuImm <$> IDA.read F)
  | 0x00A => twoForms F (.and <$> SDAB.read F) (.andImm <$> IDA.read F)
  | 0x00B => twoForms F (.or <$> SDAB.read F) (.orImm <$> IDA.read F)
  | 0x00C => twoForms F (.xor <$> SDAB.read F) (.xorImm <$> IDA.read F)
  | 0x00D => twoForms F (.andn <$> SDAB.read F) (.andnImm <$> IDA.read F)
  | 0x00E => twoForms F (.shl <$> SDAB.read F) (.shlImm <$> IDA.read F)
  | 0x00F => twoForms F (.shr <$> SDAB.read F) (.shrImm <$> IDA.read F)
  | 0x010 => twoForms F (.sra <$> SDAB.read F) (.sraImm <$> IDA.read F)
  | 0x011 => twoForms F (.rotr <$> SDAB.read F) (.rotrImm <$> IDA.read F)
  | 0x012 => twoForms F (.min <$> SDAB.read F) (.minImm <$> IDA.read F)
  | 0x013 => twoForms F (.max <$> SDAB.read F) (.maxImm <$> IDA.read F)
  | 0x014 => twoForms F (.minu <$> SDAB.read F) (.minuImm <$> IDA.read F)
  | 0x015 => twoForms F (.maxu <$> SDAB.read F) (.maxuImm <$> IDA.read F)
  | 0x016 => oneForm F 0 (.abs <$> SDA.read F)
  | 0x017 => oneForm F 0 (.neg <$> SDA.read F)
  | 0x018 => oneForm F 0 (.clz <$> SDA.read F)
  | 0x019 => oneForm F 0 (.ctz <$> SDA.read F)
  | 0x01A => oneForm F 0 (.popc <$> SDA.read F)
  | 0x01B => oneForm F 1 (.bfx <$> IDA.read F)
  | 0x01C => oneForm F 1 (.bfxu <$> IDA.read F)
  | 0x01D => oneForm F 1 (.bfi <$> IDA.read F)
  | 0x01E => oneForm F 0 (.mov <$> SDA.read F)
  | 0x01F => oneForm F 1 (.li <$> ID.read F)
  | 0x020 => oneForm F 1 (.lih <$> ID.read F)
  | 0x021 => oneForm F 2 (.lea <$> MDA.read F)
  | 0x022 => twoForms F (.addW <$> SDAB.read F) (.addWImm <$> IDA.read F)
  | 0x023 => twoForms F (.subW <$> SDAB.read F) (.subWImm <$> IDA.read F)
  | 0x024 => twoForms F (.mulW <$> SDAB.read F) (.mulWImm <$> IDA.read F)
  | 0x025 => oneForm F 1 (.sext <$> IDA.read F)
  | 0x026 => oneForm F 1 (.zext <$> IDA.read F)
  | 0x040 => oneForm F 3 (.cmpEq <$> XAB.read F)
  | 0x041 => oneForm F 3 (.cmpNe <$> XAB.read F)
  | 0x042 => oneForm F 3 (.cmpLt <$> XAB.read F)
  | 0x043 => oneForm F 3 (.cmpLe <$> XAB.read F)
  | 0x044 => oneForm F 3 (.cmpGt <$> XAB.read F)
  | 0x045 => oneForm F 3 (.cmpGe <$> XAB.read F)
  | 0x046 => oneForm F 3 (.cmpLtu <$> XAB.read F)
  | 0x047 => oneForm F 3 (.cmpLeu <$> XAB.read F)
  | 0x048 => oneForm F 3 (.cmpGtu <$> XAB.read F)
  | 0x049 => oneForm F 3 (.cmpGeu <$> XAB.read F)
  | 0x04A => oneForm F 3 (.btest <$> XAB.read F)
  | 0x04B => oneForm F 3 (.fcmpEq <$> XAB.read F)
  | 0x04C => oneForm F 3 (.fcmpLt <$> XAB.read F)
  | 0x04D => oneForm F 3 (.fcmpLe <$> XAB.read F)
  | 0x04E => oneForm F 3 (.fcmpUn <$> XAB.read F)
  | 0x04F => oneForm F 3 (.pand <$> XAB.read F)
  | 0x050 => oneForm F 3 (.por <$> XAB.read F)
  | 0x051 => oneForm F 3 (.pxor <$> XAB.read F)
  | 0x052 => oneForm F 0 (.pmov <$> SD.read F)
  | 0x053 => oneForm F 0 (.pset <$> SA.read F)
  | 0x054 => oneForm F 3 (.sel <$> XDAB.read F)
  | _ => .error .reservedOpcode

/-- Opcodes 0x060 to 0x07F: scalar floating point (R55 to R61). -/
def decodeFloat (F : Fields) : Except DecErr Instr :=
  match F.op.toNat with
  | 0x060 => oneForm F 0 (.fadd <$> SDAB.read F)
  | 0x061 => oneForm F 0 (.fsub <$> SDAB.read F)
  | 0x062 => oneForm F 0 (.fmul <$> SDAB.read F)
  | 0x063 => oneForm F 0 (.fma <$> SDAB.read F)
  | 0x064 => oneForm F 0 (.fnma <$> SDAB.read F)
  | 0x065 => oneForm F 0 (.fdiv <$> SDAB.read F)
  | 0x066 => oneForm F 0 (.fsqrt <$> SDA.read F)
  | 0x067 => oneForm F 0 (.fmin <$> SDAB.read F)
  | 0x068 => oneForm F 0 (.fmax <$> SDAB.read F)
  | 0x069 => oneForm F 0 (.fabs <$> SDA.read F)
  | 0x06A => oneForm F 0 (.fneg <$> SDA.read F)
  | 0x06B => oneForm F 0 (.fclass <$> SDA.read F)
  | 0x06C => oneForm F 0 (.frnd <$> SDA.read F)
  | 0x06D => oneForm F 0 (.fcvtFi <$> SDA.read F)
  | 0x06E => oneForm F 0 (.fcvtIf <$> SDA.read F)
  | 0x06F => oneForm F 0 (.fcvtBf <$> SDA.read F)
  | 0x070 => oneForm F 0 (.fcvtFb <$> SDA.read F)
  | 0x071 => oneForm F 0 (.fcvtE4 <$> SDA.read F)
  | 0x072 => oneForm F 0 (.fcvtE5 <$> SDA.read F)
  | 0x073 => oneForm F 0 (.fcvtF4 <$> SDA.read F)
  | 0x074 => oneForm F 0 (.fcvtF5 <$> SDA.read F)
  | 0x075 => oneForm F 0 (.fsplit <$> SDA.read F)
  | _ => .error .reservedOpcode

/-- Opcodes 0x080 to 0x09F: control instructions (R62 to R69). -/
def decodeControl (F : Fields) : Except DecErr Instr :=
  match F.op.toNat with
  | 0x080 => oneForm F 1 (.enter <$> I0.read F)
  | 0x081 => oneForm F 1 (.leave <$> I0.read F)
  | 0x082 => twoForms F (.lcset <$> SA.read F) (.lcsetImm <$> I0.read F)
  | 0x083 => oneForm F 0 (.lcpush <$> S0.read F)
  | 0x084 => oneForm F 0 (.lcpop <$> S0.read F)
  | 0x085 => oneForm F 1 (.mfs <$> ID.read F)
  | 0x086 => oneForm F 1 (.mts <$> IA.read F)
  | 0x087 => oneForm F 0 (.yield <$> S0.read F)
  | 0x088 => oneForm F 1 (.trap <$> I0.read F)
  | 0x089 => oneForm F 1 (.brk <$> I0.read F)
  | 0x08A => oneForm F 0 (.irgn <$> S0.read F)
  | 0x08B => oneForm F 0 (.launch <$> SAB.read F)
  | 0x08C => oneForm F 0 (.join <$> SDA.read F)
  | _ => .error .reservedOpcode

/-- Opcodes 0x0A0 to 0x0FF: loads, stores, tables, atomics and cells (R75 to R135). -/
def decodeMemory (F : Fields) : Except DecErr Instr :=
  match F.op.toNat with
  | 0x0A0 => oneForm F 2 (.ldB <$> MDA.read F)
  | 0x0A1 => oneForm F 2 (.ldBu <$> MDA.read F)
  | 0x0A2 => oneForm F 2 (.ldH <$> MDA.read F)
  | 0x0A3 => oneForm F 2 (.ldHu <$> MDA.read F)
  | 0x0A4 => oneForm F 2 (.ldW <$> MDA.read F)
  | 0x0A5 => oneForm F 2 (.ldWu <$> MDA.read F)
  | 0x0A6 => oneForm F 2 (.ldD <$> MDA.read F)
  | 0x0A7 => oneForm F 2 (.ldQ <$> MDA.read F)
  | 0x0A8 => oneForm F 2 (.stB <$> MAB.read F)
  | 0x0A9 => oneForm F 2 (.stH <$> MAB.read F)
  | 0x0AA => oneForm F 2 (.stW <$> MAB.read F)
  | 0x0AB => oneForm F 2 (.stD <$> MAB.read F)
  | 0x0AC => oneForm F 2 (.stQ <$> MAB.read F)
  | 0x0AD => oneForm F 2 (.ldT <$> MDA.read F)
  | 0x0AE => oneForm F 2 (.ldS <$> MDAB.read F)
  | 0x0AF => oneForm F 0 (.tlook <$> SDA.read F)
  | 0x0B0 => oneForm F 0 (.tset <$> SDAB.read F)
  | 0x0B1 => oneForm F 0 (.tinv <$> SDA.read F)
  | 0x0B2 => oneForm F 0 (.tclr <$> SA.read F)
  | 0x0B3 => oneForm F 0 (.rgset <$> SAB.read F)
  | 0x0B4 => oneForm F 0 (.rgclr <$> SA.read F)
  | 0x0B5 => oneForm F 0 (.rgq <$> SDA.read F)
  | 0x0B6 => oneForm F 2 (.ldm <$> MDAB.read F)
  | 0x0B7 => oneForm F 2 (.stm <$> MDAB.read F)
  | 0x0E0 => oneForm F 2 (.amoAdd <$> MDAB.read F)
  | 0x0E1 => oneForm F 2 (.amoAnd <$> MDAB.read F)
  | 0x0E2 => oneForm F 2 (.amoOr <$> MDAB.read F)
  | 0x0E3 => oneForm F 2 (.amoXor <$> MDAB.read F)
  | 0x0E4 => oneForm F 2 (.amoMin <$> MDAB.read F)
  | 0x0E5 => oneForm F 2 (.amoMax <$> MDAB.read F)
  | 0x0E6 => oneForm F 2 (.amoMinu <$> MDAB.read F)
  | 0x0E7 => oneForm F 2 (.amoMaxu <$> MDAB.read F)
  | 0x0E8 => oneForm F 2 (.amoXchg <$> MDAB.read F)
  | 0x0E9 => oneForm F 2 (.amoCas <$> MDAB.read F)
  | 0x0EA => oneForm F 2 (.amoFadd <$> MDAB.read F)
  | 0x0EB => oneForm F 2 (.amoFmin <$> MDAB.read F)
  | 0x0EC => oneForm F 2 (.amoFmax <$> MDAB.read F)
  | 0x0ED => oneForm F 2 (.amoBfadd2 <$> MDAB.read F)
  | 0x0EE => oneForm F 2 (.rcell <$> MDAB.read F)
  | 0x0EF => oneForm F 2 (.rfree <$> MDA.read F)
  | 0x0F0 => oneForm F 2 (.ropFadd <$> MDAB.read F)
  | 0x0F1 => oneForm F 2 (.ropSt <$> MDAB.read F)
  | 0x0F2 => oneForm F 2 (.ropMaxi <$> MDAB.read F)
  | 0x0F3 => oneForm F 2 (.ropBfadd <$> MDAB.read F)
  | 0x0F4 => oneForm F 2 (.rstat <$> MDA.read F)
  | 0x0F5 => oneForm F 2 (.rreissue <$> MDAB.read F)
  | _ => .error .reservedOpcode

/-- Opcodes 0x100 to 0x11F: synchronisation (R141 to R165). -/
def decodeSync (F : Fields) : Except DecErr Instr :=
  match F.op.toNat with
  | 0x100 => oneForm F 1 (.fnc <$> ID.read F)
  | 0x101 => oneForm F 0 (.fwait <$> SA.read F)
  | 0x102 => oneForm F 2 (.barInit <$> MAB.read F)
  | 0x103 => oneForm F 2 (.barArr <$> MDA.read F)
  | 0x104 => oneForm F 2 (.barWait <$> MDAB.read F)
  | 0x105 => oneForm F 2 (.barArw <$> MDA.read F)
  | 0x106 => oneForm F 2 (.barSt <$> MDA.read F)
  | 0x107 => twoForms F (.gjoin <$> SDA.read F) (.gjoinImm <$> ID.read F)
  | 0x108 => twoForms F (.gleave <$> SDA.read F) (.gleaveImm <$> ID.read F)
  | 0x109 => oneForm F 1 (if F.tail.getLsbD 6 then .gbarSs <$> IDA.read F else .gbar <$> ID.read F)
  | 0x10A => oneForm F 2 (.evw <$> MDA.read F)
  | 0x10B => twoForms F (.evsig <$> SA.read F) (.evsigImm <$> I0.read F)
  | 0x10C => twoForms F (.semwt <$> SDA.read F) (.semwtImm <$> ID.read F)
  | 0x10D => twoForms F (.semsg <$> SA.read F) (.semsgImm <$> I0.read F)
  | 0x10E => twoForms F (.semrd <$> SDA.read F) (.semrdImm <$> ID.read F)
  | 0x10F => twoForms F (.semset <$> SDA.read F) (.semsetImm <$> ID.read F)
  | 0x110 => twoForms F (.tagwa <$> SDA.read F) (.tagwaImm <$> ID.read F)
  | 0x111 => twoForms F (.tagwl <$> SDA.read F) (.tagwlImm <$> ID.read F)
  | 0x112 => twoForms F (.tagff <$> SDA.read F) (.tagffImm <$> ID.read F)
  | 0x113 => twoForms F (.tagclr <$> SA.read F) (.tagclrImm <$> I0.read F)
  | 0x114 => oneForm F 2 (.settle <$> MA.read F)
  | _ => .error .reservedOpcode

/-- Opcodes 0x120 to 0x140: vector memory and lane arithmetic (R192 to R196). -/
def decodeVecA (F : Fields) : Except DecErr Instr :=
  match F.op.toNat with
  | 0x120 => oneForm F 2 (.vld <$> MDA.read F)
  | 0x121 => oneForm F 2 (.vlds <$> MDAB.read F)
  | 0x122 => oneForm F 2 (.vldx <$> MDAB.read F)
  | 0x123 => oneForm F 2 (.vst <$> MAB.read F)
  | 0x124 => oneForm F 2 (.vsts <$> MDAB.read F)
  | 0x125 => oneForm F 2 (.vstx <$> MDAB.read F)
  | 0x126 => oneForm F 0 (.vaddI <$> SDAB.read F)
  | 0x127 => oneForm F 0 (.vsubI <$> SDAB.read F)
  | 0x128 => oneForm F 0 (.vmulI <$> SDAB.read F)
  | 0x129 => oneForm F 0 (.vminI <$> SDAB.read F)
  | 0x12A => oneForm F 0 (.vmaxI <$> SDAB.read F)
  | 0x12B => oneForm F 0 (.vand <$> SDAB.read F)
  | 0x12C => oneForm F 0 (.vor <$> SDAB.read F)
  | 0x12D => oneForm F 0 (.vxor <$> SDAB.read F)
  | 0x12E => twoForms F (.vshl <$> SDAB.read F) (.vshlImm <$> IDA.read F)
  | 0x12F => twoForms F (.vshr <$> SDAB.read F) (.vshrImm <$> IDA.read F)
  | 0x130 => twoForms F (.vsra <$> SDAB.read F) (.vsraImm <$> IDA.read F)
  | 0x131 => oneForm F 0 (.vaddF <$> SDAB.read F)
  | 0x132 => oneForm F 0 (.vsubF <$> SDAB.read F)
  | 0x133 => oneForm F 0 (.vmulF <$> SDAB.read F)
  | 0x134 => oneForm F 0 (.vfmaF <$> SDAB.read F)
  | 0x135 => oneForm F 0 (.vfnmaF <$> SDAB.read F)
  | 0x136 => oneForm F 0 (.vminF <$> SDAB.read F)
  | 0x137 => oneForm F 0 (.vmaxF <$> SDAB.read F)
  | 0x138 => oneForm F 0 (.vabsF <$> SDA.read F)
  | 0x139 => oneForm F 0 (.vnegF <$> SDA.read F)
  | 0x13A => oneForm F 0 (.vdivF <$> SDAB.read F)
  | 0x13B => oneForm F 0 (.vsqrtF <$> SDA.read F)
  | 0x13C => oneForm F 0 (.vrcpF <$> SDA.read F)
  | 0x13D => oneForm F 0 (.vrsqF <$> SDA.read F)
  | 0x13E => oneForm F 0 (.vexp2F <$> SDA.read F)
  | 0x13F => oneForm F 0 (.vlog2F <$> SDA.read F)
  | 0x140 => oneForm F 0 (.vfmaBf <$> SDAB.read F)
  | _ => .error .reservedOpcode

/-- Opcodes 0x141 to 0x17F: vector conversions, masks, moves and reductions (R185, R197 to R207). -/
noncomputable def decodeVecB (F : Fields) : Except DecErr Instr :=
  match F.op.toNat with
  | 0x141 => oneForm F 0 (.vcvt <$> SDAB.read F)
  | 0x142 => oneForm F 0 (.vsplit <$> SDAB.read F)
  | 0x143 => oneForm F 0 (.vquant <$> SDAB.read F)
  | 0x144 => oneForm F 0 (.vdequant <$> SDAB.read F)
  | 0x145 => oneForm F 0 (.vrnsTo <$> SDA.read F)
  | 0x146 => oneForm F 0 (.vrnsFrom <$> SDA.read F)
  | 0x147 => oneForm F 0 (.vcmpEq <$> SDAB.read F)
  | 0x148 => oneForm F 0 (.vcmpLt <$> SDAB.read F)
  | 0x149 => oneForm F 0 (.vcmpLe <$> SDAB.read F)
  | 0x14A => oneForm F 0 (.vcmpFlt <$> SDAB.read F)
  | 0x14B => oneForm F 0 (.vcmpFle <$> SDAB.read F)
  | 0x14C => oneForm F 0 (.vcmpFun <$> SDAB.read F)
  | 0x14D => oneForm F 0 (.vsel <$> SDAB.read F)
  | 0x14E => oneForm F 0 (.vmand <$> SDAB.read F)
  | 0x14F => oneForm F 0 (.vmor <$> SDAB.read F)
  | 0x150 => oneForm F 0 (.vmxor <$> SDAB.read F)
  | 0x151 => oneForm F 0 (.vmnot <$> SDA.read F)
  | 0x152 => oneForm F 0 (.vmpop <$> SDA.read F)
  | 0x153 => twoForms F (.vbcast <$> SDA.read F) (.vbcastImm <$> ID.read F)
  | 0x154 => twoForms F (.vmovx <$> SDAB.read F) (.vmovxImm <$> IDA.read F)
  | 0x155 => twoForms F (.vmovv <$> SDAB.read F) (.vmovvImm <$> IDA.read F)
  | 0x156 => oneForm F 0 (.viota <$> SDA.read F)
  | 0x157 => oneForm F 0 (.vperm <$> SDAB.read F)
  | 0x158 => twoForms F (.vrot <$> SDAB.read F) (.vrotImm <$> IDA.read F)
  | 0x159 => oneForm F 0 (.vzip <$> SDAB.read F)
  | 0x15A => oneForm F 0 (.vunzip <$> SDAB.read F)
  | 0x15B => oneForm F 0 (.vmov <$> SDA.read F)
  | 0x15C => oneForm F 0 (.vredAddF <$> SDA.read F)
  | 0x15D => oneForm F 0 (.vredAddI <$> SDA.read F)
  | 0x15E => oneForm F 0 (.vredMinF <$> SDA.read F)
  | 0x15F => oneForm F 0 (.vredMaxF <$> SDA.read F)
  | 0x160 => oneForm F 0 (.vredMinI <$> SDA.read F)
  | 0x161 => oneForm F 0 (.vredMaxI <$> SDA.read F)
  | 0x162 => oneForm F 0 (.vscanAddI <$> SDA.read F)
  | 0x163 => oneForm F 0 (.vscanAddF <$> SDA.read F)
  | 0x164 => twoForms F (.vsetvl <$> SDAB.read F) (.vsetvlImm <$> ID.read F)
  | 0x165 => oneForm F 0 (.vcmul <$> SDAB.read F)
  | _ => .error .reservedOpcode

/-- Opcodes 0x180 to 0x19F: engine instructions (R223, R235 to R237). -/
noncomputable def decodeEngine (F : Fields) : Except DecErr Instr :=
  match F.op.toNat with
  | 0x180 => oneForm F 0 (.mxq <$> SA.read F)
  | 0x181 => oneForm F 0 (.mxqr <$> SA.read F)
  | 0x182 => oneForm F 0 (.cpq <$> SA.read F)
  | 0x183 => oneForm F 0 (.cpqr <$> SA.read F)
  | 0x184 => oneForm F 0 (.eqst <$> SDA.read F)
  | 0x185 => oneForm F 0 (.mxwm <$> SDA.read F)
  | 0x186 => twoForms F (.mxrd <$> SDA.read F) (.mxrdImm <$> ID.read F)
  | 0x187 => twoForms F (.mxwr <$> SAB.read F) (.mxwrImm <$> IA.read F)
  | 0x188 => oneForm F 0 (.mxcap <$> SD.read F)
  | 0x189 => twoForms F (.mxgate <$> SA.read F) (.mxgateImm <$> I0.read F)
  | 0x18A => twoForms F (.cpkill <$> SA.read F) (.cpkillImm <$> I0.read F)
  | _ => .error .reservedOpcode

/-- Opcodes 0x1A0 to 0x1BF: system instructions (R272, R273, R277, R294, R329, R334, R338, R372). -/
noncomputable def decodeSystem (F : Fields) : Except DecErr Instr :=
  match F.op.toNat with
  | 0x1A0 => oneForm F 1 (.svc <$> I0.read F)
  | 0x1A1 => oneForm F 0 (.mbxw <$> SDA.read F)
  | 0x1A2 => oneForm F 0 (.mbxr <$> SDAB.read F)
  | 0x1A3 => oneForm F 0 (.tlbi <$> SDAB.read F)
  | 0x1A4 => oneForm F 0 (.rtld <$> SAB.read F)
  | 0x1A5 => oneForm F 0 (.rtchk <$> SDA.read F)
  | 0x1A6 => oneForm F 0 (.artw <$> SDAB.read F)
  | 0x1A7 => oneForm F 0 (.imap <$> SDAB.read F)
  | 0x1A8 => oneForm F 0 (.ctxsv <$> SDAB.read F)
  | 0x1A9 => oneForm F 0 (.ctxld <$> SDAB.read F)
  | 0x1AA => oneForm F 0 (.prmt <$> SDA.read F)
  | 0x1AB => oneForm F 0 (.kill <$> SDA.read F)
  | 0x1AC => oneForm F 0 (.gpart <$> SDAB.read F)
  | 0x1AD => twoForms F (.wdog <$> SDAB.read F) (.wdogImm <$> IDA.read F)
  | 0x1AE => oneForm F 1 (.proof <$> ID.read F)
  | 0x1AF => twoForms F (.cntc <$> SDAB.read F) (.cntcImm <$> IDA.read F)
  | 0x1B0 => oneForm F 0 (.cntr <$> SDA.read F)
  | 0x1B1 => twoForms F (.trc <$> SDAB.read F) (.trcImm <$> IDA.read F)
  | 0x1B2 => oneForm F 0 (.scrub <$> SDA.read F)
  | 0x1B3 => oneForm F 0 (.keyld <$> SDAB.read F)
  | 0x1B4 => oneForm F 0 (.turnack <$> SDA.read F)
  | 0x1B5 => oneForm F 2 (.rflush <$> MDA.read F)
  | 0x1B6 => oneForm F 0 (.fencecore <$> SDA.read F)
  | 0x1B7 => oneForm F 0 (.flood <$> SDA.read F)
  | 0x1B8 => oneForm F 0 (.halt <$> SA.read F)
  | _ => .error .reservedOpcode

/-- The opcode map (R35, Table 9), one function for each class chapter. -/
noncomputable def decodeOp (F : Fields) : Except DecErr Instr :=
  let n := F.op.toNat
  if n < 0x060 then decodeScalar F
  else if n < 0x080 then decodeFloat F
  else if n < 0x0A0 then decodeControl F
  else if n < 0x100 then decodeMemory F
  else if n < 0x120 then decodeSync F
  else if n < 0x141 then decodeVecA F
  else if n < 0x180 then decodeVecB F
  else if n < 0x1A0 then decodeEngine F
  else if n < 0x1C0 then decodeSystem F
  else .error .reservedOpcode

/-- The whole first decode check on a word (R36, Table 10, order 1). -/
noncomputable def decodeFields (F : Fields) : Except DecErr Instr :=
  match decodeOp F with
  | .ok i => if i.wf then .ok i else .error .illFormed
  | .error e => .error e

/-- The instruction of a 96-bit word, or why there is none. -/
noncomputable def decode (w : IWord) : Except DecErr Instr := decodeFields (.ofWord w)

/-- Twelve bytes, lowest address first, as a word: three 32-bit words, the low word at the lowest address, each
little-endian (R2, R19), which is one little-endian 96-bit number. -/
def wordOfBytes : List Byte → Nat
  | [] => 0
  | b :: r => b.toNat + 256 * wordOfBytes r

/-- Decoding any bytes: the first twelve are the instruction, the rest is handed back. -/
noncomputable def decodeBytes (bs : List Byte) : Except DecErr (Instr × List Byte) :=
  if bs.length < 12 then .error .tooShort
  else match decode (BitVec.ofNat 96 (wordOfBytes (bs.take 12))) with
    | .ok i => .ok (i, bs.drop 12)
    | .error e => .error e

/-- The bytes of a number, lowest first. -/
def bytesOfNat : Nat → Nat → List Byte
  | 0, _ => []
  | k + 1, n => BitVec.ofNat 8 n :: bytesOfNat k (n / 256)

/-- The instruction read from an instruction whose bits are `w` (bit 0 the least significant bit of the first
word); bits at and above `nbits` are 0. -/
noncomputable def decodeTableWord (nbits w : Nat) : Option Instr :=
  match decodeBytes (bytesOfNat 12 (w % 2 ^ nbits)) with
  | .ok (i, _) => some i
  | .error _ => none

/-- The fields of an instruction's word (R19 to R24, R35); a step of another agent has none. -/
def encodeFields : Instr → Option Fields
  | .nop f => some (f.fields 0x000)
  | .add f => some (f.fields 0x001)
  | .addImm f => some (f.fields 0x001)
  | .sub f => some (f.fields 0x002)
  | .subImm f => some (f.fields 0x002)
  | .mul f => some (f.fields 0x003)
  | .mulImm f => some (f.fields 0x003)
  | .mulh f => some (f.fields 0x004)
  | .mulhImm f => some (f.fields 0x004)
  | .mulhu f => some (f.fields 0x005)
  | .mulhuImm f => some (f.fields 0x005)
  | .div f => some (f.fields 0x006)
  | .divImm f => some (f.fields 0x006)
  | .divu f => some (f.fields 0x007)
  | .divuImm f => some (f.fields 0x007)
  | .rem f => some (f.fields 0x008)
  | .remImm f => some (f.fields 0x008)
  | .remu f => some (f.fields 0x009)
  | .remuImm f => some (f.fields 0x009)
  | .and f => some (f.fields 0x00A)
  | .andImm f => some (f.fields 0x00A)
  | .or f => some (f.fields 0x00B)
  | .orImm f => some (f.fields 0x00B)
  | .xor f => some (f.fields 0x00C)
  | .xorImm f => some (f.fields 0x00C)
  | .andn f => some (f.fields 0x00D)
  | .andnImm f => some (f.fields 0x00D)
  | .shl f => some (f.fields 0x00E)
  | .shlImm f => some (f.fields 0x00E)
  | .shr f => some (f.fields 0x00F)
  | .shrImm f => some (f.fields 0x00F)
  | .sra f => some (f.fields 0x010)
  | .sraImm f => some (f.fields 0x010)
  | .rotr f => some (f.fields 0x011)
  | .rotrImm f => some (f.fields 0x011)
  | .min f => some (f.fields 0x012)
  | .minImm f => some (f.fields 0x012)
  | .max f => some (f.fields 0x013)
  | .maxImm f => some (f.fields 0x013)
  | .minu f => some (f.fields 0x014)
  | .minuImm f => some (f.fields 0x014)
  | .maxu f => some (f.fields 0x015)
  | .maxuImm f => some (f.fields 0x015)
  | .abs f => some (f.fields 0x016)
  | .neg f => some (f.fields 0x017)
  | .clz f => some (f.fields 0x018)
  | .ctz f => some (f.fields 0x019)
  | .popc f => some (f.fields 0x01A)
  | .bfx f => some (f.fields 0x01B)
  | .bfxu f => some (f.fields 0x01C)
  | .bfi f => some (f.fields 0x01D)
  | .mov f => some (f.fields 0x01E)
  | .li f => some (f.fields 0x01F)
  | .lih f => some (f.fields 0x020)
  | .lea f => some (f.fields 0x021)
  | .addW f => some (f.fields 0x022)
  | .addWImm f => some (f.fields 0x022)
  | .subW f => some (f.fields 0x023)
  | .subWImm f => some (f.fields 0x023)
  | .mulW f => some (f.fields 0x024)
  | .mulWImm f => some (f.fields 0x024)
  | .sext f => some (f.fields 0x025)
  | .zext f => some (f.fields 0x026)
  | .cmpEq f => some (f.fields 0x040)
  | .cmpNe f => some (f.fields 0x041)
  | .cmpLt f => some (f.fields 0x042)
  | .cmpLe f => some (f.fields 0x043)
  | .cmpGt f => some (f.fields 0x044)
  | .cmpGe f => some (f.fields 0x045)
  | .cmpLtu f => some (f.fields 0x046)
  | .cmpLeu f => some (f.fields 0x047)
  | .cmpGtu f => some (f.fields 0x048)
  | .cmpGeu f => some (f.fields 0x049)
  | .btest f => some (f.fields 0x04A)
  | .fcmpEq f => some (f.fields 0x04B)
  | .fcmpLt f => some (f.fields 0x04C)
  | .fcmpLe f => some (f.fields 0x04D)
  | .fcmpUn f => some (f.fields 0x04E)
  | .pand f => some (f.fields 0x04F)
  | .por f => some (f.fields 0x050)
  | .pxor f => some (f.fields 0x051)
  | .pmov f => some (f.fields 0x052)
  | .pset f => some (f.fields 0x053)
  | .sel f => some (f.fields 0x054)
  | .fadd f => some (f.fields 0x060)
  | .fsub f => some (f.fields 0x061)
  | .fmul f => some (f.fields 0x062)
  | .fma f => some (f.fields 0x063)
  | .fnma f => some (f.fields 0x064)
  | .fdiv f => some (f.fields 0x065)
  | .fsqrt f => some (f.fields 0x066)
  | .fmin f => some (f.fields 0x067)
  | .fmax f => some (f.fields 0x068)
  | .fabs f => some (f.fields 0x069)
  | .fneg f => some (f.fields 0x06A)
  | .fclass f => some (f.fields 0x06B)
  | .frnd f => some (f.fields 0x06C)
  | .fcvtFi f => some (f.fields 0x06D)
  | .fcvtIf f => some (f.fields 0x06E)
  | .fcvtBf f => some (f.fields 0x06F)
  | .fcvtFb f => some (f.fields 0x070)
  | .fcvtE4 f => some (f.fields 0x071)
  | .fcvtE5 f => some (f.fields 0x072)
  | .fcvtF4 f => some (f.fields 0x073)
  | .fcvtF5 f => some (f.fields 0x074)
  | .fsplit f => some (f.fields 0x075)
  | .enter f => some (f.fields 0x080)
  | .leave f => some (f.fields 0x081)
  | .lcset f => some (f.fields 0x082)
  | .lcsetImm f => some (f.fields 0x082)
  | .lcpush f => some (f.fields 0x083)
  | .lcpop f => some (f.fields 0x084)
  | .mfs f => some (f.fields 0x085)
  | .mts f => some (f.fields 0x086)
  | .yield f => some (f.fields 0x087)
  | .trap f => some (f.fields 0x088)
  | .brk f => some (f.fields 0x089)
  | .irgn f => some (f.fields 0x08A)
  | .launch f => some (f.fields 0x08B)
  | .join f => some (f.fields 0x08C)
  | .ldB f => some (f.fields 0x0A0)
  | .ldBu f => some (f.fields 0x0A1)
  | .ldH f => some (f.fields 0x0A2)
  | .ldHu f => some (f.fields 0x0A3)
  | .ldW f => some (f.fields 0x0A4)
  | .ldWu f => some (f.fields 0x0A5)
  | .ldD f => some (f.fields 0x0A6)
  | .ldQ f => some (f.fields 0x0A7)
  | .stB f => some (f.fields 0x0A8)
  | .stH f => some (f.fields 0x0A9)
  | .stW f => some (f.fields 0x0AA)
  | .stD f => some (f.fields 0x0AB)
  | .stQ f => some (f.fields 0x0AC)
  | .ldT f => some (f.fields 0x0AD)
  | .ldS f => some (f.fields 0x0AE)
  | .tlook f => some (f.fields 0x0AF)
  | .tset f => some (f.fields 0x0B0)
  | .tinv f => some (f.fields 0x0B1)
  | .tclr f => some (f.fields 0x0B2)
  | .rgset f => some (f.fields 0x0B3)
  | .rgclr f => some (f.fields 0x0B4)
  | .rgq f => some (f.fields 0x0B5)
  | .ldm f => some (f.fields 0x0B6)
  | .stm f => some (f.fields 0x0B7)
  | .amoAdd f => some (f.fields 0x0E0)
  | .amoAnd f => some (f.fields 0x0E1)
  | .amoOr f => some (f.fields 0x0E2)
  | .amoXor f => some (f.fields 0x0E3)
  | .amoMin f => some (f.fields 0x0E4)
  | .amoMax f => some (f.fields 0x0E5)
  | .amoMinu f => some (f.fields 0x0E6)
  | .amoMaxu f => some (f.fields 0x0E7)
  | .amoXchg f => some (f.fields 0x0E8)
  | .amoCas f => some (f.fields 0x0E9)
  | .amoFadd f => some (f.fields 0x0EA)
  | .amoFmin f => some (f.fields 0x0EB)
  | .amoFmax f => some (f.fields 0x0EC)
  | .amoBfadd2 f => some (f.fields 0x0ED)
  | .rcell f => some (f.fields 0x0EE)
  | .rfree f => some (f.fields 0x0EF)
  | .ropFadd f => some (f.fields 0x0F0)
  | .ropSt f => some (f.fields 0x0F1)
  | .ropMaxi f => some (f.fields 0x0F2)
  | .ropBfadd f => some (f.fields 0x0F3)
  | .rstat f => some (f.fields 0x0F4)
  | .rreissue f => some (f.fields 0x0F5)
  | .fnc f => some (f.fields 0x100)
  | .fwait f => some (f.fields 0x101)
  | .barInit f => some (f.fields 0x102)
  | .barArr f => some (f.fields 0x103)
  | .barWait f => some (f.fields 0x104)
  | .barArw f => some (f.fields 0x105)
  | .barSt f => some (f.fields 0x106)
  | .gjoin f => some (f.fields 0x107)
  | .gjoinImm f => some (f.fields 0x107)
  | .gleave f => some (f.fields 0x108)
  | .gleaveImm f => some (f.fields 0x108)
  | .gbar f => some (f.fields 0x109)
  | .gbarSs f => some (f.fields 0x109)
  | .evw f => some (f.fields 0x10A)
  | .evsig f => some (f.fields 0x10B)
  | .evsigImm f => some (f.fields 0x10B)
  | .semwt f => some (f.fields 0x10C)
  | .semwtImm f => some (f.fields 0x10C)
  | .semsg f => some (f.fields 0x10D)
  | .semsgImm f => some (f.fields 0x10D)
  | .semrd f => some (f.fields 0x10E)
  | .semrdImm f => some (f.fields 0x10E)
  | .semset f => some (f.fields 0x10F)
  | .semsetImm f => some (f.fields 0x10F)
  | .tagwa f => some (f.fields 0x110)
  | .tagwaImm f => some (f.fields 0x110)
  | .tagwl f => some (f.fields 0x111)
  | .tagwlImm f => some (f.fields 0x111)
  | .tagff f => some (f.fields 0x112)
  | .tagffImm f => some (f.fields 0x112)
  | .tagclr f => some (f.fields 0x113)
  | .tagclrImm f => some (f.fields 0x113)
  | .settle f => some (f.fields 0x114)
  | .vld f => some (f.fields 0x120)
  | .vlds f => some (f.fields 0x121)
  | .vldx f => some (f.fields 0x122)
  | .vst f => some (f.fields 0x123)
  | .vsts f => some (f.fields 0x124)
  | .vstx f => some (f.fields 0x125)
  | .vaddI f => some (f.fields 0x126)
  | .vsubI f => some (f.fields 0x127)
  | .vmulI f => some (f.fields 0x128)
  | .vminI f => some (f.fields 0x129)
  | .vmaxI f => some (f.fields 0x12A)
  | .vand f => some (f.fields 0x12B)
  | .vor f => some (f.fields 0x12C)
  | .vxor f => some (f.fields 0x12D)
  | .vshl f => some (f.fields 0x12E)
  | .vshlImm f => some (f.fields 0x12E)
  | .vshr f => some (f.fields 0x12F)
  | .vshrImm f => some (f.fields 0x12F)
  | .vsra f => some (f.fields 0x130)
  | .vsraImm f => some (f.fields 0x130)
  | .vaddF f => some (f.fields 0x131)
  | .vsubF f => some (f.fields 0x132)
  | .vmulF f => some (f.fields 0x133)
  | .vfmaF f => some (f.fields 0x134)
  | .vfnmaF f => some (f.fields 0x135)
  | .vminF f => some (f.fields 0x136)
  | .vmaxF f => some (f.fields 0x137)
  | .vabsF f => some (f.fields 0x138)
  | .vnegF f => some (f.fields 0x139)
  | .vdivF f => some (f.fields 0x13A)
  | .vsqrtF f => some (f.fields 0x13B)
  | .vrcpF f => some (f.fields 0x13C)
  | .vrsqF f => some (f.fields 0x13D)
  | .vexp2F f => some (f.fields 0x13E)
  | .vlog2F f => some (f.fields 0x13F)
  | .vfmaBf f => some (f.fields 0x140)
  | .vcvt f => some (f.fields 0x141)
  | .vsplit f => some (f.fields 0x142)
  | .vquant f => some (f.fields 0x143)
  | .vdequant f => some (f.fields 0x144)
  | .vrnsTo f => some (f.fields 0x145)
  | .vrnsFrom f => some (f.fields 0x146)
  | .vcmpEq f => some (f.fields 0x147)
  | .vcmpLt f => some (f.fields 0x148)
  | .vcmpLe f => some (f.fields 0x149)
  | .vcmpFlt f => some (f.fields 0x14A)
  | .vcmpFle f => some (f.fields 0x14B)
  | .vcmpFun f => some (f.fields 0x14C)
  | .vsel f => some (f.fields 0x14D)
  | .vmand f => some (f.fields 0x14E)
  | .vmor f => some (f.fields 0x14F)
  | .vmxor f => some (f.fields 0x150)
  | .vmnot f => some (f.fields 0x151)
  | .vmpop f => some (f.fields 0x152)
  | .vbcast f => some (f.fields 0x153)
  | .vbcastImm f => some (f.fields 0x153)
  | .vmovx f => some (f.fields 0x154)
  | .vmovxImm f => some (f.fields 0x154)
  | .vmovv f => some (f.fields 0x155)
  | .vmovvImm f => some (f.fields 0x155)
  | .viota f => some (f.fields 0x156)
  | .vperm f => some (f.fields 0x157)
  | .vrot f => some (f.fields 0x158)
  | .vrotImm f => some (f.fields 0x158)
  | .vzip f => some (f.fields 0x159)
  | .vunzip f => some (f.fields 0x15A)
  | .vmov f => some (f.fields 0x15B)
  | .vredAddF f => some (f.fields 0x15C)
  | .vredAddI f => some (f.fields 0x15D)
  | .vredMinF f => some (f.fields 0x15E)
  | .vredMaxF f => some (f.fields 0x15F)
  | .vredMinI f => some (f.fields 0x160)
  | .vredMaxI f => some (f.fields 0x161)
  | .vscanAddI f => some (f.fields 0x162)
  | .vscanAddF f => some (f.fields 0x163)
  | .vsetvl f => some (f.fields 0x164)
  | .vsetvlImm f => some (f.fields 0x164)
  | .vcmul f => some (f.fields 0x165)
  | .mxq f => some (f.fields 0x180)
  | .mxqr f => some (f.fields 0x181)
  | .cpq f => some (f.fields 0x182)
  | .cpqr f => some (f.fields 0x183)
  | .eqst f => some (f.fields 0x184)
  | .mxwm f => some (f.fields 0x185)
  | .mxrd f => some (f.fields 0x186)
  | .mxrdImm f => some (f.fields 0x186)
  | .mxwr f => some (f.fields 0x187)
  | .mxwrImm f => some (f.fields 0x187)
  | .mxcap f => some (f.fields 0x188)
  | .mxgate f => some (f.fields 0x189)
  | .mxgateImm f => some (f.fields 0x189)
  | .cpkill f => some (f.fields 0x18A)
  | .cpkillImm f => some (f.fields 0x18A)
  | .svc f => some (f.fields 0x1A0)
  | .mbxw f => some (f.fields 0x1A1)
  | .mbxr f => some (f.fields 0x1A2)
  | .tlbi f => some (f.fields 0x1A3)
  | .rtld f => some (f.fields 0x1A4)
  | .rtchk f => some (f.fields 0x1A5)
  | .artw f => some (f.fields 0x1A6)
  | .imap f => some (f.fields 0x1A7)
  | .ctxsv f => some (f.fields 0x1A8)
  | .ctxld f => some (f.fields 0x1A9)
  | .prmt f => some (f.fields 0x1AA)
  | .kill f => some (f.fields 0x1AB)
  | .gpart f => some (f.fields 0x1AC)
  | .wdog f => some (f.fields 0x1AD)
  | .wdogImm f => some (f.fields 0x1AD)
  | .proof f => some (f.fields 0x1AE)
  | .cntc f => some (f.fields 0x1AF)
  | .cntcImm f => some (f.fields 0x1AF)
  | .cntr f => some (f.fields 0x1B0)
  | .trc f => some (f.fields 0x1B1)
  | .trcImm f => some (f.fields 0x1B1)
  | .scrub f => some (f.fields 0x1B2)
  | .keyld f => some (f.fields 0x1B3)
  | .turnack f => some (f.fields 0x1B4)
  | .rflush f => some (f.fields 0x1B5)
  | .fencecore f => some (f.fields 0x1B6)
  | .flood f => some (f.fields 0x1B7)
  | .halt f => some (f.fields 0x1B8)
  | .vectorInstructionExecute _ => none
  | .loadw _ => none
  | .stream _ => none
  | .mma _ => none
  | .zero _ => none
  | .store _ => none
  | .loadacc _ => none
  | .rnsmode _ => none
  | .arrayPowerGate _ => none
  | .matrixQueueWindowWrite _ _ => none
  | .copy _ => none
  | .gather _ => none
  | .scatter _ => none
  | .fill _ => none
  | .quant _ => none
  | .proofstream _ => none
  | .copySectorIssue _ => none
  | .copySectorPerformed _ _ _ => none
  | .fillCompletion _ _ => none
  | .routineEnd _ _ => none
  | .postingQueueSend _ => none
  | .packetDeliver _ => none
  | .homeSliceApply _ => none
  | .stampedOperationApply _ => none
  | .remoteAccessApply _ => none
  | .remoteBarrierUpdate _ => none
  | .eventUnitMessage _ => none
  | .reply _ => none
  | .postedRefusal _ => none
  | .pageTableWalk _ _ _ _ => none
  | .observe _ _ => none
  | .treeBarrierRelease _ => none
  | .settlingWatermarkAdvance _ _ => none
  | .collectionWindowClose _ => none
  | .slugPop _ => none
  | .galleyPush _ _ => none
  | .heldPushApply _ _ => none
  | .budgetIntervalReload _ => none
  | .sliceExpiry _ _ => none
  | .watchdogT1 _ _ => none
  | .watchdogT2 _ _ => none
  | .watchdogT3 _ _ => none
  | .indexedLaunchRead _ _ => none
  | .chunkRequest _ _ => none
  | .chunkReport _ _ _ => none
  | .masterFailover _ _ => none
  | .turnNotice => none
  | .quiesce => none
  | .drainComplete => none
  | .shiftRound => none
  | .resume => none
  | .turnCancel _ => none
  | .ucieFlitReceive _ _ _ => none
  | .linkRetrain _ => none
  | .linkRetrainComplete _ => none
  | .twinCopyArrival _ => none
  | .twinTimeout _ => none
  | .gatewayIngress _ => none
  | .moduleResetRelease => none
  | .clusterPowerUp _ _ => none
  | .go => none
  | .imageRelay _ => none
  | .discoveryAnswer _ _ => none
  | .bstatClear _ => none
  | .hdoor => none
  | .ddoorClear => none
  | .windowRead _ _ => none
  | .windowWrite _ _ _ => none
  | .debugStopRequest _ => none
  | .debugStep _ => none
  | .debugGo _ => none
  | .budgetWrite _ => none
  | .registerWrite _ _ => none
  | .ownerCreate => none
  | .ownerGrow => none
  | .ownerShrink => none
  | .ownerRetire => none
  | .assignKeys => none
  | .releaseKeys => none
  | .attestationRequest => none
  | .scrubComplete _ => none
  | .rollback _ => none
  | .patrolScrub _ => none
  | .monitorSample _ _ _ _ => none
  | .traceCycRecord _ _ => none
  | .gatewayApplied _ => none
  | .linkLevelRetry _ => none
  | .uncorrectableError _ _ _ => none

/-- The word of an instruction. -/
def encode (i : Instr) : Option IWord := (encodeFields i).map Fields.toWord

end Sys2Proof
end

