-- ==== Sys2Proof/Machine/Bits.lean ====
section
/-! DEFINITION. Bit fields of numbers and words, and sign extension, as the instruction entries use them. -/

namespace Sys2Proof.Machine

/-- Bits lo + w − 1 to lo of a number. -/
def bitsAt (n lo w : Nat) : Nat := n / 2 ^ lo % 2 ^ w

/-- One bit of a number. -/
def bitAt (n i : Nat) : Bool := n / 2 ^ i % 2 == 1

/-- The low `w` bits of a number as a signed integer. -/
def signedOf (w n : Nat) : Int :=
  if n % 2 ^ w < 2 ^ (w - 1) then (n % 2 ^ w : Nat) else (n % 2 ^ w : Nat) - (2 ^ w : Nat)

/-- An integer as a `w`-bit two's-complement number. -/
def unsignedOf (w : Nat) (i : Int) : Nat := (i % (2 ^ w : Nat)).toNat

/-- The low `w` bits of a word, sign-extended or zero-extended to 64 bits. -/
def sextLow (w : Nat) (v : BitVec 64) : BitVec 64 := BitVec.ofInt 64 (signedOf w v.toNat)
def zextLow (w : Nat) (v : BitVec 64) : BitVec 64 := BitVec.ofNat 64 (v.toNat % 2 ^ w)

/-- An I-form immediate, sign-extended (R21). -/
def immS (i : BitVec 32) : BitVec 64 := i.signExtend 64
/-- An I-form immediate, zero-extended. -/
def immZ (i : BitVec 32) : BitVec 64 := i.setWidth 64

/-- All ones. -/
def ones : BitVec 64 := BitVec.allOnes 64

/-- The value 1 or 0 of a truth value. -/
def bit (b : Bool) : Nat := if b then 1 else 0

/-- Replaces bits lo + w − 1 to lo of a number. -/
def setBits (n lo w v : Nat) : Nat := n - bitsAt n lo w * 2 ^ lo + (v % 2 ^ w) * 2 ^ lo

/-- Bytes of a number, lowest first. -/
def natBytes : Nat → Nat → List (BitVec 8)
  | 0, _ => []
  | k + 1, n => BitVec.ofNat 8 n :: natBytes k (n / 256)

/-- The number of a list of bytes, lowest first. -/
def bytesNat : List (BitVec 8) → Nat
  | [] => 0
  | b :: r => b.toNat + 256 * bytesNat r

/-- A field of a 64-byte record, by byte offset and size (R2). -/
def recField (b : BitVec 512) (off size : Nat) : Nat := bitsAt b.toNat (8 * off) (8 * size)
/-- A scratchpad barrier object named by the two bytes at an offset of a record, valid or not (R210, R227). -/
def recBar (b : BitVec 512) (off : Nat) : Option Nat :=
  let v := recField b off 2
  if bitAt v 15 then some (v % 32768) else none

/-- The first index below n, counted up from i, at which a test holds. -/
def findFrom (p : Nat → Bool) : Nat → Nat → Option Nat
  | 0, _ => none
  | k + 1, i => if p i then some i else findFrom p k (i + 1)

/-- Folds over the numbers i, i + 1, … (k of them). -/
def foldUp {α : Type} (f : α → Nat → α) : Nat → Nat → α → α
  | 0, _, a => a
  | k + 1, i, a => foldUp f k (i + 1) (f a i)

end Sys2Proof.Machine
end

