-- ==== Sys2Proof/Machine/Float.lean ====
section
/-! DEFINITION. Floating-point values, the one procedure that rounds to a format (R173), the stochastic generator
(R175 to R177), and the operations of R55, R57, R59, R178, R195 as functions of codes. A value is a sign and
m × 2^e; an inexact intermediate result is kept with more bits than any format has and its lowest bit set, so that
one rounding follows. -/

namespace Sys2Proof.Machine

/-- The formats of R166, Table 1. -/
inductive Fmt where
  | fp32 | bf16 | e4m3 | e5m2
deriving DecidableEq, Repr

/-- Fraction bits, 1 − bias, exponent bits, and the codes of Table 1 and R167. -/
def Fmt.p : Fmt → Nat
  | .fp32 => 23 | .bf16 => 7 | .e4m3 => 3 | .e5m2 => 2
def Fmt.emin : Fmt → Int
  | .fp32 => -126 | .bf16 => -126 | .e4m3 => -6 | .e5m2 => -14
def Fmt.ebits : Fmt → Nat
  | .fp32 => 8 | .bf16 => 8 | .e4m3 => 4 | .e5m2 => 5
/-- Width without the sign bit. -/
def Fmt.mag (f : Fmt) : Nat := f.p + f.ebits
def Fmt.width (f : Fmt) : Nat := f.mag + 1
/-- Magnitude code of the largest finite value. -/
def Fmt.maxCode : Fmt → Nat
  | .fp32 => 0x7F7FFFFF | .bf16 => 0x7F7F | .e4m3 => 0x7E | .e5m2 => 0x7B
/-- What an overflow delivers when it does not saturate: infinity, for E4M3 its NaN. -/
def Fmt.infCode : Fmt → Nat
  | .fp32 => 0x7F800000 | .bf16 => 0x7F80 | .e4m3 => 0x7F | .e5m2 => 0x7C
/-- The canonical NaN (R167). -/
def Fmt.nan : Fmt → Nat
  | .fp32 => 0x7FC00000 | .bf16 => 0x7FC0 | .e4m3 => 0x7F | .e5m2 => 0x7E

/-- A code with a sign. -/
def Fmt.sign (f : Fmt) (neg : Bool) (c : Nat) : Nat := if neg then 2 ^ f.mag + c else c

/-- A value read from a code: m × 2^e for the finite ones. -/
inductive FVal where
  | nan (signalling : Bool)
  | inf (neg : Bool)
  | fin (neg : Bool) (m : Nat) (e : Int)
deriving DecidableEq, Repr

/-- The value of a code (R166, R167). -/
def Fmt.read (f : Fmt) (c : Nat) : FVal :=
  let neg := bitAt c f.mag
  let m := c % 2 ^ f.mag
  let e := m / 2 ^ f.p
  let fr := m % 2 ^ f.p
  if f = .e4m3 then
    if m = 0x7F then .nan false
    else if e = 0 then .fin neg fr (-9) else .fin neg (8 + fr) ((e : Int) - 10)
  else if e = 2 ^ f.ebits - 1 then
    if fr = 0 then .inf neg else .nan (f != .e5m2 && !bitAt fr (f.p - 1))
  else if e = 0 then .fin neg fr (f.emin - f.p)
  else .fin neg (2 ^ f.p + fr) (f.emin + e - 1 - f.p)

def FVal.isNaN : FVal → Bool
  | .nan _ => true
  | _ => false
def FVal.isSig : FVal → Bool
  | .nan b => b
  | _ => false
def FVal.isZero : FVal → Bool
  | .fin _ m _ => m == 0
  | _ => false
def FVal.negate : FVal → FVal
  | .inf n => .inf (!n)
  | .fin n m e => .fin (!n) m e
  | v => v
/-- The value times 2^k. -/
def FVal.scale (v : FVal) (k : Int) : FVal :=
  match v with
  | .fin n m e => .fin n m (e + k)
  | v => v

/-- Flags in the order of R172, Table 5: NV 16, DZ 8, OF 4, UF 2, NX 1. -/
abbrev Flags := BitVec 5
def NV : Flags := 16
def DZ : Flags := 8
def OF : Flags := 4
def UF : Flags := 2
def NX : Flags := 1
/-- A code and the flags raised. -/
abbrev FRes := Nat × Flags
def nvIf (b : Bool) : Flags := if b then NV else 0

/-- A rounding mode; stochastic with the generator's state after its step (R177). -/
inductive RM where
  | rne | rtz | rup | rdn
  | sr (state : BitVec 64)
deriving DecidableEq, Repr

/-- The mode of a rounding code that does not accept SR (R171, Table 4). -/
def rmOf (code : Nat) : RM :=
  match code with
  | 1 => .rtz
  | 2 => .rup
  | 3 => .rdn
  | _ => .rne

/-- Fields of `rmode` (R171, Table 3). -/
def arnd (rm : BitVec 16) : RM := rmOf (bitsAt rm.toNat 0 3)
def crndCode (rm : BitVec 16) : Nat := bitsAt rm.toNat 3 3
def crnd (rm : BitVec 16) : RM := rmOf (crndCode rm)
def satOf (rm : BitVec 16) : Bool := bitAt rm.toNat 6
def fzo (rm : BitVec 16) : Bool := bitAt rm.toNat 7
def fzi (rm : BitVec 16) : Bool := bitAt rm.toNat 8

/-- StochasticCarry of R177 on the `kd` discarded bits `d`. -/
def srCarry (state : BitVec 64) (kd d : Nat) : Nat :=
  let k := if kd < 24 then kd else 24
  if d / 2 ^ (kd - k) + state.toNat % 2 ^ k ≥ 2 ^ k then 1 else 0

/-- r of R173: |v| = m × 2^e in units of 2^qe rounded, and whether that is exact. -/
def roundMag (rm : RM) (neg : Bool) (m : Nat) (e qe : Int) : Nat × Bool :=
  if qe ≤ e then (m * 2 ^ (e - qe).toNat, true)
  else
    let kd := (qe - e).toNat
    let fl := m / 2 ^ kd
    let d := m % 2 ^ kd
    if d = 0 then
      (match rm with
       | .sr st => fl + srCarry st kd d
       | _ => fl, true)
    else
      let up : Nat := fl + 1
      (match rm with
       | .rne => if 2 * d < 2 ^ kd then fl else if 2 * d > 2 ^ kd then up else if fl % 2 = 0 then fl else up
       | .rtz => fl
       | .rup => if neg then fl else up
       | .rdn => if neg then up else fl
       | .sr st => fl + srCarry st kd d, false)

/-- The directed modes that stop an overflow at the largest finite value (R173). -/
def RM.stops (rm : RM) (neg : Bool) : Bool :=
  match rm with
  | .rtz => true
  | .rup => neg
  | .rdn => !neg
  | _ => false

/-- Narrow of R173, on a finite value, an infinity (delivered as such) or a NaN. -/
def narrow (f : Fmt) (rm : RM) (sat : Bool) (v : FVal) : FRes :=
  match v with
  | .nan s => (f.nan, nvIf s)
  | .inf neg => (f.sign neg f.infCode, 0)
  | .fin neg m e =>
    if m = 0 then (f.sign neg 0, 0)
    else
      let top : Int := (m.log2 : Int) + e
      let ex : Int := if top < f.emin then f.emin else top
      let (r, exact) := roundMag rm neg m e (ex - f.p)
      let code := (ex - f.emin).toNat * 2 ^ f.p + r
      if code > f.maxCode then
        if sat || rm.stops neg then (f.sign neg f.maxCode, OF ||| NX)
        else if f = .e4m3 then (f.nan, OF ||| NX)
        else (f.sign neg f.infCode, OF ||| NX)
      else
        (f.sign neg code, if exact then 0 else if code < 2 ^ f.p then UF ||| NX else NX)

/-- RoundFP32 (R37); FP32 results ignore sat. -/
def round32 (rm : RM) (v : FVal) : FRes := narrow .fp32 rm false v
def read32 (a : Nat) : FVal := Fmt.read .fp32 (a % 2 ^ 32)

/-! ### Exact operations on values -/

/-- An integer as a value. -/
def ofInt (i : Int) : FVal := .fin (decide (i < 0)) i.natAbs 0

/-- The product, and whether it is the invalid 0 × ∞. -/
def mulF (a b : FVal) : FVal × Bool :=
  match a, b with
  | .fin n m e, .fin n' m' e' => (.fin (n != n') (m * m') (e + e'), false)
  | .inf n, .inf n' => (.inf (n != n'), false)
  | .inf n, .fin n' m _ => if m = 0 then (.nan false, true) else (.inf (n != n'), false)
  | .fin n m _, .inf n' => if m = 0 then (.nan false, true) else (.inf (n != n'), false)
  | .nan _, _ => (.nan false, false)
  | _, .nan _ => (.nan false, false)

/-- The least exponent of a list of finite terms. -/
def minExp : List FVal → Int → Int
  | [], e => e
  | .fin _ _ x :: r, e => minExp r (if x < e then x else e)
  | _ :: r, e => minExp r e
/-- The sum of the finite terms in units of 2^e. -/
def sumInt (e : Int) : List FVal → Int
  | [] => 0
  | .fin n m x :: r => (if n then -((m * 2 ^ (x - e).toNat : Nat) : Int) else ((m * 2 ^ (x - e).toNat : Nat) : Int)) + sumInt e r
  | _ :: r => sumInt e r
def FVal.isInf (neg : Bool) : FVal → Bool
  | .inf n => n == neg
  | _ => false
def FVal.zeroOf (neg : Bool) : FVal → Bool
  | .fin n m _ => m == 0 && n == neg
  | _ => false

/-- The exact sum of terms, with the zero-sign rule of R55, and whether it is the invalid ∞ − ∞. -/
def sumF (rm : RM) (ts : List FVal) : FVal × Bool :=
  let pos := ts.any (FVal.isInf false)
  let neg := ts.any (FVal.isInf true)
  if pos && neg then (.nan false, true)
  else if ts.any FVal.isNaN then (.nan false, false)
  else if pos then (.inf false, false)
  else if neg then (.inf true, false)
  else
    let e := minExp ts 0
    let t := sumInt e ts
    if t = 0 then
      (.fin (if ts.all (FVal.zeroOf true) then true else if ts.all (FVal.zeroOf false) then false else rm == .rdn) 0 0, false)
    else (.fin (decide (t < 0)) t.natAbs e, false)

/-- The integer square root by bits, from bit `k` down. -/
def isqrtAux (n : Nat) : Nat → Nat → Nat
  | 0, r => r
  | k + 1, r => if (r + 2 ^ k) * (r + 2 ^ k) ≤ n then isqrtAux n k (r + 2 ^ k) else isqrtAux n k r
def isqrt (n : Nat) : Nat := isqrtAux n (n.log2 / 2 + 1) 0

/-- m / m' × 2^e with at least 60 bits and its lowest bit set when it is inexact. -/
def quotF (neg : Bool) (m m' : Nat) (e : Int) : FVal :=
  let sh := 64 + m'.log2
  let n := m * 2 ^ sh
  .fin neg (2 * (n / m') + (if n % m' = 0 then 0 else 1)) (e - sh - 1)

/-- √(m × 2^e) in the same way. -/
def rootF (m : Nat) (e : Int) : FVal :=
  let sh := 128 + (e % 2).toNat
  let n := m * 2 ^ sh
  let r := isqrt n
  .fin false (2 * r + (if r * r = n then 0 else 1)) ((e - sh) / 2 - 1)

/-! ### FP32 operations on codes (R55, R57) -/

def sigAny (vs : List FVal) : Flags := nvIf (vs.any FVal.isSig)

/-- Rounds an exact result, with NV when it is invalid or an operand signals. -/
def finish32 (rm : RM) (ops : List FVal) (r : FVal × Bool) : FRes :=
  if r.2 then (Fmt.nan .fp32, NV)
  else if r.1.isNaN then (Fmt.nan .fp32, sigAny ops)
  else ((round32 rm r.1).1, (round32 rm r.1).2 ||| sigAny ops)

def fpAdd (rm : RM) (a b : Nat) : FRes := finish32 rm [read32 a, read32 b] (sumF rm [read32 a, read32 b])
def fpSub (rm : RM) (a b : Nat) : FRes :=
  finish32 rm [read32 a, read32 b] (sumF rm [read32 a, (read32 b).negate])
def fpMul (rm : RM) (a b : Nat) : FRes := finish32 rm [read32 a, read32 b] (mulF (read32 a) (read32 b))

/-- A sum in which some terms are products: invalid when a product is, or the sum. -/
def dotF (rm : RM) (prods : List (FVal × Bool)) (others : List FVal) : FVal × Bool :=
  if prods.any (·.2) then (.nan false, true) else sumF rm (prods.map (·.1) ++ others)

/-- d + a × b, one rounding (R55); `sub` takes the product negated. -/
def fpFma (rm : RM) (sub : Bool) (a b d : Nat) : FRes :=
  let x := if sub then (read32 a).negate else read32 a
  finish32 rm [read32 a, read32 b, read32 d] (dotF rm [mulF x (read32 b)] [read32 d])

def fpDiv (rm : RM) (a b : Nat) : FRes :=
  match read32 a, read32 b with
  | .fin n m e, .fin n' m' e' =>
    if m' = 0 then
      if m = 0 then (Fmt.nan .fp32, NV) else (Fmt.sign .fp32 (n != n') (Fmt.infCode .fp32), DZ)
    else if m = 0 then (Fmt.sign .fp32 (n != n') 0, 0)
    else round32 rm (quotF (n != n') m m' (e - e'))
  | .inf _, .inf _ => (Fmt.nan .fp32, NV)
  | .inf n, .fin n' _ _ => (Fmt.sign .fp32 (n != n') (Fmt.infCode .fp32), 0)
  | .fin n _ _, .inf n' => (Fmt.sign .fp32 (n != n') 0, 0)
  | x, y => (Fmt.nan .fp32, sigAny [x, y])

def fpSqrt (rm : RM) (a : Nat) : FRes :=
  match read32 a with
  | .nan s => (Fmt.nan .fp32, nvIf s)
  | .inf n => if n then (Fmt.nan .fp32, NV) else (Fmt.infCode .fp32, 0)
  | .fin n m e =>
    if m = 0 then (Fmt.sign .fp32 n 0, 0)
    else if n then (Fmt.nan .fp32, NV)
    else round32 rm (rootF m e)

/-- a < b and a = b; both are false when a or b is a NaN (R48). -/
def FVal.lt (a b : FVal) : Bool :=
  match a, b with
  | .nan _, _ => false
  | _, .nan _ => false
  | .inf n, .inf n' => n && !n'
  | .inf n, _ => n
  | _, .inf n' => !n'
  | .fin n m e, .fin n' m' e' =>
    let k := if e < e' then e else e'
    decide (sumInt k [.fin n m e] < sumInt k [.fin n' m' e'])
def FVal.eqv (a b : FVal) : Bool := !a.isNaN && !b.isNaN && !a.lt b && !b.lt a

/-- fmin, fmax (R57): −0 below +0. -/
def fpMinMax (max : Bool) (a b : Nat) : FRes :=
  let x := read32 a
  let y := read32 b
  let fl := sigAny [x, y]
  let below := x.lt y || (x.isZero && y.isZero && bitAt a 31 && !bitAt b 31)
  if x.isNaN && y.isNaN then (Fmt.nan .fp32, fl)
  else if x.isNaN then (b % 2 ^ 32, fl)
  else if y.isNaN then (a % 2 ^ 32, fl)
  else if below != max then (a % 2 ^ 32, fl) else (b % 2 ^ 32, fl)

/-- fabs, fneg: no flags, a NaN keeps its payload (R55). -/
def fpAbs (a : Nat) : Nat := a % 2 ^ 31
def fpNeg (a : Nat) : Nat := if bitAt a 31 then a % 2 ^ 31 else a % 2 ^ 31 + 2 ^ 31

/-! ### Conversions (R59, R178) -/

/-- The integer nearest a finite value under a mode, and whether that is exact. -/
def toIntRound (rm : RM) (neg : Bool) (m : Nat) (e : Int) : Int × Bool :=
  let (r, exact) := roundMag rm neg m e 0
  (if neg then -(r : Int) else r, exact)

/-- FP32 to a signed integer of w bits. -/
def fpToInt (w : Nat) (rm : RM) (v : FVal) : Int × Flags :=
  let lo : Int := -((2 ^ (w - 1) : Nat) : Int)
  let hi : Int := (2 ^ (w - 1) : Nat) - 1
  match v with
  | .nan _ => (lo, NV)
  | .inf n => (if n then lo else hi, NV)
  | .fin n m e =>
    let (i, exact) := toIntRound rm n m e
    if i < lo then (lo, NV) else if hi < i then (hi, NV) else (i, if exact then 0 else NX)

/-- FP32 to BF16, E4M3 or E5M2 with the special inputs of R59. -/
def cvtNarrow (f : Fmt) (rm : RM) (sat : Bool) (v : FVal) : FRes :=
  match v with
  | .nan s => (f.nan, nvIf s)
  | .inf n =>
    match f with
    | .e4m3 => if sat then (f.sign n f.maxCode, OF ||| NX) else (f.nan, NV)
    | .e5m2 => if sat then (f.sign n f.maxCode, OF ||| NX) else (f.sign n f.infCode, 0)
    | _ => (f.sign n f.infCode, 0)
  | v => narrow f rm sat v

/-- BF16, E4M3 or E5M2 to FP32, exact. -/
def widen (f : Fmt) (c : Nat) : FRes := round32 .rne (f.read c)

/-! ### The stochastic generator (R175 to R177) -/

/-- One xorshift64 step. -/
def xs (x : BitVec 64) : BitVec 64 :=
  let x := x ^^^ (x <<< 13)
  let x := x ^^^ (x >>> 7)
  x ^^^ (x <<< 17)

/-- SeedSR of R176. -/
def seedSR (jobseed : BitVec 64) (ltile lctx : Nat) (index : BitVec 32) : BitVec 64 :=
  let z := jobseed + 0x9E3779B97F4A7C15 * (BitVec.ofNat 64 (ltile * 2 ^ 34 + lctx * 2 ^ 32 + index.toNat + 1))
  let z := (z ^^^ (z >>> 30)) * 0xBF58476D1CE4E5B9
  let z := (z ^^^ (z >>> 27)) * 0x94D049BB133111EB
  let z := z ^^^ (z >>> 31)
  if z = 0 then 1 else z

/-- One element of a conversion that accepts SR: the generator's state after it, the code and the flags. -/
def cvtSR (f : Fmt) (rm : BitVec 16) (sat : Bool) (v : FVal) (gen : BitVec 64) : BitVec 64 × FRes :=
  if crndCode rm = 4 then (xs gen, cvtNarrow f (.sr (xs gen)) sat v)
  else (gen, cvtNarrow f (crnd rm) sat v)

/-! ### The correctly rounded functions (R195, Table 6) -/

/-- ln 2 and 1 / ln 2 in units of 2^−256. -/
def ln2Fix : Nat := 80260960185991308862233904206310070533990667611589946606122867505419956976172
def invLn2Fix : Nat := 167052672916848388242985626561247531987276682633131050150846402744536260568208

/-- Σ x^k / k! from the term `t` of index `k` on, in units of 2^−256. -/
def expSeries (x : Nat) : Nat → Nat → Nat → Nat → Nat
  | 0, _, _, acc => acc
  | n + 1, k, t, acc => expSeries x n (k + 1) (t * x / 2 ^ 256 / (k + 1)) (acc + t)

/-- 2^(m × 2^e) for a finite non-zero argument of magnitude below 256, inexact unless the argument is an integer. -/
def exp2F (neg : Bool) (m : Nat) (e : Int) : FVal :=
  let fix : Int := (roundMag .rtz false m e (-256)).1
  let a : Int := if neg then -fix else fix
  let k : Int := a / (2 ^ 256 : Nat)
  let fr : Nat := (a % (2 ^ 256 : Nat)).toNat
  if fr = 0 then .fin false 1 k
  else .fin false (2 * expSeries (fr * ln2Fix / 2 ^ 256) 80 0 (2 ^ 256) 0 + 1) (k - 257)

/-- Σ z^(2j+1) / (2j+1) in units of 2^−256, `t` the power and `j` twice the index plus 1. -/
def atanhSeries (z2 : Nat) : Nat → Nat → Nat → Nat → Nat
  | 0, _, _, acc => acc
  | n + 1, j, t, acc => atanhSeries z2 n (j + 2) (t * z2 / 2 ^ 256) (acc + t / j)

/-- log2(m × 2^e) for m > 0, inexact unless the argument is a power of two. -/
def log2F (m : Nat) (e : Int) : FVal :=
  let k : Int := (m.log2 : Int) + e
  let one := 2 ^ m.log2
  if m = one then ofInt k
  else
    let z := (m - one) * 2 ^ 256 / (m + one)
    let l := 2 * atanhSeries (z * z / 2 ^ 256) 90 1 z 0
    let t : Int := 2 * (k * (2 ^ 256 : Nat) + ((l * invLn2Fix / 2 ^ 256 : Nat) : Int)) + 1
    .fin (decide (t < 0)) t.natAbs (-257)

/-- 1 / A. -/
def fpRcp (a : Nat) : FRes :=
  match read32 a with
  | .nan s => (Fmt.nan .fp32, nvIf s)
  | .inf n => (Fmt.sign .fp32 n 0, 0)
  | .fin n m e =>
    if m = 0 then (Fmt.sign .fp32 n (Fmt.infCode .fp32), DZ) else round32 .rne (quotF n 1 m (-e))

/-- 1 / √A. -/
def fpRsq (a : Nat) : FRes :=
  match read32 a with
  | .nan s => (Fmt.nan .fp32, nvIf s)
  | .inf n => if n then (Fmt.nan .fp32, NV) else (0, 0)
  | .fin n m e =>
    if m = 0 then (Fmt.sign .fp32 n (Fmt.infCode .fp32), DZ)
    else if n then (Fmt.nan .fp32, NV)
    else
      let sh := 256 + m.log2 + (if ((256 + m.log2 : Nat) - e) % 2 = 0 then 0 else 1)
      let q := 2 ^ sh / m
      let r := isqrt q
      round32 .rne (.fin false (2 * r + (if q * m = 2 ^ sh && r * r = q then 0 else 1)) ((-e - sh) / 2 - 1))

/-- 2^A. -/
def fpExp2 (a : Nat) : FRes :=
  match read32 a with
  | .nan s => (Fmt.nan .fp32, nvIf s)
  | .inf n => if n then (0, 0) else (Fmt.infCode .fp32, 0)
  | .fin n m e =>
    if m = 0 then (0x3F800000, 0)
    else if (m.log2 : Int) + e ≥ 8 then (if n then (0, UF ||| NX) else (Fmt.infCode .fp32, OF ||| NX))
    else round32 .rne (exp2F n m e)

/-- log2 A. -/
def fpLog2 (a : Nat) : FRes :=
  match read32 a with
  | .nan s => (Fmt.nan .fp32, nvIf s)
  | .inf n => if n then (Fmt.nan .fp32, NV) else (Fmt.infCode .fp32, 0)
  | .fin n m e =>
    if m = 0 then (Fmt.sign .fp32 true (Fmt.infCode .fp32), DZ)
    else if n then (Fmt.nan .fp32, NV)
    else round32 .rne (log2F m e)

end Sys2Proof.Machine
end

