-- ==== Sys2Proof/Config.lean ====
section
/-! DEFINITION. What the spec leaves open and the model leaves free: constants without a body, so that nothing can be
proved of their values. `freeWord` and `freeVec` are applied to a counter that State holds and each draw advances
(log 5). -/

namespace Sys2Proof.Config

/-- A free 64-bit value: a scalar register of a window at routine start (R25), the entry a TLB fill replaces
(R332), a draw of the random keys of R363. Log 5, log 15, log 16. -/
opaque freeWord : Nat → BitVec 64
/-- A free 1,024-bit value: a vector register of a window at routine start (R25). Log 5. -/
opaque freeVec : Nat → BitVec 1024
/-- The cycle count of a physical cluster (bed, cluster in the bed) at a gtime: the clock follows the supply
voltage (R3, R10, R377), so the count is open. Log 2. -/
opaque cycles : Nat → Nat → BitVec 64 → BitVec 64
/-- The cycles of a context (its tile and number) from one gtime to another that a counter of event 2, 3 or 4 counts (R385): the spec
states what they count, and the clock is open. Log 50. -/
opaque eventCycles : Nat → Nat → Nat → BitVec 64 → BitVec 64 → BitVec 64
/-- A 64-byte line of module memory that was encrypted under one key pair and is decrypted under another (R362): by line,
the writer's keys, the reader's keys, the bytes that were written. Log 51. -/
opaque decipher : Nat → BitVec 512 → BitVec 512 → BitVec 512 → BitVec 512
/-- The digest function of R341 and R348, as a function of the bytes. Log 15. -/
opaque sha384 : List (BitVec 8) → BitVec 384
/-- Whether an ECDSA P-384 signature (r then s) is valid for a digest under a public key (R341). Log 15. -/
opaque ecdsaValid : BitVec 384 → List (BitVec 8) → List (BitVec 8) → Bool
/-- The module identity key's signature of a digest (R348). Log 15. -/
opaque identitySign : BitVec 384 → BitVec 768
/-- The fused digest of the firmware-signing key of a die (R341). Log 15. -/
opaque fusedDigest : Nat → BitVec 384
/-- The fused minimum firmware version of a die (R341). Log 15. -/
opaque fusedVersion : Nat → BitVec 32
/-- Whether a physical site (die, row × 33 + col) is a skipped site, and whether it is fused off rather than a
dark spare (R262, R351): a property of the shipped part. Log 18. -/
opaque siteSkipped : Nat → Nat → Bool
opaque siteFused : Nat → Nat → Bool

/-- The port list that the boot ROM of a die other than die 0 holds (R352). Log 18. -/
opaque portList : Nat → List (BitVec 64)
/-- An owner's configuration record at a gtime, whose layout the spec does not give (R348). Log 15, log 59. -/
opaque ownerConfig : Nat → BitVec 64 → List (BitVec 8)
/-- The module identity certificate that follows an attestation report (R348). Log 15. -/
opaque certificate : List (BitVec 8)

/-- The number that `mfs` of `owner` reads in the firmware owner: the spec gives it none. Log 19. -/
opaque firmwareNumber : BitVec 6

end Sys2Proof.Config
end

