-- ==== Sys2Proof/Machine/SMap.lean ====
section
/-! DEFINITION. Sparse data held as lists: `SMap`, a map from numbers with a default for what is not listed, and
the canonical byte memories. Everything is structural recursion on the list. -/

namespace Sys2Proof.Machine

/-- A map from numbers as a list of key and value pairs, kept in rising key order by `SMap.set`. -/
abbrev SMap (α : Type) := List (Nat × α)

/-- The value at `k`, or `d` when `k` is not listed. -/
def SMap.get {α : Type} (d : α) : SMap α → Nat → α
  | [], _ => d
  | (j, v) :: r, k => if k = j then v else SMap.get d r k

/-- Sets the value at `k`. -/
def SMap.set {α : Type} : SMap α → Nat → α → SMap α
  | [], k, v => [(k, v)]
  | (j, w) :: r, k, v =>
    if k = j then (k, v) :: r
    else if k < j then (k, v) :: (j, w) :: r
    else (j, w) :: SMap.set r k v

/-- Removes the entry at `k`, so that the default stands there again. -/
def SMap.erase {α : Type} : SMap α → Nat → SMap α
  | [], _ => []
  | (j, w) :: r, k => if k = j then SMap.erase r k else (j, w) :: SMap.erase r k

/-- A byte memory: address and byte pairs, addresses strictly rising, no byte listed that is 0. -/
abbrev Memory := List (Nat × BitVec 8)

/-- The one definition of what an unlisted address reads as: 0. For the scratchpad and the tile store that is
what the boot ROM and a scrub leave (R340); for module, host and remote memory it is DESIGN CHOICE (log 3). -/
def Memory.blank : BitVec 8 := 0

/-- One byte. -/
def Memory.read : Memory → Nat → BitVec 8
  | [], _ => Memory.blank
  | (j, v) :: r, k => if k = j then v else Memory.read r k

/-- Writes one byte and keeps the canonical form: writing the blank value removes the entry. -/
def Memory.write : Memory → Nat → BitVec 8 → Memory
  | [], k, v => if v = Memory.blank then [] else [(k, v)]
  | (j, w) :: r, k, v =>
    if k = j then (if v = Memory.blank then r else (k, v) :: r)
    else if k < j then (if v = Memory.blank then (j, w) :: r else (k, v) :: (j, w) :: r)
    else (j, w) :: Memory.write r k v

/-- The canonical form: addresses strictly rising above `lo`, no blank byte. -/
def Memory.wfFrom : Nat → Memory → Bool
  | _, [] => true
  | lo, (j, v) :: r => decide (lo ≤ j) && v != Memory.blank && Memory.wfFrom (j + 1) r

/-- The memory is in canonical form. -/
def Memory.wf (m : Memory) : Bool := Memory.wfFrom 0 m

/-- `n` bytes from `a`, as a little-endian number (R2). -/
def Memory.readN (m : Memory) : Nat → Nat → Nat
  | _, 0 => 0
  | a, n + 1 => (m.read a).toNat + 256 * Memory.readN m (a + 1) n

/-- Writes the low `n` bytes of a number from `a` on, little-endian (R2). -/
def Memory.writeN (m : Memory) : Nat → Nat → Nat → Memory
  | _, 0, _ => m
  | a, n + 1, v => Memory.writeN (m.write a (BitVec.ofNat 8 v)) (a + 1) n (v / 256)

/-- The bytes at `a`, lowest address first. -/
def Memory.bytes (m : Memory) : Nat → Nat → List (BitVec 8)
  | _, 0 => []
  | a, n + 1 => m.read a :: Memory.bytes m (a + 1) n

/-- Writes bytes from `a` on. -/
def Memory.put (m : Memory) : Nat → List (BitVec 8) → Memory
  | _, [] => m
  | a, b :: r => Memory.put (m.write a b) (a + 1) r

end Sys2Proof.Machine
end

