-- ==== Sys2Proof/Machine/State.lean ====
section
/-! DEFINITION. The state of the module as plain data: everything INVENTORY.md lists under State. State is keyed by
owner-relative names (log 6): a tile by owner × 65,536 + ltile (owner 64 is the firmware owner), a forme by
owner × 64 + forme, a cluster by forme key × 64 + number within the forme. In boot mode a tile is keyed by
128 × 65,536 + die × 1,056 + physical site (R349). -/

namespace Sys2Proof.Machine

/-- Privilege levels (R323). -/
inductive Level where
  | u | s | m
deriving DecidableEq, Repr

/-- Whether, and why not, a context may issue. -/
inductive Run where
  /-- no thread -/
  | idle
  | ready
  /-- the instruction at pc waits (Wait of R37); `observe` makes it ready again -/
  | waiting
  /-- blocked on a fault, until a reply (R328) -/
  | blocked
  /-- held by `prmt` mode 0, or resumed stopped by R300 -/
  | held
  /-- stopped by the debug module (R383) -/
  | debugStop
  /-- `halt` (R338) -/
  | halted
  /-- a FIN has issued and the routine's end is to come (R314) -/
  | ending
deriving DecidableEq, Repr

/-- The completion object a waiting context waits on (R100, Observe). -/
inductive WaitOn where
  | nothing
  /-- a semaphore is at least a threshold (R28, R160) -/
  | sem (n thr : Nat)
  /-- some, or all, tags of a mask are set (R162) -/
  | tagAny (m : BitVec 64)
  | tagAll (m : BitVec 64)
  /-- a fence slot is free or holds another serial (R164) -/
  | fence (slot : Nat) (serial : BitVec 30)
  /-- the thing an armed instruction waits for has answered -/
  | answer
  /-- the context's mailbox holds a message (R329) -/
  | mail
  /-- every earlier access and engine command, numbered below n, has performed -/
  | quiet (n : Nat)
  /-- every earlier access, numbered below n, has been applied -/
  | applied (n : Nat)
deriving DecidableEq, Repr

/-- How far the instruction at pc has come when it takes more than one step. -/
inductive Phase where
  /-- nothing of it has happened -/
  | fresh
  /-- its tail wait has passed (and consumed) -/
  | passed
  /-- it has done its first part and waits for the thing with this name -/
  | armed (id : Nat)
  /-- what it waited for has answered with this value -/
  | granted (v : BitVec 128)
  /-- what it waited for has failed with this cause, address and detail -/
  | refused (cause : BitVec 8) (address detail : BitVec 64)
  /-- its effect is done, and its JIND selector waits for X(reg), which a load or a vector instruction is yet to write (R31);
  `word` is its word -/
  | leaving (reg : Nat) (word : BitVec 96)
deriving DecidableEq, Repr

/-- A register as the core computes with it: the special registers and predicates of one context. -/
structure Regs where
  pc : BitVec 64
  ln : BitVec 64
  lc : BitVec 32
  /-- loop-count stack, top first, at most 4 (R33) -/
  lcstk : List (BitVec 32)
  slim : BitVec 64
  rmode : BitVec 16
  fflags : BitVec 5
  fenable : BitVec 5
  srstate : BitVec 64
  vl : BitVec 6
  msel : BitVec 3
  ire : BitVec 64
  seq : BitVec 20
  /-- p0 to p7; bit 0 is not read (R24) -/
  preds : BitVec 8
  /-- vm0 to vm7; entry 0 is not read (R24) -/
  vms : SMap (BitVec 32)
  /-- slug byte 0x23 (R25) -/
  win : BitVec 8
  /-- first entry of the scalar window in the tile's file (R313) -/
  xbase : Nat
  /-- first entry of the vector window -/
  vbase : Nat
deriving DecidableEq, Repr

/-- One membership entry (R147). -/
structure Member where
  op : BitVec 16
  route : BitVec 128
  gen : BitVec 4
  arrived : Bool
deriving DecidableEq, Repr

/-- One fence slot (R163): it is free when nothing it covers is outstanding. -/
structure Fence where
  serial : BitVec 30
  used : Bool
  /-- accesses named below this number are covered -/
  upto : Nat
  ld : Bool
  st : Bool
  eng : Bool
  /-- 0 tile, 1 cluster, 2 owner, 3 system (R107) -/
  scope : BitVec 2
  /-- a turn has made it free (R108, R164) -/
  lapsed : Bool
deriving DecidableEq, Repr

/-- An entry of the clearance table (R110). -/
structure Clear where
  ltile : BitVec 16
  ctx : BitVec 2
  region : BitVec 24
deriving DecidableEq, Repr

/-- The mark that a release, or a store after a fence, leaves at its location: who, of which owner, and for which scope
(R104, Table 3). -/
structure Mark where
  who : Clear
  owner : Nat
  scope : BitVec 2
  /-- left by a store after a fence, and not by a release -/
  fence : Bool
deriving DecidableEq, Repr

/-- A performance counter (R385). -/
structure Counter where
  /-- gtime from which it counts: of its claim, or of its context's last resume -/
  since : BitVec 64
  claimed : Bool
  byM : Bool
  event : BitVec 16
  enabled : Bool
  value : BitVec 64
deriving DecidableEq, Repr

/-- Routes, groups, fences and ordering state of one context. -/
structure Sync where
  rts : SMap (BitVec 128)
  rtck : BitVec 16
  members : List Member
  fences : SMap Fence
  fserial : BitVec 30
  region : BitVec 24
  /-- least recently installed first, at most 64 -/
  clear : List Clear
  /-- entries evicted since the last superstep close (R111, Table 5) -/
  evicted : List Clear
  cmark : BitVec 48
  eord : BitVec 20
  twinCtr : BitVec 20
  /-- the access an acquire of this context waits for (R103) -/
  acq : Option Nat
  /-- region number at the last `fwait` of a fence that covers stores, for each scope of such fences: later plain stores carry them
  (R104, R110) -/
  fenced : List (BitVec 24 × BitVec 2)
  /-- marks that plain loads have read since, with the names of the loads (R104, R110) -/
  seen : List (Nat × Mark)
deriving DecidableEq, Repr

/-- Where an access is performed (R98). -/
inductive Dest where
  | slice (n : Nat)
  | tile (key : Nat)
  | cluster (key : Nat)
  /-- 0 Benez, 1 to 32 Zeltin 0 to 31 -/
  | gate (n : Nat)
deriving DecidableEq, Repr

/-- Atomic operations (R116, Table 2). -/
inductive AmoKind where
  | add | and | or | xor | min | max | minu | maxu | xchg | cas | fadd | fmin | fmax | bfadd2
deriving DecidableEq, Repr

/-- Updates and reads of a barrier object (R138, R141). -/
inductive BarOp where
  | arrive
  | wait (gen : BitVec 4)
  | arriveWait
  | status
  | join
  | withdraw (gen : BitVec 4) (valid : Bool)
  | addIn (n : Nat)
  | subIn (n : Nat) (err : BitVec 8)
deriving DecidableEq, Repr

/-- What an access does where it is performed. -/
inductive MemOp where
  | load (size : Nat)
  | store (size : Nat) (data : BitVec 128)
  | amo (k : AmoKind) (size : Nat) (b expected : BitVec 64)
  | ldT
  | ldS (w : BitVec 64)
  | rcell (kind : BitVec 2)
  | rfree
  | rstat
  | rop (kind : BitVec 2) (b : BitVec 64)
  | rreissue (b : BitVec 64)
  | bar (op : BarOp)
  | ev (line action arg : Nat)
  /-- the join step on the slug whose count lies at the address (R69) -/
  | join
  /-- an engine's or a fill's read of n bytes -/
  | get (n : Nat)
  /-- an engine's write of the n bytes that the packet carries; it takes 1 off the insec of the object at `bar` (R230) -/
  | put (n : Nat) (bar : Option Nat)
deriving DecidableEq, Repr

/-- How a result is extended to 64 bits. -/
inductive Ext where
  | zero | sign
deriving DecidableEq, Repr

/-- What becomes of an access's answer. -/
inductive Ret where
  /-- posted: no answer -/
  | none
  /-- physical scalar register `r` (no register for x0), `bits` wide -/
  | reg (r : Option Nat) (bits : Nat) (ext : Ext)
  /-- physical registers r and r + 1, and how the answer's 128 bits go there -/
  | pair (r : Nat)
  /-- the instruction at pc of the context waits for it -/
  | gate
  /-- the fill of a scratchpad sector (R94) -/
  | fill (sector : Nat)
  /-- part n of what an engine reads for its row or sector -/
  | piece (n : Nat)
deriving DecidableEq, Repr

/-- Where an access in flight is (R100, Table 2). -/
inductive Stage where
  | queued
  | net (sent : Nat)
  | twin (since : BitVec 64)
  | home (delivered : Nat)
  | replying (ok : Bool) (cause : BitVec 8) (detail : BitVec 64) (v : BitVec 128)
deriving DecidableEq, Repr

/-- One access of a context, or one push, from its issue to its reply (R98, R100, R263). -/
structure Flight where
  id : Nat
  /-- tile that issued it -/
  src : Nat
  ctx : Nat
  owner : Nat
  level : Level
  dest : Dest
  /-- physical address, or offset at the target -/
  addr : Nat
  va : BitVec 64
  /-- key slot of the leaf that it was translated through, or the host window's (R345, R362) -/
  slot : Nat
  op : MemOp
  ret : Ret
  stage : Stage
  route : BitVec 128
  stamp : BitVec 64
  /-- sent by the second tile of a checked pair, and the key its copies match on (R279) -/
  twin : Bool
  key : BitVec 64
  /-- counts as a load, as a store, for fences (R107) -/
  isLoad : Bool
  isStore : Bool
  /-- held at the queue head until earlier accesses have performed (R102) -/
  release : Bool
  acquire : Bool
  watched : Bool
  /-- region number at issue (R110) -/
  region : BitVec 24
  /-- scope of an ordered access -/
  scope : BitVec 2
  /-- marks of a release and of a fence that the written location keeps (R104, R110) -/
  mark : List Mark
  /-- marks found where a load was applied -/
  seen : List Mark
  /-- the engine command whose access it is, and that command's row or sector (R98, R106) -/
  eng : Option Nat
  part : Nat
  /-- the bytes that an engine's write carries, or that an engine's or a fill's read brings -/
  data : List Byte
  /-- pc and word of the instruction -/
  pc : BitVec 64
  iword : BitVec 96
  /-- route register of a space-3 access (R82) -/
  rtn : BitVec 4
  /-- the name it had before a RETRY sent it again: fences count it under that one (R394) -/
  resent : Option Nat
  /-- gtime at which it was issued -/
  born : BitVec 64
deriving DecidableEq, Repr

/-- A fault of one source, with what its message carries (R325) and the replies it allows (R326). -/
structure FaultRec where
  cause : BitVec 8
  src : BitVec 8
  pc : BitVec 64
  iword : BitVec 96
  address : BitVec 64
  stamp : BitVec 64
  detail : BitVec 64
  gtime : BitVec 64
  cyc : BitVec 64
  /-- bit r set: reply r is allowed (0 RETRY, 1 SKIP, 2 RESUME, 3 RESTART-REGION, 4 KILL) -/
  allow : BitVec 5
  /-- RETRY sends this access again (R394) -/
  resend : Option Flight
  /-- the fault stopped a FIN before its step 4 (R314), or a malformed head (R309) -/
  atFin : Bool
  /-- the watchpoint, breakpoint or other event is not reported again after RETRY (R382) -/
  once : Bool
deriving DecidableEq, Repr

/-- The slug record's fields in force for the running routine (R308). -/
structure SlugInfo where
  addr : BitVec 64
  frame : BitVec 64
  succ : BitVec 64
  flags : BitVec 16
  energy : Nat
  current : Nat
  slice : Nat
  prio : Nat
  width : Nat
  index : BitVec 32
  /-- galley it was popped from: 0 to 255 shared, 256 + 4 × tile + context private -/
  galley : Nat
  forme : Nat
  /-- the popped head was malformed (R309) -/
  malformed : Bool
deriving DecidableEq, Repr

/-- Gang state (R322): this context's member number, the gang's width and leader tile, and on the leader the
member that executes next and the word it executes. -/
structure Gang where
  member : Nat
  width : Nat
  leader : Nat
  turn : Nat
  /-- this member has executed the instruction of the leader's turn -/
  did : Bool
  word : BitVec 96
  pc : BitVec 64
deriving DecidableEq, Repr

/-- Scheduling, faults and debug of one context. -/
structure Sched where
  run : Run
  level : Level
  phase : Phase
  /-- the slug's join operand, until the thread has executed its join before the first instruction (R147) -/
  preJoin : Option (BitVec 16)
  waitOn : WaitOn
  slug : Option SlugInfo
  /-- run time before `runFrom`, which is when it last started to count (R316) -/
  runAcc : BitVec 64
  runFrom : Option (BitVec 64)
  /-- time blocked on a fault, for the watchdog (R317) -/
  blkAcc : BitVec 64
  blkFrom : Option (BitVec 64)
  /-- watchdog step 2 acts at this watchdog time after a RESUME; `wdStop` is the blocked time when it stopped the thread -/
  wdNext : Option (BitVec 64)
  wdStop : Option (BitVec 64)
  /-- run time of this slug before its present pop, ns (R316, R317) -/
  prior : BitVec 64
  /-- watchdog step 1 has acted in this pop -/
  wd1 : Bool
  /-- stopped so that its image can be saved once its accesses have performed (R316, R336) -/
  saving : Bool
  fault : Option FaultRec
  held : List FaultRec
  /-- stopped for a collection window (R180; ctl bit 4) -/
  fpStop : Bool
  gang : Option Gang
  counters : SMap Counter
  /-- why code of the debug module (R379) -/
  why : BitVec 4
  stopReq : Bool
  /-- instructions completed since the routine began, and the number at which a requested stop holds: both tiles of a
  checked pair stop at the same instruction (R383) -/
  issued : Nat
  stopAt : Nat
  stepping : Bool
  /-- why codes of the debug events at pc that were reported and are passed over until it has executed (R382) -/
  passDebug : BitVec 5
  /-- stops with its twin at the next boundary (R371) -/
  twinStop : Bool
  /-- goes on at its ire then, since the pair's reply has come before it (R371) -/
  twinIre : Bool
  /-- no thread starts on this idle context, which the debug module has stopped (R379, R383) -/
  barred : Bool
  /-- the watchdog's kill was made at this watchdog time and has not ended the context (R317) -/
  dying : Option (BitVec 64)
deriving DecidableEq, Repr

/-- One context. -/
structure Ctx where
  r : Regs
  y : Sync
  c : Sched
deriving DecidableEq, Repr

/-- An access to the scratchpad or tile store as one step (R78), kept while it waits for a fill (R94). -/
inductive LocalOp where
  | load (size : Nat) (ext : Ext) (r : Option Nat)
  | pair (r : Nat)
  | runLoad (rs : List (Option Nat))
  | store (size : Nat) (data : BitVec 128)
  | runStore (vs : List (BitVec 64))
  | amo (k : AmoKind) (size : Nat) (b expected : BitVec 64) (r : Option Nat)
deriving DecidableEq, Repr

/-- What touches an absent sector (R95): a core access, or the vector instruction, matrix command or copy command with
a name. -/
inductive Toucher where
  | core
  | vector (id : Nat)
  | matrix (id : Nat)
  | copy (id : Nat)
deriving DecidableEq, Repr

/-- An access of a context, or of an engine, waiting for demand-window sectors. -/
structure Waiter where
  who : Toucher := .core
  ctx : Nat
  space : BitVec 2
  addr : Nat
  size : Nat
  order : BitVec 2
  scope : BitVec 2
  op : LocalOp
deriving DecidableEq, Repr

/-- A sector fill in flight (R94, R238). -/
structure Fill where
  sector : Nat
  entry : Nat
  /-- the source, and the context that touched -/
  va : BitVec 64
  ctx : Nat
  /-- what touched it (R95) -/
  who : Toucher
  /-- the packet that reads it -/
  flight : Nat
deriving DecidableEq, Repr

/-- A tag-table entry (R86). -/
structure TagEntry where
  valid : Bool
  tag : BitVec 49
deriving DecidableEq, Repr

/-- A region-table entry (R90): sector states are 0 absent, 1 filling, 2 present. -/
structure RegionEntry where
  valid : Bool
  start : Nat
  len : Nat
  src : BitVec 64
  states : SMap Nat
deriving DecidableEq, Repr

/-- A TLB entry: a valid leaf (R331, R332) and how its page was reached. -/
structure TlbEntry where
  /-- first virtual address of the page, log2 of its size -/
  va : Nat
  lg : Nat
  frame : Nat
  key : Nat
  r : Bool
  w : Bool
  x : Bool
  u : Bool
  g : Bool
  wch : Bool
  mig : Bool
  dirty : Bool
deriving DecidableEq, Repr

/-- Operations the vector engine executes (R192 to R207, R224). -/
inductive VOp where
  | vld | vlds | vldx | vst | vsts | vstx
  | vaddI | vsubI | vmulI | vminI | vmaxI | vand | vor | vxor | vshl | vshr | vsra
  | vshlImm | vshrImm | vsraImm
  | vaddF | vsubF | vmulF | vfmaF | vfnmaF | vminF | vmaxF | vabsF | vnegF | vdivF | vsqrtF
  | vrcpF | vrsqF | vexp2F | vlog2F | vfmaBf | vcvt | vsplit | vquant | vdequant | vrnsTo | vrnsFrom
  | vcmpEq | vcmpLt | vcmpLe | vcmpFlt | vcmpFle | vcmpFun | vsel
  | vmand | vmor | vmxor | vmnot | vmpop
  | vbcast | vmovx | vmovv | viota | vperm | vrot | vzip | vunzip | vmov
  | vredAddF | vredAddI | vredMinF | vredMaxF | vredMinI | vredMaxI | vscanAddI | vscanAddF | vcmul
  | mxrd | mxwr
deriving DecidableEq, Repr

/-- Everything an engine command captures at its issue besides its own fields (R13, R182, R180). -/
structure Captured where
  id : Nat
  ctx : Nat
  level : Level
  rmode : BitVec 16
  fenable : BitVec 5
  pc : BitVec 64
  iword : BitVec 96
  /-- exception key (R182) -/
  key : BitVec 64
  /-- the issuing thread's slug, none once that thread has ended -/
  slug : Option (BitVec 64)
  region : BitVec 24
deriving DecidableEq, Repr

/-- A queued vector instruction (R188): its operand numbers within the window and the values it captured. -/
structure VCmd where
  cap : Captured
  op : VOp
  d : BitVec 8
  a : BitVec 8
  b : BitVec 8
  /-- captured scalar operands: base address or value, and stride, count or control word -/
  va : BitVec 64
  vb : BitVec 64
  space : BitVec 2
  vl : BitVec 6
  msel : BitVec 3
  win : BitVec 8
  xbase : Nat
  vbase : Nat
  /-- completion signal: semaphore and increment (R29) -/
  sig : Option (BitVec 8 × Nat)
deriving DecidableEq, Repr

/-- One contiguous part of an engine's row or sector, where it lies. -/
inductive Piece where
  | here (sp off n : Nat)
  | mem (va pa n slot : Nat) (dest : Dest) (route : BitVec 128) (watched : Bool)
  /-- the tile store of another tile -/
  | there (tile off n : Nat) (route : BitVec 128)
  /-- the matrix queue window of a tile (R223) -/
  | window (tile : Nat)
deriving DecidableEq, Repr

/-- A queued or running matrix command (R210, R222). -/
structure MCmd where
  cap : Captured
  /-- the 64-byte record, rprog included -/
  bits : BitVec 512
  /-- captured generator step (R177) -/
  gen : BitVec 64
  waited : Bool
  started : Bool
  /-- the next row latches the weights of its k-block first: at the start, after a fault's reply, after a pre-emption (R221, R222) -/
  fresh : Bool
  /-- stopped by a page fault that awaits its reply -/
  stopped : Bool
  /-- counted on its barrier object at issue -/
  counted : Bool
  flags : BitVec 5
  range : Bool
  low : Option Nat
  sig : Option (BitVec 8 × Nat)
  /-- the row in progress: its parts once its reads have left, and what has come back, by part -/
  asked : Option (List (List Piece))
  got : SMap (List Byte)
  /-- an access of the row has been refused: status code and row with which it ends once its other accesses are over -/
  failed : Option (Nat × Nat)
deriving DecidableEq, Repr

/-- A copy sector in flight: its number, its source, its destination, and the scales of a QUANT (R228, R230). -/
structure Sect where
  n : Nat
  src : List Piece
  dst : List Piece
  aux : List Piece
  /-- what its reads have brought, by part of the source -/
  got : SMap (List Byte)
  /-- its writes have left -/
  sent : Bool
deriving DecidableEq, Repr

/-- A unit saved by copy-on-write or changed since the last proof (R374, R375): kind 0 tile store, 1 scratchpad,
2 frame; tile key and unit number, or the frame's virtual page. -/
structure PUnit where
  kind : Nat
  tile : Nat
  unit : Nat
  /-- pool address of the saved copy -/
  pool : Nat
  sent : Bool
deriving DecidableEq, Repr

/-- A queued or running copy command (R227, R230, R232). -/
structure CCmd where
  cap : Captured
  bits : BitVec 512
  /-- the SR generator as it stands before sector `base` -/
  gen : BitVec 64
  base : Nat
  srcRoute : BitVec 128
  dstRoute : BitVec 128
  waited : Bool
  started : Bool
  stopped : Bool
  counted : Bool
  /-- the remote insec add is on its way; it has been applied (R230) -/
  rwait : Bool
  radd : Bool
  /-- units that a PROOFSTREAM sends (R375) -/
  units : List PUnit
  /-- next sector to issue, sectors performed, sectors in flight -/
  next : Nat
  done : Nat
  flying : List Sect
  /-- the row whose index entry was read last, and the entry (R228) -/
  index : Option (Nat × Nat)
  /-- what earlier sectors of the command have overwritten: place and address, with the byte that stood there (R228) -/
  olds : List ((Nat × Nat) × Byte)
  /-- N, fixed at issue (R230, R375) -/
  total : Nat
  /-- ended early with this status code and sector -/
  ended : Option (BitVec 8 × Nat)
  flags : BitVec 5
  low : Option Nat
  sig : Option (BitVec 8 × Nat)
deriving DecidableEq, Repr

/-- Matrix engine state (R208). Elements are FP32 patterns, or rns25 containers in RNS mode. -/
structure MxState where
  /-- element (acc × 16 + row) × 16 + column -/
  acc : SMap (BitVec 32)
  rns : BitVec 4
  /-- acc × 16 + row -/
  pcount : SMap Nat
  /-- row × 16 + column -/
  latch : SMap (BitVec 16)
  latchFmt : BitVec 4
  gate : BitVec 24
  /-- gate value that the next idle period takes (R226) -/
  gateNext : BitVec 24
  gated : Bool
  idleFrom : BitVec 64
deriving DecidableEq, Repr

/-- Who waits on a barrier object of a tile (R138): a context, by its tile and number, that waited there when it ran on the tile; or a
remote access. -/
structure BarWaiter where
  off : Nat
  ctx : Option Nat
  flight : Nat
deriving DecidableEq, Repr

/-- A tile's arrival at a tree in the current generation (R156 to R158). -/
structure Arrival where
  ctxs : BitVec 4
  ss : BitVec 4
  time : BitVec 64
deriving DecidableEq, Repr

/-- The trace unit (R384). -/
structure Trace where
  on : Bool
  byM : Bool
  kinds : BitVec 3
  base : BitVec 64
  lg : Nat
  pos : Nat
  /-- the microsecond of the last record of kind 2, plus 1 -/
  last : Nat
  /-- records not yet stored, oldest first, at most 32 -/
  buf : List (BitVec 128)
  lost : Bool
deriving DecidableEq, Repr

/-- An access that is held under MIG (R112, R334): the lookup path, the context and the pc of its instruction (context 8 for an engine
and a fill), and the page. -/
structure MigHold where
  path : Nat
  ctx : Nat
  pc : BitVec 64
  va : Nat
  lg : Nat
  g : Bool
deriving DecidableEq, Repr

/-- A packet that waits for a context of a stopped tile (R383). -/
inductive StopPacket where
  /-- an event message, by its name -/
  | event (id : Nat)
  /-- a message for the mailbox of a forme, a turn notice among them: its 64 bytes -/
  | mail (forme : Nat) (body : BitVec 512)
  /-- a fault reply, the tile and context whose `mbxr` waits for its status, its target word and its address -/
  | reply (tile ctx : Nat) (target addr : BitVec 64)
deriving DecidableEq, Repr

/-- One logical tile. Contexts 0 to 3 are the tile's. Slots 4 to 7 keep what the accesses of the last ended thread of
a context still need; slots from 8 on keep pre-empted threads (slot mod 4 is the context they ran on). -/
structure Tile where
  ctxs : SMap Ctx
  xr : SMap (BitVec 64)
  vr : SMap (BitVec 1024)
  xPoison : List Nat
  vPoison : List Nat
  sems : SMap (BitVec 16)
  tagbits : BitVec 64
  tagerr : BitVec 64
  tagOut : SMap Nat
  tagst : SMap (BitVec 32)
  pad : Memory
  store : Memory
  /-- gtime of the last signal of a semaphore and of the last completion of a tag (R110, clearance mark) -/
  semTime : SMap (BitVec 48)
  tagTime : SMap (BitVec 48)
  /-- gtime at which an object's last phase completed, by offset -/
  barTime : SMap (BitVec 48)
  /-- marks of releases to tile memory, by space × 2^20 + offset / 4 (R104) -/
  marks : SMap (List Mark)
  padPoison : List Nat
  storePoison : List Nat
  padWritten : List Nat
  storeWritten : List Nat
  icache : SMap (Option (BitVec 96))
  itlb : List TlbEntry
  dtlb : List TlbEntry
  mtlb : List TlbEntry
  ctlb : List TlbEntry
  ptr : BitVec 2
  /-- contexts that yield in the clock after the last one (R65); plus 4 while the clock in which the `yield` issues lasts -/
  avoid : List Nat
  /-- gtime of the last clock in which a context issued (R65) -/
  clk : BitVec 64
  tagTab : SMap TagEntry
  regTab : SMap RegionEntry
  fills : List Fill
  waiters : List Waiter
  vq : List VCmd
  mq : List MCmd
  cq : List CCmd
  mx : MxState
  barWait : List BarWaiter
  /-- objects of which no update of the present generation has been applied (R138) -/
  barFresh : List Nat
  parts : SMap (BitVec 4)
  /-- sets that apply from the tree's next generation (R364) -/
  partsNext : SMap (BitVec 4)
  arrivals : SMap Arrival
  /-- scratchpad offsets for the imbalance records, tree × 1,024 + context or slot (R157) -/
  recOff : SMap (Option Nat)
  sdbg : Bool
  stile : Bool
  bps : SMap (BitVec 64)
  wps : SMap (BitVec 64)
  /-- stop area: packets that wait for a context of this tile, in order of arrival (R383) -/
  stopArea : List StopPacket
  trace : Trace
  /-- accesses held under MIG, until a `tlbi` drops their page (R334) -/
  migHeld : List MigHold
  /-- queued commands of pre-empted threads, by the slot that keeps the thread (R336); of vector instructions, the accumulator moves -/
  vqOff : List VCmd
  mqOff : List MCmd
  cqOff : List CCmd
  fenced : Bool
  /-- checked mode in force on this tile since its last routine start (R337, R370) -/
  checked : Bool
deriving DecidableEq, Repr

/-- A line of the event unit (R152). -/
structure EvLine where
  expected : Nat
  count : Nat
  gen : Bool
  holder : Option Nat
  queue : List Nat
  abandoned : Bool
  latch : Bool
  /-- gtime of the last signal, release or completion (R110, clearance mark) -/
  time : BitVec 48
deriving DecidableEq, Repr

/-- A region of the neighbourhood tracker (R335), most recently faulted last. -/
structure TrackRegion where
  base : Nat
  span : Nat
  resident : BitVec 32
deriving DecidableEq, Repr

/-- One cluster. -/
structure Cluster where
  lines : SMap EvLine
  ebud : Nat
  ibud : Nat
  ebudNext : Option Nat
  ibudNext : Option Nat
  eRem : Int
  /-- Eb as the present interval took it: halved at throttle level 2 (R381) -/
  eFull : Nat
  iUsed : Nat
  /-- gtime of the last reload of the energy budget (R315) -/
  reloaded : BitVec 64
  lastServed : SMap Nat
  l2 : List TlbEntry
  tracker : List TrackRegion
  counters : SMap Counter
  hyst : BitVec 8
  t1 : BitVec 10
  t2 : BitVec 10
  t3 : BitVec 10
  lev : Nat
  levFrom : BitVec 64
  temp : BitVec 10
  volt : BitVec 14
  osc : BitVec 16
deriving DecidableEq, Repr

/-- A version of an anchored or ingress row (R275, R278). -/
structure Row where
  route : BitVec 128
  tag : BitVec 32
  valid : Bool
deriving DecidableEq, Repr

/-- A message posted to a mailbox: it is there once every access of its source below `after` has performed (R325). -/
structure Msg where
  body : BitVec 512
  src : Nat
  ctx : Nat
  after : Nat
  /-- it has arrived; those that have stand first, in order of arrival -/
  here : Bool := false
deriving DecidableEq, Repr

/-- A ring entry (R310): its place in the ring, and the pusher whose release the pop acquires (R308). -/
structure Entry where
  addr : BitVec 64
  resume : Bool
  slot : Nat
  mark : Option Mark
deriving DecidableEq, Repr

/-- A push on its way to a galley's controller, in order of arrival (R311). -/
structure Push where
  addr : BitVec 64
  src : Nat
  ctx : Nat
  /-- accesses of the source below this have performed before it can be popped (R68) -/
  after : Nat
  /-- the context whose `launch` waits for ring room -/
  launcher : Bool
  /-- the store held at its home slice until the push is applied (R311) -/
  flight : Option Nat
  /-- what the pusher's release leaves for the pop (R308) -/
  mark : Option Mark
deriving DecidableEq, Repr

/-- One galley (R310 to R312). -/
structure Galley where
  read : Bool
  ring : BitVec 64
  kind : Nat
  dcur : Nat
  dnrg : Nat
  serve : BitVec 64
  /-- four FIFOs, by priority -/
  fifo : SMap (List Entry)
  pushes : List Push
  /-- threads popped and not finished (b0 of R313) -/
  live : Nat
  /-- faults posted and unanswered, oldest first: 0 to 3 the head of that priority, 4 the oldest push -/
  stuck : List Nat
deriving DecidableEq, Repr

/-- A running indexed launch, as the distributor of one forme holds it (R318 to R320). -/
structure Launch where
  record : BitVec 64
  /-- galley of kind 2 that its record was pushed to -/
  galley : Nat
  /-- instances considered so far (deterministic) or written of the present chunks (dynamic) -/
  next : Nat
  /-- instances written by this distributor, and those of them that have finished -/
  written : Nat
  finished : List Nat
  /-- chunks this die holds and has not reported, oldest first -/
  chunks : List Nat
  /-- master: chunks handed out, reported, and to be handed out again -/
  handed : Nat
  reported : List Nat
  redo : List Nat
  /-- chunks or instances are lost: the launch ends with status 2 -/
  lost : Bool
  /-- no further instance is written -/
  abandoned : Bool
  /-- a fault of this distributor is posted and unanswered -/
  stuck : Bool
  /-- gtime of the last chunk that it was handed, plus 1: of the requests of one cycle each is served once (R320) -/
  asked : Nat := 0
  /-- the status is written, and the join of succ is left (R318): the whole of it, or the push alone -/
  joining : Option Bool := none
deriving DecidableEq, Repr

/-- A pending turn notice (R293, R294). -/
structure Notice where
  tnext : BitVec 64
  tturn : BitVec 64
  ack : Bool
  /-- bit 0 of the flags it was sent with (R293, R300) -/
  split : Bool
deriving DecidableEq, Repr

/-- One forme of an owner, with what the die that holds it keeps for it. -/
structure Forme where
  svloc : BitVec 32
  mailbox : List Msg
  galleys : SMap Galley
  wdog : SMap (BitVec 64)
  anch : SMap Row
  shadow : SMap Row
  notice : Option Notice
  /-- launches held while a scrub runs (R338, R358) -/
  held : Bool
  /-- scrubs under way: a tile of the forme, or 1,024 for the whole die (R338) -/
  scrubs : List Nat
  launches : List Launch
  /-- the die is fenced for chunk distribution (R320, R359) -/
  lost : Bool
deriving DecidableEq, Repr

/-- An enabled exception of a collection window (R180 to R182). -/
structure FpExc where
  key : BitVec 64
  tile : Nat
  ctx : Nat
  pc : BitVec 64
  iword : BitVec 96
  gtime : BitVec 64
  cyc : BitVec 64
  index : Nat
  engine : Nat
  flags : BitVec 5
  /-- its context is a gang's member (R325) -/
  gang : Bool
deriving DecidableEq, Repr

/-- A collection window (R181): the exceptions collected, once reported awaiting its reply. -/
structure FpWindow where
  opened : BitVec 64
  excs : List FpExc
  /-- contexts that loaded an image with a stop of this window: tile and context -/
  also : List (Nat × Nat)
  /-- the tile, context and source that its report names, once it is reported -/
  reported : Option (Nat × Nat × Nat)
deriving DecidableEq, Repr

/-- What a complete proof holds besides memory (R373). -/
structure Snap where
  number : BitVec 32
  sstep : BitVec 64
  heads : List (Nat × Nat × Nat × List Entry)
  cells : List (Nat × Nat × BitVec 2 × BitVec 64)
  /-- of each tile, the barrier objects of which no update of the generation had been applied (R138) -/
  fresh : List (Nat × List Nat)
deriving DecidableEq, Repr

/-- The proof state of an owner (R372 to R376). State codes as in Table 4; `live` is false before the first. -/
structure Proof where
  live : Bool
  number : BitVec 32
  state : BitVec 8
  sstep : BitVec 64
  used : Nat
  pending : Nat
  /-- first writes copy (R374): from the taking of a proof until one is abandoned -/
  copying : Bool
  /-- copies saved since the proof was taken -/
  saved : List PUnit
  /-- copies saved between the latest complete proof and the taking of this one -/
  older : List PUnit
  /-- units written since the previous proof, to be streamed -/
  changed : List PUnit
  /-- units written since this proof -/
  dirty : List PUnit
  /-- heads of the galleys and the repair cells at the proof -/
  heads : List (Nat × Nat × Nat × List Entry)
  cells : List (Nat × Nat × BitVec 2 × BitVec 64)
  fresh : List (Nat × List Nat)
  /-- a further proof is armed while this one is not complete -/
  queued : Bool
  /-- the latest complete proof -/
  complete : Option Snap
deriving DecidableEq, Repr

/-- One owner. -/
structure Owner where
  live : Bool
  formes : Nat
  ptbase : BitVec 64
  galb : BitVec 64
  plogb : BitVec 64
  plogn : BitVec 5
  plogi : Nat
  defmode : BitVec 21
  pfctl : BitVec 16
  ckmode : Bool
  stkcfg : BitVec 60
  jobseed : BitVec 64
  sstep : BitVec 64
  turnSet : BitVec 8
  /-- gateway × 208 + row -/
  ingress : SMap Row
  ingressShadow : SMap Row
  windows : List FpWindow
  proof : Proof
  /-- watermarks on their way to the slices (R158): slice and value -/
  wmarks : List (Nat × Nat)
  /-- the context that saved an image with `ctxsv`, by slug address (R336) -/
  savers : SMap Nat
deriving DecidableEq, Repr

/-- A repair cell (R124). -/
structure Cell where
  kind : BitVec 2
  base : BitVec 64
  owner : Nat
  hist : List (BitVec 64 × BitVec 64)
  lastfold : Option (BitVec 64)
deriving DecidableEq, Repr

/-- Who accessed a watched line (R110). -/
structure Party where
  ltile : BitVec 16
  ctx : BitVec 2
  region : BitVec 24
  time : BitVec 48
deriving DecidableEq, Repr

/-- A line record (R110). -/
structure LineRec where
  owner : Nat
  writer : Option Party
  readers : List Party
  shared : Bool
  late : BitVec 48
deriving DecidableEq, Repr

/-- One home slice. -/
structure Slice where
  cells : SMap (Option Cell)
  wmark : SMap Nat
  dups : SMap (BitVec 32)
  ovf : SMap (BitVec 32)
  lines : SMap (Option LineRec)
  /-- marks of releases, by address / 4 (R104) -/
  marks : SMap (List Mark)
deriving DecidableEq, Repr

/-- An encryption key slot (R362, R363). -/
structure KeySlot where
  loaded : Bool
  owner : Nat
  holder : Option Nat
  data : BitVec 256
  tweak : BitVec 256
deriving DecidableEq, Repr

/-- A die-link module (R282 to R284). -/
structure Link where
  expect : Nat
  corrected : Nat
  narrow : Bool
  retraining : Bool
  /-- the retraining in progress began before T_turn (R292) -/
  early : Bool
deriving DecidableEq, Repr

/-- Where the module stands in a turn (R292). -/
inductive TurnPhase where
  | none | notice | quiesce | shift
deriving DecidableEq, Repr

/-- The turn sequencers (R291 to R302). -/
structure Turn where
  phase : TurnPhase
  /-- interval and lead, in µs -/
  interval : BitVec 32
  lead : BitVec 16
  /-- T_turn of the previous turn, and of the pause in force -/
  last : BitVec 64
  tturn : BitVec 64
  /-- pause without a shift (pkind 1) -/
  noShift : Bool
  rounds : Nat
  /-- width degrades granted in this pause, and retrainings that overlapped its shift (R292, R302) -/
  retrains : Nat
  overlaps : Nat
  /-- gtime of the last change of the interval (R291) -/
  changed : BitVec 64
  tstop : BitVec 64
  tdrain : BitVec 64
  tshift : BitVec 64
deriving DecidableEq, Repr

/-- A discovery packet on its way through a die (R350): its table and barrier, and the sites that have answered. -/
structure Flood where
  dtab : Nat
  dbar : Nat
  answered : List Nat
  /-- sites whose answer word is stored and whose arrival is still to come (R351) -/
  arriving : List Nat
deriving DecidableEq, Repr

/-- A die: what stays with it through turns. -/
structure Die where
  dstat : BitVec 32
  mown : BitVec 6
  linkthr : BitVec 32
  /-- mailbox of its management tile (R324) -/
  mailbox : List Msg
  powered : BitVec 64
  imageOk : Bool
  fencedSites : List Nat
  floods : List Flood
deriving DecidableEq, Repr

/-- A request of the host that waits for scrubs or for a pause (R358). -/
structure Pending where
  req : BitVec 512
  /-- formes that are scrubbed for it, as firmware's -/
  formes : List Nat
  /-- beds that change owner, from their pause on (R356) -/
  beds : BitVec 64
  /-- 0 scrubbing before the pause, 1 waiting for the pause, 2 scrubbing what was given up, 3 its key slots wait for accesses (R363) -/
  stage : Nat
  tpause : BitVec 64
deriving DecidableEq, Repr

/-- A read of the host through its memory window (R345): the pieces not yet back, and the bytes so far. -/
structure WindowRead where
  name : Nat
  left : Nat
  data : BitVec 512
deriving DecidableEq, Repr

/-- The Benez gateway's registers and the boot state (R342 to R346). -/
structure HostPort where
  phase : BitVec 8
  fcode : BitVec 8
  fdie : BitVec 6
  hovf : Bool
  werr : Bool
  bootaddr : BitVec 64
  goHeld : Bool
  goDone : Bool
  winbase : BitVec 64
  winkey : BitVec 64
  hmsg : BitVec 512
  hqueue : List (BitVec 512)
  dmsg : BitVec 512
  ddoor : Bool
  /-- posts of M that wait for ddoor (R346) -/
  dwait : List (BitVec 512)
  csel : BitVec 64
  /-- the answer of the last read through the window or the control block -/
  rdata : BitVec 512
  /-- reads through the window that are not complete -/
  reads : List WindowRead
  meas : BitVec 384
  /-- version of the image and digest of its public key, which every corner checks against its die's fuses (R341, R342) -/
  imgVersion : BitVec 32
  imgDigest : BitVec 384
  pending : List Pending
deriving DecidableEq, Repr

/-- What moves next in the model's run (log 1): a step of the table, the issue of one context, or time alone. -/
inductive Action where
  | op (i : Instr)
  | issue (tile ctx : Nat)
  /-- the same, in one clock with these steps of the tile's engines (R30) -/
  | clock (tile ctx : Nat) (engines : List Instr)
  | tick (n : Nat)
  /-- a packet of another module enters at a Zeltin gateway, for an owner (R278) -/
  | inbound (gate owner slot : Nat) (dest : Dest) (addr : Nat) (op : MemOp)
  /-- M sets the host window, in answer to a host message (R345) -/
  | window (base key : BitVec 64)
  /-- a packet of a reserved type arrives over a die-link module (R263) -/
  | stray (link : Nat)
deriving DecidableEq, Repr

/-- The module. -/
structure State where
  gtime : BitVec 64
  turns : BitVec 64
  mem : Memory
  memPoison : List Nat
  tiles : SMap Tile
  clusters : SMap Cluster
  formes : SMap Forme
  owners : SMap Owner
  slices : SMap Slice
  dies : SMap Die
  links : SMap Link
  imap : SMap (BitVec 64)
  imapNext : SMap (BitVec 64)
  circOk : BitVec 64
  circOkNext : BitVec 64
  modSet : BitVec 8
  trees : SMap (Option Nat)
  keys : SMap KeySlot
  /-- the keys that each 64-byte line of module memory is encrypted under (R362): tweak key above data key; none for a line that
  nothing has written -/
  lineKeys : SMap (Option (BitVec 512))
  flights : List Flight
  turn : Turn
  host : HostPort
  /-- machine-level events that M receives (R301, R317), oldest first: a code and a value -/
  mEvents : List (Nat × Nat)
  /-- boot mode: from module reset to the release of g61 (R349) -/
  boot : Bool
  /-- the context that moves: tile key and context number -/
  cur : Nat
  curCtx : Nat
  /-- the word the current context executes, and its pc, for fault messages -/
  iword : BitVec 96
  /-- the model's own: the name that the next access takes (an instruction that waits for something else is armed under 0), free
  values drawn so far, and who moves next -/
  nextId : Nat
  free : Nat
  agenda : List Action
deriving DecidableEq, Repr

/-- Why the machine stops. The spec never stops the module, so no instruction raises these. -/
inductive Fault where
  /-- raised by nothing in the model: kept so that the type is not empty; safe -/
  | stuck
deriving DecidableEq, Repr

/-- Why an instruction has no meaning. -/
inductive Refusal where
  /-- the instruction has not been given its meaning yet; raised by its arm of `exec`; safe -/
  | notModelled (mnemonic : String)
deriving DecidableEq, Repr

/-- The outcome of one step. -/
abbrev Out := Host.Outcome State Fault Refusal

/-! ### Reset -/

def Regs.reset : Regs :=
  { pc := 0, ln := 0, lc := 0, lcstk := [], slim := 0, rmode := 0, fflags := 0, fenable := 0, srstate := 1,
    vl := 32, msel := 0, ire := 0, seq := 0, preds := 0, vms := [], win := 0, xbase := 0, vbase := 0 }

def Sync.reset : Sync :=
  { rts := [], rtck := 0, members := [], fences := [], fserial := 0, region := 0, clear := [], evicted := [],
    cmark := 0, eord := 0, twinCtr := 0, acq := none, fenced := [], seen := [] }

def Counter.reset : Counter := { claimed := false, byM := false, event := 0, enabled := false, value := 0, since := 0 }

def Fence.reset : Fence := { serial := 0, used := false, upto := 0, ld := false, st := false, eng := false, scope := 0, lapsed := false }

def Sched.reset : Sched :=
  { run := .idle, level := .m, phase := .fresh, preJoin := none, waitOn := .nothing, slug := none, runAcc := 0, runFrom := none, blkAcc := 0,
    blkFrom := none, wdNext := none, wdStop := none, prior := 0, wd1 := false, saving := false, fault := none, held := [], fpStop := false,
    gang := none, counters := [], why := 0, stopReq := false, issued := 0, stopAt := 0,
    stepping := false, passDebug := 0, twinStop := false, twinIre := false, barred := false, dying := none }

def Ctx.reset : Ctx := { r := .reset, y := .reset, c := .reset }

def TagEntry.reset : TagEntry := { valid := false, tag := 0 }
def RegionEntry.reset : RegionEntry := { valid := false, start := 0, len := 0, src := 0, states := [] }
def MxState.reset : MxState :=
  { acc := [], rns := 0, pcount := [], latch := [], latchFmt := 0, gate := 10000, gateNext := 10000, gated := false, idleFrom := 0 }
def Arrival.reset : Arrival := { ctxs := 0, ss := 0, time := 0 }
def Trace.reset : Trace :=
  { on := false, byM := false, kinds := 0, base := 0, lg := 0, pos := 0, last := 0, buf := [], lost := false }

def Tile.reset : Tile :=
  { ctxs := [], xr := [], vr := [], xPoison := [], vPoison := [], sems := [], tagbits := 0, tagerr := 0,
    tagOut := [], tagst := [], semTime := [], tagTime := [], barTime := [], marks := [], pad := [], store := [], padPoison := [], storePoison := [], padWritten := [],
    storeWritten := [], icache := [], itlb := [], dtlb := [], mtlb := [], ctlb := [], ptr := 0, avoid := [], clk := 0,
    tagTab := [], regTab := [], fills := [], waiters := [], vq := [], mq := [], cq := [], mx := .reset,
    barWait := [], barFresh := [], parts := [], partsNext := [], arrivals := [], recOff := [], sdbg := false, stile := false,
    bps := [], wps := [], stopArea := [], trace := .reset, migHeld := [], vqOff := [], mqOff := [], cqOff := [], fenced := false,
    checked := false }

def EvLine.reset : EvLine :=
  { expected := 1, count := 0, gen := false, holder := none, queue := [], abandoned := false, latch := false, time := 0 }

def Cluster.reset : Cluster :=
  { lines := [], ebud := 3222, ibud := 137, ebudNext := none, ibudNext := none, eRem := 3222, eFull := 3222, iUsed := 0, reloaded := 0,
    lastServed := [], l2 := [], tracker := [], counters := [], hyst := 12, t1 := 380, t2 := 400, t3 := 420,
    lev := 0, levFrom := 0, temp := 0, volt := 0, osc := 0 }

def Row.reset : Row := { route := 0, tag := 0, valid := false }

def Galley.reset : Galley :=
  { read := false, ring := 0, kind := 0, dcur := 0, dnrg := 0, serve := 0, fifo := [], pushes := [], live := 0,
    stuck := [] }

def Forme.reset : Forme :=
  { svloc := 0, mailbox := [], galleys := [], wdog := [], anch := [], shadow := [], notice := none, held := false, scrubs := [],
    launches := [], lost := false }

def Proof.reset : Proof :=
  { live := false, number := 0, state := 0, sstep := 0, used := 0, pending := 0, copying := false, saved := [], older := [], changed := [],
    dirty := [], heads := [], cells := [], fresh := [], queued := false, complete := none }

def Owner.reset : Owner :=
  { live := false, formes := 0, ptbase := 0, galb := 0, plogb := 0, plogn := 0, plogi := 0, defmode := 0,
    pfctl := 0x8016, ckmode := false, stkcfg := 0x0040000400044000, jobseed := 0, sstep := 0, turnSet := 0xEB,
    ingress := [], ingressShadow := [], windows := [], proof := .reset, wmarks := [], savers := [] }

def Slice.reset : Slice := { cells := [], wmark := [], dups := [], ovf := [], lines := [], marks := [] }
def KeySlot.reset : KeySlot := { loaded := false, owner := 0, holder := none, data := 0, tweak := 0 }
def Link.reset : Link := { expect := 0, corrected := 0, narrow := false, retraining := false, early := false }

def Turn.reset : Turn :=
  { phase := .none, interval := 1000000, lead := 1000, last := 0, tturn := 0, noShift := false, rounds := 0,
    retrains := 0, overlaps := 0, changed := 0, tstop := 0, tdrain := 0, tshift := 0 }

def Die.reset : Die :=
  { dstat := 0, mown := 0, linkthr := 4096, mailbox := [], powered := 0, imageOk := false, fencedSites := [], floods := [] }

def HostPort.reset : HostPort :=
  { phase := 0, fcode := 0, fdie := 0, hovf := false, werr := false, bootaddr := 0, goHeld := false,
    goDone := false, winbase := 0, winkey := 0, hmsg := 0, hqueue := [], dmsg := 0, ddoor := false, dwait := [],
    csel := 0, rdata := 0, reads := [], meas := 0, imgVersion := 0, imgDigest := 0, pending := [] }

/-- The number of the firmware owner in state keys; tenants are 0 to 63 (R323). -/
def firmware : Nat := 64

/-- The machine at the release of module reset (R340, R349): gtime 0, boot mode, nothing powered, no tenant. -/
def State.reset : State :=
  { gtime := 0, turns := 0, mem := [], memPoison := [], tiles := [], clusters := [], formes := [],
    owners := [(64, { Owner.reset with live := true, formes := 64 })], slices := [], dies := [], links := [],
    imap := [], imapNext := [], circOk := 0, circOkNext := 0, modSet := 0xEB, trees := [], keys := [], lineKeys := [],
    flights := [], turn := .reset, host := .reset, mEvents := [], boot := true, cur := 128 * 65536, curCtx := 0,
    iword := 0, nextId := 1, free := 0, agenda := [] }

end Sys2Proof.Machine
end

