-- ==== Sys2Proof/Machine/Ops.lean ====
section
/-! DEFINITION. The named operations over the state: reaching tiles, contexts and registers; names and places
(R5, R8, R9, R288); semaphores; outstanding accesses; taking a fault and going on after its reply (R323 to R328,
R395); and the next address (R31 to R33). -/

namespace Sys2Proof.Machine

/-! ### Reaching parts of the state -/

def State.tile (s : State) (k : Nat) : Tile := s.tiles.get .reset k
def State.setTile (s : State) (k : Nat) (t : Tile) : State := { s with tiles := s.tiles.set k t }
def State.updTile (s : State) (k : Nat) (f : Tile → Tile) : State := s.setTile k (f (s.tile k))
def State.ctx (s : State) (k c : Nat) : Ctx := (s.tile k).ctxs.get .reset c
def State.setCtx (s : State) (k c : Nat) (x : Ctx) : State :=
  s.updTile k fun t => { t with ctxs := t.ctxs.set c x }
def State.updCtx (s : State) (k c : Nat) (f : Ctx → Ctx) : State := s.setCtx k c (f (s.ctx k c))

/-- The context that moves, and updates of it. -/
def State.me (s : State) : Ctx := s.ctx s.cur s.curCtx
def State.myTile (s : State) : Tile := s.tile s.cur
def State.upd (s : State) (f : Ctx → Ctx) : State := s.updCtx s.cur s.curCtx f
def State.updR (s : State) (f : Regs → Regs) : State := s.upd fun x => { x with r := f x.r }
def State.updY (s : State) (f : Sync → Sync) : State := s.upd fun x => { x with y := f x.y }
def State.updC (s : State) (f : Sched → Sched) : State := s.upd fun x => { x with c := f x.c }
def State.updMyTile (s : State) (f : Tile → Tile) : State := s.updTile s.cur f

def State.cluster (s : State) (k : Nat) : Cluster := s.clusters.get .reset k
def State.updCluster (s : State) (k : Nat) (f : Cluster → Cluster) : State :=
  { s with clusters := s.clusters.set k (f (s.cluster k)) }
def State.forme (s : State) (k : Nat) : Forme := s.formes.get .reset k
def State.updForme (s : State) (k : Nat) (f : Forme → Forme) : State :=
  { s with formes := s.formes.set k (f (s.forme k)) }
def State.owner (s : State) (o : Nat) : Owner := s.owners.get .reset o
def State.updOwner (s : State) (o : Nat) (f : Owner → Owner) : State :=
  { s with owners := s.owners.set o (f (s.owner o)) }
def State.slice (s : State) (n : Nat) : Slice := s.slices.get .reset n
def State.updSlice (s : State) (n : Nat) (f : Slice → Slice) : State :=
  { s with slices := s.slices.set n (f (s.slice n)) }
def State.die (s : State) (n : Nat) : Die := s.dies.get .reset n
def State.updDie (s : State) (n : Nat) (f : Die → Die) : State :=
  { s with dies := s.dies.set n (f (s.die n)) }

/-! ### Names (R5, R8, R9, R349) -/

/-- First state key of boot mode. -/
def bootBase : Nat := 128 * 65536

/-- First source key of inbound packets of gateways: no tile has it (R278). -/
def gateBase : Nat := 256 * 65536

/-- The owner a tile belongs to; in boot mode every tile is the firmware's. -/
def ownerOf (k : Nat) : Nat := if bootBase ≤ k then firmware else k / 65536
/-- `ltile` as the tile itself reads it outside checked mode (R5); the physical site in boot mode (R349). -/
def ltileOf (k : Nat) : Nat := if bootBase ≤ k then (k - bootBase) % 1056 else k % 65536
def rowOf (k : Nat) : Nat := if bootBase ≤ k then ltileOf k / 33 else k % 1024 / 32
def colOf (k : Nat) : Nat := if bootBase ≤ k then ltileOf k % 33 else k % 32
/-- Forme of a tile. In boot mode the die stands for it. -/
def formeOf (k : Nat) : Nat := if bootBase ≤ k then (k - bootBase) / 1056 else k % 65536 / 1024
def formeKey (k : Nat) : Nat := ownerOf k * 64 + formeOf k
/-- Number of a tile's cluster within its forme (R8); the 33rd physical column of a row goes with the eighth (log 18). -/
def clusterIn (k : Nat) : Nat := (rowOf k / 4) * 8 + min (colOf k / 4) 7
def clusterKey (k : Nat) : Nat := formeKey k * 64 + clusterIn k
/-- `clus`: the cluster within the owner (R8); the die number in boot mode (R349). -/
def clusOf (k : Nat) : Nat := if bootBase ≤ k then formeOf k else formeOf k * 64 + clusterIn k
/-- Tile key of a logical tile of an owner. -/
def tileKey (o lt : Nat) : Nat := o * 65536 + lt
/-- The first tile of a checked pair: row < 16 (R370). -/
def firstTwin (k : Nat) : Nat := if rowOf k < 16 then k else k - 512
/-- The other tile of a checked pair. -/
def otherTwin (k : Nat) : Nat := if rowOf k < 16 then k + 512 else k - 512

/-- A context, or the slot of a pre-empted thread, as waits name it. -/
def partyOf (k c : Nat) : Nat := k * 1024 + c

/-- An entry of the imposition map in force (R339). -/
def State.map (s : State) (table index : Nat) : BitVec 64 := s.imap.get 0 (table * 4096 + index)
/-- The table-0 entry of a forme of an owner (R358). -/
def bedEntry (o f : Nat) : Nat := if o = firmware then 4096 + 64 * f else o + 64 * f
/-- The bed on which a forme lies (R339, table 0). -/
def State.bedOf (s : State) (o f : Nat) : Option Nat :=
  findFrom (fun b => (s.map 0 b).toNat == bedEntry o f) 64 0
/-- The die that holds a tile. -/
def State.dieOf (s : State) (k : Nat) : Nat :=
  if bootBase ≤ k then formeOf k else (s.bedOf (ownerOf k) (formeOf k)).getD 0

/-- `cyc` of a tile: cycles of the clock of the physical cluster it lies on (R10). -/
def State.cyc (s : State) (k : Nat) : BitVec 64 := Config.cycles (s.dieOf k) (clusterIn k) s.gtime

/-- `ltile` and `clus` as read by code: in checked mode both tiles read the first tile's (R370). -/
def State.ltileRead (s : State) (k : Nat) : Nat := if (s.tile k).checked then ltileOf (firstTwin k) else ltileOf k
def State.clusRead (s : State) (k : Nat) : Nat := if (s.tile k).checked then clusOf (firstTwin k) else clusOf k

/-! ### Registers -/

/-- Sizes of the windows (R25). -/
def xWindow (win : BitVec 8) : Nat := 16 * 2 ^ bitsAt win.toNat 0 2
def vWindow (win : BitVec 8) : Nat :=
  match bitsAt win.toNat 2 3 with
  | 1 => 8
  | 2 => 16
  | 3 => 32
  | 4 => 64
  | _ => 0

/-- X(n) of the moving context: x0 reads 0 (R24). -/
def State.rx (s : State) (n : Nat) : BitVec 64 :=
  if n = 0 then 0 else s.myTile.xr.get 0 (s.me.r.xbase + n)
/-- Writes X(n); a write of x0 is discarded (R24). A whole-register write clears a poison mark (R367). -/
def State.wx (s : State) (n : Nat) (v : BitVec 64) : State :=
  if n = 0 then s
  else s.updMyTile fun t => { t with xr := t.xr.set (s.me.r.xbase + n) v,
                                     xPoison := t.xPoison.filter (· != s.me.r.xbase + n) }
/-- V(n). -/
def State.rv (s : State) (n : Nat) : BitVec 1024 := s.myTile.vr.get 0 (s.me.r.vbase + n)
/-- P(n): p0 reads true (R24). -/
def Regs.p (r : Regs) (n : Nat) : Bool := n == 0 || r.preds.getLsbD n
def Regs.setP (r : Regs) (n : Nat) (b : Bool) : Regs :=
  if n = 0 then r else { r with preds := BitVec.ofNat 8 (setBits r.preds.toNat n 1 (bit b)) }
/-- VM(n): vm0 reads all ones (R24). -/
def Regs.vm (r : Regs) (n : Nat) : BitVec 32 := if n = 0 then BitVec.allOnes 32 else r.vms.get 0 n
def Regs.setVm (r : Regs) (n : Nat) (v : BitVec 32) : Regs :=
  if n = 0 then r else { r with vms := r.vms.set n v }
def State.rp (s : State) (n : Nat) : Bool := s.me.r.p n
def State.wp (s : State) (n : Nat) (b : Bool) : State := s.updR (·.setP n b)

/-- S(n) of a tile. -/
def State.sem (s : State) (k n : Nat) : Nat := ((s.tile k).sems.get 0 n).toNat
def State.setSem (s : State) (k n v : Nat) : State :=
  s.updTile k fun t => { t with sems := t.sems.set n (BitVec.ofNat 16 v) }
/-- Adds to a semaphore, saturating at 0xFFFF; the answer says whether it did (R29). -/
def State.addSem (s : State) (k n i : Nat) : State × Bool :=
  let s := s.updTile k fun t => { t with semTime := t.semTime.set n (s.gtime.setWidth 48) }
  if s.sem k n + i > 0xFFFF then (s.setSem k n 0xFFFF, true) else (s.setSem k n (s.sem k n + i), false)

/-- A wait on a completion object passes (R110): the region number rises and the clearance mark becomes the time of
what completed it. -/
def Sync.passed (y : Sync) (t : BitVec 48) : Sync := { y with region := y.region + 1, cmark := t }
/-- A wait on semaphore n of the tile passes. -/
def State.passedSem (s : State) (n : Nat) : State := s.updY (·.passed (s.myTile.semTime.get 0 n))
/-- An acquire, a release or an SC access (R110). -/
def Sync.ordered (y : Sync) : Sync := { y with region := y.region + 1 }

/-- A fresh free value and the state whose counter it advances (log 5). -/
def State.draw (s : State) : BitVec 64 × State := (Config.freeWord s.free, { s with free := s.free + 1 })

/-! ### Outstanding accesses (R99, R102, R107) -/

/-- An access that has not performed. One that was applied has; a refused one never does, and counts until its refusal
has reached the context (log 26). -/
def Flight.isOpen (f : Flight) : Bool :=
  match f.stage with
  | .replying ok _ _ _ => !ok
  | _ => true
/-- The number under which fences count an access: one that was sent again keeps its first (R394). -/
def Flight.turn (f : Flight) : Nat := f.resent.getD f.id

/-- Engine commands of a context of a tile that have not completed, numbered below n. -/
def Tile.engOpen (t : Tile) (c n : Nat) : Bool :=
  t.vq.any (fun q => q.cap.ctx == c && decide (q.cap.id < n)) ||
  t.mq.any (fun q => q.cap.ctx == c && decide (q.cap.id < n)) ||
  t.cq.any (fun q => q.cap.ctx == c && decide (q.cap.id < n))

/-- Vector instructions of a context that have not completed. -/
def Tile.vecOpen (t : Tile) (c : Nat) : Bool := t.vq.any (fun q => q.cap.ctx == c)

/-- Accesses of a context numbered below n that have not performed; those of its engine commands count with the command. -/
def State.accOpen (s : State) (k c n : Nat) : Bool :=
  s.flights.any fun f => f.src == k && f.ctx == c && f.eng.isNone && decide (f.id < n) && f.isOpen

/-- Every access and engine command of a context numbered below n has performed (R99, R102). -/
def State.quiet (s : State) (k c n : Nat) : Bool := !s.accOpen k c n && !(s.tile k).engOpen c n

/-- A slot n holds what context c has issued, by its present thread or by an ended one: slot c + 4 keeps what that one left. -/
def ofCtx (c n : Nat) : Bool := n == c || (decide (c < 4) && n == c + 4)
/-- The accesses a fence slot covers have performed, those of the context's ended thread among them (R107, R163). -/
def State.fenceFree (s : State) (k c : Nat) (f : Fence) : Bool :=
  !f.used || f.lapsed ||
    (!(s.flights.any fun a => a.src == k && ofCtx c a.ctx && decide (a.turn < f.upto) && a.isOpen &&
        ((f.ld && a.isLoad) || (f.st && a.isStore))) &&
     !(f.eng && ((s.tile k).engOpen c f.upto || (decide (c < 4) && (s.tile k).engOpen (c + 4) f.upto))))

/-- A window-relative register of the moving context is awaited by a load or a vector instruction (R26, R189). -/
def State.busy (s : State) (n : Nat) : Bool :=
  let p := s.me.r.xbase + n
  s.flights.any (fun f => f.src == s.cur && f.ctx == s.curCtx &&
    (match f.ret with
     | .reg (some r) _ _ => r == p
     | .pair r => r == p || r + 1 == p
     | _ => false)) ||
  s.myTile.vq.any (fun q => q.cap.ctx == s.curCtx && n != 0 && q.d.toNat == n &&
    (match q.op with
     | .vmovx | .vmpop | .vredAddF | .vredAddI | .vredMinF | .vredMaxF | .vredMinI | .vredMaxI => true
     | _ => false))

/-! ### Time of a thread (R316, R317) -/

/-- Run time of a thread at the present gtime. -/
def State.runTime (s : State) (x : Ctx) : BitVec 64 :=
  match x.c.runFrom with
  | some f => x.c.runAcc + (s.gtime - f)
  | none => x.c.runAcc
/-- Watchdog time: run time and the time blocked on faults. -/
def State.wdTime (s : State) (x : Ctx) : BitVec 64 :=
  s.runTime x + (match x.c.blkFrom with | some f => x.c.blkAcc + (s.gtime - f) | none => x.c.blkAcc)

/-- Run time stops counting. -/
def Sched.stopRun (c : Sched) (now : BitVec 64) : Sched :=
  match c.runFrom with
  | some f => { c with runAcc := c.runAcc + (now - f), runFrom := none }
  | none => c
/-- Blocked time stops counting. -/
def Sched.stopBlk (c : Sched) (now : BitVec 64) : Sched :=
  match c.blkFrom with
  | some f => { c with blkAcc := c.blkAcc + (now - f), blkFrom := none }
  | none => c

/-! ### Faults (R323 to R328, R395) -/

/-- Replies as bits: all five, and the sets that Table 2 of R326 names. -/
def allowAll : BitVec 5 := 31
def allowRestartKill : BitVec 5 := 24
def allowRetryKill : BitVec 5 := 17
def allowSkipKill : BitVec 5 := 18
def allowSkipResumeKill : BitVec 5 := 22
def allowResumeKill : BitVec 5 := 20
def allowRetrySkipKill : BitVec 5 := 19
def allowData : BitVec 5 := 23
def allowRetryRestartKill : BitVec 5 := 25
def allowRetry : BitVec 5 := 1

/-- What an instruction says of a fault it raises; the rest of the message is the context's. -/
structure FaultArg where
  cause : Nat
  address : BitVec 64 := 0
  detail : BitVec 64 := 0
  allow : BitVec 5 := allowAll
  stamp : BitVec 64 := 0
  once : Bool := false
deriving DecidableEq, Repr

/-- The 64 bytes of a fault message (R325, Table 1). -/
def FaultRec.message (f : FaultRec) (ltile : Nat) : BitVec 512 :=
  BitVec.ofNat 512 (f.cause.toNat + f.src.toNat * 2 ^ 8 + ltile % 65536 * 2 ^ 16 + f.iword.toNat * 2 ^ 32 +
    f.pc.toNat * 2 ^ 128 + f.address.toNat * 2 ^ 192 + f.stamp.toNat * 2 ^ 256 + f.gtime.toNat * 2 ^ 320 +
    f.cyc.toNat * 2 ^ 384 + f.detail.toNat * 2 ^ 448)

/-- A mailbox: a forme's service core's, or a die's management tile's (R324). -/
inductive Box where
  | forme (k : Nat)
  | die (d : Nat)
deriving DecidableEq, Repr

/-! ### Sets of numbers as rising lists -/

def insNat : List Nat → Nat → List Nat
  | [], n => [n]
  | m :: r, n => if n < m then n :: m :: r else if n = m then m :: r else m :: insNat r n
/-- Adds n, n + 1, …, k of them. -/
def insRange (l : List Nat) (n k : Nat) : List Nat := foldUp insNat k n l
/-- Removes the numbers from n on, k of them. -/
def delRange (l : List Nat) (n k : Nat) : List Nat := l.filter fun m => decide (m < n) || decide (n + k ≤ m)

/-- The 8-byte units that [off, off + n) covers whole. -/
def wholeUnits (off n : Nat) : Nat × Nat := ((off + 7) / 8, (off + n) / 8 - (off + 7) / 8)

/-- Puts new contents into a tile memory with everything a write there does besides: written bits (R298), poison
cleared over whole units (R367), release marks ended (R104). -/
def Tile.put (t : Tile) (sp off n : Nat) (f : Memory → Memory) : Tile :=
  let (u, k) := wholeUnits off n
  let marks := if t.marks = [] then t.marks
    else t.marks.filter fun e => decide (e.1 < sp * 2 ^ 20 + off / 4) || decide (sp * 2 ^ 20 + (off + n + 3) / 4 ≤ e.1)
  let first := off / 256
  let cnt := (off + n + 255) / 256 - first
  if sp = 0 then { t with pad := f t.pad, padWritten := insRange t.padWritten first cnt,
                          padPoison := delRange t.padPoison u k, marks := marks }
  else { t with store := f t.store, storeWritten := insRange t.storeWritten first cnt,
                storePoison := delRange t.storePoison u k, marks := marks }

/-! ### Mailboxes and stop areas (R325, R383) -/

/-- The debug module has stopped a context: a thread's, or one without a thread (R379). -/
def Ctx.stopped (x : Ctx) : Bool := x.c.run == .debugStop || x.c.barred
/-- A context of the tile is stopped by the debug module. -/
def Tile.hasStop (t : Tile) : Bool := t.ctxs.any fun e => e.2.stopped
/-- Packets that a stop area holds (R383). -/
def stopRoom : Nat := 1024
/-- A packet joins the stop area of a tile (R383). -/
def State.toStop (s : State) (k : Nat) (p : StopPacket) : State := s.updTile k fun t => { t with stopArea := t.stopArea ++ [p] }

/-- A message may arrive: the accesses it follows have performed (R325). -/
def State.msgReady (s : State) (m : Msg) : Bool := !s.accOpen m.src m.ctx m.after && !s.accOpen m.src (m.ctx + 4) m.after
/-- The messages that arrive, at most so many, and those that do not, both in the order of their posting. -/
def takeReady (ready : Msg → Bool) : Nat → List Msg → List Msg × List Msg
  | _, [] => ([], [])
  | 0, l => ([], l)
  | n + 1, m :: r =>
    if ready m then let (a, b) := takeReady ready n r; ({ m with here := true } :: a, b)
    else let (a, b) := takeReady ready (n + 1) r; (a, m :: b)
/-- A mailbox, which holds 256 messages, after those have arrived that can: behind the ones that are there (R325). -/
def State.arrivals (s : State) (l : List Msg) : List Msg :=
  let old := l.filter (·.here)
  let (a, b) := takeReady s.msgReady (256 - old.length) (l.filter fun m => !m.here)
  old ++ a ++ b
/-- The tile whose context a forme's mailbox belongs to (R324). -/
def State.serviceTile (s : State) (k : Nat) : Nat := tileKey (k / 64) ((s.forme k).svloc.toNat % 65536)
/-- The messages for a forme's service core that can arrive do, at its mailbox, or, while its tile is stopped, in that tile's stop area
(R383). -/
def State.settleForme (s : State) (k : Nat) : State :=
  let l := (s.forme k).mailbox
  let t := s.serviceTile k
  if l.all (·.here) then s
  else if bitAt (s.forme k).svloc.toNat 31 && (s.tile t).hasStop then
    let (a, b) := takeReady s.msgReady (stopRoom - (s.tile t).stopArea.length) (l.filter fun m => !m.here)
    a.foldl (fun s m => s.toStop t (.mail k m.body)) (s.updForme k fun f => { f with mailbox := l.filter (·.here) ++ b })
  else s.updForme k fun f => { f with mailbox := s.arrivals l }
/-- Every message that can arrive does (R325). -/
def State.settleMail (s : State) : State :=
  let s := (s.formes.map (·.1)).foldl State.settleForme s
  if s.dies.any (fun e => e.2.mailbox.any fun m => !m.here) then
    { s with dies := s.dies.map fun e => (e.1, { e.2 with mailbox := s.arrivals e.2.mailbox }) }
  else s

/-- A message leaves for a mailbox. -/
def State.post (s : State) (b : Box) (m : Msg) : State :=
  match b with
  | .forme k => (s.updForme k fun f => { f with mailbox := f.mailbox ++ [m] }).settleForme k
  | .die d => s.updDie d fun f => { f with mailbox := s.arrivals (f.mailbox ++ [m]) }

/-- The service core's mailbox of a forme, or the management tile's when `svloc` is not valid or names a fenced
tile (R324). -/
def State.serviceBox (s : State) (k : Nat) : Box :=
  let sv := (s.forme (formeKey k)).svloc.toNat
  if bitAt sv 31 && !(s.tile (tileKey (ownerOf k) (sv % 65536))).fenced then .forme (formeKey k)
  else .die (s.dieOf k)
/-- Where a fault of a context goes (R324): U to its service core, S to the die's management tile, M to die 0's. -/
def State.faultBox (s : State) (k c : Nat) : Box :=
  match (s.ctx k c).c.level with
  | .u => s.serviceBox k
  | .s => .die (s.dieOf k)
  | .m => .die 0

/-- The mailbox of a report that concerns work of a thread of a level (R324). -/
def State.levelBox (s : State) (k : Nat) : Level → Box
  | .u => s.serviceBox k
  | .s => .die (s.dieOf k)
  | .m => .die 0

/-- The fault record of a fault raised now by a context. `src` gives bits 7:2 of the message's src field. -/
def State.faultRec (s : State) (k c : Nat) (pc : BitVec 64) (iw : BitVec 96) (srcHigh : Nat) (a : FaultArg) : FaultRec :=
  { cause := BitVec.ofNat 8 a.cause,
    src := BitVec.ofNat 8 (c % 4 + srcHigh + (if (s.ctx k c).c.gang.isSome then 32 else 0)),
    pc := pc, iword := iw, address := a.address, stamp := a.stamp, detail := a.detail, gtime := s.gtime,
    cyc := s.cyc k, allow := a.allow, resend := none, atFin := false, once := a.once }

/-- The place of a context in its gang, on a tile that is led by `lead` (R322). -/
def State.memberAt (s : State) (lead t c : Nat) : Option Gang := (s.ctx t c).c.gang.filter fun g => g.leader == lead
/-- The tiles whose context `c` stands or falls with that of tile `k`: the members of its gang that have not ended (R322). -/
def State.gangTiles (s : State) (k c : Nat) : List Nat :=
  match (s.ctx k c).c.gang with
  | some g => ((List.range g.width).map (g.leader + ·)).filter fun t => (s.memberAt g.leader t c).isSome
  | none => [k]
/-- The tile that holds the next address of a context: its gang's leader, or its own (R322). -/
def State.leadTile (s : State) (k c : Nat) : Nat :=
  match (s.ctx k c).c.gang with
  | some g => g.leader
  | none => k
/-- In a gang, a context executes when it is its turn (R322). -/
def State.onTurn (s : State) (k c : Nat) : Bool :=
  match (s.ctx k c).c.gang with
  | none => true
  | some g => ((s.ctx g.leader c).c.gang.map (·.turn)) == some g.member
/-- Changes what a context holds of its gang. -/
def State.updGang (s : State) (k c : Nat) (u : Gang → Gang) : State :=
  s.updCtx k c fun x => { x with c := { x.c with gang := x.c.gang.map u } }

/-- The time from which a thread's clocks count: none during a turn's notice and pause (R16). -/
def State.clock (s : State) : Option (BitVec 64) := if s.turn.phase == .none then some s.gtime else none

/-- Stops a context without a message of its own. -/
def State.block (s : State) (x : Ctx) : Ctx :=
  { x with c := { x.c.stopRun s.gtime with
      run := .blocked, waitOn := .nothing, saving := false,
      blkFrom := match x.c.blkFrom with | some f => some f | none => s.clock } }

/-- The instruction at pc has issued, and its own access or wait is not over. -/
def Phase.waits : Phase → Bool
  | .armed _ => true
  | .granted _ => true
  | .refused _ _ _ => true
  | _ => false
/-- What the instruction at pc waited for has answered. -/
def Phase.answered : Phase → Bool
  | .granted _ => true
  | .refused _ _ _ => true
  | _ => false
/-- The instruction at pc has issued and is not over: the next boundary comes after it. -/
def Phase.inside : Phase → Bool
  | .leaving _ _ => true
  | p => p.waits
/-- What a fault leaves of the phase: an instruction whose effect stands still has its next address to take (R31). -/
def Phase.faulted : Phase → Phase
  | .leaving r w => .leaving r w
  | _ => .fresh

/-- Stops the twin of a context of a checked pair at its next instruction boundary (R371). -/
def State.stopTwin (s : State) (k c : Nat) : State :=
  s.updCtx k c fun x =>
    if x.c.run == .idle || x.c.run == .ending || x.c.run == .blocked then x
    else if x.c.phase.inside then { x with c := { x.c with twinStop := true } }
    else s.block x

/-- The first tile of a gang, from a member number on, whose context has not executed the instruction of the turn. -/
def State.nextMember (s : State) (lead c from_ : Nat) : Option Nat :=
  ((s.gangTiles lead c).filterMap fun t => (s.memberAt lead t c).bind fun g => if from_ ≤ g.member && !g.did then some g.member else none).head?
/-- The members of a gang that no fault has blocked stop; one whose FIN has executed waits at its end, unless that is what
stops. -/
def State.stopGang (s : State) (k c : Nat) (ends : Bool) : State :=
  (s.gangTiles k c).foldl (fun s t => s.updCtx t c fun x => if x.c.run == .ending && !ends then x else if x.c.fault.isSome then x else s.block x) s
/-- A member is through with the instruction of the turn, having executed it or having faulted: the next one that has not
executed is on turn. After the last, a gang with a fault stops, and another goes on to the leader's next instruction (R322). -/
def State.passTurn (s : State) (k c : Nat) (did : Bool) : State :=
  match (s.ctx k c).c.gang with
  | none => s
  | some g =>
    let s := s.updGang k c fun g => { g with did := did }
    let all := s.gangTiles k c
    match s.nextMember g.leader c (g.member + 1) with
    | some m => s.updGang g.leader c fun g => { g with turn := m }
    | none =>
      let s := s.updGang g.leader c fun g => { g with turn := 0 }
      if all.any fun t => (s.ctx t c).c.fault.isSome then s.stopGang k c false
      else all.foldl (fun s t => s.updGang t c fun g => { g with did := false }) s
/-- What a fault of a context does to its gang: every member stops at that instruction, the later ones once they have executed
it themselves. Before the leader has a word for them, they stop where they are (R322). -/
def State.faultGang (s : State) (k c : Nat) (ends ran : Bool) : State :=
  match (s.ctx k c).c.gang with
  | none => s
  | some g =>
    if !ends && g.member ≠ 0 then s.passTurn k c false
    else if !ends && ran then (s.updGang k c fun g => { g with word := s.iword, pc := (s.ctx k c).r.pc }).passTurn k c false
    else s.stopGang k c true

/-- Takes a fault now: the context blocks with the fault, its gang stops with it, and the message is posted behind
the accesses issued before (R325). In checked mode an uncorrectable error or a twin mismatch stops the twin (R371). `ran` says
that the fault is of an instruction that has been fetched. -/
def State.takeFaultRec (s : State) (k c : Nat) (f : FaultRec) (ran : Bool) : State :=
  let ends := (s.ctx k c).c.run == .ending
  let s := if (s.tile k).checked && (f.cause == 0x11 || f.cause == 0x12) then s.stopTwin (otherTwin k) c else s
  let s := s.updCtx k c fun x => { x with c := { (s.block x).c with fault := some f, phase := x.c.phase.faulted } }
  let s := s.faultGang k c ends ran
  s.post (s.faultBox k c) { body := f.message (s.ltileRead k), src := k, ctx := c, after := s.nextId }
/-- Takes a fault at the boundary before an instruction. -/
def State.takeRec (s : State) (k c : Nat) (f : FaultRec) : State := s.takeFaultRec k c f false

/-- T_turn of a notice has passed: contexts stop at their instruction boundaries (R292, R296, R306). -/
def State.stopping (s : State) : Bool :=
  s.turn.phase == .quiesce || (s.turn.phase == .notice && decide (s.turn.tturn.toNat ≤ s.gtime.toNat))
/-- T_turn has passed and the pause is not over (R292, R296). -/
def State.sinceTurn (s : State) : Bool := s.stopping || s.turn.phase == .shift
/-- A fault reaches a context: it is taken, or held while another is being answered, the instruction at pc is not over, it is
not the context's turn in its gang, or the module pauses (R134, R300, R322, R395); the issue step takes a held one before it
issues. -/
def State.raise (s : State) (k c : Nat) (f : FaultRec) : State :=
  let x := s.ctx k c
  if x.c.run == .idle then s
  else if x.c.run == .ending || x.c.run == .halted then
    -- no boundary is left, after FIN or `halt`: the message is a report without a reply
    s.post (s.faultBox k c) { body := f.message (s.ltileRead k), src := k, ctx := c, after := s.nextId }
  else if x.c.fault.isSome || x.c.run == .blocked || x.c.run == .debugStop || x.c.phase.waits || s.sinceTurn || !s.onTurn k c then
    s.updCtx k c fun x => { x with c := { x.c with held := x.c.held ++ [f] } }
  else s.takeRec k c f

/-- TAKING AN EXCEPTION: a precise fault of the moving context at its pc (Fault(cause) of R37). The pc and word of
the instruction go into the message, the context blocks, nothing else of the instruction takes effect. -/
def State.takeFault (s : State) (a : FaultArg) : State :=
  s.takeFaultRec s.cur s.curCtx (s.faultRec s.cur s.curCtx s.me.r.pc s.iword 0 a) true
/-- A precise fault before there is a word to execute: of the fetch (R326), or of the join of a slug's group (R147). -/
def State.takeEarly (s : State) (a : FaultArg) : State :=
  ({ s with iword := 0 } : State).takeRec s.cur s.curCtx (s.faultRec s.cur s.curCtx s.me.r.pc 0 0 a)

/-- An imprecise fault: the message carries the boundary at which the context stops, src bit 4 is set (R82, R394). -/
def State.takeImprecise (s : State) (k c : Nat) (iw : BitVec 96) (a : FaultArg) (resend : Option Flight) : State :=
  s.raise k c { s.faultRec k c (s.ctx k c).r.pc iw 16 a with resend := resend }

/-- The debug event that a fault reported, as a bit by its why code: RETRY passes over it (R382). -/
def FaultRec.passes (f : FaultRec) : BitVec 5 := if f.once then 1 <<< (bitsAt f.detail.toNat 4 4) else 0

/-- A stopped context may issue again. -/
def State.ready (s : State) (x : Ctx) : Ctx :=
  { x with c := { x.c.stopBlk s.gtime with
      run := .ready, fault := none, phase := (if x.c.fault.isSome || x.c.phase.waits then x.c.phase.faulted else x.c.phase),
      waitOn := .nothing, saving := false, twinStop := false, twinIre := false,
      runFrom := match x.c.runFrom with | some f => some f | none => s.clock,
      wdStop := none, passDebug := x.c.passDebug ||| (match x.c.fault with | some f => f.passes | none => 0) } }

/-- The next held fault of a context is taken before it issues, with its own message, carrying the boundary reached
(R395). -/
def State.takeHeld (s : State) (k c : Nat) : State :=
  match (s.ctx k c).c.held with
  | [] => s
  | f :: rest =>
    (s.updCtx k c fun x => { x with c := { x.c with held := rest } }).takeRec k c { f with pc := (s.ctx k c).r.pc }

/-- THE RETURN FROM A FAULT: the context, and its gang, go on, at `pc` where one is given; then the next held fault of
one of them is taken (R327, R395). -/
def State.resumeAt (s : State) (k c : Nat) (pc : Option (BitVec 64)) : State :=
  let l := s.gangTiles k c
  let lead := s.leadTile k c
  -- one whose FIN has executed waits for the members that execute it anew, and goes on with a new address
  let s := l.foldl (fun s t => s.updCtx t c fun x => if x.c.run == .ending && pc.isNone then x else s.ready x) s
  let s := match pc with
    | some p =>
      let s := l.foldl (fun s t => s.updGang t c fun g => { g with did := false, turn := 0 }) s
      s.updCtx lead c fun x => { x with r := { x.r with pc := p }, c := { x.c with phase := .fresh, passDebug := 0 } }
    | none => s.updGang lead c fun g => { g with turn := (s.nextMember lead c 0).getD 0 }
  l.foldl (fun s t => if (s.ctx t c).c.run == .ready && s.onTurn t c then s.takeHeld t c else s) s

/-! ### Stops of the debug module (R382, R383) -/

/-- Stops a context for the debug module (R382, R383) once it has completed `point` instructions. One that is inside an
instruction, or cannot issue for another reason, stops before it next issues; on one without a thread none starts (log 78). -/
def Ctx.debugStop (x : Ctx) (now : BitVec 64) (why : BitVec 4) (point : Nat) : Ctx :=
  match x.c.run with
  | .idle => { x with c := { x.c with barred := true, why := why } }
  | .ready => if point ≤ x.c.issued && !x.c.phase.inside then stop else later
  | .waiting => if point ≤ x.c.issued && !x.c.phase.inside then stop else later
  | .blocked => later
  | .held => later
  | _ => x
where
  stop : Ctx :=
    { x with c := { x.c.stopRun now with run := .debugStop, waitOn := .nothing, why := why, stopReq := false, stepping := false } }
  later : Ctx := { x with c := { x.c with stopReq := true, stopAt := point, why := why } }
/-- The two tiles of a checked pair, or the tile. -/
def State.debugTiles (s : State) (k : Nat) : List Nat := if (s.tile k).checked then [k, otherTwin k] else [k]
/-- The number of completed instructions at which a requested stop holds: the larger of a pair's. -/
def State.stopPoint (s : State) (k c : Nat) : Nat := (s.debugTiles k).foldl (fun n t => max n (s.ctx t c).c.issued) 0
/-- The tile stop of stile 1: every other context of the tile, and of its twin, stops (R379, R383). -/
def State.stopOthers (s : State) (k c : Nat) : State :=
  ((List.range 4).filter (· != c)).foldl (fun s d =>
    let point := s.stopPoint k d
    (s.debugTiles k).foldl (fun s t => s.updCtx t d fun x => if x.stopped then x else x.debugStop s.gtime 6 point) s) s
/-- A context stops at a number of completed instructions, in checked mode its twin at the same, and with stile 1 every
context of its tile (R379, R382, R383). -/
def State.debugStopAt (s : State) (k c : Nat) (why : BitVec 4) (point : Nat) : State :=
  let s := s.updCtx k c (·.debugStop s.gtime why point)
  let s := if (s.tile k).checked then s.updCtx (otherTwin k) c (·.debugStop s.gtime why point) else s
  if (s.tile k).stile then s.stopOthers k c else s
/-- A debug event with sdbg 1: the context stops where it is. -/
def State.debugStop (s : State) (k c : Nat) (why : BitVec 4) : State := s.debugStopAt k c why (s.ctx k c).c.issued

/-! ### The next address (R31 to R33) -/

/-- Byte address `n` instructions on (R19). -/
def pcPlus (pc : BitVec 64) (n : Int) : BitVec 64 := pc + BitVec.ofInt 64 (12 * n)
/-- The signed offset of a `next` field. -/
def nextOffset (h : Head) : Int := h.next.toInt

/-- Puts a record into a tile's trace unit: kind 0 the target of a taken transfer, 1 the stamp of a `rop`, 2 `cyc`
(R384). A record that finds the 32-entry buffer full is dropped, and the next one written sets the lost bit. -/
def State.traceRec (s : State) (k c kind : Nat) (v : BitVec 64) : State :=
  let tr := (s.tile k).trace
  if !tr.on || !tr.kinds.getLsbD kind then s
  else if tr.buf.length < 32 then
    let w : BitVec 128 := BitVec.ofNat 128 (s.gtime.toNat % 2 ^ 48 + (c % 4 + kind * 4 + bit tr.lost * 16) * 2 ^ 48 + v.toNat * 2 ^ 64)
    s.updTile k fun t => { t with trace := { tr with buf := tr.buf ++ [w], lost := false } }
  else s.updTile k fun t => { t with trace := { tr with lost := true } }

/-- The address that follows, what happens to `ln` and `lc`, or the misaligned target (R31, R32). -/
inductive NextPc where
  | goto (pc : BitVec 64) (taken : Bool)
  | misaligned (target : BitVec 64)
  | fin
deriving DecidableEq, Repr

/-- Reads the selector after the instruction's own effect (R31). `lc` is the value after that effect. -/
def nextPc (h : Head) (g : Bool) (r : Regs) (x : BitVec 64) : NextPc :=
  let seq := pcPlus r.pc 1
  let off := pcPlus r.pc (nextOffset h)
  match h.nas.toNat with
  | 1 => if g then .goto off true else .goto seq false
  | 2 => if g then .goto seq false else .goto off true
  | 3 => if g then .goto off true else .goto seq false
  | 4 => if g then (if r.ln.toNat % 4 = 0 then .goto r.ln true else .misaligned r.ln) else .goto seq false
  | 5 => if r.lc - 1 != 0 then .goto off true else .goto seq false
  | 6 => if g then (if x.toNat % 4 = 0 then .goto x true else .misaligned x) else .goto seq false
  | 7 => if g then .fin else .goto seq false
  | _ => .goto seq false

/-- Counts an event of a context's enabled counters (R385). -/
def Sched.count (c : Sched) (event : Nat) (n : Nat) : Sched :=
  { c with counters := c.counters.map fun (i, q) =>
      (i, if q.claimed && q.enabled && q.event.toNat == event then { q with value := q.value + BitVec.ofNat 64 n } else q) }

/-- A counter whose value the clocks and the choice among ready contexts decide (Table 4). -/
def timedEvent (e : Nat) : Bool := e == 2 || e == 3 || e == 4
/-- The count of a counter of context c of tile k: one of time adds the cycles since it began to count, which are open (R385, log 50). -/
def State.tileCount (s : State) (k c : Nat) (q : Counter) : BitVec 64 :=
  if q.enabled && timedEvent q.event.toNat then q.value + Config.eventCycles q.event.toNat k c q.since s.gtime else q.value
/-- The count of a counter of a cluster, whose first tile is k: cluster cycles are those of its clock (R385). -/
def State.clusterCount (s : State) (k : Nat) (q : Counter) : BitVec 64 :=
  if q.enabled && q.event == 0x100 then
    q.value + (s.cyc k - Config.cycles (s.dieOf k) (clusterIn k) q.since)
  else q.value

/-- Counts an event of a cluster's enabled counters (R385). -/
def State.countCluster (s : State) (ck event : Nat) : State :=
  s.updCluster ck fun c => { c with counters := c.counters.map fun (i, q) =>
    (i, if q.claimed && q.enabled && q.event.toNat == event then { q with value := q.value + 1 } else q) }

/-- What every completed instruction does to the scheduling state of its context; one that a debug step let issue
stops it (why 5 of R379). -/
def Sched.over (c : Sched) : Sched :=
  { (c.count 1 1) with
    phase := .fresh, waitOn := .nothing, passDebug := 0, issued := c.issued + 1, stepping := false,
    run := if c.stepping then .debugStop else .ready, why := if c.stepping then 5 else c.why }

/-- A debug step is over (R379): with stile 1 it stops the tile. -/
def State.stepped (s : State) (was : Bool) : State := if was && s.myTile.stile then s.stopOthers s.cur s.curCtx else s
/-- The next address of the moving context, `ln` and `lc` included (R31, R32). A leader's gang goes on to its next
member with the word just executed (R322). -/
def State.leave (s : State) (h : Head) (g : Bool) : State :=
  let pass (s1 : State) : State :=
    let s1 := s1.stepped s.me.c.stepping
    if s1.me.c.gang.isNone then s1
    else (s1.updGang s.cur s.curCtx fun z => { z with word := s.iword, pc := s.me.r.pc }).passTurn s.cur s.curCtx true
  match nextPc h g s.me.r (s.rx (h.next.toNat % 128)) with
  | .misaligned t => (s.updC fun c => { c with phase := .fresh }).takeFault { cause := 0x04, address := t }
  | .fin => pass (s.updC fun c => { c.over with run := .ending })
  | .goto pc taken =>
    let s := if taken then s.traceRec s.cur s.curCtx 0 pc else s
    pass (s.upd fun q =>
      { r := { q.r with pc := pc,
                        ln := if h.nas == 3 && g then pcPlus q.r.pc 1 else q.r.ln,
                        lc := if h.nas == 5 then q.r.lc - 1 else q.r.lc },
        y := q.y,
        c := q.c.over })

/-- The next address, once the x register of a JIND selector holds what the instruction itself wrote: a load's or a vector
instruction's value comes later (R31). -/
def State.leaveWhenRead (s : State) (h : Head) (g : Bool) : State :=
  if h.nas == 6 && g && s.busy (h.next.toNat % 128) then s.updC fun c => { c with phase := .leaving (h.next.toNat % 128) s.iword } else s.leave h g

/-- The instruction at pc is over (R31). In a gang the leader alone takes the next address; a member reports that it
is done, and the leader's gang goes on (R322); a FIN that the leader takes is a member's end too. -/
def State.retire (s : State) (h : Head) (g : Bool) : State :=
  match s.me.c.gang with
  | some z =>
    if z.member ≠ 0 then
      let fin := (s.ctx z.leader s.curCtx).c.run == .ending
      ((s.updC fun c => if fin then { c.over with run := .ending } else c.over).stepped s.me.c.stepping).passTurn s.cur s.curCtx true
    else s.leaveWhenRead h g
  | none => s.leaveWhenRead h g

end Sys2Proof.Machine
end

