-- ==== Sys2Proof/Machine/Operands.lean ====
section
/-! DEFINITION. What stands around every instruction (R38): the privilege and operand checks (R24, R36), the tail
wait (R28), the guard (R27), the interlock of busy registers (R26), poison in register operands (R367), the signal
(R29) and the next address; and the operand forms of each format as the values the instruction computes with. -/

namespace Sys2Proof

/-- Number of an operand within its class. -/
def Opnd.num : Opnd → Nat
  | .x n => n.toNat
  | .v n => n.toNat
  | .p n => n.toNat
  | .vm n => n.toNat
  | _ => 0

/-- The increment of a tail's signal (R29). -/
def STail.inc (t : STail) : Nat := if t.sinc == 0 then 16 else t.sinc.toNat
/-- The completion signal an engine applies for an instruction with stime 1 (R29). -/
def STail.doneSig (t : STail) : Option (BitVec 8 × Nat) :=
  if t.sen && t.stime then some (t.ssem, t.inc) else none

end Sys2Proof

namespace Sys2Proof.Machine

/-- What an entry asks of an operand field (R24, R76). -/
inductive Cls where
  /-- an x register that is read, or only written -/
  | rx | wx
  /-- an even register pair from x2 on (R76), read or written -/
  | rpair | wpair
  /-- eight x registers from x1 on, read (R223) -/
  | roct
  /-- the last register of a run of at most 32 from x(f) on, f at least 1, read or written (R79) -/
  | rrun (f : Nat) | wrun (f : Nat)
  /-- a v register; one that is written together with the next `n` -/
  | v (n : Nat)
  | p
  | vm
deriving DecidableEq, Repr

/-- An operand and what its entry asks of it. -/
abbrev Req := Opnd × Cls

/-- The operand is legal in windows of code `win`: its class, and every register it names lies inside (R24, R76). -/
def reqOk (win : BitVec 8) : Req → Bool
  | (.x n, .rx) => decide (n.toNat < xWindow win)
  | (.x n, .wx) => decide (n.toNat < xWindow win)
  | (.x n, .rpair) => decide (2 ≤ n.toNat) && n.toNat % 2 == 0 && decide (n.toNat + 1 < xWindow win)
  | (.x n, .wpair) => decide (2 ≤ n.toNat) && n.toNat % 2 == 0 && decide (n.toNat + 1 < xWindow win)
  | (.x n, .roct) => decide (1 ≤ n.toNat) && decide (n.toNat + 7 < xWindow win)
  | (.x n, .rrun f) => decide (1 ≤ f ∧ f ≤ n.toNat ∧ n.toNat ≤ f + 31 ∧ n.toNat < xWindow win)
  | (.x n, .wrun f) => decide (1 ≤ f ∧ f ≤ n.toNat ∧ n.toNat ≤ f + 31 ∧ n.toNat < xWindow win)
  | (.v n, .v k) => decide (n.toNat + k < vWindow win)
  | (.p _, .p) => true
  | (.vm _, .vm) => true
  | _ => false

/-- The x registers an operand names. -/
def reqRegs : Req → List Nat
  | (.x n, .rpair) => [n.toNat, n.toNat + 1]
  | (.x n, .wpair) => [n.toNat, n.toNat + 1]
  | (.x n, .roct) => (List.range 8).map (n.toNat + ·)
  | (.x n, .rrun f) => (List.range (n.toNat + 1 - f)).map (f + ·)
  | (.x n, .wrun f) => (List.range (n.toNat + 1 - f)).map (f + ·)
  | (.x n, _) => [n.toNat]
  | _ => []

/-- The x registers whose values an operand takes. -/
def reqReads : Req → List Nat
  | (_, .wx) => []
  | (_, .wpair) => []
  | (_, .wrun _) => []
  | r => reqRegs r

/-- The x registers that an operand only writes. -/
def reqWrites : Req → List Nat
  | (o, .wx) => reqRegs (o, .wx)
  | (o, .wpair) => reqRegs (o, .wpair)
  | (o, .wrun f) => reqRegs (o, .wrun f)
  | _ => []

/-- The level is at least the one needed (R36). -/
def Level.reaches : Level → Level → Bool
  | .m, _ => true
  | .s, .m => false
  | .s, _ => true
  | .u, .u => true
  | .u, _ => false

/-- How an instruction's Execute part ends. -/
inductive Res where
  /-- its effect, after which come its signal and the next address -/
  | ok (s : State)
  /-- a precise fault -/
  | trap (a : FaultArg)
  /-- a precise fault after which only these flags of the instruction stand (R54) -/
  | fpTrap (flags : BitVec 5)
  /-- a precise fault, and what else its detection changes (R335) -/
  | trapBy (fx : State → State) (a : FaultArg)
  /-- a debug event that stops the context (R382), with its why code, and what else its detection changes (R335) -/
  | debug (why : BitVec 4) (fx : State → State := id)
  /-- it cannot issue yet: nothing of it has happened -/
  | stall
  /-- it waits, with what it has done so far -/
  | wait (s : State) (w : WaitOn)
  /-- its effect, with no signal and no next address: the context does not go on by itself -/
  | ends (s : State)

/-- The stop of a watchpoint leaves what the walks before it have found (R328, R335). -/
def Res.after (r : Res) (fx : State → State) : Res :=
  match r with
  | .trap a => .trapBy fx a
  | .debug why _ => .debug why fx
  | r => r

/-- The semaphore signal of a tail at issue, and then the next address; a signal that saturates leaves the effect
standing and faults instead of going on (R29, R31). -/
def State.finish (s : State) (h : Head) (t : Option STail) (g late : Bool) : State :=
  match t with
  | some t =>
    if t.sen && g && !(late && t.stime) then
      let (s', sat) := s.addSem s.cur t.ssem.toNat t.inc
      if sat then s'.takeFault { cause := 0x0F } else s'.retire h g
    else s.retire h g
  | none => s.retire h g

/-! ### The parts of R38 in their order -/

/-- The operand fields are legal, and so is the register that a JIND selector names (R24, R32, R36). -/
def opsOk (win : BitVec 8) (h : Head) (ops : List Req) : Bool :=
  ops.all (reqOk win) && !(h.nas == 6 && !decide (h.next.toNat < xWindow win))
/-- The tail wait that is still to pass: none without `wen`, and none once it has passed (R28). -/
def State.waitOf (s : State) (t : Option STail) : Option STail :=
  match t with
  | some t => if t.wen && s.me.c.phase == .fresh then some t else none
  | none => none
/-- The semaphore of the tail wait is below its threshold (R28). -/
def State.waitBlocked (s : State) (t : Option STail) : Bool :=
  match s.waitOf t with
  | some t => decide (s.sem s.cur t.wsem.toNat < t.wthr.toNat)
  | none => false
/-- The state once the tail wait has passed: a consuming one takes its threshold off (R28). -/
def State.passWait (s : State) (t : Option STail) : State :=
  match s.waitOf t with
  | some t =>
    let s1 := (s.updC fun c => { c with phase := .passed }).passedSem t.wsem.toNat
    if t.cons then s1.setSem s1.cur t.wsem.toNat (s1.sem s1.cur t.wsem.toNat - t.wthr.toNat) else s1
  | none => s
/-- The context waits for the semaphore of its tail. -/
def State.waitTail (s : State) (t : Option STail) : State :=
  match s.waitOf t with
  | some t => s.updC fun c => { c with run := .waiting, waitOn := .sem t.wsem.toNat t.wthr.toNat }
  | none => s
/-- The guard of an instruction (R27). -/
def State.guard (s : State) (h : Head) : Bool := s.me.r.p h.gpred.toNat != h.ginv
/-- A register that the instruction names is awaited by a load or a vector instruction (R26). -/
def State.opsBusy (s : State) (h : Head) (ops : List Req) (g : Bool) : Bool :=
  (ops.any fun r => (reqRegs r).any s.busy) || (h.nas == 6 && g && s.busy (h.next.toNat % 128))
/-- A register that it reads is poisoned, the one of a JIND selector that it takes among them (R367). -/
def State.opsPoisoned (s : State) (h : Head) (ops : List Req) (g : Bool) : Bool :=
  let bad (n : Nat) : Bool := n != 0 && s.myTile.xPoison.contains (s.me.r.xbase + n)
  ops.any (fun r => (reqReads r).any bad) ||
    (h.nas == 6 && g && bad (h.next.toNat % 128) && !ops.any fun r => (reqWrites r).contains (h.next.toNat % 128))
/-- How the Execute part's end becomes the outcome, from the state before the instruction. -/
def State.conclude (s : State) (h : Head) (t : Option STail) (g late : Bool) (r : Res) : Out :=
  match r with
  | .ok s2 => .next (s2.finish h t g late)
  | .trap a => .next (s.takeFault a)
  | .fpTrap fl =>
    .next ((s.updR fun r => { r with fflags := r.fflags ||| fl }).takeFault { cause := 0x0D, detail := fl.setWidth 64 })
  | .trapBy fx a => .next ((fx s).takeFault a)
  | .debug why fx => .next ((fx s).debugStop s.cur s.curCtx why)
  | .stall => .next s
  | .wait s2 w => .next (s2.updC fun c => { c with run := .waiting, waitOn := w })
  | .ends s2 => .next s2

/-- ONE INSTRUCTION (R38). `need` is the level it needs, `ops` its operand fields, `always` is true for X-form
compares, which execute whatever the guard, and `late` for instructions whose completion signal an engine gives. -/
def State.issue (s : State) (h : Head) (t : Option STail) (need : Level) (ops : List Req)
    (always late : Bool) (body : State → Bool → Res) : Out :=
  if !s.me.c.level.reaches need then .next (s.takeFault { cause := 0x03 })
  else if !opsOk s.me.r.win h ops then .next (s.takeFault { cause := 0x02 })
  else if s.waitBlocked t then .next (s.waitTail t)
  else if !(s.guard h || always) then .next ((s.passWait t).finish h t (s.guard h) late)
  else if s.opsBusy h ops (s.guard h) then .next s
  else if s.opsPoisoned h ops (s.guard h) then .next (s.takeFault { cause := 0x11, detail := 3, allow := allowRetryRestartKill })
  else s.conclude h t (s.guard h) late (body (s.passWait t) (s.guard h))

/-! ### The operand forms (R21 to R23, R40) -/

/-- `op xd, xa, xb` and `op xd, xa, imm`: xd ← F(a, b). -/
def aluS (fn : Word → Word → Word) (f : SDAB) (s : State) : Out :=
  s.issue f.h (some f.t) .u [(f.d, .wx), (f.a, .rx), (f.b, .rx)] false false fun s _ =>
    .ok (s.wx f.d.num (fn (s.rx f.a.num) (s.rx f.b.num)))
def aluI (fn : Word → Word → Word) (f : IDA) (s : State) : Out :=
  s.issue f.h none .u [(f.d, .wx), (f.a, .rx)] false false fun s _ =>
    .ok (s.wx f.d.num (fn (s.rx f.a.num) (immS f.imm)))
/-- `op xd, xa`: xd ← F(a). -/
def unS (fn : Word → Word) (f : SDA) (s : State) : Out :=
  s.issue f.h (some f.t) .u [(f.d, .wx), (f.a, .rx)] false false fun s _ =>
    .ok (s.wx f.d.num (fn (s.rx f.a.num)))
/-- `op xd, imm`: xd ← F(old xd, imm). -/
def constI (cls : Cls) (fn : Word → BitVec 32 → Word) (f : ID) (s : State) : Out :=
  s.issue f.h none .u [(f.d, cls)] false false fun s _ =>
    .ok (s.wx f.d.num (fn (s.rx f.d.num) f.imm))

/-- The second operand of an X-form instruction: X(srcB), or imm23 sign-extended (R23). -/
def xOperand (s : State) (b : Opnd) (x : XTail) : Word :=
  match b with
  | .imm => x.imm23.signExtend 64
  | o => s.rx o.num
/-- What a compare asks of srcB: an x register or the immediate code (R48). -/
def xReqB (b : Opnd) : List Req :=
  match b with
  | .imm => []
  | o => [(o, .rx)]

end Sys2Proof.Machine
end

