-- ==== Sys2Proof/Machine/Flags.lean ====
section
/-! DEFINITION. The sticky floating-point flags of a context and the precise trap of scalar instructions
(R54, R172). -/

namespace Sys2Proof.Machine

/-- ORs raised flags into `fflags`: flags are sticky (R172). -/
def Regs.raiseFlags (r : Regs) (fl : Flags) : Regs := { r with fflags := r.fflags ||| fl }
def State.raiseFlags (s : State) (fl : Flags) : State := s.updR (·.raiseFlags fl)

/-- A raised flag is enabled (R54). -/
def Regs.fpTraps (r : Regs) (fl : Flags) : Bool := fl &&& r.fenable != 0

/-- The end of a scalar floating-point instruction: the trap, or `next` with the flags (R54). -/
def State.fpDone (s : State) (fl : Flags) (next : State) : Res :=
  if s.me.r.fpTraps fl then .fpTrap fl else .ok (next.raiseFlags fl)

/-- The end with one destination register. -/
def State.fpWrite (s : State) (d : Opnd) (r : FRes) : Res := s.fpDone r.2 (s.wx d.num (BitVec.ofNat 64 r.1))

end Sys2Proof.Machine
end

