-- ==== Sys2Proof/Machine/Translate.lean ====
section
/-! DEFINITION. Address translation (R330 to R335): the four-level walk, the TLBs of a lookup path, the rights of R83,
the key slots of R362, the physical address map, and the neighbourhood tracker. A walk is one step: it is taken whole
where a translation needs it (log 7). -/

namespace Sys2Proof.Machine

/-- The requester of a translation: its first TLB (R332). -/
inductive XPath where
  | fetch | data | matrix | copy | fillPath
deriving DecidableEq, Repr

/-- The rows of the physical address map (R333, Table 6). -/
inductive PaKind where
  | module
  /-- the matrix queue window of a tile of an owner, and the offset in it -/
  | matrixWindow (owner ltile off : Nat)
  | host
  | remote (port off : Nat)
  | hole
deriving DecidableEq, Repr

def paKind (pa : Nat) : PaKind :=
  if pa < 0x036000000000 then .module
  else if 0x400000000000 ≤ pa ∧ pa < 0x400010000000 then
    .matrixWindow ((pa - 0x400000000000) / 2 ^ 22) (pa % 2 ^ 22 / 64) (pa % 64)
  else if 0x800000000000 ≤ pa ∧ pa < 0xC00000000000 then .host
  else if 0xC00000000000 ≤ pa ∧ pa < 0x1000000000000 then .remote (bitsAt pa 41 5) (bitsAt pa 0 41)
  else .hole

/-- The home slice of a physical address (R333). -/
def homeSlice (pa : Nat) : Nat :=
  let h := bitsAt pa 12 36
  (h ^^^ (h / 2 ^ 12) ^^^ (h / 2 ^ 24)) % 144

/-! ### The walk (R330, R331) -/

/-- Index of a virtual address at a level, and log2 of the page of a leaf there (Table 4). -/
def ptIndex (level va : Nat) : Nat :=
  match level with
  | 0 => bitsAt va 39 18
  | 1 => bitsAt va 30 9
  | 2 => bitsAt va 21 9
  | _ => bitsAt va 16 5
def leafLg (level : Nat) : Nat :=
  match level with
  | 1 => 30
  | 2 => 21
  | _ => 16

/-- A leaf: any of R, W, X (R331). -/
def pteLeaf (e : Nat) : Bool := bitsAt e 1 3 != 0
def pteFrame (e : Nat) : Nat := bitsAt e 12 36 * 4096
/-- The malformed entries of R331. -/
def pteMalformed (level e : Nat) : Bool :=
  bitsAt e 60 4 != 0 ||
  (if pteLeaf e then
    level == 0 || bitsAt e 10 2 != 0 || pteFrame e % 2 ^ leafLg level != 0
  else level == 3 || bitsAt e 48 12 != 0 || (level != 2 && bitsAt e 8 4 != 0))

/-- How a walk ends: a valid leaf at `at` with its entry and level, U of every level; or a stop. -/
inductive Walk where
  | leaf (entryAt entry level : Nat) (u : Bool)
  | stop (level : Nat) (malformed : Bool)
deriving DecidableEq, Repr

def walkFrom (m : Memory) (va : Nat) : List Nat → Nat → Bool → Walk
  | [], _, _ => .stop 3 true
  | l :: rest, base, u =>
    let at_ := base + 8 * ptIndex l va
    let e := m.readN at_ 8
    if !bitAt e 0 then .stop l false
    else if pteMalformed l e then .stop l true
    else if pteLeaf e then .leaf at_ e l (u && bitAt e 4)
    else walkFrom m va rest (pteFrame e + (if l = 2 then bitsAt e 8 4 * 256 else 0)) (u && bitAt e 4)

def walk (m : Memory) (ptbase : BitVec 64) (va : Nat) : Walk := walkFrom m va [0, 1, 2, 3] ptbase.toNat true

/-- The TLB entry of a leaf. -/
def tlbOf (va entry level : Nat) (u : Bool) : TlbEntry :=
  let lg := leafLg level
  { va := va / 2 ^ lg * 2 ^ lg, lg := lg, frame := pteFrame entry, key := bitsAt entry 48 12,
    r := bitAt entry 1, w := bitAt entry 2, x := bitAt entry 3, u := u, g := bitAt entry 5, wch := bitAt entry 8,
    mig := bitAt entry 9, dirty := bitAt entry 7 }

def TlbEntry.maps (e : TlbEntry) (va : Nat) : Bool := va / 2 ^ e.lg * 2 ^ e.lg == e.va
def findTlb : List TlbEntry → Nat → Option TlbEntry
  | [], _ => none
  | e :: r, va => if e.maps va then some e else findTlb r va

/-- A list without the entry at an index. -/
def dropAt {α : Type} : List α → Nat → List α
  | [], _ => []
  | _ :: r, 0 => r
  | a :: r, n + 1 => a :: dropAt r n

/-- Adds an entry to a TLB of `cap` entries; in a full one it replaces a free choice (log 16). -/
def tlbFill (l : List TlbEntry) (cap : Nat) (choice : BitVec 64) (e : TlbEntry) : List TlbEntry :=
  let l := l.filter fun q => !q.maps e.va
  if l.length < cap then l ++ [e] else dropAt l (choice.toNat % cap) ++ [e]

def Tile.tlb (t : Tile) : XPath → List TlbEntry
  | .fetch => t.itlb
  | .data => t.dtlb
  | .matrix => t.mtlb
  | .copy => t.ctlb
  | .fillPath => []
def Tile.fillTlb (t : Tile) (p : XPath) (choice : BitVec 64) (e : TlbEntry) : Tile :=
  match p with
  | .fetch => { t with itlb := tlbFill t.itlb 16 choice e }
  | .data => { t with dtlb := tlbFill t.dtlb 32 choice e }
  | .matrix => { t with mtlb := tlbFill t.mtlb 8 choice e }
  | .copy => { t with ctlb := tlbFill t.ctlb 8 choice e }
  | .fillPath => t

/-! ### The neighbourhood tracker (R335) -/

/-- Resident 64 KiB pages from page `p` on, `n` of them, that the tracker knows. -/
def residentIn (tr : List TrackRegion) (p n : Nat) : Nat :=
  foldUp (fun a i => a + bit (tr.any fun r => r.base == i / 32 && r.resident.getLsbD (i % 32))) n p 0

/-- The span of the region of `va` after a page fault there. -/
def grownSpan (tr : List TrackRegion) (pfctl : Nat) (va span : Nat) : Nat :=
  let n := 2 ^ (span + 1 - 16)
  let first := va / 2 ^ (span + 1) * n
  -- the span never exceeds the limit, also one that was lowered since (R335)
  max 16 (min (pfctl % 32) (if residentIn tr first n * 256 > bitsAt pfctl 8 8 * n then span + 1 else span))

def trackedSpan (tr : List TrackRegion) (va : Nat) : Nat :=
  match tr.find? (fun r => r.base == va / 2 ^ 21) with
  | some r => r.span
  | none => 16

/-- The hint a page fault at `va` carries, and the tracker after it. -/
def State.spanHint (s : State) (k va : Nat) : Nat :=
  let tr := (s.cluster (clusterKey k)).tracker
  grownSpan tr (s.owner (ownerOf k)).pfctl.toNat va (trackedSpan tr va)
def State.trackFault (s : State) (k va : Nat) : State :=
  let span := s.spanHint k va
  s.updCluster (clusterKey k) fun c =>
    let b := va / 2 ^ 21
    let old := (c.tracker.find? (fun r => r.base == b)).map (·.resident)
    let others := c.tracker.filter fun r => r.base != b
    let others := if others.length < 8 then others else others.drop 1
    { c with tracker := others ++ [{ base := b, span := span, resident := old.getD 0 }] }
/-- A walk found a page valid: its 64 KiB pages are resident in the regions that hold them. -/
def markResident (e : TlbEntry) (r : TrackRegion) : TrackRegion :=
  { r with resident := foldUp (fun m i => if e.maps (r.base * 2 ^ 21 + i * 65536) then m ||| ((1 : BitVec 32) <<< i) else m) 32 0 r.resident }
/-- Pages that a `tlbi` drops, by their numbers, are not resident any more. -/
def clearResident (gone : Nat → Bool) (r : TrackRegion) : TrackRegion :=
  { r with resident := foldUp (fun m i => if gone (r.base * 32 + i) then m &&& ~~~((1 : BitVec 32) <<< i) else m) 32 0 r.resident }

/-! ### One translation -/

/-- A walk of a controller, or for an image, sets A in the leaf it finds, and D for a write (R332). -/
def State.leafUsed (s : State) (o va : Nat) (write : Bool) : State :=
  match walk s.mem (s.owner o).ptbase va with
  | .leaf at_ e _ _ =>
    let e' := setBits (if write then setBits e 7 1 1 else e) 6 1 1
    if e' = e then s else { s with mem := s.mem.writeN at_ 8 e' }
  | .stop _ _ => s

/-- A walk found the page of an entry valid: the tracker of the tile's cluster learns it (R335). -/
def State.noteResident (s : State) (k : Nat) (e : TlbEntry) : State :=
  s.updCluster (clusterKey k) fun c => { c with tracker := c.tracker.map (markResident e) }

/-- What a fault after walks leaves of the state `s1` that they left: the resident pages that they found (R335). -/
def State.walked (s1 : State) (k : Nat) (s : State) : State :=
  s.updCluster (clusterKey k) fun c => { c with tracker := (s1.cluster (clusterKey k)).tracker }

/-! ### Accesses held under MIG (R112, R334) -/

def XPath.code : XPath → Nat
  | .fetch => 0
  | .data => 1
  | .matrix => 2
  | .copy => 3
  | .fillPath => 4
/-- The access that a translation of a path is for: of a context its instruction, of an engine or a fill the path (log 76). -/
def State.migHolder (s : State) (p : XPath) : Nat × BitVec 64 :=
  match p with
  | .fetch => (s.curCtx, s.me.r.pc)
  | .data => (s.curCtx, s.me.r.pc)
  | _ => (8, 0)
def MigHold.covers (h : MigHold) (va : Nat) : Bool := va / 2 ^ h.lg * 2 ^ h.lg == h.va
/-- An access has been held under MIG and no `tlbi` has dropped its page since. -/
def State.migWaits (s : State) (k : Nat) (p : XPath) (va : Nat) : Bool :=
  (s.tile k).migHeld.any fun h => h.path == p.code && h.ctx == (s.migHolder p).1 && h.pc == (s.migHolder p).2 && h.covers va
/-- An access is held from now on; a context holds one of a path at a time. -/
def State.migHold (s : State) (k : Nat) (p : XPath) (e : TlbEntry) : State :=
  let (c, pc) := s.migHolder p
  let h : MigHold := { path := p.code, ctx := c, pc := pc, va := e.va, lg := e.lg, g := e.g }
  s.updTile k fun t =>
    { t with migHeld := h :: t.migHeld.filter fun q => !(q.path == h.path && q.ctx == h.ctx && (decide (c < 8) || q.va == h.va)) }

/-- How a translation ends; `slot` is the leaf's key slot. `mig` holds the access (R112) until a `tlbi` drops its page (R334); `fx` is
what a fault leaves in the tracker. -/
inductive Xl where
  | ok (pa : Nat) (wch : Bool) (slot : Nat) (s : State)
  | fault (cause : Nat) (detail : BitVec 64) (fx : State → State)
  | mig (s : State)

/-- The key slot of a leaf is loaded and, outside the firmware owner, recorded for this owner (R362). -/
def State.keyOk (s : State) (o key : Nat) : Bool :=
  let q := s.keys.get .reset key
  q.loaded && (o == firmware || q.owner == o)

/-- Detail of a page fault (R326). -/
def pageDetail (span : Nat) (u fetch write malformed : Bool) (level : Nat) : BitVec 64 :=
  BitVec.ofNat 64 (span * 2 ^ 56 + bit u * 2 ^ 55 + bit fetch * 2 ^ 54 + bit write * 2 ^ 53 +
    bit (!write && !fetch) * 2 ^ 52 + bit malformed * 2 ^ 51 + level % 4 * 2 ^ 48)

/-- The checks on an entry: the rights of R83, the physical map, the key slot. `s'` is the state with the entry in its TLBs, and `fx`
what a fault leaves. -/
def State.checkEntry (s : State) (k : Nat) (p : XPath) (lv : Level) (e : TlbEntry) (va : Nat) (write fetch : Bool) (fx : State → State) (s' : State) : Xl :=
  let pa := e.frame + va % 2 ^ e.lg
  let right := if fetch then e.x else if write then e.w else e.r
  if !right || (lv == .u && !e.u) then .fault 0x06 0 fx
  else if paKind pa = .hole then .fault 0x06 1 fx
  else if !s.keyOk (ownerOf k) e.key then .fault 0x06 2 fx
  else if e.mig then .mig (s'.migHold k p e)
  else .ok pa e.wch e.key s'

/-- A walk for a translation: A and D are set in the leaf, and the TLBs of the path are filled (R332). -/
def State.walkFor (s : State) (k : Nat) (p : XPath) (lv : Level) (va : Nat) (write fetch : Bool) : Xl :=
  match walk s.mem (s.owner (ownerOf k)).ptbase va with
  | .stop level bad =>
    .fault 0x05 (pageDetail (s.spanHint k va) (lv == .u) fetch write bad level) (·.trackFault k va)
  | .leaf at_ entry level u =>
    let entry' := setBits (if write then setBits entry 7 1 1 else entry) 6 1 1
    let e := tlbOf va entry' level u
    let c1 := Config.freeWord s.free
    let c2 := Config.freeWord (s.free + 1)
    let s1 := { s with mem := s.mem.writeN at_ 8 entry', free := s.free + 2 }
    let s1 := s1.updTile k (·.fillTlb p c1 e)
    let s1 := s1.updCluster (clusterKey k) fun c =>
      { c with l2 := tlbFill c.l2 1024 c2 e, tracker := c.tracker.map (markResident e) }
    s.checkEntry k p lv e va write fetch (·.noteResident k e) s1

/-- Translates a virtual address for a requester on tile `k` (R332). A write through an entry whose D is clear walks,
since D is set at the entry's home. -/
def State.xlate (s : State) (k : Nat) (p : XPath) (lv : Level) (va : Nat) (write fetch : Bool) : Xl :=
  if s.migWaits k p va then .mig s
  else match findTlb ((s.tile k).tlb p) va with
  | some e =>
    if write && !e.dirty && !e.mig then s.walkFor k p lv va write fetch else s.checkEntry k p lv e va write fetch id s
  | none =>
    match findTlb (s.cluster (clusterKey k)).l2 va with
    | some e =>
      if write && !e.dirty && !e.mig then s.walkFor k p lv va write fetch
      else
        let s1 := { s with free := s.free + 1 }
        s.checkEntry k p lv e va write fetch id (s1.updTile k (·.fillTlb p (Config.freeWord s.free) e))
    | none =>
      let s := s.countCluster (clusterKey k) 0x0101
      s.walkFor k p lv va write fetch

end Sys2Proof.Machine
end

