-- ==== Sys2Proof/Machine/Route.lean ====
section
/-! DEFINITION. The logical torus and routes: segments, the walk of a route, the injection checks (R261 to R268),
reply routes (R265), anchored rows and route registers (R271 to R276). -/

namespace Sys2Proof.Machine

/-- Segment i of a route (R263, R264). -/
def seg (r : BitVec 128) (i : Nat) : Nat := bitsAt r.toNat (8 * i) 8
def segs (r : BitVec 128) : List Nat := (List.range 16).map (seg r)
def routeOf : List Nat → Nat
  | [] => 0
  | b :: r => b % 256 + 256 * routeOf r
/-- A route from segments, END after the last (R265). -/
def mkRoute (l : List Nat) : BitVec 128 := BitVec.ofNat 128 (routeOf ((l ++ List.replicate 16 0xE0).take 16))

def segDir (b : Nat) : Nat := b / 32
/-- Hops of a movement segment: 0 encodes 32. -/
def segHops (b : Nat) : Nat := if b % 32 = 0 then 32 else b % 32
def isMove (b : Nat) : Bool := decide (b < 128)
def isEject (b : Nat) : Bool := segDir b == 4 || segDir b == 5

/-- A position: module row and column, or physical row and column of a die in boot mode. -/
structure Pos where
  row : Nat
  col : Nat
deriving DecidableEq, Repr

/-- Where an entry of tables 5 and 6 stands. -/
def entrySite (e : Nat) : Pos :=
  { row := 32 * (bitsAt e 0 6 / 8) + bitsAt e 6 10 / 32, col := 32 * (bitsAt e 0 6 % 8) + bitsAt e 6 10 % 32 }

/-- One hop on the torus (R261): 0 N, 1 E, 2 S, 3 W. -/
def Pos.hop (p : Pos) (d : Nat) : Pos :=
  match d with
  | 0 => { p with row := (p.row + 255) % 256 }
  | 1 => { p with col := (p.col + 1) % 256 }
  | 2 => { p with row := (p.row + 1) % 256 }
  | _ => { p with col := (p.col + 255) % 256 }
/-- One hop between the physical sites of a die in boot mode, where skipped sites count like any other (R349). -/
def Pos.hopPhys (p : Pos) (d : Nat) : Pos :=
  match d with
  | 0 => { p with row := p.row - 1 }
  | 1 => { p with col := p.col + 1 }
  | 2 => { p with row := p.row + 1 }
  | _ => { p with col := p.col - 1 }
/-- A physical site of a die is skipped, and whether it is fused off; the corner of a shipped die is live (R349, R351). -/
def siteSkips (die site : Nat) : Bool := site != 0 && Config.siteSkipped die site
def siteIsFused (die site : Nat) : Bool := siteSkips die site && Config.siteFused die site

/-- Where a tile stands. -/
def State.posOf (s : State) (k : Nat) : Pos :=
  if bootBase ≤ k then { row := rowOf k, col := colOf k }
  else
    let b := (s.bedOf (ownerOf k) (formeOf k)).getD 0
    { row := 32 * (b / 8) + rowOf k, col := 32 * (b % 8) + colOf k }
/-- The hop a packet of tile `k` makes. -/
def State.hop (_s : State) (k : Nat) (p : Pos) (d : Nat) : Pos :=
  if bootBase ≤ k then p.hopPhys d else p.hop d
/-- The tile at a position: the bed there, and what lies on it. -/
def State.tileAt (s : State) (k : Nat) (p : Pos) : Option Nat :=
  if bootBase ≤ k then (if p.row < 32 ∧ p.col < 33 then some (bootBase + formeOf k * 1056 + p.row * 33 + p.col) else none)
  else
    let e := (s.map 0 ((p.row / 32) * 8 + p.col / 32)).toNat
    let o := if bitAt e 12 then firmware else bitsAt e 0 6
    some (tileKey o (bitsAt e 6 6 * 1024 + (p.row % 32) * 32 + p.col % 32))

/-- The hops of a route's movement segments up to its first EJECT: segment number and direction of each. A FLOOD or an END before the
EJECT adds none (the spec says nothing of them there: DESIGN CHOICE, log 31). -/
def hopList : List (Nat × Nat) → List (Nat × Nat)
  | [] => []
  | (i, b) :: r => if isMove b then List.replicate (segHops b) (i, segDir b) ++ hopList r else if isEject b then [] else hopList r
def indexed (l : List Nat) : List (Nat × Nat) := (List.range l.length).zip l
def routeHops (r : BitVec 128) : List (Nat × Nat) := hopList (indexed (segs r))
/-- Index of the first EJECT. -/
def firstEject (r : BitVec 128) : Option Nat := findFrom (fun i => isEject (seg r i)) 16 0
/-- Where a route of tile `k` ends. -/
def State.routeEnd (s : State) (k : Nat) (p : Pos) (r : BitVec 128) : Pos :=
  (routeHops r).foldl (fun p h => s.hop k p h.2) p

/-! ### The injection checks (R266, Table 6) -/

/-- The turn from direction a to b as a bit of a turn set (R267); a U-turn has none. -/
def turnBit (a b : Nat) : Option Nat :=
  match a, b with
  | 0, 1 => some 0 | 1, 2 => some 1 | 2, 3 => some 2 | 3, 0 => some 3
  | 0, 3 => some 4 | 3, 2 => some 5 | 2, 1 => some 6 | 1, 0 => some 7
  | _, _ => none
/-- The reverse of a turn set (R267). -/
def reverseSet (t : Nat) : Nat :=
  bit (bitAt t 0) * 32 + bit (bitAt t 1) * 16 + bit (bitAt t 2) * 128 + bit (bitAt t 3) * 64 +
  bit (bitAt t 4) * 2 + bit (bitAt t 5) + bit (bitAt t 6) * 8 + bit (bitAt t 7) * 4
/-- The test of R268: some clockwise turn a→b is missing and some counter-clockwise turn other than b→a. The turn
b→a of clockwise bit 0, 1, 2, 3 is counter-clockwise bit 7, 6, 5, 4. -/
def turnTest (t : Nat) : Bool :=
  (List.range 4).any fun i => !bitAt t i && ([4, 5, 6, 7].any fun j => !bitAt t j && j != 7 - i)
def turnSetOk (t : Nat) : Bool := turnTest t && turnTest (reverseSet t)

/-- A port is attached at an eject site (R264). -/
def State.portAttached (s : State) (p : Pos) (port : Nat) : Bool :=
  let bed := (p.row / 32) * 8 + p.col / 32
  let site := (p.row % 32) * 32 + p.col % 32
  let at_ (e : Nat) : Bool := bitsAt e 0 6 == bed && bitsAt e 6 10 == site
  if port < 6 then (List.range 144).any fun h => at_ (s.map 5 h).toNat && bitsAt (s.map 5 h).toNat 16 3 == port
  else if port = 6 then at_ (s.map 6 0).toNat
  else
    let zs := ((List.range 32).map (· + 1)).filter fun i => s.imap.any (fun e => e.1 == 6 * 4096 + i) &&
      bitsAt (s.map 6 i).toNat 0 6 == bed
    match zs[port - 8]? with
    | some i => at_ (s.map 6 i).toNat
    | none => false

/-- The link that a hop from `p` takes is marked fenced (R266, R339 table 4). -/
def State.linkFenced (s : State) (p : Pos) (d : Nat) : Bool :=
  let q := if d = 0 then p.hop 0 else if d = 3 then p.hop 3 else p
  let k := 2 * ((q.row % 32) * 32 + q.col % 32) + (if d % 2 = 0 then 1 else 0)
  let die := (q.row / 32) * 8 + q.col / 32
  (s.map 4 (die * 32 + k / 64)).getLsbD (k % 64)

/-- A hop crosses the dateline of its dimension (R269). -/
def crosses (p : Pos) (d : Nat) : Bool :=
  match d with
  | 0 => p.row == 0
  | 2 => p.row == 255
  | 1 => p.col == 255
  | _ => p.col == 0

/-- State of the scan over a route's hops: where it stands, the run and its length, the run that crossed each
dateline (rows, columns), and the first failing segment of checks 6 and 7. -/
structure RunScan where
  pos : Pos
  run : Nat
  dir : Nat
  len : Nat
  crossRow : Option Nat
  crossCol : Option Nat
  bad5 : Option Nat
  bad6 : Option Nat
deriving DecidableEq, Repr

def State.scanHop (s : State) (k : Nat) (boot : Bool) (x : RunScan) (h : Nat × Nat) : RunScan :=
  let (i, d) := h
  let fresh := x.dir != d
  let run := if fresh then x.run + 1 else x.run
  let len := if fresh then 1 else x.len + 1
  let cr := !boot && crosses x.pos d
  let prev := if d % 2 = 0 then x.crossRow else x.crossCol
  let twice := cr && (match prev with | some r => r != run | none => false)
  let first (o : Option Nat) (b : Bool) : Option Nat := match o with
    | some v => some v
    | none => if b then some i else none
  { pos := s.hop k x.pos d, run := run, dir := d, len := len,
    crossRow := if cr && d % 2 == 0 && prev.isNone then some run else x.crossRow,
    crossCol := if cr && d % 2 == 1 && prev.isNone then some run else x.crossCol,
    bad5 := first x.bad5 (decide (len > 255) || twice),
    bad6 := first x.bad6 (!boot && s.linkFenced x.pos d) }

/-- The status word of R266 for a route of tile `k` from position `p`: 0, or code + 256 × failing segment. `reg` is
true for a route register; FLOOD is legal at M during boot. -/
def State.checkRoute (s : State) (k : Nat) (p : Pos) (r : BitVec 128) (turns : Nat) (reg flood : Bool) : Nat :=
  let boot := decide (bootBase ≤ k)
  let l := indexed (segs r)
  match firstEject r with
  | none => 0x01
  | some e =>
    if e > 14 then 0x01
    else
      let bad2 := l.find? fun (i, b) =>
        (decide (i > e) && b != 0xE0) || (decide (i ≤ e) &&
          ((segDir b == 4 || segDir b == 6 || segDir b == 7) && b % 32 != 0 || (segDir b == 5 && (b % 32 == 7 || decide (b % 32 ≥ 16)))))
      let eb := seg r e
      let here := s.routeEnd k p r
      match bad2 with
      | some (i, _) => 0x02 + 256 * i
      | none =>
        if reg && eb != 0x80 then 0x02 + 256 * e
        else if segDir eb == 5 && !boot && !s.portAttached here (eb % 32) then 0x02 + 256 * e
        else match l.find? (fun (i, b) => decide (i < e) && segDir b == 6 && !flood) with
          | some (i, _) => 0x03 + 256 * i
          | none =>
            let turnBad := (List.range (e - 1)).find? fun i =>
              isMove (seg r i) && isMove (seg r (i + 1)) && segDir (seg r i) != segDir (seg r (i + 1)) &&
              (match turnBit (segDir (seg r i)) (segDir (seg r (i + 1))) with
               | some t => !bitAt turns t
               | none => true)
            match turnBad with
            | some i => 0x04 + 256 * (i + 1)
            | none =>
              let x := (routeHops r).foldl (s.scanHop k boot)
                { pos := p, run := 0, dir := 9, len := 0, crossRow := none, crossCol := none, bad5 := none, bad6 := none }
              match x.bad5, x.bad6 with
              | some i, _ => 0x05 + 256 * i
              | none, some i => 0x06 + 256 * i
              | none, none => 0

/-- The return segment after the first EJECT, END after it (R265). -/
def withReturn (r : BitVec 128) (ret : Nat) : BitVec 128 :=
  match firstEject r with
  | some e => mkRoute ((segs r).take (e + 1) ++ [ret])
  | none => r
/-- The reply route of a request route (R265). -/
def replyRoute (q : BitVec 128) : BitVec 128 :=
  match firstEject q with
  | some e => mkRoute ((((segs q).take e).reverse.map fun b => (segDir b + 2) % 4 * 32 + b % 32) ++ [seg q (e + 1)])
  | none => q

/-! ### Route registers (R271) -/

/-- The check of R266 and R273 on a route register; a register of zeros holds no route (log 31). -/
def State.checkReg (s : State) (n : Nat) : Nat :=
  let r := s.me.y.rts.get 0 n
  if r = 0 then 0x07
  else s.checkRoute s.cur (s.posOf s.cur) r (s.owner (ownerOf s.cur)).turnSet.toNat true
    (s.boot && s.me.c.level == .m)

/-- Injects through a route register: the route with its return segment, the target tile, the checked bit set; or
the status of a refused route (R80, R271). -/
def State.injectReg (s : State) (n : Nat) : Except Nat (BitVec 128 × Option Nat × State) :=
  let r := s.me.y.rts.get 0 n
  let st := if s.me.y.rtck.getLsbD n then 0 else s.checkReg n
  if st ≠ 0 then .error st
  else .ok (withReturn r 0x80, s.tileAt s.cur (s.routeEnd s.cur (s.posOf s.cur) r),
    s.updY fun y => { y with rtck := y.rtck ||| ((1 : BitVec 16) <<< n) })

/-- Any change to a turn set or to the link-health bitmap clears the checked bits of an owner (R271). -/
def State.clearChecked (s : State) (o : Nat) : State :=
  { s with tiles := s.tiles.map fun (k, t) =>
      (k, if ownerOf k = o then { t with ctxs := t.ctxs.map fun (c, x) => (c, { x with y := { x.y with rtck := 0 } }) } else t) }

/-! ### Anchored rows (R275, R276) -/

/-- Runs as pairs of vertical or horizontal and a signed length, south and east positive. -/
abbrev RouteRun := Bool × Int
/-- Adds a run, merging it with a run of the same dimension before it and dropping a zero. -/
def pushRun (l : List RouteRun) (r : RouteRun) : List RouteRun :=
  match l with
  | (v, n) :: rest => if v = r.1 then (if n + r.2 = 0 then rest else (v, n + r.2) :: rest) else if r.2 = 0 then l else r :: l
  | [] => if r.2 = 0 then [] else [r]
/-- A run as segments of at most 32 hops. -/
def runSegs (d n : Nat) : List Nat :=
  List.replicate (n / 32) (d * 32) ++ (if n % 32 = 0 then [] else [d * 32 + n % 32])
def RouteRun.segs : RouteRun → List Nat
  | (true, n) => if n < 0 then runSegs 0 n.natAbs else runSegs 2 n.natAbs
  | (false, n) => if n < 0 then runSegs 3 n.natAbs else runSegs 1 n.natAbs
def moveRun (b : Nat) : RouteRun :=
  match segDir b with
  | 0 => (true, -(segHops b : Int))
  | 1 => (false, segHops b)
  | 2 => (true, segHops b)
  | _ => (false, -(segHops b : Int))

/-- The route of a packet from the tile at (row, col) along a row's route (R275, steps 1 to 4); none when it needs
more than 15 segments before its EJECT. -/
def combineRoute (r : BitVec 128) (row col : Nat) : Option (BitVec 128) :=
  let moves := (segs r).takeWhile isMove
  let west := moves.takeWhile fun b => segDir b == 3
  let w := (west.map segHops).sum
  let rest := moves.drop west.length
  let runs := ([(false, -((col + w : Nat) : Int)), (true, -(row : Int))] ++ rest.map moveRun).foldl pushRun []
  let out := (runs.reverse.map RouteRun.segs).flatten
  if out.length > 15 then none else some (mkRoute (out ++ (segs r).drop moves.length))

/-- Why an access through an anchored row is refused: the fault of R276 or R266. -/
def State.anchored (s : State) (k row : Nat) : Except FaultArg (BitVec 128) :=
  let v := (s.forme (formeKey k)).anch.get .reset row
  if !v.valid then .error { cause := 0x08, detail := 0x07 }
  else if v.tag != s.turns.setWidth 32 then .error { cause := 0x09, detail := BitVec.ofNat 64 row }
  else match combineRoute v.route (rowOf k) (colOf k) with
    | none => .error { cause := 0x08, detail := 0x01 }
    | some r =>
      let st := s.checkRoute k (s.posOf k) r (s.owner (ownerOf k)).turnSet.toNat false false
      if st ≠ 0 then .error { cause := 0x08, detail := BitVec.ofNat 64 st } else .ok (withReturn r 0x80)

end Sys2Proof.Machine
end

