-- ==== Sys2Proof/Machine/Access.lean ====
section
/-! DEFINITION. The shared operations of every memory access: reads and writes of tile memory with their written
bits, poison marks, proof copies and release marks; demand windows (R90 to R95); atomic functions (R116, R117); the
ordered-access bookkeeping of a context (R102, R103, R110); and how an access of space 2 or 3 leaves its context
(R78, R80, R83, R100). -/

namespace Sys2Proof.Machine

/-! ### Encryption of module memory (R362, log 51)

`mem` holds what was written, and `lineKeys` the keys under which each 64-byte line was: a read through a slot that holds those
keys reads what was written, one through a slot that holds others reads what those make of the ciphertext. -/

/-- The keys that a slot holds. -/
def State.keyPair (s : State) (slot : Nat) : BitVec 512 := (s.keys.get .reset slot).tweak ++ (s.keys.get .reset slot).data
/-- Line l reads through a slot as it was written. -/
def State.lineClear (s : State) (slot l : Nat) : Bool :=
  match s.lineKeys.get none l with
  | some w => w == s.keyPair slot
  | none => true
/-- Line l as it reads through a slot. -/
def State.lineRead (s : State) (slot l : Nat) : BitVec 512 :=
  let text := BitVec.ofNat 512 (s.mem.readN (64 * l) 64)
  match s.lineKeys.get none l with
  | some w => if w = s.keyPair slot then text else Config.decipher l w (s.keyPair slot) text
  | none => text
/-- Every line of [pa, pa + n) reads through a slot as it was written. -/
def State.rangeClear (s : State) (slot pa n : Nat) : Bool :=
  (findFrom (fun l => !s.lineClear slot l) ((pa + n + 63) / 64 - pa / 64) (pa / 64)).isNone
/-- n bytes of memory as they read through a slot. -/
def State.memBytes (s : State) (slot pa n : Nat) : List Byte :=
  if s.rangeClear slot pa n then s.mem.bytes pa n
  else (List.range n).map fun i => BitVec.ofNat 8 ((s.lineRead slot ((pa + i) / 64)).toNat / 2 ^ (8 * ((pa + i) % 64)))
/-- The same as a number. -/
def State.memReadN (s : State) (slot pa n : Nat) : Nat :=
  if s.rangeClear slot pa n then s.mem.readN pa n else bytesNat (s.memBytes slot pa n)
/-- A line that is written through a slot is encrypted under its keys from then on. -/
def State.rekeyLine (s : State) (slot l : Nat) : State :=
  match s.lineKeys.get none l with
  | some w =>
    if w = s.keyPair slot then s
    else { s with mem := s.mem.put (64 * l) (natBytes 64 (s.lineRead slot l).toNat), lineKeys := s.lineKeys.set l (some (s.keyPair slot)) }
  | none => { s with lineKeys := s.lineKeys.set l (some (s.keyPair slot)) }
/-- The lines of [pa, pa + n), when they are module memory. -/
def State.rekey (s : State) (slot pa n : Nat) : State :=
  if paKind pa = .module then foldUp (fun s l => s.rekeyLine slot l) ((pa + n + 63) / 64 - pa / 64) (pa / 64) s else s
/-- Writes bytes at a physical address through a slot; whole doublewords lose their poison marks (R367). -/
def State.putUnder (s : State) (slot pa : Nat) (bs : List Byte) : State :=
  let s1 := s.rekey slot pa bs.length
  let (u, k) := wholeUnits pa bs.length
  { s1 with mem := s1.mem.put pa bs, memPoison := delRange s1.memPoison u k }
/-- Writes the low n bytes of a number. -/
def State.setUnder (s : State) (slot pa n v : Nat) : State :=
  let s1 := s.rekey slot pa n
  let (u, k) := wholeUnits pa n
  { s1 with mem := s1.mem.writeN pa n v, memPoison := delRange s1.memPoison u k }

/-! ### Proof copies (R374) -/

/-- Physical address and key slot behind an address of an owner's own pages, mapped with the rights asked for, under a key slot that is
loaded and the owner's (R362). -/
def State.poolAt (s : State) (o va : Nat) (write : Bool) : Option (Nat × Nat) :=
  match walk s.mem (s.owner o).ptbase va with
  | .leaf _ e level _ =>
    let t := tlbOf va e level true
    let pa := t.frame + va % 2 ^ t.lg
    if t.r && (t.w || !write) && paKind pa == .module && s.keyOk o t.key then some (pa, t.key) else none
  | .stop _ _ => none
def poolBase : Nat := 2 ^ 56

/-- Copies bytes into the pool by 4 KiB pieces; none when a page is missing. -/
def State.poolCopy (s : State) (o : Nat) : List (List Byte) → Nat → Option State
  | [], _ => some s
  | b :: r, va =>
    match s.poolAt o va true with
    | some (pa, slot) => State.poolCopy ((s.leafUsed o va true).putUnder slot pa b) o r (va + 4096)
    | none => none

/-- The proof record at VA 2^56 (R374, Table 4). -/
def State.proofRecord (s : State) (o : Nat) : State :=
  let p := (s.owner o).proof
  match s.poolAt o poolBase true with
  | some (pa, slot) =>
    (s.leafUsed o poolBase true).putUnder slot pa (natBytes 64 (p.number.toNat + p.state.toNat * 2 ^ 32 + p.sstep.toNat * 2 ^ 64 + p.used * 2 ^ 128 + p.pending * 2 ^ 192))
  | none => s

/-- Bytes of a unit as they stand, in 4 KiB pieces: kind 0 tile store, 1 scratchpad, 2 the frame of a page. -/
def State.unitBytes (s : State) (o : Nat) (u : PUnit) : List (List Byte) :=
  match u.kind with
  | 0 => [(s.tile u.tile).store.bytes (u.unit * 4096) 4096]
  | 1 => [(s.tile u.tile).pad.bytes (u.unit * 4096) 4096]
  | _ =>
    match s.poolAt o (u.unit * 65536) false with
    | some (pa, slot) => (List.range 16).map fun i => s.memBytes slot (pa + 4096 * i) 4096
    | none => []
/-- Bytes of a unit. -/
def PUnit.bytes (u : PUnit) : Nat := if u.kind < 2 then 4096 else 65536
def PUnit.same (u v : PUnit) : Bool := u.kind == v.kind && u.tile == v.tile && u.unit == v.unit

/-- The copies that a rollback to the latest complete proof needs: of each unit the oldest since it was taken. -/
def Proof.kept (p : Proof) : List PUnit := (p.saved.filter fun u => !p.older.any u.same) ++ p.older
/-- A taken proof is abandoned: its own copies are released, and an armed one takes its place. The previous complete proof stays in force:
what a rollback to it needs is kept, and copying goes on for it; without one copying stops (R374, R376, log 66). -/
def Proof.abandon (p : Proof) : Proof :=
  let keep := if p.complete.isSome then p.kept else []
  let p := { p with copying := p.complete.isSome, saved := [], older := keep, used := (keep.map PUnit.bytes).sum }
  if p.queued then { p with number := p.number + 1, state := 0, queued := false } else { p with state := 3 }
/-- A first write of a unit is to be copied: for the proof taken last, or, once that is complete or abandoned, for the complete one. -/
def Proof.wants (p : Proof) (u : PUnit) : Bool :=
  p.copying && !p.saved.any u.same && (p.state == 1 || !p.older.any u.same)
/-- The pool address of a copy of n bytes: the lowest that no copy in the pool overlaps (log 66). -/
def Proof.place (p : Proof) (n : Nat) : Nat :=
  let taken := p.saved ++ p.older
  let free (a : Nat) : Bool := taken.all fun u => decide (a + n ≤ u.pool) || decide (u.pool + u.bytes ≤ a)
  let ends := taken.map fun u => u.pool + u.bytes
  let top := ends.foldl max (poolBase + 4096)
  ((poolBase + 4096) :: ends).foldl (fun m a => if free a && decide (a < m) then a else m) top

/-- Copies a unit into the pool where its first write is to be copied; none when a page of the pool is missing. -/
def State.saveUnit (s : State) (o : Nat) (u : PUnit) : Option State :=
  let p := (s.owner o).proof
  if p.wants u then
    let va := p.place u.bytes
    (s.poolCopy o (s.unitBytes o u) va).map fun s1 =>
      (s1.updOwner o fun w =>
        { w with proof := { w.proof with saved := { u with pool := va } :: w.proof.saved, used := w.proof.used + u.bytes } }).proofRecord o
  else some s
/-- A write is about to reach a unit: its first write after a proof is taken copies the old contents, also once that proof is
complete, since a rollback returns to it (R374, R376); and units written since the last proof are remembered (R375). Where the pool has
no page a taken proof is abandoned, and what that frees is used for the complete one; a complete proof stays, without this unit
(log 66). -/
def State.noteUnit (s : State) (o kind tile unit : Nat) : State :=
  let u : PUnit := { kind := kind, tile := tile, unit := unit, pool := 0, sent := false }
  let mark (s : State) : State := s.updOwner o fun w =>
    { w with proof := { w.proof with dirty := if w.proof.dirty.any u.same then w.proof.dirty else u :: w.proof.dirty } }
  match s.saveUnit o u with
  | some s1 => mark s1
  | none =>
    if (s.owner o).proof.state ≠ 1 then mark s
    else
      let s1 := (s.updOwner o fun w => { w with proof := w.proof.abandon }).proofRecord o
      mark ((s1.saveUnit o u).getD s1)

/-! ### Tile memory: space 0 the scratchpad, 1 the tile store -/

def Tile.memOf (t : Tile) (sp : Nat) : Memory := if sp = 0 then t.pad else t.store
def Tile.poisonOf (t : Tile) (sp : Nat) : List Nat := if sp = 0 then t.padPoison else t.storePoison
/-- First offset outside a space (R70). -/
def spaceLimit (sp : Nat) : Nat := if sp = 0 then 0x8000 else 0x60000

/-- n bytes at an offset, as a number. -/
def State.tileRead (s : State) (k sp off n : Nat) : Nat := ((s.tile k).memOf sp).readN off n
/-- The first poisoned 8-byte unit of [off, off + n). -/
def State.tilePoison (s : State) (k sp off n : Nat) : Option Nat :=
  findFrom (fun u => ((s.tile k).poisonOf sp).contains u) ((off + n + 7) / 8 - off / 8) (off / 8)

/-- The units of [off, off + n) of a tile memory are about to be written (R374). -/
def State.noteUnits (s : State) (k sp off n : Nat) : State :=
  foldUp (fun s u => s.noteUnit (ownerOf k) (1 - sp) k u) ((off + n + 4095) / 4096 - off / 4096) (off / 4096) s
/-- Writes the low n bytes of a number at an offset of a tile memory. -/
def State.tileWrite (s : State) (k sp off n v : Nat) : State :=
  let s := s.noteUnits k sp off n
  s.updTile k fun t => t.put sp off n fun m => m.writeN off n v
/-- Writes bytes. -/
def State.tilePut (s : State) (k sp off : Nat) (bs : List Byte) : State :=
  let s := s.noteUnits k sp off bs.length
  s.updTile k fun t => t.put sp off bs.length fun m => m.put off bs

/-- The fault of a poisoned tile-memory unit that a core instruction consumes (R367, Table 2). -/
def poisonFault (sp unit : Nat) : FaultArg :=
  { cause := 0x11, address := BitVec.ofNat 64 (unit * 8), detail := if sp = 0 then 1 else 2, allow := allowRetryRestartKill }

/-! ### Module memory, host memory and remote windows by physical address -/

/-- Writes the low n bytes of a number at a physical address through a key slot, for an owner; `va` is the address the writer
used. -/
def State.memWrite (s : State) (o va slot pa n v : Nat) : State := (s.noteUnit o 2 0 (va / 65536)).setUnder slot pa n v
/-- Writes bytes. -/
def State.memPut (s : State) (o va slot pa : Nat) (bs : List Byte) : State := (s.noteUnit o 2 0 (va / 65536)).putUnder slot pa bs
/-- The first poisoned doubleword of [pa, pa + n). -/
def State.poisonIn (s : State) (pa n : Nat) : Option Nat :=
  findFrom (fun u => s.memPoison.contains u) ((pa + n + 7) / 8 - pa / 8) (pa / 8)
/-- A doubleword of [pa, pa + n) is poisoned. -/
def State.memPoisoned (s : State) (pa n : Nat) : Bool := (s.poisonIn pa n).isSome

/-! ### Atomic functions (R116, Table 2; R117) -/

/-- BF16 addition of a lane, RNE, no saturation. -/
def bf16Add (a b : Nat) : Nat :=
  (narrow .bf16 .rne false (sumF .rne [Fmt.read .bf16 (a % 65536), Fmt.read .bf16 (b % 65536)]).1).1

/-- F(old, b) on n bytes. -/
def AmoKind.apply (k : AmoKind) (n old b : Nat) : Nat :=
  let w := 8 * n
  match k with
  | .add => (old + b) % 2 ^ w
  | .and => old &&& b
  | .or => old ||| b
  | .xor => old ^^^ b
  | .min => if signedOf w old ≤ signedOf w b then old else b
  | .max => if signedOf w old ≤ signedOf w b then b else old
  | .minu => if old ≤ b then old else b
  | .maxu => if old ≤ b then b else old
  | .xchg => b
  | .cas => b
  | .fadd => (fpAdd .rne old b).1
  | .fmin => (fpMinMax false old b).1
  | .fmax => (fpMinMax true old b).1
  | .bfadd2 => bf16Add old b + bf16Add (old / 65536) (b / 65536) * 65536

/-- The new contents of the location: `cas` writes only when old is the expected value. -/
def AmoKind.newValue (k : AmoKind) (n old b expected : Nat) : Nat :=
  if k = .cas && old != expected % 2 ^ (8 * n) then old else k.apply n old (b % 2 ^ (8 * n))

/-- Extend(old) of R116. -/
def AmoKind.extend (k : AmoKind) (n old : Nat) : Word :=
  if n = 8 then BitVec.ofNat 64 old
  else if k = .minu || k = .maxu then BitVec.ofNat 64 old
  else sextLow 32 (BitVec.ofNat 64 old)

/-! ### Demand windows (R90 to R95) -/

/-- The valid entry whose window holds a sector, and the sector's number in it. -/
def Tile.windowOf (t : Tile) (sector : Nat) : Option (Nat × Nat) :=
  match findFrom (fun i => let e := t.regTab.get .reset i
      e.valid && decide (e.start ≤ sector) && decide (sector < e.start + e.len)) 16 0 with
  | some i => some (i, sector - (t.regTab.get .reset i).start)
  | none => none
/-- State of a scratchpad sector: absent 0, filling 1, present 2; a sector in no window is as good as present. -/
def Tile.sectorState (t : Tile) (sector : Nat) : Nat :=
  match t.windowOf sector with
  | some (i, j) => (t.regTab.get .reset i).states.get 0 j
  | none => 2
def Tile.setSector (t : Tile) (sector v : Nat) : Tile :=
  match t.windowOf sector with
  | some (i, j) =>
    let e := t.regTab.get .reset i
    { t with regTab := t.regTab.set i { e with states := e.states.set j v } }
  | none => t

/-- The sectors of [off, off + n) that are not present. -/
def Tile.missing (t : Tile) (off n : Nat) : List Nat :=
  ((List.range ((off + n + 255) / 256 - off / 256)).map (off / 256 + ·)).filter fun x => t.sectorState x != 2

/-! ### Accesses to tile memory that perform in one step (R78, R94) -/

/-- Writes a scalar register by its place in the tile's file. -/
def State.wphys (s : State) (k : Nat) (r : Option Nat) (v : Word) : State :=
  match r with
  | some p => s.updTile k fun t => { t with xr := t.xr.set p v, xPoison := t.xPoison.filter (· != p) }
  | none => s
/-- Place of a window-relative register of the moving context; x0 has none (R24). -/
def State.place (s : State) (n : Nat) : Option Nat := if n = 0 then none else some (s.me.r.xbase + n)

/-- A value of n bytes extended to 64 bits. -/
def Ext.extend (e : Ext) (n v : Nat) : Word :=
  match e with
  | .zero => BitVec.ofNat 64 v
  | .sign => sextLow (8 * n) (BitVec.ofNat 64 v)

def LocalOp.reads : LocalOp → Bool
  | .store _ _ => false
  | .runStore _ => false
  | _ => true
def LocalOp.writes : LocalOp → Bool
  | .store _ _ => true
  | .runStore _ => true
  | .amo _ _ _ _ _ => true
  | _ => false
def LocalOp.size : LocalOp → Nat
  | .load n _ _ => n
  | .pair _ => 16
  | .runLoad l => 8 * l.length
  | .store n _ => n
  | .runStore l => 8 * l.length
  | .amo _ n _ _ _ => n

/-- Writes consecutive doublewords. -/
def State.storeRun (s : State) (k sp : Nat) : Nat → List Word → State
  | _, [] => s
  | off, v :: r => State.storeRun (s.tileWrite k sp off 8 v.toNat) k sp (off + 8) r
/-- Loads consecutive doublewords into registers. -/
def State.loadRun (s : State) (k sp : Nat) : Nat → List (Option Nat) → State
  | _, [] => s
  | off, r :: rest => State.loadRun (s.wphys k r (BitVec.ofNat 64 (s.tileRead k sp off 8))) k sp (off + 8) rest

/-- Performs an access to tile memory, or meets poison that it consumes (R72, R367). -/
def State.doLocal (s : State) (k sp off : Nat) (op : LocalOp) : Except FaultArg State :=
  let eats := op.reads || decide (op.size < 8)
  match if eats then s.tilePoison k sp off op.size else none with
  | some u => .error (poisonFault sp u)
  | none =>
    match op with
    | .load n e r => .ok (s.wphys k r (e.extend n (s.tileRead k sp off n)))
    | .pair r =>
      .ok ((s.wphys k (some r) (BitVec.ofNat 64 (s.tileRead k sp off 8))).wphys k (some (r + 1))
        (BitVec.ofNat 64 (s.tileRead k sp (off + 8) 8)))
    | .runLoad rs => .ok (s.loadRun k sp off rs)
    | .store n v => .ok (s.tileWrite k sp off n v.toNat)
    | .runStore vs => .ok (s.storeRun k sp off vs)
    | .amo a n b x r =>
      let old := s.tileRead k sp off n
      .ok ((s.tileWrite k sp off n (a.newValue n old b.toNat x.toNat)).wphys k r (a.extend n old))

/-! ### Order of a context's accesses (R102, R103, R110) -/

/-- Orders 2 and 3 are releases, 1 and 3 acquires (R73, R102, R103). -/
def isRel (o : BitVec 2) : Bool := o == 2 || o == 3
def isAcq (o : BitVec 2) : Bool := o == 1 || o == 3

/-- An earlier acquire or SC access of the context has not performed: no access issues (R103). -/
def State.acqHeld (s : State) : Bool :=
  match s.me.y.acq with
  | some n => s.flights.any fun f => f.id == n
  | none => false
/-- Everything the moving context has issued has performed (R102), by its ended thread too: slot c + 4 keeps what that one left. -/
def State.allQuiet (s : State) : Bool := s.quiet s.cur s.curCtx s.nextId && s.quiet s.cur (s.curCtx + 4) s.nextId

/-- Puts an entry into the clearance table (R110): an entry of the same source is replaced, a full table evicts the
least recently installed. -/
def Sync.install (y : Sync) (e : Clear) : Sync :=
  let l := y.clear.filter fun q => !(q.ltile == e.ltile && q.ctx == e.ctx)
  if l.length < 64 then { y with clear := l ++ [e] }
  else { y with clear := l.drop 1 ++ [e], evicted := l.take 1 ++ y.evicted }

/-- The cluster of an owner that a logical tile lies in (R8). -/
def ltCluster (lt : Nat) : Nat := lt / 1024 * 64 + lt % 1024 / 128 * 8 + lt % 32 / 4
/-- An observer, tile `lt` of owner `o`, lies with the maker of a mark in the scope of both its order and the mark (R104, Table 3,
R107). -/
def Mark.reaches (m : Mark) (o lt : Nat) (scope : BitVec 2) : Bool :=
  match min m.scope.toNat scope.toNat with
  | 3 => true
  | 2 => m.owner == o
  | 1 => m.owner == o && ltCluster m.who.ltile.toNat == ltCluster lt
  | _ => m.owner == o && m.who.ltile.toNat == lt
/-- The marks that an acquire of a scope takes on tile k, those of releases, or a fence, those of fences (Table 3). -/
def State.taken (s : State) (k : Nat) (scope : BitVec 2) (fence : Bool) (l : List Mark) : List Mark :=
  l.filter fun m => m.fence == fence && m.reaches (ownerOf k) (s.ltileRead k) scope
/-- Installs marks. -/
def Sync.takes (y : Sync) (l : List Mark) : Sync := l.foldl (fun y m => y.install m.who) y

/-- The mark of context c of tile k, with a region number and a scope. -/
def State.markOf (s : State) (k c : Nat) (m : BitVec 24 × BitVec 2) (fence : Bool) : Mark :=
  { who := { ltile := BitVec.ofNat 16 (s.ltileRead k), ctx := BitVec.ofNat 2 c, region := m.1 }, owner := ownerOf k, scope := m.2,
    fence := fence }
/-- What a store of the moving context leaves with its location: the mark of a release, and those of the last fences of stores. -/
def State.leaves (s : State) (o scope : BitVec 2) : List Mark :=
  (if isRel o then [s.markOf s.cur s.curCtx (s.me.y.region, scope) false] else []) ++
    s.me.y.fenced.map fun m => s.markOf s.cur s.curCtx m true

/-- Sets the list of marks of n words from w on. -/
def markWords (marks : SMap (List Mark)) (w n : Nat) (l : List Mark) : SMap (List Mark) :=
  if l.isEmpty then (if marks.isEmpty then marks else marks.filter fun e => decide (e.1 < w) || decide (w + n ≤ e.1))
  else foldUp (fun m i => m.set (w + i) l) n 0 marks
/-- Words of [off, off + n). -/
def wordsOf (off n : Nat) : Nat := (off + n + 3) / 4 - off / 4
/-- The marks of n words from w on, each once. -/
def marksIn (marks : SMap (List Mark)) (w n : Nat) : List Mark :=
  ((List.range n).flatMap fun i => marks.get [] (w + i)).foldl (fun l m => if l.contains m then l else l ++ [m]) []

/-- Marks in the words of [off, off + n) of a tile memory. -/
def Tile.marksAt (t : Tile) (sp off n : Nat) : List Mark := marksIn t.marks (sp * 2 ^ 20 + off / 4) (wordsOf off n)
def Tile.setMarks (t : Tile) (sp off n : Nat) (l : List Mark) : Tile :=
  { t with marks := markWords t.marks (sp * 2 ^ 20 + off / 4) (wordsOf off n) l }

/-- The marks that a write leaves at its location: its own, after those that it read where it is a read-modify-write, which goes on in
the releases' order (R104). -/
def marksLeft (own : List Mark) (rmw : Bool) (found : List Mark) : List Mark := (if rmw then found else []) ++ own

/-- What an access to tile memory leaves and takes for the clearance table (R104, R110): `found` are the marks it
read. -/
def State.localOrder (s : State) (sp off : Nat) (op : LocalOp) (o scope : BitVec 2) (found : List Mark) : State :=
  let s :=
    if op.writes then
      s.updMyTile (·.setMarks sp off op.size (marksLeft (s.leaves o scope) op.reads found))
    else s
  let s := if op.reads && isAcq o then s.updY fun y => y.takes (s.taken s.cur scope false found) else s
  let s := if op.reads && found.any (·.fence) then
      s.updY fun y => { y with seen := y.seen ++ (found.filter (·.fence)).map fun e => (s.nextId, e) }
    else s
  if o = 0 then s else s.updY Sync.ordered

/-! ### Watchpoints (R382) -/

/-- The number of an enabled watchpoint of context `c` that an access of `n` bytes meets. -/
def Tile.watchAt (t : Tile) (c sp off n : Nat) (rd wr : Bool) : Option Nat :=
  findFrom (fun i => let b := (t.wps.get 0 i).toNat
    bitAt b 0 && bitAt (bitsAt b 59 4) c && bitsAt b 57 2 == sp &&
    ((rd && bitAt b 1) || (wr && bitAt b 2)) &&
    decide (bitsAt b 3 54 * 8 < off + n) && decide (off < bitsAt b 3 54 * 8 + 8)) 4 0
/-- A watchpoint stops the access before it performs, once (R382). -/
def State.watched (s : State) (sp off n : Nat) (rd wr : Bool) : Option Res :=
  if s.me.c.passDebug.getLsbD 4 then none
  else match s.myTile.watchAt s.curCtx sp off n rd wr with
    | none => none
    | some i =>
      let a : FaultArg := { cause := 0x13, detail := BitVec.ofNat 64 (i + 4 * 16), once := true }
      if s.myTile.sdbg then some (.debug 4) else some (.trap a)

/-! ### What the checks of an access find -/

/-- The alignment and space checks of R70 and R71. -/
def spaceCheck (ea : Word) (n align limit : Nat) : Option FaultArg :=
  if ea.toNat % align ≠ 0 then some { cause := 0x04, address := ea }
  else if ea.toNat + n > limit then
    some { cause := 0x14, address := if ea.toNat + align > limit then ea
                                     else BitVec.ofNat 64 (limit / align * align) }
  else none

/-- The precise fault of an instruction whose access was refused while it waited. -/
def refusedArg (c : BitVec 8) (a d : BitVec 64) : FaultArg :=
  { cause := c.toNat, address := a, detail := d, allow := if c = 0x11 then allowRetryRestartKill else allowAll }
/-- What the phase of an instruction says before its access is made: `none` while it is still to be made. -/
def State.resumed (s : State) (fin : BitVec 128 → State) : Option Res :=
  match s.me.c.phase with
  | .granted v => some (.ok (fin v))
  | .refused c a d => some (.trap (refusedArg c a d))
  | _ => none

/-! ### Accesses that leave the context (R78, R80, R83, R100) -/

/-- Stamp() of R37 without the step of `seq`. -/
def State.stampOf (s : State) : BitVec 64 :=
  BitVec.ofNat 64 ((s.owner (ownerOf s.cur)).sstep.toNat % 2 ^ 24 * 2 ^ 40 + s.ltileRead s.cur % 65536 * 2 ^ 24 +
    s.curCtx * 2 ^ 22 + bit (s.myTile.checked && decide (16 ≤ rowOf s.cur)) * 2 ^ 21 + s.me.r.seq.toNat)

/-- The key of a packet of context c of tile k that is no stamped operation, in checked mode (R279). -/
def State.twinKey (s : State) (k c : Nat) : BitVec 64 :=
  BitVec.ofNat 64 ((s.owner (ownerOf k)).sstep.toNat % 2 ^ 24 * 2 ^ 40 + s.ltileRead k % 65536 * 2 ^ 24 +
    c % 4 * 2 ^ 22 + bit ((s.tile k).checked && decide (16 ≤ rowOf k)) * 2 ^ 21 + 2 ^ 20 + (s.ctx k c).y.twinCtr.toNat)

/-! ### What an operation reads and writes -/

def MemOp.reads : MemOp → Bool
  | .store _ _ => false
  | .put _ _ => false
  | _ => true
def MemOp.writes : MemOp → Bool
  | .store _ _ => true
  | .amo _ _ _ _ => true
  | .join => true
  | .put _ _ => true
  | _ => false
/-- Bytes an operation covers. -/
def MemOp.size : MemOp → Nat
  | .load n => n
  | .store n _ => n
  | .amo _ n _ _ => n
  | .join => 4
  | .get n => n
  | .put n _ => n
  | _ => 8

/-- What an instruction says of an access it sends. -/
structure Req2 where
  dest : Dest
  addr : Nat
  va : Word := 0
  slot : Nat := 0
  op : MemOp
  ret : Ret
  route : BitVec 128
  isLoad : Bool
  isStore : Bool
  order : BitVec 2 := 0
  scope : BitVec 2 := 0
  watched : Bool := false
  /-- a stamped operation, and its stamp -/
  stamped : Bool := false
  stamp : BitVec 64 := 0
  rtn : BitVec 4 := 0

/-- The event an access counts as (R385, Table 4): a space-2 load, a stamped operation. -/
def Req2.counts (q : Req2) : Nat :=
  match q.op, q.dest with
  | .rop _ _, _ => 6
  | .rreissue _, _ => 6
  | .load _, .tile _ => 0
  | .load _, _ => 5
  | .ldT, _ => 5
  | .ldS _, _ => 5
  | _, _ => 0

/-- The packet of an access of context c of tile k. -/
def State.flightOf (s : State) (k c : Nat) (lv : Level) (region : BitVec 24) (q : Req2) : Flight :=
  { id := s.nextId, src := k, ctx := c, owner := ownerOf k, level := lv, dest := q.dest, addr := q.addr, va := q.va, slot := q.slot,
    op := q.op, ret := q.ret, stage := .queued, route := q.route, stamp := q.stamp,
    twin := (s.tile k).checked && decide (16 ≤ rowOf k), key := if q.stamped then q.stamp else s.twinKey k c, isLoad := q.isLoad,
    isStore := q.isStore, release := isRel q.order, acquire := isAcq q.order, watched := q.watched, region := region, scope := q.scope,
    mark := [], seen := [], eng := none, part := 0, data := [], pc := (s.ctx k c).r.pc, iword := s.iword, rtn := q.rtn, resent := none, born := s.gtime }
/-- Appends a packet to the posting queue of its context or engine thread (R78, R98, Post of R37). In checked mode every packet steps the
message counter (R279). -/
def State.enqueue (s : State) (f : Flight) : State :=
  let s1 : State := { s with flights := s.flights ++ [f], nextId := s.nextId + 1 }
  if (s.tile f.src).checked then s1.updCtx f.src f.ctx fun x => { x with y := { x.y with twinCtr := x.y.twinCtr + 1 } } else s1

/-- An access of the moving context enters its posting queue. -/
def State.send (s : State) (q : Req2) : State :=
  let f := { s.flightOf s.cur s.curCtx s.me.c.level s.me.y.region q with mark := if q.isStore then s.leaves q.order q.scope else [] }
  let s1 := (s.enqueue f).updC fun c => c.count q.counts 1
  s1.updY fun y =>
    { y with
      acq := if isAcq q.order then some f.id else y.acq,
      region := if q.order = 0 then y.region else y.region + 1 }

/-- Sends an access that the instruction itself waits for. -/
def State.sendWait (s : State) (q : Req2) : Res :=
  .wait ((s.send { q with ret := .gate }).updC fun c => { c with phase := .armed s.nextId }) .answer

/-- An access to a watched page: the context waits until its home slice has checked and applied it (R111). Its value still goes where the
access says. -/
def State.sendHeld (s : State) (q : Req2) : Res :=
  .wait ((s.send (if q.ret == .none then { q with ret := .gate } else q)).updC fun c => { c with phase := .armed s.nextId }) .answer

/-- Where a translated address lies, and the anchored row that leads there (R275, R333). -/
def destOf (pa : Nat) : Option (Dest × Nat) :=
  match paKind pa with
  | .module => some (.slice (homeSlice pa), homeSlice pa)
  | .host => some (.gate 0, 144)
  | .remote p _ => some (.gate (1 + p), 145 + p)
  | _ => none

/-! ### A touch of a demand window (R94, R95) -/

/-- How a touch ends. -/
inductive Touched where
  | present
  /-- fills are on their way: the access waits -/
  | waits (s : State)
  | trap (a : FaultArg) (fx : State → State)
  /-- the fill path cannot take all of it yet, since eight fills are in flight or a page is under migration: the fills that
  could start are on their way, and the touch is made again -/
  | held (s : State)

/-- What a fault of a fill carries in its low detail bits: a page fault, a protection fault or an uncorrectable error has bit 6, for a
vector access bits 7 and 6; a fault of its route has neither (R95, R190, R276, R367). -/
def fillMark (who : Toucher) (cause : Nat) : BitVec 64 :=
  match who with
  | .core => if cause = 0x05 ∨ cause = 0x06 ∨ cause = 0x11 then 0x40 else 0
  | .vector _ => if cause = 0x05 ∨ cause = 0x06 ∨ cause = 0x11 then 0xC0 else 0
  | _ => 0

/-- The fill path reads 256 bytes at owner scope for the touching context, at its level: a packet of that context's queue
(R94, R98). -/
def State.startFill (s : State) (k c : Nat) (lv : Level) (who : Toucher) (sector : Nat) : Touched :=
  let t := s.tile k
  match t.windowOf sector with
  | none => .present
  | some (i, j) =>
    if t.sectorState sector = 1 then .waits s
    else if t.fills.length ≥ 8 then .held s
    else
      let va := (t.regTab.get .reset i).src.toNat + 256 * j
      match s.xlate k .fillPath lv va false false with
      | .fault c d fx => .trap { cause := c, address := BitVec.ofNat 64 va, detail := d ||| fillMark who c } fx
      | .mig s1 => .held s1
      | .ok pa w slot s1 =>
        match destOf pa with
        | none => .trap { cause := 0x06, address := BitVec.ofNat 64 va, detail := fillMark who 0x06 } (s1.walked k)
        | some (d, row) =>
          match s1.anchored k row with
          | .error a => .trap a (s1.walked k)
          | .ok r =>
            let f : Fill := { sector := sector, entry := i, va := BitVec.ofNat 64 va, ctx := c, who := who, flight := s1.nextId }
            let q : Req2 := { dest := d, addr := pa, va := BitVec.ofNat 64 va, slot := slot, op := .get 256, ret := .fill sector, route := r,
                              isLoad := false, isStore := false, watched := w }
            .waits ((s1.enqueue (s1.flightOf k c lv (s1.ctx k c).y.region q)).updTile k fun t =>
              { (t.setSector sector 1) with fills := t.fills ++ [f] })

/-- A touch of [off, off + n) of the scratchpad (R94). -/
def State.touch (s : State) (k c : Nat) (lv : Level) (who : Toucher) (off n : Nat) : Touched :=
  ((s.tile k).missing off n).foldl (fun r x =>
    match r with
    | .present => s.startFill k c lv who x
    | .waits s1 =>
      (match s1.startFill k c lv who x with
       | .present => .waits s1
       | r => r)
    | r => r) .present

/-- An engine's access waits for sectors; it keeps the place of its first touch (R94). -/
def State.awaits (s : State) (k : Nat) (who : Toucher) (c off n : Nat) : State :=
  if (s.tile k).waiters.any (·.who == who) then s
  else s.updTile k fun t =>
    { t with waiters := t.waiters ++ [{ who := who, ctx := c, space := 0, addr := off, size := n, order := 0, scope := 0, op := .runLoad [] }] }
/-- It waits no more. -/
def State.awaited (s : State) (k : Nat) (who : Toucher) : State :=
  if (s.tile k).waiters.any (·.who == who) then s.updTile k fun t => { t with waiters := t.waiters.filter fun w => !(w.who == who) } else s

/-! ### An access to space 0 or 1 as a whole -/

/-- The whole of an access to tile memory (R70 to R78, R94, R102, R103, R191). -/
def State.localAccess (s : State) (sp : Nat) (ea : Word) (align : Nat) (order scope : BitVec 2) (op : LocalOp) : Res :=
  match s.resumed (fun _ => s) with
  | some r => r
  | none =>
    if s.acqHeld || (isRel order && !s.allQuiet) || s.myTile.vecOpen s.curCtx then .stall
    else match spaceCheck ea op.size align (spaceLimit sp) with
      | some a => .trap a
      | none =>
        let off := ea.toNat
        -- a page fault of the touch comes before a watchpoint (R328)
        match if sp = 0 then s.touch s.cur s.curCtx s.me.c.level .core off op.size else .present with
        | .trap a fx => .trapBy fx a
        | .held s1 => ((s.watched sp off op.size op.reads op.writes).map (·.after (s1.walked s.cur))).getD (.ends s1)
        | .waits s1 =>
          let w : Waiter := { ctx := s.curCtx, space := BitVec.ofNat 2 sp, addr := off, size := op.size, order := order, scope := scope, op := op }
          ((s.watched sp off op.size op.reads op.writes).map (·.after (s1.walked s.cur))).getD
            (.wait ((s1.updMyTile fun t => { t with waiters := t.waiters ++ [w] }).updC fun c => { c with phase := .armed 0 }) .answer)
        | .present =>
          match s.watched sp off op.size op.reads op.writes with
          | some r => r
          | none =>
            let found := s.myTile.marksAt sp off op.size
            match s.doLocal s.cur sp off op with
            | .error a => .trap a
            | .ok s1 => .ok (s1.localOrder sp off op order scope found)

/-! ### Space 2 and space 3 -/

/-- How the checks of a space-2 access end. -/
inductive Reached where
  | at_ (pa slot : Nat) (dest : Dest) (route : BitVec 128) (watched : Bool) (s : State)
  | trap (a : FaultArg) (fx : State → State)
  | hold (s : State)

/-- Translation, rights and route of a space-2 access (R72, R83, R276). `both` asks for R and W: an atomic is translated as a write,
so a page fault of it says so, and its right to read is asked of the same entry. A context's access to the matrix queue window is
refused (R223). An atomic whose scope does not fit the place is refused before a packet is formed (R114). -/
def State.reach (s : State) (va : Nat) (write both : Bool) (fits : Dest → Bool := fun _ => true) : Reached :=
  let bad (c : Nat) (d : BitVec 64) : FaultArg := { cause := c, address := BitVec.ofNat 64 va, detail := d }
  match s.xlate s.cur .data s.me.c.level va (write || both) false with
  | .fault c d fx => .trap (bad c d) fx
  | .mig s1 => .hold s1
  | .ok pa w slot s1 =>
    match if both then s1.xlate s.cur .data s.me.c.level va false false else .ok pa w slot s1 with
    | .fault c d fx => .trap (bad c d) fun q => fx (s1.walked s.cur q)
    | .mig s2 => .hold s2
    | .ok _ _ _ s2 =>
      match destOf pa with
      | none => .trap (bad 0x06 0) (s2.walked s.cur)
      | some (d, row) =>
        if !fits d then .trap (bad 0x0E 0) (s2.walked s.cur)
        else match s2.anchored s.cur row with
          | .error a => .trap a (s2.walked s.cur)
          | .ok r => .at_ pa slot d r w s2

/-- The space-2 limit: bits 63:57 must be 0 (R70). -/
def vaLimit : Nat := 2 ^ 57

/-- The watchpoints of space 2 that an access meets (R382). -/
def State.watched2 (s : State) (ea : Word) (q : Req2) : Option Res :=
  s.watched 2 ea.toNat q.op.size (q.isLoad || q.op.reads) (q.isStore || q.op.writes)

/-- A space-2 access whose effective address has passed its first checks. A watched page is waited for (R111), except
by the cell operations, which race detection leaves alone (R125): `checked` is false for those. -/
def State.sendGlobal (s : State) (ea : Word) (write both checked : Bool) (q : Dest → Nat → BitVec 128 → Req2)
    (fits : Dest → Bool := fun _ => true) : Res :=
  match s.reach ea.toNat write both fits with
  | .trap a fx => .trapBy fx a
  | .hold s1 => .ends s1
  | .at_ pa slot d r w s1 =>
    let q := { q d pa r with va := ea, slot := slot, watched := w && checked }
    match s.watched2 ea q with
    | some r => r.after (s1.walked s.cur)
    | none => if q.watched then s1.sendHeld q else .ok (s1.send q)

/-- An access of space 3 that the instruction itself waits for. -/
def State.sendRemoteWait (s : State) (rtn : BitVec 4) (q : Dest → BitVec 128 → Req2) : Res :=
  match s.injectReg rtn.toNat with
  | .error st => .trap { cause := 0x08, detail := BitVec.ofNat 64 st }
  | .ok (r, k, s1) => s1.sendWait { q (.tile (k.getD (128 * 65536 * 2))) r with rtn := rtn }

/-- A space-3 access: the route register's checks, then the tile it reaches (R80). -/
def State.sendRemote (s : State) (rtn : BitVec 4) (q : Dest → BitVec 128 → Req2) : Res :=
  match s.injectReg rtn.toNat with
  | .error st => .trap { cause := 0x08, detail := BitVec.ofNat 64 st }
  | .ok (r, k, s1) => .ok (s1.send { q (.tile (k.getD (128 * 65536 * 2))) r with rtn := rtn })

end Sys2Proof.Machine
end

