-- ==== Sys2Proof/Machine/Home.lean ====
section
/-! DEFINITION. What an operation does where it is performed: home slices (R101, R116, R128), repair cells (R123 to
R135), race detection on watched lines (R110, R111), push words (R311), barrier objects (R136 to R151), tile stores
reached through routes (R80, R81), and the gateways. -/

namespace Sys2Proof.Machine

/-- The write of an access at its physical address. One that came in through a gateway is no write of the owner's, so no
unit of a proof is noted (R374). -/
def State.flightWrite (s : State) (f : Flight) (n v : Nat) : State :=
  if gateBase ≤ f.src then s.setUnder f.slot f.addr n v else s.memWrite f.owner f.va.toNat f.slot f.addr n v
/-- The write of an engine's bytes. -/
def State.flightPut (s : State) (f : Flight) (bs : List Byte) : State :=
  if gateBase ≤ f.src then s.putUnder f.slot f.addr bs else s.memPut f.owner f.va.toNat f.slot f.addr bs

/-! ### Repair cells (R123, R124) -/

/-- Step(kind, c, b) (R123, Table 4). -/
def cellStep (kind : BitVec 2) (c b : BitVec 64) : BitVec 64 :=
  match kind.toNat with
  | 0 => BitVec.ofNat 64 (fpAdd .rne (c.toNat % 2 ^ 32) (b.toNat % 2 ^ 32)).1
  | 1 => BitVec.ofNat 64 (bf16Add c.toNat b.toNat)
  | 2 => b
  | _ => if signedOf 32 b.toNat > signedOf 32 c.toNat then b else c
/-- Chain(c) (R129). -/
def Cell.chain (c : Cell) : BitVec 64 := c.hist.foldl (fun v e => cellStep c.kind v e.2) c.base
/-- The bits of a value that a kind's layout uses. -/
def kindMask (kind : BitVec 2) (v : BitVec 64) : BitVec 64 :=
  match kind.toNat with
  | 0 => v &&& 0xFFFFFFFF
  | 1 => v &&& 0xFFFF
  | _ => v
/-- Inserts an entry so that stamps ascend. -/
def insHist : List (BitVec 64 × BitVec 64) → BitVec 64 × BitVec 64 → List (BitVec 64 × BitVec 64)
  | [], e => [e]
  | h :: r, e => if e.1.toNat < h.1.toNat then e :: h :: r else h :: insHist r e
/-- Folds entries into the base while a test holds, in stamp order; the last folded stamp is kept (R132). -/
def foldHist (p : BitVec 64 → Bool) : List (BitVec 64 × BitVec 64) → Cell → Cell
  | [], c => { c with hist := [] }
  | e :: r, c =>
    if p e.1 then foldHist p r { c with base := cellStep c.kind c.base e.2, lastfold := some e.1 }
    else { c with hist := e :: r }
def Cell.foldWhile (c : Cell) (p : BitVec 64 → Bool) : Cell := foldHist p c.hist c

/-- The cell of the doubleword at a physical address. -/
def State.cellAt (s : State) (pa : Nat) : Option Cell := (s.slice (homeSlice pa)).cells.get none (pa / 8)
def State.setCell (s : State) (pa : Nat) (c : Option Cell) : State :=
  s.updSlice (homeSlice pa) fun q =>
    { q with cells := match c with
      | some c => q.cells.set (pa / 8) (some c)
      | none => q.cells.erase (pa / 8) }
/-- Cells in use and free history entries of a slice (R124). -/
def Slice.cellCount (q : Slice) : Nat := (q.cells.filter fun e => e.2.isSome).length
def Slice.poolFree (q : Slice) : Nat :=
  8192 - (q.cells.map fun e => match e.2 with | some c => c.hist.length | none => 0).sum
def stampStep (t : BitVec 64) : Nat := bitsAt t.toNat 40 24

/-! ### How an applied operation answers -/

/-- The answer of a performing unit. -/
inductive Answer where
  /-- the operation stays where it is -/
  | held (s : State)
  /-- done, with its value and the marks it read -/
  | done (s : State) (v : BitVec 128) (seen : List Mark)
  /-- done, with the bytes that an engine or a fill reads -/
  | bytes (s : State) (bs : List Byte)
  /-- refused -/
  | refuse (s : State) (cause : BitVec 8) (detail : BitVec 64)

/-! ### Race detection (R110, R111) -/

/-- A context of a tile, with the region number of an access, as a party. -/
def State.party (s : State) (k c : Nat) (region : BitVec 24) : Party :=
  { ltile := BitVec.ofNat 16 (s.ltileRead k), ctx := BitVec.ofNat 2 c, region := region, time := s.gtime.setWidth 48 }
def Party.same (p q : Party) : Bool := p.ltile == q.ltile && p.ctx == q.ctx
/-- A record is ordered before the accessing context (R111, cases 1 and 2). -/
def Sync.orders (y : Sync) (p : Party) : Bool :=
  (y.clear.any fun e => e.ltile == p.ltile && e.ctx == p.ctx && decide (p.region.toNat ≤ e.region.toNat)) ||
    decide (p.time.toNat < y.cmark.toNat)
/-- Table 5 of R111. -/
def raceDetail (y : Sync) (p : Party) (otherWrote thisWrites : Bool) : BitVec 64 :=
  BitVec.ofNat 64 (p.ltile.toNat * 2 ^ 48 + p.ctx.toNat * 2 ^ 46 + p.region.toNat * 2 ^ 22 +
    bit (y.evicted.any fun e => e.ltile == p.ltile && e.ctx == p.ctx) * 8 + bit otherWrote * 2 + bit thisWrites)
def LineRec.empty (o : Nat) : LineRec := { owner := o, writer := none, readers := [], shared := false, late := 0 }

/-- A conflicting record that is not ordered, as fault detail (R111, Table 5). On a shared-read line the reads are one record. Where
several are unordered the spec does not say which is reported: the writer is, then the reader recorded first (DESIGN CHOICE, log 67). -/
def LineRec.race (l : LineRec) (y : Sync) (me : Party) (writes : Bool) : Option (BitVec 64) :=
  let bad (p : Party) : Bool := !p.same me && !y.orders p
  match l.writer with
  | some w => if bad w then some (raceDetail y w true writes) else rest bad
  | none => rest bad
where
  rest (bad : Party → Bool) : Option (BitVec 64) :=
    if !writes then none
    else if l.shared then (if l.late.toNat < y.cmark.toNat then none else some (BitVec.ofNat 64 5))
    else (l.readers.find? bad).map fun p => raceDetail y p false true

/-- The record after an access. -/
def LineRec.note (l : LineRec) (me : Party) (reads writes : Bool) : LineRec :=
  if writes then { l with writer := some me, readers := [], shared := false, late := 0 }
  else if reads then
    let others := l.readers.filter fun p => !p.same me
    if others.length < 4 then { l with readers := others ++ [me], late := me.time }
    else { l with shared := true, late := me.time }
  else l

/-- The check of R111 on one line at the home slice, for context c of tile k. -/
def State.raceLine (s : State) (k c : Nat) (region : BitVec 24) (line : Nat) (reads writes : Bool) : Except (BitVec 64) State :=
  let h := homeSlice (line * 64)
  let l := ((s.slice h).lines.get none line).getD (.empty (ownerOf k))
  let me := s.party k c region
  match l.race (s.ctx k c).y me writes with
  | some d => .error d
  | none => .ok (s.updSlice h fun q => { q with lines := q.lines.set line (some (l.note me reads writes)) })
/-- The check on the n lines from one on. -/
def State.raceLines (s : State) (k c : Nat) (region : BitVec 24) (reads writes : Bool) : Nat → Nat → Except (BitVec 64) State
  | _, 0 => .ok s
  | line, n + 1 =>
    match s.raceLine k c region line reads writes with
    | .error d => .error d
    | .ok s1 => State.raceLines s1 k c region reads writes (line + 1) n
/-- The check of an access; an unordered conflict refuses it with 0x0A. -/
def State.raceCheck (s : State) (f : Flight) : Except (BitVec 64) State :=
  if !f.watched then .ok s
  else s.raceLines f.src (f.ctx % 4) f.region f.op.reads f.op.writes (f.addr / 64) ((f.addr + f.op.size + 63) / 64 - f.addr / 64)

/-! ### Release marks in module memory (R104) -/

def Slice.marksAt (q : Slice) (pa n : Nat) : List Mark := marksIn q.marks (pa / 4) (wordsOf pa n)
/-- The marks that an access leaves where it is applied (R104). -/
def Flight.marksLeft (f : Flight) (found : List Mark) : List Mark :=
  Machine.marksLeft f.mark f.op.reads found
/-- Where the marks of a place are kept: at its home slice, or, from 144 on, at its gateway. -/
def Flight.marksAt (f : Flight) : Nat :=
  match f.dest with
  | .gate n => 144 + n
  | _ => homeSlice f.addr
/-- The marks that an access finds. -/
def State.marksFound (s : State) (f : Flight) : List Mark := if f.op.reads then (s.slice f.marksAt).marksAt f.addr f.op.size else []
/-- A write ends the marks of its words and sets its own; an atomic keeps those it read. -/
def State.homeMark (s : State) (f : Flight) (found : List Mark) : State :=
  let h := f.marksAt
  let l := f.marksLeft found
  if l.isEmpty && (s.slice h).marks.isEmpty then s
  else s.updSlice h fun q => { q with marks := markWords q.marks (f.addr / 4) (wordsOf f.addr f.op.size) l }

/-! ### Push words (R310, R311) -/

/-- Offset in a forme's galley table to the galley whose push word covers it: 0 to 255 shared, 256 + 4 × tile +
context private. -/
def pushSlot (off : Nat) : Option Nat :=
  if off < 0x2000 then (if off % 32 / 8 = 3 then some (off / 32) else none)
  else if off < 0x12000 then (if off % 16 / 8 = 1 then some (256 + (off - 0x2000) / 16) else none)
  else none
/-- The push word of an owner that covers a physical address: forme and galley. Without `galb` there is none. -/
def State.pushAt (s : State) (o pa : Nat) : Option (Nat × Nat) :=
  let galb := (s.owner o).galb.toNat
  if galb = 0 then none
  else
    let found := (List.range (s.owner o).formes).filterMap fun f =>
      let base := galb + 0x12000 * f
      ((List.range 3).filterMap fun j =>
        let page := base / 65536 + j
        match s.poolAt o (page * 65536) false with
        | some (fr, _) =>
          let va := page * 65536 + pa % 65536
          if fr / 65536 = pa / 65536 ∧ base ≤ va then (pushSlot (va - base)).map fun g => (f, g) else none
        | none => none).head?
    found.head?

def Galley.waiting (g : Galley) : Nat := (g.fifo.map fun e => e.2.length).sum
/-- Entries a ring holds (R310). -/
def Galley.capacity (g : Galley) : Nat := 16 * 2 ^ (bitsAt g.ring.toNat 0 4)

/-- A galley as its descriptor stands in memory (R310); one that breaks Table 2 is unconfigured. -/
def State.readGalley (s : State) (o f g : Nat) : Galley :=
  let old := (s.forme (o * 64 + f)).galleys.get .reset g
  let base := (s.owner o).galb.toNat + 0x12000 * f
  let shared := decide (g < 256)
  let va := if shared then base + 32 * g else base + 0x2000 + 16 * (g - 256)
  match s.poolAt o va false with
  | none => { old with read := true, kind := 0 }
  | some (pa, slot) =>
    let ring := BitVec.ofNat 64 (s.memReadN slot pa 8)
    let w1 := s.memReadN slot (pa + 8) 8
    let okRing := decide (bitsAt ring.toNat 0 4 < 12) && bitsAt ring.toNat 4 8 == 0 && bitsAt ring.toNat 57 7 == 0
    if shared then
      let kind := w1 % 256
      let good := okRing && bitsAt w1 32 32 == 0 && decide (kind < 3)
      { old with read := true, ring := ring, kind := if good then kind else 0, dcur := bitsAt w1 8 8,
                 dnrg := bitsAt w1 16 16, serve := BitVec.ofNat 64 (s.memReadN slot (pa + 16) 8) }
    else { old with read := true, ring := ring, kind := if okRing && ring != 0 then 1 else 0, dcur := 0, dnrg := 0, serve := 0 }

/-- A pushed value has bits 63:57 and 5:0 at 0 (R311). -/
def pushValueOk (v : Nat) : Bool := v % 64 == 0 && decide (v < 2 ^ 57)

/-- A push reaches a galley's controller and takes its place in the order (R311). -/
def State.pushTo (s : State) (o f g : Nat) (p : Push) : State :=
  let q := s.readGalley o f g
  s.updForme (o * 64 + f) fun w => { w with galleys := w.galleys.set g { q with pushes := q.pushes ++ [p] } }

/-- A store to a push word: refused, a sequentially consistent one and a piece of a longer window write among others, or held until the
controller has applied it (R311). -/
def State.pushStore (s : State) (f : Flight) (fo g : Nat) (n : Nat) (v : Nat) : Answer :=
  let q := s.readGalley f.owner fo g
  if q.pushes.any (fun p => p.flight == some f.id) then .held s
  else if n ≠ 8 || f.acquire || (decide (gateBase ≤ f.src) && f.part != 0) || !pushValueOk v || q.kind = 0 then .refuse s 0x06 0
  else .held (s.pushTo f.owner fo g
    { addr := BitVec.ofNat 64 v, src := f.src, ctx := f.ctx, after := 0, launcher := false, flight := some f.id,
      mark := f.mark.find? (!·.fence) })

/-! ### Loads, stores and atomics at a home slice -/

/-- The count that a push word reads as (R311). -/
def State.pushCount (s : State) (o f g : Nat) : Nat := ((s.forme (o * 64 + f)).galleys.get .reset g).waiting
/-- The doubleword of an owner at a physical address as a load through a key slot reads it: a cell reads as its chain value (R128), a
push word as its count (R311). -/
def State.homeWord (s : State) (slot o a : Nat) : Nat :=
  match s.cellAt a with
  | some c => c.chain.toNat
  | none =>
    match s.pushAt o a with
    | some (f, g) => s.pushCount o f g
    | none => s.memReadN slot (a / 8 * 8) 8
/-- n bytes as a load reads them. -/
def State.homeRead (s : State) (slot o pa n : Nat) : Nat :=
  if n ≤ 8 then s.homeWord slot o pa / 2 ^ (8 * (pa % 8)) % 2 ^ (8 * n)
  else s.homeWord slot o pa + s.homeWord slot o (pa + 8) * 2 ^ 64
/-- The doublewords of [pa, pa + n), by address. -/
def dwords (pa n : Nat) : List Nat := (List.range ((pa + n + 7) / 8 - pa / 8)).map fun i => (pa / 8 + i) * 8
/-- n bytes as an engine reads them. -/
def State.homeBytes (s : State) (slot o pa n : Nat) : List Byte :=
  if (dwords pa n).any fun a => (s.cellAt a).isSome || (s.pushAt o a).isSome then
    (List.range n).map fun i => BitVec.ofNat 8 (s.homeWord slot o (pa + i) / 2 ^ (8 * ((pa + i) % 8)))
  else s.memBytes slot pa n
/-- A doubleword of [pa, pa + n) is a cell. -/
def State.coversCell (s : State) (pa n : Nat) : Bool :=
  (s.cellAt pa).isSome || (decide (8 < n) && (s.cellAt (pa + 8)).isSome)

/-- The refusal of a cell operation by another owner (R124). -/
def foreign (f : Flight) (c : Option Cell) : Bool :=
  match c with
  | some c => c.owner != f.owner
  | none => false

/-- A push word that an access to [pa, pa + n) covers: forme and galley. -/
def State.pushIn (s : State) (o pa n : Nat) : Option (Nat × Nat) :=
  match s.pushAt o pa with
  | some r => some r
  | none => if 8 < n then s.pushAt o (pa + 8) else none

/-- A plain access to module memory at its home slice. One that poison refuses is not applied, and so not recorded in its watched line
(R111; DESIGN CHOICE, log 67). A load of a cell meets the poison of its doubleword, unlike `ld.t`, `ld.s` and `rop` (DESIGN CHOICE, log 33). -/
def State.applyPlain (s : State) (f : Flight) : Answer :=
  let n := f.op.size
  let eats := f.op.reads || decide (n < 8)
  if f.op.writes && (s.pushIn f.owner f.addr n).isSome then
    (match f.op, s.pushIn f.owner f.addr n with
     | .store n v, some (fo, g) => s.pushStore f fo g n v.toNat
     | _, _ => .refuse s 0x06 0)
  else if f.op.writes && s.coversCell f.addr n then .refuse s 0x06 0
  else match s.raceCheck f with
    | .error d => .refuse s 0x0A d
    | .ok s1 =>
      if eats && s.memPoisoned f.addr n then .refuse s 0x11 5
      else
        let seen := s1.marksFound f
        match f.op with
        | .load n => .done s1 (BitVec.ofNat 128 (s1.homeRead f.slot f.owner f.addr n)) seen
        | .store n v => .done ((s1.flightWrite f n v.toNat).homeMark f []) 0 []
        | .amo k n b x =>
          let old := s1.memReadN f.slot f.addr n
          .done ((s1.flightWrite f n (k.newValue n old b.toNat x.toNat)).homeMark f seen)
            (BitVec.ofNat 128 (k.extend n old).toNat) seen
        | _ => .done s1 0 []

/-- A read by an engine or a fill at a home slice. -/
def State.applyGet (s : State) (f : Flight) (n : Nat) : Answer :=
  match s.raceCheck f with
  | .error d => .refuse s 0x0A d
  | .ok s1 => if s.memPoisoned f.addr n then .refuse s 0x11 5 else .bytes s1 (s1.homeBytes f.slot f.owner f.addr n)
/-- A write by an engine at a home slice: refused on a push word (detail 1, R311) and on a cell (R128); it ends the marks of releases. -/
def State.applyPut (s : State) (f : Flight) : Answer :=
  let ws := dwords f.addr f.data.length
  if ws.any fun a => (s.pushAt f.owner a).isSome then .refuse s 0x06 1
  else if ws.any fun a => (s.cellAt a).isSome then .refuse s 0x06 0
  else match s.raceCheck f with
    | .error d => .refuse s 0x0A d
    | .ok s1 => .done ((s1.flightPut f f.data).homeMark f []) 0 []

/-! ### The join step (R69) -/

/-- The value of a join: the count as read; bit 32 and the galley above it when the count was taken to 0 and the galley that the slug
names is not configured. -/
def joinValue (count : Nat) (galley : Option Nat) : BitVec 128 :=
  BitVec.ofNat 128 (count + match galley with | some g => 2 ^ 32 + g * 2 ^ 33 | none => 0)
/-- The push that a join makes, of the slug at the address it names, into a galley of the forme of the joining context. -/
def Flight.joinPush (f : Flight) : Push :=
  { addr := f.va, src := f.src, ctx := f.ctx, after := 0, launcher := false, flight := none, mark := f.mark.find? (!·.fence) }
/-- A galley to push into: one of those that ids name, and configured. -/
def State.pushable (s : State) (o f g : Nat) : Bool := decide (g < 256) && (s.readGalley o f g).kind != 0
/-- The join step at the home slice of a slug's count (R69). A count in a repair cell or under a push word is refused with 0x06, as any
write there is (the spec names no fault: DESIGN CHOICE, log 72). -/
def State.applyJoin (s : State) (f : Flight) : Answer :=
  if (s.pushAt f.owner f.addr).isSome || (s.cellAt f.addr).isSome then .refuse s 0x06 0
  else match s.raceCheck f with
    | .error d => .refuse s 0x0A d
    | .ok s1 =>
      if s.memPoisoned f.addr 4 then .refuse s 0x11 5
      else
        let c := s1.memReadN f.slot f.addr 4
        let seen := (s1.slice (homeSlice f.addr)).marksAt f.addr 4
        if c = 0 then .done s1 (joinValue 0 none) seen
        else
          let s2 := (s1.flightWrite f 4 (c - 1)).homeMark f seen
          let g := s2.memReadN f.slot (f.addr + 4) 2
          let fo := formeOf f.src
          if c ≠ 1 then .done s2 (joinValue c none) seen
          else if s2.pushable f.owner fo g then .done (s2.pushTo f.owner fo g f.joinPush) (joinValue 1 none) seen
          else .done s2 (joinValue 1 (some g)) seen

/-- W of an owner at a slice (R124). -/
def State.watermark (s : State) (h o : Nat) : Nat := (s.slice h).wmark.get 0 o

/-- `ld.t` and `ld.s`, which read a push word like any load (R311). -/
def MemOp.isLoad : MemOp → Bool
  | .ldT => true
  | .ldS _ => true
  | _ => false
/-- `ld.t`, `ld.s` and the cell-control instructions (R84, R85, R126, R127, R135). A poisoned doubleword gives `rcell` its bytes as the base,
and a cell's value carries no mark (DESIGN CHOICE, log 33). -/
def State.applyCell (s : State) (f : Flight) : Answer :=
  let h := homeSlice f.addr
  let c := s.cellAt f.addr
  let plain := BitVec.ofNat 64 (s.homeWord f.slot f.owner f.addr)
  let two (a b : BitVec 64) : BitVec 128 := (b ++ a : BitVec 128)
  if foreign f c then .refuse s 0x06 0
  else if !f.op.isLoad && (s.pushAt f.owner f.addr).isSome then .refuse s 0x06 0
  else match f.op with
    | .ldT =>
      (match c with
       | some c => .done s (two c.chain (BitVec.ofNat 64 (c.hist.length * 2 + bit (c.hist != [])))) []
       | none => if s.memPoisoned f.addr 8 then .refuse s 0x11 5 else .done s (two plain 32) [])
    | .ldS w =>
      if s.watermark h f.owner ≤ w.toNat then .held s
      else (match c with
        | some c => .done s (two c.base 0) []
        | none => if s.memPoisoned f.addr 8 then .refuse s 0x11 5 else .done s (two plain 0) [])
    | .rcell kind =>
      (match c with
       | some c => .done s (if c.kind = kind then 1 else 2) []
       | none =>
         if (s.slice h).cellCount ≥ 4096 then .done s 3 []
         else .done ((s.rekey f.slot f.addr 8).setCell f.addr (some { kind := kind, base := kindMask kind plain, owner := f.owner, hist := [], lastfold := none })) 0 [])
    | .rfree =>
      (match c with
       | none => .done s 1 []
       | some c =>
         if c.hist != [] then .done s 2 []
         else .done ((s.flightWrite f 8 c.base.toNat).setCell f.addr none) 0 [])
    | _ =>
      let kind := match c with | some c => c.kind.toNat | none => 0
      let hc := match c with | some c => c.hist.length | none => 0
      .done s (two
        (BitVec.ofNat 64 (s.watermark h f.owner * 2 ^ 40 + (s.slice h).poolFree * 2 ^ 16 + bit c.isSome * 256 + hc * 16 + kind))
        (BitVec.ofNat 64 (((s.slice h).dups.get 0 f.owner).toNat * 2 ^ 32 + ((s.slice h).ovf.get 0 f.owner).toNat))) []

/-- The kind a stamped operation is for: none takes the cell's (R131). -/
def MemOp.kindOf : MemOp → Option (BitVec 2)
  | .rop k _ => some k
  | _ => none
def MemOp.operand : MemOp → BitVec 64
  | .rop _ b => b
  | .rreissue b => b
  | _ => 0

/-- How a stamped operation ends at its cell (R129). -/
inductive Stamped where
  | inserted (s : State) (v : BitVec 64)
  | dup (s : State) (v : BitVec 64)
  | notCell
  | late
  | full (s : State)

/-- R129 on a stamped operation that is at its cell's home. A full history counts in `ovf` for an `rreissue` too, which reports it and is not
refused (R131, Table 7: DESIGN CHOICE, log 38). -/
def State.applyStamp (s : State) (f : Flight) : Stamped :=
  let h := homeSlice f.addr
  match s.cellAt f.addr with
  | none => .notCell
  | some c =>
    if c.owner ≠ f.owner || (f.op.kindOf.isSome && f.op.kindOf != some c.kind) then .notCell
    else if c.hist.any (fun e => e.1 == f.stamp) || c.lastfold == some f.stamp then
      .dup (s.updSlice h fun q => { q with dups := q.dups.set f.owner (q.dups.get 0 f.owner + 1) }) c.chain
    else if stampStep f.stamp < s.watermark h c.owner then .late
    else if c.hist.length = 15 || (s.slice h).poolFree = 0 then
      .full (s.updSlice h fun q => { q with ovf := q.ovf.set f.owner (q.ovf.get 0 f.owner + 1) })
    else
      let c := { c with hist := insHist c.hist (f.stamp, f.op.operand) }
      .inserted (s.setCell f.addr (some c)) c.chain

/-- A stamped operation at its slice: a `rop` is refused, an `rreissue` reports (R129, R131). -/
def State.applyStamped (s : State) (f : Flight) : Answer :=
  let zx (v : BitVec 64) : BitVec 128 := v.setWidth 128
  match f.op with
  | .rreissue _ =>
    (match s.applyStamp f with
     | .inserted s _ => .done s 0 []
     | .dup s _ => .done s 1 []
     | .full s => .done s 2 []
     | .late => .done s 3 []
     | .notCell => .done s 4 [])
  | _ =>
    match s.applyStamp f with
    | .inserted s v => .done s (zx v) []
    | .dup s v => .done s (zx v) []
    | .full s => .refuse s 0x0B f.op.operand
    | .late => .refuse s 0x0C f.op.operand
    | .notCell => .refuse s 0x06 f.op.operand

/-- Folds every entry of an owner's cells at a slice whose stamp passes a test (R132). -/
def State.foldCells (s : State) (h o : Nat) (p : BitVec 64 → Bool) : State :=
  s.updSlice h fun q => { q with cells := q.cells.map fun e =>
    (e.1, e.2.map fun c => if c.owner = o then c.foldWhile p else c) }
/-- A close's watermark reaches a slice: it rises only, and entries below it fold (R132). -/
def State.raiseMark (s : State) (h o w : Nat) : State :=
  if s.watermark h o < w then
    (s.updSlice h fun q => { q with wmark := q.wmark.set o w }).foldCells h o fun t => decide (stampStep t < w)
  else s

/-! ### Barrier objects (R136 to R151) -/

/-- A barrier object as its fields. -/
structure BarObj where
  gid : Nat
  ecode : Nat
  outsec : Nat
  insec : Nat
  gen : Nat
  err : Bool
  wdn : Bool
  expect : Nat
  pend : Nat
  /-- reserved bits 25:24 and 103:96 -/
  rsv : Nat
  rsv2 : Nat
deriving DecidableEq, Repr

def BarObj.ofNat (v : Nat) : BarObj :=
  { gid := bitsAt v 112 16, ecode := bitsAt v 104 8, outsec := bitsAt v 64 32, insec := bitsAt v 32 32,
    gen := bitsAt v 28 4, err := bitAt v 27, wdn := bitAt v 26, expect := bitsAt v 12 12, pend := bitsAt v 0 12,
    rsv := bitsAt v 24 2, rsv2 := bitsAt v 96 8 }
def BarObj.word0 (b : BarObj) : Nat :=
  b.gen * 2 ^ 28 + bit b.err * 2 ^ 27 + bit b.wdn * 2 ^ 26 + b.rsv * 2 ^ 24 + b.expect * 2 ^ 12 + b.pend
def BarObj.toNat (b : BarObj) : Nat :=
  b.word0 + b.insec * 2 ^ 32 + b.outsec * 2 ^ 64 + b.rsv2 * 2 ^ 96 + b.ecode * 2 ^ 104 + b.gid * 2 ^ 112
/-- The first error of a phase is kept (R137). -/
def BarObj.error (b : BarObj) (code : Nat) : BarObj := if b.err then b else { b with err := true, ecode := code }

def State.barObj (s : State) (k off : Nat) : BarObj := .ofNat (s.tileRead k 0 off 16)

/-- A value with the gtime of what completed a wait above it (R110). -/
def timed (v : Nat) (t : BitVec 48) : BitVec 128 := BitVec.ofNat 128 (v + t.toNat * 2 ^ 64)

/-- A reply is formed: `flights` keeps replies in the order in which they were. -/
def State.replies (s : State) (id : Nat) (g : Flight → Flight) : State :=
  { s with flights := (s.flights.filter fun f => f.id != id) ++ (s.flights.filter fun f => f.id == id).map g }
/-- A waiter of an object is answered with word 0 (R138). -/
def State.wakeWaiter (s : State) (v : Nat) (w : BarWaiter) : State :=
  match w.ctx with
  | some p => s.updCtx (p / 1024) (p % 1024) fun x => { x with c := { x.c with phase := .granted (timed v (s.gtime.setWidth 48)) } }
  | none => s.replies w.flight fun f => { f with stage := .replying true 0 0 (timed v (s.gtime.setWidth 48)) }

/-- Stores an updated object; when the update took something away and everything pending is 0, the phase completes
and its waiters receive word 0 as it stood (R138). -/
def State.barStore (s : State) (k off : Nat) (b : BarObj) (test : Bool) : State :=
  if test && b.pend == 0 && b.insec == 0 && b.outsec == 0 then
    let s := s.tileWrite k 0 off 16 ({ b with gen := (b.gen + 1) % 16, pend := b.expect } : BarObj).toNat
    let mine := (s.tile k).barWait.filter fun w => w.off == off
    let now := s.gtime.setWidth 48
    let s := s.updTile k fun t =>
      { t with barWait := t.barWait.filter (fun w => w.off != off), barFresh := insNat t.barFresh off,
               barTime := t.barTime.set off now }
    mine.foldl (fun s w => s.wakeWaiter b.word0 w) s
  else s.tileWrite k 0 off 16 b.toNat

/-- The object as an update finds it: the first update of a generation clears err, wdn and ecode (R138). An ordinary store to the object does
not end the wait for that update (DESIGN CHOICE, log 37). -/
def State.barBegin (s : State) (k off : Nat) : BarObj × State :=
  let b := s.barObj k off
  if (s.tile k).barFresh.contains off then
    ({ b with err := false, wdn := false, ecode := 0 },
      s.updTile k fun t => { t with barFresh := t.barFresh.filter (· != off) })
  else (b, s)

/-- An arrival: word 0 before it, the state after it, and whether it was counted (R143). -/
def State.barArrive (s : State) (k off : Nat) : Nat × State × Bool :=
  let w := (s.barObj k off).word0
  let (b, s) := s.barBegin k off
  if b.pend = 0 then (w, s.barStore k off (b.error 0x01) false, false)
  else (w, s.barStore k off { b with pend := b.pend - 1 } true, true)
/-- A join; false when it overflows (R148). A pend of 4,095 below a smaller expect stays there (DESIGN CHOICE, log 37). -/
def State.barJoin (s : State) (k off : Nat) : State × Bool :=
  let (b, s) := s.barBegin k off
  if b.expect = 4095 then (s.barStore k off (b.error 0x05) false, false)
  else (s.barStore k off { b with expect := b.expect + 1, pend := if b.pend < 4095 then b.pend + 1 else b.pend } false, true)
/-- A withdrawal carrying the thread's arrival generation and valid bit (R138, R150). -/
def State.barWithdraw (s : State) (k off : Nat) (gen : BitVec 4) (valid : Bool) : State :=
  let (b, s) := s.barBegin k off
  if b.expect = 0 then s.barStore k off (b.error 0x02) false
  else
    let arrived := valid && gen.toNat == b.gen
    let b1 := { b with expect := b.expect - 1 }
    let b2 := if arrived then b1 else if b1.pend = 0 then b1.error 0x01 else { b1 with pend := b1.pend - 1 }
    s.barStore k off { b2 with wdn := true } true
/-- An engine command's sectors are added (R137 code 0x03, R138): `inb` the inbound count. -/
def State.barAdd (s : State) (k off : Nat) (inb : Bool) (n : Nat) : State :=
  let (b, s) := s.barBegin k off
  let cur := if inb then b.insec else b.outsec
  if cur + n > 0xFFFFFFFF then s.barStore k off (b.error 0x03) false
  else s.barStore k off (if inb then { b with insec := cur + n } else { b with outsec := cur + n }) false
/-- An engine command's sectors are subtracted, with an error code when it has one. -/
def State.barSub (s : State) (k off : Nat) (inb : Bool) (n : Nat) (err : Nat) : State :=
  let (b, s) := s.barBegin k off
  let b := if err = 0 then b else b.error err
  let cur := if inb then b.insec else b.outsec
  let b := if cur < n then b.error 0x03 else b
  s.barStore k off (if inb then { b with insec := cur - n } else { b with outsec := cur - n }) true

/-- bar.init as one update (R142); none when sectors are pending. -/
def State.barInit (s : State) (k off expect gid : Nat) : Option State :=
  let b := s.barObj k off
  if b.insec ≠ 0 || b.outsec ≠ 0 then none
  else
    let held := (s.tile k).barWait.filter fun w => w.off == off
    let b0 : BarObj := { gid := gid, ecode := 0, outsec := 0, insec := 0, gen := 0, err := false, wdn := false,
                         expect := expect, pend := expect, rsv := 0, rsv2 := 0 }
    let b1 := if held = [] then b0 else b0.error 0x04
    let s := (s.tileWrite k 0 off 16 b1.toNat).updTile k fun t =>
      { t with barWait := t.barWait.filter (fun w => w.off != off), barFresh := t.barFresh.filter (· != off) }
    some (held.foldl (fun s w => s.wakeWaiter b1.word0 w) s)

/-- An arrival is recorded in the matching membership entry of its context (R149): `w` is the word it reported. -/
def Member.note (remote : Bool) (rtn : BitVec 4) (off w : Nat) (m : Member) : Member :=
  let v := m.op.toNat
  if bitAt v 11 == remote && (!remote || bitsAt v 12 4 == rtn.toNat) && bitsAt v 0 11 * 16 == off then
    { m with gen := BitVec.ofNat 4 (bitsAt w 28 4), arrived := true }
  else m
def State.noteArrival (s : State) (k c : Nat) (remote : Bool) (rtn : BitVec 4) (off w : Nat) : State :=
  if 4 ≤ c then s
  else s.updCtx k c fun x => { x with y := { x.y with members := x.y.members.map (Member.note remote rtn off w) } }

/-- An update or read of a barrier object that came from another tile (R141). -/
def State.applyBar (s : State) (f : Flight) (k : Nat) (op : BarOp) : Answer :=
  let off := f.addr
  let hold (s : State) : State := s.updTile k fun t => { t with barWait := t.barWait ++ [{ off := off, ctx := none, flight := f.id }] }
  match op with
  | .arrive => let (w, s, _) := s.barArrive k off; .done (s.noteArrival f.src f.ctx true f.rtn off w) (BitVec.ofNat 128 w) []
  | .wait g =>
    let b := s.barObj k off
    if b.gen ≠ g.toNat then .done s (timed b.word0 ((s.tile k).barTime.get 0 off)) []
    else if (s.tile k).barWait.any (fun w => w.ctx.isNone && w.flight == f.id) then .held s else .held (hold s)
  | .arriveWait =>
    if (s.tile k).barWait.any (fun w => w.ctx.isNone && w.flight == f.id) then .held s
    else
      -- the waiter is held before the update is tested, so an arrival that completes the phase receives the value
      let (w, s', counted) := (hold s).barArrive k off
      let s' := s'.noteArrival f.src f.ctx true f.rtn off w
      if counted then .held s'
      else
        .done (s'.updTile k fun t => { t with barWait := t.barWait.filter fun q => !(q.ctx.isNone && q.flight == f.id) })
          (timed (s'.barObj k off).word0 ((s'.tile k).barTime.get 0 off)) []
  | .status => .done s (BitVec.ofNat 128 (s.tileRead k 0 off 16)) []
  | .join => let (s, ok) := s.barJoin k off; .done s (if ok then 0 else 3) []
  | .withdraw g v => .done (s.barWithdraw k off g v) 0 []
  | .addIn n => .done (s.barAdd k off true n) 0 []
  | .subIn n e => .done (s.barSub k off true n e.toNat) 0 []

/-! ### Accesses at another tile (R80, R81, R113) -/

/-- The tiles at which an access to a tile is performed: in checked mode a packet addressed to a first tile reaches
both tiles of the pair (R370). -/
def State.targets (s : State) (k : Nat) : List Nat :=
  if (s.tile k).checked && decide (rowOf k < 16) then [k, otherTwin k] else [k]

/-- One access at one tile's store. -/
def State.applyTileOne (s : State) (f : Flight) (k : Nat) : Answer :=
  let n := f.op.size
  let eats := f.op.reads || decide (n < 8)
  match f.op with
  | .bar op => s.applyBar f k op
  | op =>
    if eats && (s.tilePoison k 1 f.addr n).isSome then .refuse s 0x11 2
    else
      let seen := (s.tile k).marksAt 1 f.addr n
      let mark (s : State) : State := s.updTile k (·.setMarks 1 f.addr n (f.marksLeft seen))
      match op with
      | .load n => .done s (BitVec.ofNat 128 (s.tileRead k 1 f.addr n)) seen
      | .store n v => .done (mark (s.tileWrite k 1 f.addr n v.toNat)) 0 []
      | .amo a n b x =>
        let old := s.tileRead k 1 f.addr n
        .done (mark (s.tileWrite k 1 f.addr n (a.newValue n old b.toNat x.toNat)))
          (BitVec.ofNat 128 (a.extend n old).toNat) seen
      | .get n => .bytes s (((s.tile k).memOf 1).bytes f.addr n)
      | .put _ bar =>
        let s1 := s.tilePut k 1 f.addr f.data
        -- the remote object counts the sector in the same step (R230)
        .done (match bar with | some off => s1.barSub k off true 1 0 | none => s1) 0 []
      | _ => .done s 0 []

/-- An access delivered to a tile: refused by another owner's tile, by a fenced one, or by a site without a tile
(R81); the answer is the first tile's. -/
def State.applyTile (s : State) (f : Flight) (k : Nat) : Answer :=
  if ownerOf k ≠ f.owner || decide (gateBase ≤ k) || (s.tile k).fenced then .refuse s 0x08 0
  else match s.targets k with
    | [a] => s.applyTileOne f a
    | a :: b :: _ =>
      (match s.applyTileOne f a with
       | .done s1 v m =>
         (match s1.applyTileOne f b with
          | .refuse s2 c d => .refuse s2 c d
          | .done s2 _ _ => .done s2 v m
          | .bytes s2 _ => .done s2 v m
          | .held s2 => .done s2 v m)
       | r => r)
    | [] => .refuse s 0x08 0

/-! ### Accesses at a gateway (R99, R113) -/

/-- The gateway reports the access applied to host memory or to another module. It keeps no line records, so an access to a watched page
there is neither checked nor recorded (Table 4 of R110 has them at home slices alone: DESIGN CHOICE, log 77); releases and acquires meet
there as at a slice (R104). No home slice stands there: `ld.t` returns the plain
doubleword with notcell, and `ld.s`, the cell instructions and the stamped operations are refused with 0x06, since no cell can exist there
(the spec says neither, R84, R85, R125: DESIGN CHOICE, log 68). -/
def State.applyGate (s : State) (f : Flight) : Answer :=
  match f.op with
  | .load n => .done s (BitVec.ofNat 128 (s.mem.readN f.addr n)) (s.marksFound f)
  | .get n => .bytes s (s.mem.bytes f.addr n)
  | .put _ _ => .done ((s.flightPut f f.data).homeMark f []) 0 []
  | .store n v => .done ((s.flightWrite f n v.toNat).homeMark f []) 0 []
  | .amo k n b x =>
    let old := s.mem.readN f.addr n
    .done ((s.flightWrite f n (k.newValue n old b.toNat x.toNat)).homeMark f (s.marksFound f))
      (BitVec.ofNat 128 (k.extend n old).toNat) (s.marksFound f)
  | .ldT => .done s ((32 : BitVec 64) ++ BitVec.ofNat 64 (s.mem.readN f.addr 8)) (s.marksFound f)
  | _ => .refuse s 0x06 0

end Sys2Proof.Machine
end

