-- ==== Sys2Proof/Machine/LoadStore.lean ====
section
/-! DEFINITION. Loads and stores (R70 to R85): the four spaces, runs of registers, and the tentative and settled
loads of repair cells. -/

namespace Sys2Proof.Machine

/-- EA of an M-form access (R70). -/
def State.ea (s : State) (a : Opnd) (m : MTail) : Word := s.rx a.num + m.disp.signExtend 64

/-- A load of n bytes (R75): spaces 0 and 1 at once, spaces 2 and 3 with a reply. -/
def State.loadAcc (s : State) (m : MTail) (ea : Word) (n : Nat) (ext : Ext) (d : Opnd) : Res :=
  match m.space.toNat with
  | 2 =>
    match s.resumed (fun _ => s) with
    | some r => r
    | none =>
      if s.acqHeld then .stall
      else match spaceCheck ea n n vaLimit with
        | some a => .trap a
        | none => s.sendGlobal ea false false true fun dst pa r =>
            { dest := dst, addr := pa, op := .load n, ret := .reg (s.place d.num) (8 * n) ext, route := r,
              isLoad := true, isStore := false, order := m.order, scope := m.scope }
  | 3 =>
    if s.acqHeld then .stall
    else match spaceCheck ea n n (spaceLimit 1) with
      | some a => .trap a
      | none => s.sendRemote m.rtn fun dst r =>
          { dest := dst, addr := ea.toNat, va := ea, op := .load n, ret := .reg (s.place d.num) (8 * n) ext, route := r,
            isLoad := true, isStore := false, order := m.order, scope := m.scope }
  | sp => s.localAccess sp ea n m.order m.scope (.load n ext (s.place d.num))

/-- `ld.q` (R75, R76): both registers of the pair. -/
def State.loadPair (s : State) (m : MTail) (ea : Word) (d : Opnd) : Res :=
  let ret : Ret := .pair (s.me.r.xbase + d.num)
  match m.space.toNat with
  | 2 =>
    match s.resumed (fun _ => s) with
    | some r => r
    | none =>
      if s.acqHeld then .stall
      else match spaceCheck ea 16 16 vaLimit with
        | some a => .trap a
        | none => s.sendGlobal ea false false true fun dst pa r =>
            { dest := dst, addr := pa, op := .load 16, ret := ret, route := r, isLoad := true, isStore := false,
              order := m.order, scope := m.scope }
  | 3 =>
    if s.acqHeld then .stall
    else match spaceCheck ea 16 16 (spaceLimit 1) with
      | some a => .trap a
      | none => s.sendRemote m.rtn fun dst r =>
          { dest := dst, addr := ea.toNat, va := ea, op := .load 16, ret := ret, route := r, isLoad := true,
            isStore := false, order := m.order, scope := m.scope }
  | sp => s.localAccess sp ea 16 m.order m.scope (.pair (s.me.r.xbase + d.num))

/-- A store of n bytes (R75): posted in spaces 2 and 3 (R78). -/
def State.storeAcc (s : State) (m : MTail) (ea : Word) (n : Nat) (v : BitVec 128) : Res :=
  match m.space.toNat with
  | 2 =>
    match s.resumed (fun _ => s) with
    | some r => r
    | none =>
      if s.acqHeld then .stall
      else match spaceCheck ea n n vaLimit with
        | some a => .trap a
        | none => s.sendGlobal ea true false true fun dst pa r =>
            { dest := dst, addr := pa, op := .store n v, ret := .none, route := r, isLoad := false, isStore := true,
              order := m.order, scope := m.scope }
  | 3 =>
    if s.acqHeld then .stall
    else match spaceCheck ea n n (spaceLimit 1) with
      | some a => .trap a
      | none => s.sendRemote m.rtn fun dst r =>
          { dest := dst, addr := ea.toNat, va := ea, op := .store n v, ret := .none, route := r, isLoad := false,
            isStore := true, order := m.order, scope := m.scope }
  | sp => s.localAccess sp ea n m.order m.scope (.store n v)

/-- The shape of every load and store of one register. -/
def loadF (n : Nat) (ext : Ext) (f : MDA) (s : State) : Out :=
  s.issue f.h none .u [(f.d, .wx), (f.a, .rx)] false false fun s _ => s.loadAcc f.m (s.ea f.a f.m) n ext f.d
def storeF (n : Nat) (f : MAB) (s : State) : Out :=
  s.issue f.h none .u [(f.a, .rx), (f.b, .rx)] false false fun s _ =>
    s.storeAcc f.m (s.ea f.a f.m) n ((s.rx f.b.num).setWidth 128)

/-- ld.b to st.q (R75, Table 3). -/
def execLdB (f : MDA) (s : State) : Out := loadF 1 .sign f s
def execLdBu (f : MDA) (s : State) : Out := loadF 1 .zero f s
def execLdH (f : MDA) (s : State) : Out := loadF 2 .sign f s
def execLdHu (f : MDA) (s : State) : Out := loadF 2 .zero f s
def execLdW (f : MDA) (s : State) : Out := loadF 4 .sign f s
def execLdWu (f : MDA) (s : State) : Out := loadF 4 .zero f s
def execLdD (f : MDA) (s : State) : Out := loadF 8 .zero f s
def execLdQ (f : MDA) (s : State) : Out :=
  s.issue f.h none .u [(f.d, .wpair), (f.a, .rx)] false false fun s _ => s.loadPair f.m (s.ea f.a f.m) f.d
def execStB (f : MAB) (s : State) : Out := storeF 1 f s
def execStH (f : MAB) (s : State) : Out := storeF 2 f s
def execStW (f : MAB) (s : State) : Out := storeF 4 f s
def execStD (f : MAB) (s : State) : Out := storeF 8 f s
def execStQ (f : MAB) (s : State) : Out :=
  s.issue f.h none .u [(f.a, .rx), (f.b, .rpair)] false false fun s _ =>
    s.storeAcc f.m (s.ea f.a f.m) 16 (s.rx (f.b.num + 1) ++ s.rx f.b.num)

/-! ### ldm and stm (R79) -/

/-- A doubleword of a run that has passed its checks: address, place, key slot and route. -/
structure RunWord where
  va : Nat
  pa : Nat
  slot : Nat
  dest : Dest
  route : BitVec 128
  watched : Bool

/-- How the checks of a run of doublewords end. -/
inductive ReachedRun where
  | all (l : List RunWord) (s : State)
  | trap (a : FaultArg) (fx : State → State)
  | hold (s : State)

/-- CheckAccess on every doubleword of a run before any access (R79). -/
def State.reachRun (s : State) (write : Bool) : List Nat → List RunWord → ReachedRun
  | [], acc => .all acc.reverse s
  | ea :: rest, acc =>
    match s.reach ea write false with
    | .trap a fx => .trap a fun q => fx (s.walked s.cur q)
    | .hold s1 => .hold s1
    | .at_ pa slot d r w s1 => State.reachRun s1 write rest ({ va := ea, pa := pa, slot := slot, dest := d, route := r, watched := w } :: acc)

/-- The first race that the doublewords of a run on watched pages would meet as their lines' records stand: it is taken before any access
(R79, log 20). Each is checked and recorded at its home slice (R111). -/
def State.raceRun (s : State) (write : Bool) : List RunWord → Option FaultArg
  | [] => none
  | w :: rest =>
    match if w.watched then s.raceLine s.cur s.curCtx s.me.y.region (w.pa / 64) (!write) write else .ok s with
    | .error d => some { cause := 0x0A, address := BitVec.ofNat 64 w.va, detail := d }
    | .ok _ => State.raceRun s write rest

/-- Sends one access of a run for each doubleword, `q` saying what the i-th is. -/
def State.sendAll (s : State) (q : Nat → Req2) : Nat → Nat → State
  | 0, _ => s
  | k + 1, i => State.sendAll (s.send (q i)) q k (i + 1)

/-- A run of doublewords of space 2: one access for each, and for each that is refused a report with its own address (the spec says only
"the effective address of the access", R394: DESIGN CHOICE, log 71). Where one lies on a watched page the context waits until all of them
have been checked and applied (R111); one that its home finds to race fails the instruction. -/
def State.run2 (s : State) (ea : Word) (n : Nat) (write : Bool) (q : Nat → Req2) : Res :=
  match s.resumed (fun _ => s) with
  | some r => r
  | none =>
    if s.acqHeld then .stall
    else match spaceCheck ea (8 * n) 8 vaLimit with
      | some a => .trap a
      | none =>
        match s.reachRun write ((List.range n).map fun i => ea.toNat + 8 * i) [] with
        | .trap a fx => .trapBy fx a
        | .hold s1 => .ends s1
        | .all l s1 =>
          match s.watched 2 ea.toNat (8 * n) (!write) write with
          | some r => r.after (s1.walked s.cur)
          | none =>
            match s1.raceRun write l with
            | some a => .trapBy (s1.walked s.cur) a
            | none =>
              let s3 := s1.sendAll (fun i => match l[i]? with
                | some w => { q i with dest := w.dest, addr := w.pa, va := BitVec.ofNat 64 w.va, slot := w.slot, route := w.route,
                                       watched := w.watched }
                | none => q i) n 0
              if l.any (·.watched) then .wait (s3.updC fun c => { c with phase := .granted 0 }) (.applied s3.nextId) else .ok s3

/-- A run of doublewords of space 3. -/
def State.run3 (s : State) (rtn : BitVec 4) (ea : Word) (n : Nat) (q : Nat → Req2) : Res :=
  if s.acqHeld then .stall
  else match spaceCheck ea (8 * n) 8 (spaceLimit 1) with
    | some a => .trap a
    | none =>
      match s.injectReg rtn.toNat with
      | .error st => .trap { cause := 0x08, detail := BitVec.ofNat 64 st }
      | .ok (r, k, s1) =>
        .ok (s1.sendAll (fun i =>
          { q i with dest := .tile (k.getD (128 * 65536 * 2)), addr := ea.toNat + 8 * i, va := ea + BitVec.ofNat 64 (8 * i),
                     route := r, rtn := rtn }) n 0)

def execLdm (f : MDAB) (s : State) : Out :=
  s.issue f.h none .u [(f.d, .wx), (f.a, .rx), (f.b, .wrun f.d.num)] false false fun s _ =>
    let ea := s.ea f.a f.m
    let n := f.b.num + 1 - f.d.num
    let q (i : Nat) : Req2 :=
      { dest := .slice 0, addr := 0, op := .load 8, ret := .reg (s.place (f.d.num + i)) 64 .zero, route := 0,
        isLoad := true, isStore := false }
    match f.m.space.toNat with
    | 2 => s.run2 ea n false q
    | 3 => s.run3 f.m.rtn ea n q
    | sp => s.localAccess sp ea 8 0 0 (.runLoad ((List.range n).map fun i => s.place (f.d.num + i)))

def execStm (f : MDAB) (s : State) : Out :=
  s.issue f.h none .u [(f.b, .rx), (f.a, .rx), (f.d, .rrun f.b.num)] false false fun s _ =>
    let ea := s.ea f.a f.m
    let n := f.d.num + 1 - f.b.num
    let q (i : Nat) : Req2 :=
      { dest := .slice 0, addr := 0, op := .store 8 ((s.rx (f.b.num + i)).setWidth 128), ret := .none, route := 0,
        isLoad := false, isStore := true }
    match f.m.space.toNat with
    | 2 => s.run2 ea n true q
    | 3 => s.run3 f.m.rtn ea n q
    | sp => s.localAccess sp ea 8 0 0 (.runStore ((List.range n).map fun i => s.rx (f.b.num + i)))

/-! ### Tentative and settled loads (R84, R85) -/

def execLdT (f : MDA) (s : State) : Out :=
  s.issue f.h none .u [(f.d, .wpair), (f.a, .rx)] false false fun s _ =>
    let ea := s.ea f.a f.m
    if s.acqHeld then .stall
    else match spaceCheck ea 8 8 vaLimit with
      | some a => .trap a
      | none => s.sendGlobal ea false false false fun dst pa r =>
          { dest := dst, addr := pa, op := .ldT, ret := .pair (s.me.r.xbase + f.d.num), route := r, isLoad := true,
            isStore := false, order := f.m.order, scope := f.m.scope }
def execLdS (f : MDAB) (s : State) : Out :=
  s.issue f.h none .u [(f.d, .wx), (f.a, .rx), (f.b, .rx)] false false fun s _ =>
    let ea := s.ea f.a f.m
    if s.acqHeld then .stall
    else match spaceCheck ea 8 8 vaLimit with
      | some a => .trap a
      | none => s.sendGlobal ea false false false fun dst pa r =>
          { dest := dst, addr := pa, op := .ldS (s.rx f.b.num), ret := .reg (s.place f.d.num) 64 .zero, route := r,
            isLoad := true, isStore := false, order := f.m.order, scope := f.m.scope }

end Sys2Proof.Machine
end

