-- ==== Sys2Proof/Machine/TagTab.lean ====
section
/-! DEFINITION. The tag table (R86 to R89) and the region table of demand windows (R90 to R93). -/

namespace Sys2Proof.Machine

/-- Bits 56:8 of an address as a tag (R86). -/
def tagOf (a : Word) : BitVec 49 := BitVec.ofNat 49 (bitsAt a.toNat 8 49)
/-- The valid entry with a tag; the table holds at most one (R88). -/
def Tile.tagEntry (t : Tile) (g : BitVec 49) : Option Nat :=
  findFrom (fun n => let e := t.tagTab.get .reset n; e.valid && e.tag == g) 64 0
def Tile.dropTag (t : Tile) (n : Nat) : Tile :=
  { t with tagTab := t.tagTab.set n { t.tagTab.get .reset n with valid := false } }
/-- The index found, or all ones. -/
def foundOr (o : Option Nat) : Word :=
  match o with
  | some n => BitVec.ofNat 64 n
  | none => ones

def execTlook (f : SDA) (s : State) : Out :=
  s.issue f.h (some f.t) .u [(f.d, .wx), (f.a, .rx)] false false fun s _ =>
    .ok (s.wx f.d.num (foundOr (s.myTile.tagEntry (tagOf (s.rx f.a.num)))))

/-- tset: the previous occupant is returned; another entry with the same tag ends (R88). -/
def Tile.setTag (t : Tile) (n : Nat) (g : BitVec 49) : Tile :=
  let t := match findFrom (fun m => m != n && (t.tagTab.get .reset m).valid && (t.tagTab.get .reset m).tag == g) 64 0 with
    | some m => t.dropTag m
    | none => t
  { t with tagTab := t.tagTab.set n { valid := true, tag := g } }
def execTset (f : SDAB) (s : State) : Out :=
  s.issue f.h (some f.t) .u [(f.d, .wx), (f.a, .rx), (f.b, .rx)] false false fun s _ =>
    let b := s.rx f.b.num
    if 63 < b.toNat then .trap { cause := 0x02 }
    else
      let e := s.myTile.tagTab.get .reset b.toNat
      let old : Word := if e.valid then BitVec.ofNat 64 (e.tag.toNat * 256 + 1) else 0
      .ok ((s.updMyTile fun t => t.setTag b.toNat (tagOf (s.rx f.a.num))).wx f.d.num old)

def execTinv (f : SDA) (s : State) : Out :=
  s.issue f.h (some f.t) .u [(f.d, .wx), (f.a, .rx)] false false fun s _ =>
    let r := s.myTile.tagEntry (tagOf (s.rx f.a.num))
    let s1 := match r with
      | some n => s.updMyTile fun t => t.dropTag n
      | none => s
    .ok (s1.wx f.d.num (foundOr r))

def execTclr (f : SA) (s : State) : Out :=
  s.issue f.h (some f.t) .u [(f.a, .rx)] false false fun s _ =>
    let a := s.rx f.a.num
    .ok (s.updMyTile fun t => { t with tagTab := t.tagTab.map fun (n, e) =>
      (n, if a.getLsbD n then { e with valid := false } else e) })

/-! ### The region table -/

/-- A sector of an entry is filling. -/
def RegionEntry.filling (e : RegionEntry) : Bool := e.valid && e.states.any fun p => p.2 == 1

/-- rgset: the checks in the order of R91, the wait, and the binding. Its faults, like those of `rgclr`, are about an operand and no
access, so their messages carry address 0, while `rgq`'s space fault carries the offset asked for (the spec gives none of them:
DESIGN CHOICE, log 69). -/
def execRgset (f : SAB) (s : State) : Out :=
  s.issue f.h (some f.t) .u [(f.a, .rx), (f.b, .rx)] false false fun s _ =>
    let a := (s.rx f.a.num).toNat
    let b := s.rx f.b.num
    let n := bitsAt a 0 4
    let start := bitsAt a 8 7
    let len := bitsAt a 16 7 + 1
    let shares := (List.range 16).any fun i => let e := s.myTile.regTab.get .reset i
      i != n && e.valid && decide (e.start < start + len) && decide (start < e.start + e.len)
    if bitsAt a 23 41 ≠ 0 || bitAt a 15 || bitsAt a 4 4 ≠ 0 then .trap { cause := 0x02 }
    else if start + len > 128 then .trap { cause := 0x14 }
    else if shares then .trap { cause := 0x06 }
    else if b.toNat % 256 ≠ 0 then .trap { cause := 0x04 }
    else if 2 ^ 57 ≤ b.toNat then .trap { cause := 0x14 }
    else if (s.myTile.regTab.get .reset n).filling then .stall
    else .ok (s.updMyTile fun t =>
      { t with regTab := t.regTab.set n { valid := true, start := start, len := len, src := b, states := [] } })

/-- rgclr: waits for the filling sectors of the named entries, then invalidates them (R92): all in one step once none of them fills,
where the spec does not say whether each ends by itself before (DESIGN CHOICE, log 70). -/
def execRgclr (f : SA) (s : State) : Out :=
  s.issue f.h (some f.t) .u [(f.a, .rx)] false false fun s _ =>
    let a := s.rx f.a.num
    if 65536 ≤ a.toNat then .trap { cause := 0x02 }
    else if s.myTile.regTab.any (fun (n, e) => a.getLsbD n && e.filling) then .stall
    else .ok (s.updMyTile fun t => { t with regTab := t.regTab.map fun (n, e) =>
      (n, if a.getLsbD n then { e with valid := false } else e) })

/-- rgq: Table 8 of R93. -/
def execRgq (f : SDA) (s : State) : Out :=
  s.issue f.h (some f.t) .u [(f.d, .wx), (f.a, .rx)] false false fun s _ =>
    let a := s.rx f.a.num
    if 0x7FFF < a.toNat then .trap { cause := 0x14, address := a }
    else .ok (s.wx f.d.num (match s.myTile.windowOf (a.toNat / 256) with
      | some (i, j) => BitVec.ofNat 64 (256 + i * 16 + (s.myTile.regTab.get .reset i).states.get 0 j)
      | none => 0))

end Sys2Proof.Machine
end

