-- ==== Sys2Proof/Machine/Atomics.lean ====
section
/-! DEFINITION. Atomics (R113 to R119): where each is performed, its checks in the order of R114, and its operation. -/

namespace Sys2Proof.Machine

/-- The space field fits the scope (R113, Table 1). -/
def amoSpaceOk (scope space : Nat) : Bool :=
  match scope with
  | 0 => space == 0 || space == 1
  | 1 => space == 1 || space == 3
  | _ => space == 2
/-- The place fits the scope: owner scope at a home slice, system scope at a gateway (R113). -/
def amoDestOk (scope : Nat) (d : Dest) : Bool :=
  match d with
  | .slice _ => scope == 2
  | .gate _ => scope == 3
  | _ => false

/-- The tile at which a cluster-scope atomic of space 1 is performed: its own; of a checked pair, the first (R370). -/
def State.ownTarget (s : State) : Nat := if s.myTile.checked then firstTwin s.cur else s.cur

/-- An atomic (R113 to R119). One with dst x0 is posted in spaces 2 and 3 and at cluster scope. -/
def State.amo (s : State) (k : AmoKind) (f : MDAB) : Res :=
  let m := f.m
  let ea := s.ea f.a m
  let n := if m.size = 0 then 4 else 8
  let b := s.rx f.b.num
  let x := s.rx f.d.num
  let posted := f.d.num == 0
  let q (dst : Dest) (addr : Nat) (r : BitVec 128) : Req2 :=
    { dest := dst, addr := addr, va := ea, op := .amo k n b x, ret := if posted then .none else .reg (s.place f.d.num) 64 .zero,
      route := r, isLoad := !posted, isStore := true, order := m.order, scope := m.scope, rtn := m.rtn }
  match s.resumed (fun _ => s) with
  | some r => if m.scope = 0 then s.localAccess m.space.toNat ea n m.order m.scope (.amo k n b x (s.place f.d.num)) else r
  | none =>
    if ea.toNat % n ≠ 0 then .trap { cause := 0x04, address := ea }
    else if !amoSpaceOk m.scope.toNat m.space.toNat then .trap { cause := 0x0E, address := ea }
    else match m.scope.toNat with
      | 0 => s.localAccess m.space.toNat ea n m.order m.scope (.amo k n b x (s.place f.d.num))
      | 1 =>
        if s.acqHeld then .stall
        else match spaceCheck ea n n (spaceLimit 1) with
          | some a => .trap a
          | none =>
            if m.space = 1 then
              match s.watched 1 ea.toNat n true true with
              | some r => r
              | none => if s.myTile.vecOpen s.curCtx then .stall else .ok (s.send (q (.tile s.ownTarget) ea.toNat (mkRoute [0x80])))
            else match s.injectReg m.rtn.toNat with
              | .error st => .trap { cause := 0x08, detail := BitVec.ofNat 64 st }
              | .ok (r, tile, s1) =>
                match tile with
                | some t =>
                  if clusterKey t = clusterKey s.cur then .ok (s1.send (q (.tile t) ea.toNat r))
                  else .trap { cause := 0x0E, address := ea }
                | none => .trap { cause := 0x0E, address := ea }
      | _ =>
        if s.acqHeld then .stall
        else match spaceCheck ea n n vaLimit with
          | some a => .trap a
          | none => s.sendGlobal ea true true true q (amoDestOk m.scope.toNat)

/-- The instruction around an atomic. -/
def amoF (k : AmoKind) (f : MDAB) (s : State) : Out :=
  s.issue f.h none .u [(f.d, .wx), (f.a, .rx), (f.b, .rx)] false false fun s _ => s.amo k f

/-- amo.add to amo.bfadd2 (R116, Table 2). -/
def execAmoAdd (f : MDAB) (s : State) : Out := amoF .add f s
def execAmoAnd (f : MDAB) (s : State) : Out := amoF .and f s
def execAmoOr (f : MDAB) (s : State) : Out := amoF .or f s
def execAmoXor (f : MDAB) (s : State) : Out := amoF .xor f s
def execAmoMin (f : MDAB) (s : State) : Out := amoF .min f s
def execAmoMax (f : MDAB) (s : State) : Out := amoF .max f s
def execAmoMinu (f : MDAB) (s : State) : Out := amoF .minu f s
def execAmoMaxu (f : MDAB) (s : State) : Out := amoF .maxu f s
def execAmoXchg (f : MDAB) (s : State) : Out := amoF .xchg f s
/-- amo.cas reads xd as its expected value (R118). -/
def execAmoCas (f : MDAB) (s : State) : Out :=
  s.issue f.h none .u [(f.d, .rx), (f.a, .rx), (f.b, .rx)] false false fun s _ => s.amo .cas f
def execAmoFadd (f : MDAB) (s : State) : Out := amoF .fadd f s
def execAmoFmin (f : MDAB) (s : State) : Out := amoF .fmin f s
def execAmoFmax (f : MDAB) (s : State) : Out := amoF .fmax f s
def execAmoBfadd2 (f : MDAB) (s : State) : Out := amoF .bfadd2 f s

end Sys2Proof.Machine
end

