-- ==== Sys2Proof/Machine/Cells.lean ====
section
/-! DEFINITION. Repair-cell instructions and stamped operations at their issue (R120, R121, R125 to R131, R135). -/

namespace Sys2Proof.Machine

/-- The checks of a cell instruction and its sending: misaligned, space, translation with R and W (R125). -/
def State.cellSend (s : State) (ea : Word) (q : Req2) : Res :=
  if s.acqHeld then .stall
  else match spaceCheck ea 8 8 vaLimit with
    | some a => .trap a
    | none => s.sendGlobal ea true true false fun dst pa r => { q with dest := dst, addr := pa, route := r }

def execRcell (f : MDAB) (s : State) : Out :=
  s.issue f.h none .u [(f.d, .wx), (f.a, .rx), (f.b, .rx)] false false fun s _ =>
    let b := s.rx f.b.num
    if 4 ≤ b.toNat then .trap { cause := 0x02 }
    else s.cellSend (s.ea f.a f.m)
      { dest := .slice 0, addr := 0, op := .rcell (b.setWidth 2), ret := .reg (s.place f.d.num) 64 .zero, route := 0,
        isLoad := true, isStore := true }
def execRfree (f : MDA) (s : State) : Out :=
  s.issue f.h none .u [(f.d, .wx), (f.a, .rx)] false false fun s _ =>
    s.cellSend (s.ea f.a f.m)
      { dest := .slice 0, addr := 0, op := .rfree, ret := .reg (s.place f.d.num) 64 .zero, route := 0,
        isLoad := true, isStore := true }
def execRstat (f : MDA) (s : State) : Out :=
  s.issue f.h none .u [(f.d, .wpair), (f.a, .rx)] false false fun s _ =>
    s.cellSend (s.ea f.a f.m)
      { dest := .slice 0, addr := 0, op := .rstat, ret := .pair (s.me.r.xbase + f.d.num), route := 0,
        isLoad := true, isStore := false }

/-- A `rop` (R129): its stamp is taken at issue and `seq` advances; at 0xF_FFFF nothing is sent (R121). -/
def State.rop (s : State) (kind : BitVec 2) (f : MDAB) : Res :=
  let posted := f.d.num == 0
  let stamp := s.stampOf
  match s.cellSend (s.ea f.a f.m)
      { dest := .slice 0, addr := 0, op := .rop kind (s.rx f.b.num),
        ret := if posted then .none else .reg (s.place f.d.num) 64 .zero, route := 0, isLoad := !posted, isStore := true,
        order := f.m.order, scope := f.m.scope, stamped := true, stamp := stamp } with
  | .ok s1 =>
    if s.me.r.seq = 0xFFFFF then .trap { cause := 0x16, detail := 1, allow := allowData }
    else .ok ((s1.updR fun r => { r with seq := r.seq + 1 }).traceRec s.cur s.curCtx 1 stamp)
  | r => r
def ropF (kind : BitVec 2) (f : MDAB) (s : State) : Out :=
  s.issue f.h none .u [(f.d, .wx), (f.a, .rx), (f.b, .rx)] false false fun s _ => s.rop kind f

/-- The kinds of R123, Table 4. -/
def execRopFadd (f : MDAB) (s : State) : Out := ropF 0 f s
def execRopBfadd (f : MDAB) (s : State) : Out := ropF 1 f s
def execRopSt (f : MDAB) (s : State) : Out := ropF 2 f s
def execRopMaxi (f : MDAB) (s : State) : Out := ropF 3 f s

/-- rreissue (R131): stamp and operand come from a register pair; a stamp with bit 20 set sends nothing. -/
def execRreissue (f : MDAB) (s : State) : Out :=
  s.issue f.h none .s [(f.d, .wx), (f.a, .rx), (f.b, .rpair)] false false fun s _ =>
    let stamp := s.rx f.b.num
    match s.cellSend (s.ea f.a f.m)
        { dest := .slice 0, addr := 0, op := .rreissue (s.rx (f.b.num + 1)), ret := .reg (s.place f.d.num) 64 .zero,
          route := 0, isLoad := true, isStore := true, stamped := true, stamp := stamp } with
    | .ok s1 => if stamp.getLsbD 20 then .ok (s.wx f.d.num 5) else .ok s1
    | r => r

end Sys2Proof.Machine
end

