-- ==== Sys2Proof/Machine/Scalar.lean ====
section
/-! DEFINITION. Integer, move and bit-field instructions (R40 to R47): the functions of Table 1 and the meanings. -/

namespace Sys2Proof.Machine

/-! ### F(a, b) of R41 (Table 1) and R42 (Table 2) -/

/-- add: a + b modulo 2^64. -/
def aluAdd (a b : Word) : Word := a + b
/-- sub: a − b modulo 2^64. -/
def aluSub (a b : Word) : Word := a - b
/-- mul: the low 64 bits of the product. -/
def aluMul (a b : Word) : Word := a * b
/-- mulh: the high 64 bits of the signed product. -/
def aluMulh (a b : Word) : Word := BitVec.ofInt 64 (a.toInt * b.toInt / 2 ^ 64)
/-- mulhu: the high 64 bits of the unsigned product. -/
def aluMulhu (a b : Word) : Word := BitVec.ofNat 64 (a.toNat * b.toNat / 2 ^ 64)
/-- div: the signed quotient truncated toward zero; all ones for b = 0; −2^63 by −1 is −2^63 (R42). -/
def aluDiv (a b : Word) : Word := if b = 0 then ones else BitVec.ofInt 64 (Int.tdiv a.toInt b.toInt)
/-- divu: the unsigned quotient; all ones for b = 0 (R42). -/
def aluDivu (a b : Word) : Word := if b = 0 then ones else BitVec.ofNat 64 (a.toNat / b.toNat)
/-- rem: the signed remainder; a for b = 0 (R42). -/
def aluRem (a b : Word) : Word := if b = 0 then a else BitVec.ofInt 64 (Int.tmod a.toInt b.toInt)
/-- remu: the unsigned remainder; a for b = 0 (R42). -/
def aluRemu (a b : Word) : Word := if b = 0 then a else BitVec.ofNat 64 (a.toNat % b.toNat)
/-- and: a AND b. -/
def aluAnd (a b : Word) : Word := a &&& b
/-- or: a OR b. -/
def aluOr (a b : Word) : Word := a ||| b
/-- xor: a XOR b. -/
def aluXor (a b : Word) : Word := a ^^^ b
/-- andn: a AND NOT b. -/
def aluAndn (a b : Word) : Word := a &&& ~~~b
/-- shl: a shifted left by b[5:0]. -/
def aluShl (a b : Word) : Word := a <<< (b.toNat % 64)
/-- shr: a shifted right by b[5:0], zeros enter. -/
def aluShr (a b : Word) : Word := a >>> (b.toNat % 64)
/-- sra: a shifted right by b[5:0], copies of a[63] enter. -/
def aluSra (a b : Word) : Word := a.sshiftRight (b.toNat % 64)
/-- rotr: a rotated right by b[5:0]. -/
def aluRotr (a b : Word) : Word := a.rotateRight (b.toNat % 64)
/-- min: the smaller, signed. -/
def aluMin (a b : Word) : Word := if a.toInt ≤ b.toInt then a else b
/-- max: the larger, signed. -/
def aluMax (a b : Word) : Word := if a.toInt ≤ b.toInt then b else a
/-- minu: the smaller, unsigned. -/
def aluMinu (a b : Word) : Word := if a.toNat ≤ b.toNat then a else b
/-- maxu: the larger, unsigned. -/
def aluMaxu (a b : Word) : Word := if a.toNat ≤ b.toNat then b else a

/-- The number of one bits among the low `n` bits of a number. -/
def onesIn : Nat → Nat → Nat
  | 0, _ => 0
  | k + 1, n => n % 2 + onesIn k (n / 2)

/-- abs: the magnitude of the signed value; −2^63 stays itself (R43). -/
def aluAbs (a : Word) : Word := if a.toInt < 0 then 0 - a else a
/-- neg: 0 − a. -/
def aluNeg (a : Word) : Word := 0 - a
/-- clz: leading zeros, 64 for 0. -/
def aluClz (a : Word) : Word := BitVec.ofNat 64 ((findFrom (fun i => a.getLsbD (63 - i)) 64 0).getD 64)
/-- ctz: trailing zeros, 64 for 0. -/
def aluCtz (a : Word) : Word := BitVec.ofNat 64 ((findFrom (fun i => a.getLsbD i) 64 0).getD 64)
/-- popc: the number of one bits. -/
def aluPopc (a : Word) : Word := BitVec.ofNat 64 (onesIn 64 a.toNat)

/-- The 32-bit operations on a[31:0] and b[31:0], sign-extended (R47). -/
def aluAddW (a b : Word) : Word := (a.setWidth 32 + b.setWidth 32).signExtend 64
def aluSubW (a b : Word) : Word := (a.setWidth 32 - b.setWidth 32).signExtend 64
def aluMulW (a b : Word) : Word := (a.setWidth 32 * b.setWidth 32).signExtend 64

/-! ### The two-operand instructions (R41, R42, R47) -/

def execAdd (f : SDAB) (s : State) : Out := aluS aluAdd f s
def execAddImm (f : IDA) (s : State) : Out := aluI aluAdd f s
def execSub (f : SDAB) (s : State) : Out := aluS aluSub f s
def execSubImm (f : IDA) (s : State) : Out := aluI aluSub f s
def execMul (f : SDAB) (s : State) : Out := aluS aluMul f s
def execMulImm (f : IDA) (s : State) : Out := aluI aluMul f s
def execMulh (f : SDAB) (s : State) : Out := aluS aluMulh f s
def execMulhImm (f : IDA) (s : State) : Out := aluI aluMulh f s
def execMulhu (f : SDAB) (s : State) : Out := aluS aluMulhu f s
def execMulhuImm (f : IDA) (s : State) : Out := aluI aluMulhu f s
def execDiv (f : SDAB) (s : State) : Out := aluS aluDiv f s
def execDivImm (f : IDA) (s : State) : Out := aluI aluDiv f s
def execDivu (f : SDAB) (s : State) : Out := aluS aluDivu f s
def execDivuImm (f : IDA) (s : State) : Out := aluI aluDivu f s
def execRem (f : SDAB) (s : State) : Out := aluS aluRem f s
def execRemImm (f : IDA) (s : State) : Out := aluI aluRem f s
def execRemu (f : SDAB) (s : State) : Out := aluS aluRemu f s
def execRemuImm (f : IDA) (s : State) : Out := aluI aluRemu f s
def execAnd (f : SDAB) (s : State) : Out := aluS aluAnd f s
def execAndImm (f : IDA) (s : State) : Out := aluI aluAnd f s
def execOr (f : SDAB) (s : State) : Out := aluS aluOr f s
def execOrImm (f : IDA) (s : State) : Out := aluI aluOr f s
def execXor (f : SDAB) (s : State) : Out := aluS aluXor f s
def execXorImm (f : IDA) (s : State) : Out := aluI aluXor f s
def execAndn (f : SDAB) (s : State) : Out := aluS aluAndn f s
def execAndnImm (f : IDA) (s : State) : Out := aluI aluAndn f s
def execShl (f : SDAB) (s : State) : Out := aluS aluShl f s
def execShlImm (f : IDA) (s : State) : Out := aluI aluShl f s
def execShr (f : SDAB) (s : State) : Out := aluS aluShr f s
def execShrImm (f : IDA) (s : State) : Out := aluI aluShr f s
def execSra (f : SDAB) (s : State) : Out := aluS aluSra f s
def execSraImm (f : IDA) (s : State) : Out := aluI aluSra f s
def execRotr (f : SDAB) (s : State) : Out := aluS aluRotr f s
def execRotrImm (f : IDA) (s : State) : Out := aluI aluRotr f s
def execMin (f : SDAB) (s : State) : Out := aluS aluMin f s
def execMinImm (f : IDA) (s : State) : Out := aluI aluMin f s
def execMax (f : SDAB) (s : State) : Out := aluS aluMax f s
def execMaxImm (f : IDA) (s : State) : Out := aluI aluMax f s
def execMinu (f : SDAB) (s : State) : Out := aluS aluMinu f s
def execMinuImm (f : IDA) (s : State) : Out := aluI aluMinu f s
def execMaxu (f : SDAB) (s : State) : Out := aluS aluMaxu f s
def execMaxuImm (f : IDA) (s : State) : Out := aluI aluMaxu f s
def execAddW (f : SDAB) (s : State) : Out := aluS aluAddW f s
def execAddWImm (f : IDA) (s : State) : Out := aluI aluAddW f s
def execSubW (f : SDAB) (s : State) : Out := aluS aluSubW f s
def execSubWImm (f : IDA) (s : State) : Out := aluI aluSubW f s
def execMulW (f : SDAB) (s : State) : Out := aluS aluMulW f s
def execMulWImm (f : IDA) (s : State) : Out := aluI aluMulW f s

/-! ### The one-operand instructions (R43, R45) -/

def execAbs (f : SDA) (s : State) : Out := unS aluAbs f s
def execNeg (f : SDA) (s : State) : Out := unS aluNeg f s
def execClz (f : SDA) (s : State) : Out := unS aluClz f s
def execCtz (f : SDA) (s : State) : Out := unS aluCtz f s
def execPopc (f : SDA) (s : State) : Out := unS aluPopc f s
/-- mov: xd ← a (R45). -/
def execMov (f : SDA) (s : State) : Out := unS id f s
/-- nop: nothing but its wait, its signal and its next address (R45). -/
def execNop (f : S0) (s : State) : Out := s.issue f.h (some f.t) .u [] false false fun s _ => .ok s

/-! ### Bit fields (R44): pos in imm[5:0], width − 1 in imm[11:6] -/

def bfPos (i : BitVec 32) : Nat := i.toNat % 64
def bfWidth (i : BitVec 32) : Nat := i.toNat / 64 % 64 + 1
/-- The field, sign- or zero-extended. -/
def aluBfx (a : Word) (i : BitVec 32) : Word := sextLow (bfWidth i) (a >>> bfPos i)
def aluBfxu (a : Word) (i : BitVec 32) : Word := zextLow (bfWidth i) (a >>> bfPos i)
/-- The old xd with the field replaced by the low bits of a. -/
def aluBfi (old a : Word) (i : BitVec 32) : Word :=
  BitVec.ofNat 64 (setBits old.toNat (bfPos i) (bfWidth i) a.toNat)

def execBfx (f : IDA) (s : State) : Out :=
  s.issue f.h none .u [(f.d, .wx), (f.a, .rx)] false false fun s _ => .ok (s.wx f.d.num (aluBfx (s.rx f.a.num) f.imm))
def execBfxu (f : IDA) (s : State) : Out :=
  s.issue f.h none .u [(f.d, .wx), (f.a, .rx)] false false fun s _ => .ok (s.wx f.d.num (aluBfxu (s.rx f.a.num) f.imm))
def execBfi (f : IDA) (s : State) : Out :=
  s.issue f.h none .u [(f.d, .rx), (f.a, .rx)] false false fun s _ =>
    .ok (s.wx f.d.num (aluBfi (s.rx f.d.num) (s.rx f.a.num) f.imm))

/-! ### Constants, addresses, extension (R45 to R47) -/

/-- li: the immediate sign-extended. -/
def execLi (f : ID) (s : State) : Out := constI .wx (fun _ i => immS i) f s
/-- lih: xd[63:32] ← imm, xd[31:0] unchanged. -/
def execLih (f : ID) (s : State) : Out := constI .rx (fun d i => (i ++ d.setWidth 32 : BitVec 64)) f s
/-- lea: a + disp modulo 2^64, no access and no check (R46). -/
def execLea (f : MDA) (s : State) : Out :=
  s.issue f.h none .u [(f.d, .wx), (f.a, .rx)] false false fun s _ =>
    .ok (s.wx f.d.num (s.rx f.a.num + f.m.disp.signExtend 64))
/-- sext, zext: a[n−1:0] extended, n in imm[6:0] (R47). -/
def execSext (f : IDA) (s : State) : Out :=
  s.issue f.h none .u [(f.d, .wx), (f.a, .rx)] false false fun s _ =>
    .ok (s.wx f.d.num (sextLow (f.imm.toNat % 128) (s.rx f.a.num)))
def execZext (f : IDA) (s : State) : Out :=
  s.issue f.h none .u [(f.d, .wx), (f.a, .rx)] false false fun s _ =>
    .ok (s.wx f.d.num (zextLow (f.imm.toNat % 128) (s.rx f.a.num)))

end Sys2Proof.Machine
end

