-- ==== Sys2Proof/Machine/Compare.lean ====
section
/-! DEFINITION. Compare and predicate instructions (R34, R48, R50 to R52). The floating-point compares are with the
scalar floating-point instructions. -/

namespace Sys2Proof.Machine

/-- The four modes of R34 on one target: `v` is its test value. -/
inductive CMode where
  | set | clear | all | any
deriving DecidableEq, Repr

/-- What a target holds after an instruction with guard g (R34). -/
def CMode.apply : CMode → Bool → Bool → Bool → Bool
  | .set, g, v, p => if g then v else p
  | .clear, g, v, _ => g && v
  | .all, g, v, p => if g && !v then false else p
  | .any, g, v, p => if g && v then true else p

/-- Modes and test values of a combining type (R34, Table 8): for pA and for pB; true for the complement of c. -/
def ctypeModes (c : BitVec 3) : (CMode × Bool) × (CMode × Bool) :=
  match c.toNat with
  | 0 => ((.set, false), (.set, true))
  | 1 => ((.clear, false), (.clear, true))
  | 2 => ((.all, false), (.all, false))
  | 3 => ((.any, false), (.any, false))
  | 4 => ((.all, true), (.all, true))
  | 5 => ((.any, true), (.any, true))
  | 6 => ((.all, false), (.any, false))
  | _ => ((.any, false), (.all, true))

/-- Writes pA and then pB from the result c (R34): when pA = pB, pB is applied last and wins. -/
def Regs.combine (r : Regs) (x : XTail) (g c : Bool) : Regs :=
  let m := ctypeModes x.ctype
  let r := r.setP x.pA.toNat (m.1.1.apply g (c != m.1.2) (r.p x.pA.toNat))
  r.setP x.pB.toNat (m.2.1.apply g (c != m.2.2) (r.p x.pB.toNat))
def State.combine (s : State) (x : XTail) (g c : Bool) : State := s.updR fun r => r.combine x g c

/-- A compare: c from a and b, then the combining type; it always executes (R27, R48). -/
def compareX (test : Word → Word → Bool) (f : XAB) (s : State) : Out :=
  s.issue f.h none .u ((f.a, .rx) :: xReqB f.b) true false fun s g =>
    .ok (s.combine f.x g (test (s.rx f.a.num) (xOperand s f.b f.x)))
/-- A predicate instruction: c from two predicates (R50). -/
def predX (test : Bool → Bool → Bool) (f : XAB) (s : State) : Out :=
  s.issue f.h none .u [(f.a, .p), (f.b, .p)] true false fun s g =>
    .ok (s.combine f.x g (test (s.rp f.a.num) (s.rp f.b.num)))

/-! ### Meanings (R48, Table 3) -/

def execCmpEq (f : XAB) (s : State) : Out := compareX (fun a b => a == b) f s
def execCmpNe (f : XAB) (s : State) : Out := compareX (fun a b => a != b) f s
def execCmpLt (f : XAB) (s : State) : Out := compareX (fun a b => decide (a.toInt < b.toInt)) f s
def execCmpLe (f : XAB) (s : State) : Out := compareX (fun a b => decide (a.toInt ≤ b.toInt)) f s
def execCmpGt (f : XAB) (s : State) : Out := compareX (fun a b => decide (a.toInt > b.toInt)) f s
def execCmpGe (f : XAB) (s : State) : Out := compareX (fun a b => decide (a.toInt ≥ b.toInt)) f s
def execCmpLtu (f : XAB) (s : State) : Out := compareX (fun a b => decide (a.toNat < b.toNat)) f s
def execCmpLeu (f : XAB) (s : State) : Out := compareX (fun a b => decide (a.toNat ≤ b.toNat)) f s
def execCmpGtu (f : XAB) (s : State) : Out := compareX (fun a b => decide (a.toNat > b.toNat)) f s
def execCmpGeu (f : XAB) (s : State) : Out := compareX (fun a b => decide (a.toNat ≥ b.toNat)) f s
def execBtest (f : XAB) (s : State) : Out := compareX (fun a b => a.getLsbD (b.toNat % 64)) f s

/-! ### Predicates (R50, R51) and sel (R52) -/

def execPand (f : XAB) (s : State) : Out := predX (fun a b => a && b) f s
def execPor (f : XAB) (s : State) : Out := predX (fun a b => a || b) f s
def execPxor (f : XAB) (s : State) : Out := predX (fun a b => a != b) f s

/-- The predicates packed into bits 7:0; bit 0 is 1 (R51). -/
def Regs.packed (r : Regs) : BitVec 8 := BitVec.ofNat 8 (r.preds.toNat / 2 * 2 + 1)

def execPmov (f : SD) (s : State) : Out :=
  s.issue f.h (some f.t) .u [(f.d, .wx)] false false fun s _ => .ok (s.wx f.d.num (s.me.r.packed.setWidth 64))
def execPset (f : SA) (s : State) : Out :=
  s.issue f.h (some f.t) .u [(f.a, .rx)] false false fun s _ =>
    .ok (s.updR fun r => { r with preds := BitVec.ofNat 8 ((s.rx f.a.num).toNat % 256) })
def execSel (f : XDAB) (s : State) : Out :=
  s.issue f.h none .u ((f.d, .wx) :: (f.a, .rx) :: xReqB f.b) false false fun s _ =>
    .ok (s.wx f.d.num (if s.rp f.x.pA.toNat then s.rx f.a.num else xOperand s f.b f.x))

end Sys2Proof.Machine
end

