-- ==== Sys2Proof/Machine/FpScalar.lean ====
section
/-! DEFINITION. Scalar floating point: compares (R49), FP32 arithmetic (R55 to R58), conversions (R59, R60) and
fsplit (R61). -/

namespace Sys2Proof.Machine

/-- The 32 low bits of an operand register (R53). -/
def State.rf (s : State) (o : Opnd) : Nat := (s.rx o.num).toNat % 2 ^ 32

/-- `op xd, xa, xb`, rounded by the arithmetic field. -/
def fpBin (fn : RM → Nat → Nat → FRes) (f : SDAB) (s : State) : Out :=
  s.issue f.h (some f.t) .u [(f.d, .wx), (f.a, .rx), (f.b, .rx)] false false fun s _ =>
    s.fpWrite f.d (fn (arnd s.me.r.rmode) (s.rf f.a) (s.rf f.b))
/-- `op xd, xa, xb` that also reads xd (R56). -/
def fpTer (fn : RM → Nat → Nat → Nat → FRes) (f : SDAB) (s : State) : Out :=
  s.issue f.h (some f.t) .u [(f.d, .rx), (f.a, .rx), (f.b, .rx)] false false fun s _ =>
    s.fpWrite f.d (fn (arnd s.me.r.rmode) (s.rf f.a) (s.rf f.b) (s.rf f.d))
/-- `op xd, xa`; `fn` takes `rmode` and all of xa. -/
def fpUn (fn : BitVec 16 → Word → FRes) (f : SDA) (s : State) : Out :=
  s.issue f.h (some f.t) .u [(f.d, .wx), (f.a, .rx)] false false fun s _ =>
    s.fpWrite f.d (fn s.me.r.rmode (s.rx f.a.num))

/-! ### Compares (R49): srcB is a register -/

/-- Result and flags of a compare; `quiet` compares raise NV for signalling NaNs only. -/
def fpCompare (quiet : Bool) (test : FVal → FVal → Bool) (f : XAB) (s : State) : Out :=
  s.issue f.h none .u [(f.a, .rx), (f.b, .rx)] true false fun s g =>
    let a := read32 (s.rf f.a)
    let b := read32 (s.rf f.b)
    let fl : Flags := if !g then 0 else if quiet then sigAny [a, b] else nvIf (a.isNaN || b.isNaN)
    s.fpDone fl (s.combine f.x g (test a b))

def execFcmpEq (f : XAB) (s : State) : Out := fpCompare true FVal.eqv f s
def execFcmpLt (f : XAB) (s : State) : Out := fpCompare false FVal.lt f s
def execFcmpLe (f : XAB) (s : State) : Out := fpCompare false (fun a b => a.lt b || a.eqv b) f s
def execFcmpUn (f : XAB) (s : State) : Out := fpCompare true (fun a b => a.isNaN || b.isNaN) f s

/-! ### Arithmetic (R55, Table 4) -/

def execFadd (f : SDAB) (s : State) : Out := fpBin fpAdd f s
def execFsub (f : SDAB) (s : State) : Out := fpBin fpSub f s
def execFmul (f : SDAB) (s : State) : Out := fpBin fpMul f s
def execFma (f : SDAB) (s : State) : Out := fpTer (fun m => fpFma m false) f s
def execFnma (f : SDAB) (s : State) : Out := fpTer (fun m => fpFma m true) f s
def execFdiv (f : SDAB) (s : State) : Out := fpBin fpDiv f s
def execFsqrt (f : SDA) (s : State) : Out := fpUn (fun m a => fpSqrt (arnd m) a.toNat) f s
def execFmin (f : SDAB) (s : State) : Out := fpBin (fun _ => fpMinMax false) f s
def execFmax (f : SDAB) (s : State) : Out := fpBin (fun _ => fpMinMax true) f s
def execFabs (f : SDA) (s : State) : Out := fpUn (fun _ a => (fpAbs a.toNat, 0)) f s
def execFneg (f : SDA) (s : State) : Out := fpUn (fun _ a => (fpNeg a.toNat, 0)) f s

/-- The class bit of R58, Table 5. -/
def fpClass (a : Nat) : Nat :=
  let neg := bitAt a 31
  let e := bitsAt a 23 8
  let fr := bitsAt a 0 23
  if e = 255 then
    if fr = 0 then (if neg then 0 else 7) else if bitAt fr 22 then 9 else 8
  else if e = 0 then
    if fr = 0 then (if neg then 3 else 4) else (if neg then 2 else 5)
  else (if neg then 1 else 6)
def execFclass (f : SDA) (s : State) : Out := fpUn (fun _ a => (2 ^ fpClass a.toNat, 0)) f s

/-! ### Conversions (R59, Table 6) -/

/-- frnd: to an integral FP32 value. A zero that another value rounds to takes the value's sign (Table 6 says only that a zero stays as it
is: DESIGN CHOICE, log 39). -/
def fpRound (rm : RM) (a : Nat) : FRes :=
  match read32 a with
  | .nan s => (Fmt.nan .fp32, nvIf s)
  | .inf _ => (a % 2 ^ 32, 0)
  | .fin n m e =>
    let (r, exact) := roundMag rm n m e 0
    ((round32 .rne (.fin n r 0)).1, if exact then 0 else NX)
def execFrnd (f : SDA) (s : State) : Out := fpUn (fun m a => fpRound (crnd m) a.toNat) f s
def execFcvtFi (f : SDA) (s : State) : Out := fpUn (fun m a => round32 (crnd m) (ofInt a.toInt)) f s
def fpToI64 (rm : RM) (a : Nat) : FRes :=
  let r := fpToInt 64 rm (read32 a)
  (unsignedOf 64 r.1, r.2)
def execFcvtIf (f : SDA) (s : State) : Out := fpUn (fun m a => fpToI64 (crnd m) a.toNat) f s
def execFcvtFb (f : SDA) (s : State) : Out := fpUn (fun _ a => widen .bf16 (a.toNat % 65536)) f s
def execFcvtF4 (f : SDA) (s : State) : Out := fpUn (fun _ a => widen .e4m3 (a.toNat % 256)) f s
def execFcvtF5 (f : SDA) (s : State) : Out := fpUn (fun _ a => widen .e5m2 (a.toNat % 256)) f s

/-- A narrowing conversion, which under SR takes one step of the generator; a trap takes none (R60). Under SR it
waits for the context's vector instructions (R189). -/
def fpNarrow (fmt : Fmt) (f : SDA) (s : State) : Out :=
  s.issue f.h (some f.t) .u [(f.d, .wx), (f.a, .rx)] false false fun s _ =>
    let rm := s.me.r.rmode
    if crndCode rm = 4 && s.myTile.vecOpen s.curCtx then .stall else
    let (gen, r) := cvtSR fmt rm (satOf rm) (read32 (s.rf f.a)) s.me.r.srstate
    s.fpDone r.2 ((s.wx f.d.num (BitVec.ofNat 64 r.1)).updR fun q => { q with srstate := gen })
def execFcvtBf (f : SDA) (s : State) : Out := fpNarrow .bf16 f s
def execFcvtE4 (f : SDA) (s : State) : Out := fpNarrow .e4m3 f s
def execFcvtE5 (f : SDA) (s : State) : Out := fpNarrow .e5m2 f s

/-- Three BF16 terms by truncation (R61). A term that is exactly zero is +0. -/
def fpSplit (a : Nat) : FRes :=
  match read32 a with
  | .nan s => (0x7FC0 * 2 ^ 32, nvIf s)
  | .inf _ => (bitsAt a 16 16 * 2 ^ 32, 0)
  | .fin n m e =>
    let hi := bitsAt a 16 16
    let m1 := m - m / 2 ^ 16 * 2 ^ 16
    let (mid, _) := if m1 = 0 then (0, (0 : Flags)) else narrow .bf16 .rtz false (.fin n m1 e)
    -- mid's magnitude in units of 2^e
    let k := match Fmt.read .bf16 mid with
      | .fin _ q x => (roundMag .rtz false q x e).1
      | _ => 0
    let m2 := m1 - k
    let (lo, fl) := if m2 = 0 then (0, (0 : Flags)) else narrow .bf16 .rtz false (.fin n m2 e)
    let zero (c : Nat) := if c % 2 ^ 15 = 0 then 0 else c
    (hi * 2 ^ 32 + zero mid * 2 ^ 16 + zero lo, fl &&& NX)
def execFsplit (f : SDA) (s : State) : Out := fpUn (fun _ a => fpSplit (a.toNat % 2 ^ 32)) f s

end Sys2Proof.Machine
end

