-- ==== Sys2Proof/Machine/Control.lean ====
section
/-! DEFINITION. Control instructions (R62 to R67): the stack, the loop counter, special registers (R64, R337), yield,
trap, brk and irgn. `launch` and `join` are with scheduling. -/

namespace Sys2Proof.Machine

/-- A debug event at pc: the stop, or fault 0x13 (R382). -/
def State.debugEvent (s : State) (why : BitVec 4) (a : FaultArg) : State :=
  if s.myTile.sdbg then s.debugStop s.cur s.curCtx why else s.takeFault a

/-! ### The stack (R62) -/

def execEnter (f : I0) (s : State) : Out :=
  s.issue f.h none .u [(.x 1, .rx)] false false fun s _ =>
    let n := immZ f.imm
    if (s.rx 1).toNat < n.toNat + s.me.r.slim.toNat then
      .trap { cause := 0x07, detail := n <<< 32, allow := 23 }
    else .ok (s.wx 1 (s.rx 1 - n))
def execLeave (f : I0) (s : State) : Out :=
  s.issue f.h none .u [(.x 1, .rx)] false false fun s _ => .ok (s.wx 1 (s.rx 1 + immZ f.imm))

/-! ### The loop counter (R33, R63) -/

def execLcset (f : SA) (s : State) : Out :=
  s.issue f.h (some f.t) .u [(f.a, .rx)] false false fun s _ =>
    .ok (s.updR fun r => { r with lc := (s.rx f.a.num).setWidth 32 })
def execLcsetImm (f : I0) (s : State) : Out :=
  s.issue f.h none .u [] false false fun s _ => .ok (s.updR fun r => { r with lc := f.imm })
/-- A push onto a full stack, or a pop of an empty one, is a loop-count stack fault (R33). -/
def execLcpush (f : S0) (s : State) : Out :=
  s.issue f.h (some f.t) .u [] false false fun s _ =>
    if s.me.r.lcstk.length < 4 then .ok (s.updR fun r => { r with lcstk := r.lc :: r.lcstk })
    else .trap { cause := 0x07, detail := 1, allow := allowSkipResumeKill }
def execLcpop (f : S0) (s : State) : Out :=
  s.issue f.h (some f.t) .u [] false false fun s _ =>
    match s.me.r.lcstk with
    | [] => .trap { cause := 0x07, detail := 1, allow := allowSkipResumeKill }
    | v :: rest => .ok (s.updR fun r => { r with lc := v, lcstk := rest })

/-! ### Special registers (R64 Table 7, R337 Table 8) -/

/-- The level `mfs` and `mts` need for a register. -/
def readLevel (n : Nat) : Level :=
  if n < 0x40 || n = 0x48 then .u else if n < 0x60 then .s else .m
def writeLevel (n : Nat) : Level :=
  if n = 2 || n = 0x14 || n = 0x19 then .s
  else if n < 0x40 then .u
  else if n = 0x47 || n = 0x48 then .m
  else if n < 0x60 then .s else .m

/-- The owner whose registers 0x040 to 0x05F a context reaches: an M context's is the one `mown` names (R337). -/
def State.regOwner (s : State) : Nat :=
  if s.me.c.level == .m then (s.die (s.dieOf s.cur)).mown.toNat else ownerOf s.cur
/-- The forme of owner `o` on the die of the moving context, if it lies there. -/
def State.formeHere (s : State) (o : Nat) : Option Nat :=
  if o = ownerOf s.cur then some (formeOf s.cur)
  else findFrom (fun f => (s.map 0 (s.dieOf s.cur)).toNat == bedEntry o f) 64 0
/-- The mailbox a context takes its messages from: a service core's, a management tile's (R324). -/
def State.ownBox (s : State) : Box :=
  if s.me.c.level == .m then .die (s.dieOf s.cur) else .forme (formeKey s.cur)
def State.boxMsgs (s : State) : Box → List Msg
  | .forme k => (s.forme k).mailbox
  | .die d => (s.die d).mailbox
/-- The delivered messages of a mailbox, in order of arrival; it holds 256. Each is delivered once the accesses that it follows have
performed, whatever an earlier message waits for (R325). -/
def State.delivered (s : State) (b : Box) : List Msg := (s.arrivals (s.boxMsgs b)).filter (·.here)

/-- The completion-tag bits as code reads them (R161). -/
def Tile.tagWord (t : Tile) : BitVec 64 := t.tagbits

/-- The value of a special register, zero-extended (R64). -/
def State.sreg (s : State) (n : Nat) : Word :=
  let r := s.me.r
  let o := s.owner s.regOwner
  match n with
  | 0x00 => r.ln
  | 0x01 => r.lc.setWidth 64
  | 0x02 => r.slim
  | 0x03 => r.rmode.setWidth 64
  | 0x04 => r.fflags.setWidth 64
  | 0x05 => r.fenable.setWidth 64
  | 0x06 => r.srstate
  | 0x07 => r.vl.setWidth 64
  | 0x08 => r.ire
  | 0x10 => BitVec.ofNat 64 (s.ltileRead s.cur)
  | 0x11 => BitVec.ofNat 64 s.curCtx
  | 0x12 => if ownerOf s.cur = firmware then Config.firmwareNumber.setWidth 64 else BitVec.ofNat 64 (ownerOf s.cur)
  | 0x13 => (s.owner (ownerOf s.cur)).sstep
  | 0x14 => r.seq.setWidth 64
  | 0x15 => s.turns
  | 0x16 => s.gtime
  | 0x17 => s.cyc s.cur
  | 0x18 => s.myTile.tagWord
  | 0x19 => (s.owner (ownerOf s.cur)).jobseed
  | 0x1A => BitVec.ofNat 64 (s.clusRead s.cur)
  | 0x46 => if s.me.c.level == .m && !o.live then 0 else BitVec.ofNat 64 (s.delivered s.ownBox).length
  | 0x60 => (s.die (s.dieOf s.cur)).mown.setWidth 64
  | 0x61 => (s.die (s.dieOf s.cur)).dstat.setWidth 64
  | 0x62 => s.turn.interval.setWidth 64
  | 0x63 => s.turn.lead.setWidth 64
  | 0x64 => (s.die (s.dieOf s.cur)).linkthr.setWidth 64
  | _ =>
    if n < 0x40 then
      let rt := s.me.y.rts.get 0 ((n - 0x20) / 2)
      if n % 2 = 0 then rt.setWidth 64 else (rt >>> 64).setWidth 64
    else if !o.live then 0
    else match n with
      | 0x40 => o.ptbase
      | 0x41 => o.galb
      | 0x42 => o.plogb
      | 0x43 => o.plogn.setWidth 64
      | 0x44 => o.defmode.setWidth 64
      | 0x45 => o.pfctl.setWidth 64
      | 0x47 =>
        match s.formeHere s.regOwner with
        | some f => (s.forme (s.regOwner * 64 + f)).svloc.setWidth 64
        | none => 0
      | 0x48 => BitVec.ofNat 64 (bit o.ckmode)
      | 0x49 => o.stkcfg.setWidth 64
      | _ => 0

/-- A number brought to the nearest bound of a range (R337). -/
def clampNat (lo hi n : Nat) : Nat := if n < lo then lo else if hi < n then hi else n

/-- `stkcfg` as stored: byte counts that are multiples of 16, top0 at most 0x6_0000 (R337). -/
def stkcfgOf (v : Nat) : Nat :=
  bitsAt v 44 16 * 2 ^ 44 + bitsAt v 24 16 * 2 ^ 24 + clampNat 0 0x6000 (bitsAt v 4 16) * 2 ^ 4
/-- `pfctl` as stored: the largest span from 16 to 30. -/
def pfctlOf (v : Nat) : Nat := v / 32 * 32 % 65536 + clampNat 16 30 (v % 32)

/-- Writes vl as R185 does: 0 leaves it. -/
def Regs.setVl (r : Regs) (n : Nat) : Regs := if n = 0 then r else { r with vl := BitVec.ofNat 6 (clampNat 1 32 n) }

/-- A write of a register of an owner, none of them if it does not exist (R337). -/
def State.setOwnerReg (s : State) (n : Nat) (v : Word) : State :=
  let k := s.regOwner
  if !(s.owner k).live then s
  else match n with
    | 0x40 => s.updOwner k fun o => { o with ptbase := BitVec.ofNat 64 (bitsAt v.toNat 21 27 * 2 ^ 21) }
    | 0x41 => s.updOwner k fun o => { o with galb := BitVec.ofNat 64 (v.toNat / 4096 * 4096) }
    | 0x42 => s.updOwner k fun o => { o with plogb := BitVec.ofNat 64 (v.toNat / 64 * 64), plogi := 0 }
    | 0x43 => s.updOwner k fun o => { o with plogn := BitVec.ofNat 5 (clampNat 0 20 v.toNat) }
    | 0x44 => s.updOwner k fun o => { o with defmode := v.setWidth 21 }
    | 0x45 => s.updOwner k fun o => { o with pfctl := BitVec.ofNat 16 (pfctlOf (v.toNat % 65536)) }
    | 0x47 =>
      match s.formeHere k with
      | some f => s.updForme (k * 64 + f) fun q => { q with svloc := v.setWidth 32 }
      | none => s
    | 0x48 => s.updOwner k fun o => { o with ckmode := v.getLsbD 0 }
    | 0x49 => s.updOwner k fun o => { o with stkcfg := BitVec.ofNat 60 (stkcfgOf v.toNat) }
    | _ => s

/-- The write of a special register, truncated to its width (R64). -/
def State.setSreg (s : State) (n : Nat) (v : Word) : State :=
  let d := s.dieOf s.cur
  match n with
  | 0x00 => s.updR fun r => { r with ln := v }
  | 0x01 => s.updR fun r => { r with lc := v.setWidth 32 }
  | 0x02 => s.updR fun r => { r with slim := v }
  | 0x03 => s.updR fun r => { r with rmode := BitVec.ofNat 16 (v.toNat % 512) }
  | 0x04 => s.updR fun r => { r with fflags := v.setWidth 5 }
  | 0x05 => s.updR fun r => { r with fenable := v.setWidth 5 }
  | 0x06 => s.updR fun r => { r with srstate := if v = 0 then 1 else v }
  | 0x07 => s.updR fun r => r.setVl v.toNat
  | 0x08 => s.updR fun r => { r with ire := v }
  | 0x14 => s.updR fun r => { r with seq := v.setWidth 20 }
  | 0x19 => s.updOwner (ownerOf s.cur) fun o => { o with jobseed := v }
  | 0x60 => s.updDie d fun q => { q with mown := v.setWidth 6 }
  | 0x61 => s.updDie d fun q => { q with dstat := v.setWidth 32 }
  | 0x62 => { s with turn := { s.turn with interval := BitVec.ofNat 32 (clampNat 100000 60000000 v.toNat), changed := s.gtime } }
  | 0x63 => { s with turn := { s.turn with lead := BitVec.ofNat 16 (clampNat 100 10000 v.toNat) } }
  | 0x64 => s.updDie d fun q => { q with linkthr := v.setWidth 32 }
  | _ => s.setOwnerReg n v

/-- `fflags` and `srstate` wait for the context's vector instructions (R189). -/
def State.sregHeld (s : State) (n : Nat) : Bool := (n == 4 || n == 6) && s.myTile.vecOpen s.curCtx

def execMfs (f : ID) (s : State) : Out :=
  s.issue f.h none (readLevel f.imm.toNat) [(f.d, .wx)] false false fun s _ =>
    if s.sregHeld f.imm.toNat then .stall else .ok (s.wx f.d.num (s.sreg f.imm.toNat))
def execMts (f : IA) (s : State) : Out :=
  s.issue f.h none (writeLevel f.imm.toNat) [(f.a, .rx)] false false fun s _ =>
    if s.sregHeld f.imm.toNat then .stall else .ok (s.setSreg f.imm.toNat (s.rx f.a.num))

/-! ### yield, trap, brk, irgn (R65 to R67) -/

/-- yield: in the clock after this one another ready context of the tile issues when there is one (R65). -/
def execYield (f : S0) (s : State) : Out :=
  s.issue f.h (some f.t) .u [] false false fun s _ => .ok (s.updMyTile fun t => { t with avoid := t.avoid ++ [s.curCtx + 4] })
def execTrap (f : I0) (s : State) : Out :=
  s.issue f.h none .u [] false false fun _ _ => .trap { cause := 0x15, detail := immZ f.imm }
/-- brk: fault 0x13, or the debug module's stop; after `go` that event is passed over, no other (R66, R382). -/
def execBrk (f : I0) (s : State) : Out :=
  s.issue f.h none .u [] false false fun s _ =>
    if s.me.c.passDebug.getLsbD 2 then .ok s
    else if s.myTile.sdbg then .ends (s.debugStop s.cur s.curCtx 2)
    else .trap { cause := 0x13, detail := immZ f.imm }
def execIrgn (f : S0) (s : State) : Out :=
  s.issue f.h (some f.t) .u [] false false fun s _ => .ok (s.updR fun r => { r with ire := pcPlus r.pc 1 })

end Sys2Proof.Machine
end

