-- ==== Sys2Proof/Machine/Sync.lean ====
section
/-! DEFINITION. Barrier objects, groups, the event unit, wired trees, semaphores, tags, fences and `settle`
(R136 to R165), and what ends a wait (Observe of R100). -/

namespace Sys2Proof.Machine

/-! ### Barrier-object instructions (R141 to R146) -/

/-- The checks of R141: a multiple of 16, at most 0x7FF0. -/
def barCheck (ea : Word) : Option FaultArg :=
  if ea.toNat % 16 ≠ 0 then some { cause := 0x04, address := ea }
  else if 0x7FF0 < ea.toNat then some { cause := 0x14, address := ea }
  else none

/-- An engine command names the barrier object at `off` of tile `t`. -/
def MCmd.names (q : MCmd) (k t off : Nat) : Bool := k == t && recBar q.bits 0x0A == some off
def State.cmdNames (s : State) (q : CCmd) (k t off : Nat) : Bool :=
  (k == t && recBar q.bits 0x0A == some off) ||
  (recBar q.bits 0x34 == some off && s.tileAt k (s.routeEnd k (s.posOf k) q.dstRoute) == some t)
/-- Everything earlier of the moving context has performed, by its ended thread too, but for engine commands that name the object
(R143). -/
def State.quietBut (s : State) (t off : Nat) : Bool :=
  !s.accOpen s.cur s.curCtx s.nextId && !s.accOpen s.cur (s.curCtx + 4) s.nextId && !s.myTile.vecOpen s.curCtx &&
  s.myTile.mq.all (fun q => !ofCtx s.curCtx q.cap.ctx || q.names s.cur t off) &&
  s.myTile.cq.all (fun q => !ofCtx s.curCtx q.cap.ctx || s.cmdNames q s.cur t off)

/-- The tile that a route register reaches. -/
def State.regTarget (s : State) (rtn : BitVec 4) : Nat :=
  (s.tileAt s.cur (s.routeEnd s.cur (s.posOf s.cur) (s.me.y.rts.get 0 rtn.toNat))).getD (128 * 65536 * 2)

/-- A wait passes on an answer that carries the time of what completed it (R110). -/
def State.passedAt (s : State) (v : BitVec 128) : State := s.updY (·.passed ((v >>> 64).setWidth 48))

/-- A barrier operation at another tile's scratchpad (R141). -/
def barReq (op : BarOp) (ret : Ret) (ea : Word) (d : Dest) (r : BitVec 128) : Req2 :=
  { dest := d, addr := ea.toNat, va := ea, op := .bar op, ret := ret, route := r, isLoad := false, isStore := false }

/-- A context of the tile is held on an object (R138). -/
def State.holdOn (s : State) (off : Nat) : State :=
  s.updMyTile fun t => { t with barWait := t.barWait ++ [{ off := off, ctx := some (partyOf s.cur s.curCtx), flight := 0 }] }
def State.armWait (s : State) : Res := .wait (s.updC fun c => { c with phase := .armed 0 }) .answer

/-- An access to a barrier object of the own scratchpad, unless a watchpoint stops it first (R382). -/
def State.barAccess (s : State) (off : Nat) (rd wr : Bool) (r : Res) : Res := (s.watched 0 off 16 rd wr).getD r

def execBarInit (f : MAB) (s : State) : Out :=
  s.issue f.h none .u [(f.a, .rx), (f.b, .rx)] false false fun s _ =>
    let b := (s.rx f.b.num).toNat
    let ea := s.ea f.a f.m
    if bitsAt b 12 4 ≠ 0 || bitsAt b 32 32 ≠ 0 then .trap { cause := 0x02 }
    else if s.acqHeld || s.myTile.vecOpen s.curCtx then .stall
    else match barCheck ea with
      | some a => .trap a
      | none =>
        s.barAccess ea.toNat true true (match s.barInit s.cur ea.toNat (bitsAt b 0 12) (bitsAt b 16 16) with
          | some s1 => .ok s1
          | none => .trap { cause := 0x06 })

/-- bar.arr (R143): held like a release, then one arrival. A remote one with dst x0 is posted. -/
def execBarArr (f : MDA) (s : State) : Out :=
  s.issue f.h none .u [(f.d, .wx), (f.a, .rx)] false false fun s _ =>
    let ea := s.ea f.a f.m
    match s.resumed (fun v => s.wx f.d.num (v.setWidth 64)) with
    | some r => r
    | none =>
      match barCheck ea with
      | some a => .trap a
      | none =>
        let remote := f.m.space == 3
        if s.acqHeld || !s.quietBut (if remote then s.regTarget f.m.rtn else s.cur) ea.toNat then .stall
        else if remote then
          if f.d.num = 0 then s.sendRemote f.m.rtn (barReq .arrive .none ea)
          else s.sendRemoteWait f.m.rtn (barReq .arrive .gate ea)
        else
          let (w, s1, _) := s.barArrive s.cur ea.toNat
          s.barAccess ea.toNat true true (.ok ((s1.noteArrival s.cur s.curCtx false 0 ea.toNat w).wx f.d.num (BitVec.ofNat 64 w)))

/-- bar.wait (R144): passes at once when the generation has moved on, else is held until the phase completes. -/
def execBarWait (f : MDAB) (s : State) : Out :=
  s.issue f.h none .u [(f.d, .wx), (f.a, .rx), (f.b, .rx)] false false fun s _ =>
    let ea := s.ea f.a f.m
    let b := s.rx f.b.num
    let fin (v : BitVec 128) : State := (s.passedAt v).wx f.d.num (v.setWidth 64)
    match s.resumed fin with
    | some r => r
    | none =>
      if 16 ≤ b.toNat then .trap { cause := 0x02 }
      else match barCheck ea with
        | some a => .trap a
        | none =>
          if s.acqHeld || s.myTile.vecOpen s.curCtx then .stall
          else if f.m.space = 3 then s.sendRemoteWait f.m.rtn (barReq (.wait (b.setWidth 4)) .gate ea)
          else
            let o := s.barObj s.cur ea.toNat
            s.barAccess ea.toNat true false
              (if o.gen ≠ b.toNat then .ok (fin (timed o.word0 (s.myTile.barTime.get 0 ea.toNat)))
              else (s.holdOn ea.toNat).armWait)

/-- bar.arw (R145): the arrival, and the wait for the phase it joined, in one update. The context is among the held
waiters before the update is tested, so an arrival that completes the phase is answered by it. -/
def execBarArw (f : MDA) (s : State) : Out :=
  s.issue f.h none .u [(f.d, .wx), (f.a, .rx)] false false fun s _ =>
    let ea := s.ea f.a f.m
    let fin (s : State) (v : BitVec 128) : State := (s.passedAt v).wx f.d.num (v.setWidth 64)
    match s.resumed (fin s) with
    | some r => r
    | none =>
      match barCheck ea with
      | some a => .trap a
      | none =>
        let remote := f.m.space == 3
        let off := ea.toNat
        if s.acqHeld || !s.quietBut (if remote then s.regTarget f.m.rtn else s.cur) off then .stall
        else if remote then s.sendRemoteWait f.m.rtn (barReq .arriveWait .gate ea)
        else
          let (w, s1, counted) := (s.holdOn off).barArrive s.cur off
          let s1 := s1.noteArrival s.cur s.curCtx false 0 off w
          s.barAccess off true true (match s1.me.c.phase with
            | .granted v => .ok (fin s1 v)
            | _ =>
              if counted then s1.armWait
              else
                .ok (fin (s1.updMyTile fun t => { t with barWait := t.barWait.filter fun q => q.ctx != some (partyOf s.cur s.curCtx) })
                  (timed (s1.barObj s.cur off).word0 (s1.myTile.barTime.get 0 off))))

def execBarSt (f : MDA) (s : State) : Out :=
  s.issue f.h none .u [(f.d, .wpair), (f.a, .rx)] false false fun s _ =>
    let ea := s.ea f.a f.m
    let fin (v : BitVec 128) : State := (s.wx f.d.num (v.setWidth 64)).wx (f.d.num + 1) ((v >>> 64).setWidth 64)
    match s.resumed fin with
    | some r => r
    | none =>
      match barCheck ea with
      | some a => .trap a
      | none =>
        if s.acqHeld || s.myTile.vecOpen s.curCtx then .stall
        else if f.m.space = 3 then s.sendRemoteWait f.m.rtn (barReq .status .gate ea)
        else s.barAccess ea.toNat true false (.ok (fin (BitVec.ofNat 128 (s.tileRead s.cur 0 ea.toNat 16))))

/-! ### Groups (R147 to R151) -/

/-- The must-be-0 bits of a join operand (R147, Table 3). -/
def joinOk (op : Word) : Bool := decide (op.toNat < 65536) && (op.getLsbD 11 || decide (op.toNat < 4096))
def Member.off (m : Member) : Nat := bitsAt m.op.toNat 0 11 * 16
def Member.remote (m : Member) : Bool := m.op.getLsbD 11
def Member.rtn (m : Member) : BitVec 4 := BitVec.ofNat 4 (bitsAt m.op.toNat 12 4)

/-- gjoin of an operand (R148): its status in xd. -/
def State.gjoin (s : State) (d : Nat) (op : BitVec 16) : Res :=
  let m : Member := { op := op, route := 0, gen := 0, arrived := false }
  let add (s : State) (m : Member) : State := (s.updY fun y => { y with members := y.members ++ [m] }).wx d 0
  let m3 : Member := { m with route := s.me.y.rts.get 0 m.rtn.toNat }
  match s.resumed (fun v => if v = 0 then add s m3 else s.wx d 3) with
  | some r => r
  | none =>
    if s.me.y.members.any (fun q => q.op == op) then .ok (s.wx d 1)
    else if 8 ≤ s.me.y.members.length then .ok (s.wx d 2)
    else if s.acqHeld || s.myTile.vecOpen s.curCtx then .stall
    else if m.remote then s.sendRemoteWait m.rtn (barReq .join .gate (BitVec.ofNat 64 m.off))
    else
      let (s1, ok) := s.barJoin s.cur m.off
      s.barAccess m.off true true (.ok (if ok then add s1 m else s1.wx d 3))
def execGjoin (f : SDA) (s : State) : Out :=
  s.issue f.h (some f.t) .u [(f.d, .wx), (f.a, .rx)] false false fun s _ =>
    let op := s.rx f.a.num
    if !joinOk op then .trap { cause := 0x02 } else s.gjoin f.d.num (op.setWidth 16)
def execGjoinImm (f : ID) (s : State) : Out :=
  s.issue f.h none .u [(f.d, .wx)] false false fun s _ => s.gjoin f.d.num (f.imm.setWidth 16)

/-- The join that a thread executes before its first instruction (R147), as an issue step without a word. -/
def State.startJoin (s : State) (op : BitVec 16) : State :=
  let fin (s : State) : State := s.updC fun c => { c with preJoin := none, phase := .fresh, waitOn := .nothing, run := .ready }
  match if joinOk (op.setWidth 64) then s.gjoin 0 op else .trap { cause := 0x02 } with
  | .ok s1 => fin s1
  | .wait s1 w => s1.updC fun c => { c with run := .waiting, waitOn := w }
  | .stall => s
  | .trap a => s.takeEarly a
  | .trapBy fx a => (fx s).takeEarly a
  | _ => fin s

/-- A membership's withdrawal (R150): applied at once, or posted along the route the entry holds; the status of that
route when it fails the injection checks. -/
def State.withdraw (s : State) (m : Member) : Except Nat State :=
  if !m.remote then .ok (s.barWithdraw s.cur m.off m.gen m.arrived)
  else
    let st := s.checkRoute s.cur (s.posOf s.cur) m.route (s.owner (ownerOf s.cur)).turnSet.toNat true false
    if st ≠ 0 then .error st
    else
      let t := (s.tileAt s.cur (s.routeEnd s.cur (s.posOf s.cur) m.route)).getD (128 * 65536 * 2)
      let q : Req2 := { barReq (.withdraw m.gen m.arrived) .none (BitVec.ofNat 64 m.off) (.tile t) (withReturn m.route 0x80) with rtn := m.rtn }
      -- a thread that is kept in a slot sends as the ended thread of the context it ran on (R359)
      .ok (if s.curCtx < 8 then s.send q
        else s.enqueue { s.flightOf s.cur (s.curCtx % 4 + 4) s.me.c.level s.me.y.region q with pc := s.me.r.pc })

def State.gleave (s : State) (d : Nat) (op : BitVec 16) : Res :=
  match s.me.y.members.find? (fun q => q.op == op) with
  | none => .ok (s.wx d 1)
  | some m =>
    if s.acqHeld || !s.allQuiet then .stall
    else
      let r : Res := match (s.updY fun y => { y with members := y.members.filter fun q => q.op != op }).withdraw m with
        | .ok s1 => .ok (s1.wx d 0)
        | .error st => .trap { cause := 0x08, detail := BitVec.ofNat 64 st }
      if m.remote then r else s.barAccess m.off true true r
def execGleave (f : SDA) (s : State) : Out :=
  s.issue f.h (some f.t) .u [(f.d, .wx), (f.a, .rx)] false false fun s _ =>
    let op := s.rx f.a.num
    if !joinOk op then .trap { cause := 0x02 } else s.gleave f.d.num (op.setWidth 16)
def execGleaveImm (f : ID) (s : State) : Out :=
  s.issue f.h none .u [(f.d, .wx)] false false fun s _ => s.gleave f.d.num (f.imm.setWidth 16)

/-! ### The cluster event unit (R152 to R155) -/

/-- A waiting context's `evw` is answered. -/
def State.grantParty (s : State) (p : Nat) (v : Nat) (t : BitVec 48) : State :=
  s.updCtx (p / 1024) (p % 1024) fun x => { x with c := { x.c with phase := .granted (timed v t) } }
def State.setLine (s : State) (ck n : Nat) (l : EvLine) : State :=
  s.updCluster ck fun c => { c with lines := c.lines.set n l }
def State.line (s : State) (ck n : Nat) : EvLine := (s.cluster ck).lines.get .reset n

/-- An arrival at a barrier line: the line after it and who is answered with which generation bit. -/
def State.lineArrive (s : State) (ck n : Nat) : State × Option Nat :=
  let l := s.line ck n
  let now := s.gtime.setWidth 48
  if l.expected ≤ l.count + 1 then
    let v := bit (!l.gen)
    let s1 := s.setLine ck n { l with count := 0, gen := !l.gen, queue := [], time := now }
    (l.queue.foldl (fun s p => s.grantParty p v now) s1, some v)
  else (s.setLine ck n { l with count := l.count + 1 }, none)

/-- A mutex line is released: to the first waiter, or free (R155). -/
def State.lineRelease (s : State) (ck n : Nat) (abandoned : Bool) : State :=
  let l := s.line ck n
  let now := s.gtime.setWidth 48
  let ab := l.abandoned || abandoned
  match l.queue with
  | [] => s.setLine ck n { l with holder := none, abandoned := ab, time := now }
  | p :: rest =>
    (s.setLine ck n { l with holder := some p, queue := rest, abandoned := false, time := now }).grantParty p (bit ab * 2 + 1) now

/-- A signal of an event line: every waiter is woken, or the latch is set. -/
def State.lineSignal (s : State) (ck n : Nat) : State :=
  let l := s.line ck n
  let now := s.gtime.setWidth 48
  match l.queue with
  | [] => s.setLine ck n { l with latch := true, time := now }
  | q => q.foldl (fun s p => s.grantParty p 0 now) (s.setLine ck n { l with queue := [], time := now })

/-- A legal `evsig` action on a line that needs no holder (R153, Table 6). -/
def State.lineAct (s : State) (ck n action arg : Nat) : State :=
  if action = 2 then s.setLine ck n { s.line ck n with expected := arg, count := 0 }
  else if n < 16 then (s.lineArrive ck n).1
  else s.lineSignal ck n

/-- evsig (R153): local at once, remote posted. -/
def State.evsig (s : State) (w : Nat) : Res :=
  let line := bitsAt w 0 6
  let action := bitsAt w 14 2
  let arg := bitsAt w 16 8
  let ck := clusterKey s.cur
  if bitAt w 9 then
    s.sendRemote (BitVec.ofNat 4 (bitsAt w 10 4)) fun d r =>
      { dest := d, addr := 0, op := .ev line action arg, ret := .none, route := r, isLoad := false, isStore := false }
  else if action = 1 then
    if (s.line ck line).holder = some (partyOf s.cur s.curCtx) then .ok (s.lineRelease ck line false)
    else .trap { cause := 0x06 }
  else .ok (s.lineAct ck line action arg)
def execEvsig (f : SA) (s : State) : Out :=
  s.issue f.h (some f.t) .u [(f.a, .rx)] false false fun s _ =>
    let w := (s.rx f.a.num).toNat
    if !evsigWordOk w then .trap { cause := 0x02 } else s.evsig w
def execEvsigImm (f : I0) (s : State) : Out :=
  s.issue f.h none .u [] false false fun s _ => s.evsig f.imm.toNat

/-- evw (R154, Table 7): EA is a line number. -/
def execEvw (f : MDA) (s : State) : Out :=
  s.issue f.h none .u [(f.d, .wx), (f.a, .rx)] false false fun s _ =>
    let ea := s.ea f.a f.m
    let fin (s : State) (v : BitVec 128) : State := (s.passedAt v).wx f.d.num (v.setWidth 64)
    match s.resumed (fin s) with
    | some r => r
    | none =>
      if 63 < ea.toNat then .trap { cause := 0x14, address := ea }
      else
        let n := ea.toNat
        let ck := clusterKey s.cur
        let me := partyOf s.cur s.curCtx
        let l := s.line ck n
        let queued : Res := (s.setLine ck n { l with queue := l.queue ++ [me] }).armWait
        if n < 16 then
          match s.lineArrive ck n with
          | (s1, some v) => .ok (fin s1 (timed v (s.gtime.setWidth 48)))
          | (s1, none) =>
            let l1 := s1.line ck n
            (s1.setLine ck n { l1 with queue := l1.queue ++ [me] }).armWait
        else if n < 32 then
          match l.holder with
          | none => .ok (fin (s.setLine ck n { l with holder := some me, abandoned := false }) (timed (bit l.abandoned * 2 + 1) l.time))
          | some _ => queued
        else if l.latch then .ok (fin (s.setLine ck n { l with latch := false }) (timed 1 l.time))
        else queued

/-- A killed or ended context leaves every line, and its mutexes are released and marked abandoned (R155). -/
def State.leaveLines (s : State) (k c : Nat) (killed : Bool) : State :=
  let me := partyOf k c
  let lines : List (Nat × Nat) := (s.clusters.map fun e => e.2.lines.map fun l => (e.1, l.1)).flatten
  lines.foldl (fun s e =>
    let l := s.line e.1 e.2
    let s := if killed && l.queue.contains me then s.setLine e.1 e.2 { l with queue := l.queue.filter (· != me) } else s
    if (s.line e.1 e.2).holder = some me then s.lineRelease e.1 e.2 true else s) s

/-! ### Wired tree barriers (R156, R157) -/

/-- Stamped operations of a context that are not over (R133), those of its ended thread among them: slot c + 4 keeps them. -/
def State.stampedOpen (s : State) (k c : Nat) : Bool :=
  s.flights.any fun f => f.src == k && decide (f.ctx < 8) && f.ctx % 4 == c && (match f.op with
    | .rop _ _ => true
    | .rreissue _ => true
    | _ => false)

/-- The owner of a tree: one that no owner holds is the firmware's, as g56 to g63 always are (R156, R361). -/
def State.treeOwner (s : State) (g : Nat) : Nat := if 56 ≤ g then firmware else (s.trees.get none g).getD firmware
/-- The contexts of a tile that take part in a tree; in boot mode context 0 takes part in g61 (R156, R349). -/
def State.partSet (s : State) (k g : Nat) : BitVec 4 := (s.tile k).parts.get (if s.boot && g == 61 then 1 else 0) g
/-- An arrival of a context at a tree (R156). -/
def Tile.arrive (t : Tile) (g c : Nat) (ss : Bool) (at_ : Option Nat) (now : BitVec 64) : Tile :=
  let a := t.arrivals.get .reset g
  { t with
    arrivals := t.arrivals.set g { ctxs := a.ctxs ||| ((1 : BitVec 4) <<< c), ss := if ss then a.ss ||| ((1 : BitVec 4) <<< c) else a.ss,
                                   time := now },
    recOff := t.recOff.set (g * 1024 + c) at_ }

/-- The name under which a context waits for a tree. -/
def treeWait (g : Nat) (ss : Bool) : Nat := 2 ^ 70 + 2 * g + bit ss

/-- The checks and the arrival of R157. A release that mixed both kinds refuses those that used `.ss` (R158). -/
def State.gbar (s : State) (d g : Nat) (ss : Bool) (at_ : Option Word) : Res :=
  match s.me.c.phase with
  | .granted v => .ok ((s.passedAt v).wx d (v.setWidth 64))
  | .refused c a d => .trap { cause := c.toNat, address := a, detail := d, allow := allowResumeKill }
  | _ =>
    let mine := s.treeOwner g == ownerOf s.cur && (s.partSet s.cur g).getLsbD s.curCtx
    let bad : Option FaultArg := match at_ with
      | some r =>
        if r.toNat % 32 ≠ 0 then some { cause := 0x04, address := r }
        else if 0x7FE0 < r.toNat then some { cause := 0x14, address := r } else none
      | none => none
    if 56 ≤ g && s.me.c.level != .m then .trap { cause := 0x03 }
    else if !mine then .trap { cause := 0x06 }
    else match bad with
      | some a => .trap a
      | none =>
        if s.acqHeld || !s.allQuiet || (ss && s.stampedOpen s.cur s.curCtx) then .stall
        else
          .wait ((s.updMyTile fun t => t.arrive g s.curCtx ss (at_.map (·.toNat)) s.gtime).updC fun c =>
            { c with phase := .armed (treeWait g ss) }) .answer

def execGbar (f : ID) (s : State) : Out :=
  s.issue f.h none .u [(f.d, .wx)] false false fun s _ => s.gbar f.d.num (bitsAt f.imm.toNat 0 6) false none
def execGbarSs (f : IDA) (s : State) : Out :=
  s.issue f.h none .u [(f.d, .wx), (f.a, .rx)] false false fun s _ =>
    s.gbar f.d.num (bitsAt f.imm.toNat 0 6) true (if f.a.num = 0 then none else some (s.rx f.a.num))

/-! ### Semaphores (R160) -/

/-- The must-be-0 bits of a semaphore operand (Table 9). -/
def semOk (op : Word) (consOk valZero : Bool) : Bool :=
  decide (op.toNat < 2 ^ 25) && (consOk || !op.getLsbD 24) && (!valZero || bitsAt op.toNat 8 16 == 0)
def semNo (op : Word) : Nat := bitsAt op.toNat 0 8
def semVal (op : Word) : Nat := bitsAt op.toNat 8 16

def State.semwt (s : State) (d : Nat) (op : Word) : Res :=
  let n := semNo op
  let v := s.sem s.cur n
  if v < semVal op then .wait s (.sem n (semVal op))
  else
    let s1 := (s.passedSem n).wx d (BitVec.ofNat 64 v)
    .ok (if op.getLsbD 24 then s1.setSem s.cur n (v - semVal op) else s1)
/-- A sum past 0xFFFF leaves the semaphore saturated and faults as R29 states. -/
def State.semsg (s : State) (op : Word) : Res :=
  let (s1, sat) := s.addSem s.cur (semNo op) (semVal op)
  if sat then .ends (s1.takeFault { cause := 0x0F }) else .ok s1
def State.semrd (s : State) (d : Nat) (op : Word) : Res := .ok (s.wx d (BitVec.ofNat 64 (s.sem s.cur (semNo op))))
def State.semset (s : State) (d : Nat) (op : Word) : Res :=
  .ok ((s.setSem s.cur (semNo op) (semVal op)).wx d (BitVec.ofNat 64 (s.sem s.cur (semNo op))))

/-- The S-form and the I-form of an instruction with one operand word. -/
def wordS (ok : Word → Bool) (f : SDA) (body : State → Nat → Word → Res) (s : State) : Out :=
  s.issue f.h (some f.t) .u [(f.d, .wx), (f.a, .rx)] false false fun s _ =>
    let op := s.rx f.a.num
    if !ok op then .trap { cause := 0x02 } else body s f.d.num op
def wordI (f : ID) (body : State → Nat → Word → Res) (s : State) : Out :=
  s.issue f.h none .u [(f.d, .wx)] false false fun s _ => body s f.d.num (immZ f.imm)

def execSemwt (f : SDA) (s : State) : Out := wordS (semOk · true false) f State.semwt s
def execSemwtImm (f : ID) (s : State) : Out := wordI f State.semwt s
/-- `semrd` and `semset` act after the signals of their clock, the one of their own tail among them (R30, Table 10). -/
def wordLast (ok : Word → Bool) (f : SDA) (body : State → Nat → Word → Res) (s : State) : Out :=
  s.issue f.h (some { f.t with sen := false }) .u [(f.d, .wx), (f.a, .rx)] false false fun s _ =>
    let op := s.rx f.a.num
    if !ok op then .trap { cause := 0x02 }
    else if !f.t.sen then body s f.d.num op
    else
      let (s1, sat) := s.addSem s.cur f.t.ssem.toNat f.t.inc
      match body s1 f.d.num op with
      | .ok s2 => if sat then .ends (s2.takeFault { cause := 0x0F }) else .ok s2
      | r => r
def execSemrd (f : SDA) (s : State) : Out := wordLast (semOk · false true) f State.semrd s
def execSemrdImm (f : ID) (s : State) : Out := wordI f State.semrd s
def execSemset (f : SDA) (s : State) : Out := wordLast (semOk · false false) f State.semset s
def execSemsetImm (f : ID) (s : State) : Out := wordI f State.semset s
def execSemsg (f : SA) (s : State) : Out :=
  s.issue f.h (some f.t) .u [(f.a, .rx)] false false fun s _ =>
    let op := s.rx f.a.num
    if !semOk op false false then .trap { cause := 0x02 } else s.semsg op
def execSemsgImm (f : I0) (s : State) : Out :=
  s.issue f.h none .u [] false false fun s _ => s.semsg (immZ f.imm)

/-! ### Completion tags (R161, R162) -/

/-- Latest completion time among the tags of a mask. -/
def Tile.tagsTime (t : Tile) (m : BitVec 64) : BitVec 48 :=
  t.tagTime.foldl (fun a e => if m.getLsbD e.1 && decide (a.toNat < e.2.toNat) then e.2 else a) 0
/-- A wait on tags passes. -/
def State.tagsPass (s : State) (d : Nat) (m : Word) : Res :=
  let got := s.myTile.tagbits &&& m
  let s1 := if m = 0 then s else s.updY (·.passed (s.myTile.tagsTime got))
  .ok (s1.wx d got)
def State.tagwa (s : State) (d : Nat) (m : Word) : Res :=
  if s.myTile.tagbits &&& m != 0 || m == 0 then s.tagsPass d m else .wait s (.tagAny m)
def State.tagwl (s : State) (d : Nat) (m : Word) : Res :=
  if s.myTile.tagbits &&& m == m then s.tagsPass d m else .wait s (.tagAll m)
def State.tagff (s : State) (d : Nat) (m : Word) : Res :=
  .ok (s.wx d (foundOr (findFrom (fun n => (s.myTile.tagbits &&& m).getLsbD n) 64 0)))
def State.tagclr (s : State) (m : Word) : Res :=
  .ok (s.updMyTile fun t => { t with tagbits := t.tagbits &&& ~~~m, tagerr := t.tagerr &&& ~~~m })

def execTagwa (f : SDA) (s : State) : Out := wordS (fun _ => true) f State.tagwa s
def execTagwaImm (f : ID) (s : State) : Out := wordI f State.tagwa s
def execTagwl (f : SDA) (s : State) : Out := wordS (fun _ => true) f State.tagwl s
def execTagwlImm (f : ID) (s : State) : Out := wordI f State.tagwl s
def execTagff (f : SDA) (s : State) : Out := wordS (fun _ => true) f State.tagff s
def execTagffImm (f : ID) (s : State) : Out := wordI f State.tagff s
def execTagclr (f : SA) (s : State) : Out :=
  s.issue f.h (some f.t) .u [(f.a, .rx)] false false fun s _ => s.tagclr (s.rx f.a.num)
def execTagclrImm (f : I0) (s : State) : Out :=
  s.issue f.h none .u [] false false fun s _ => s.tagclr (immZ f.imm)

/-! ### Fences and settle (R107, R163 to R165) -/

/-- fnc (R163): the free slot with the lowest number, and its token. It takes a name of its own, which parts what precedes it from
what follows. -/
def execFnc (f : ID) (s : State) : Out :=
  s.issue f.h none .u [(f.d, .wx)] false false fun s _ =>
    let k := f.imm.toNat
    let y := s.me.y
    match findFrom (fun n => s.fenceFree s.cur s.curCtx (y.fences.get .reset n)) 4 0 with
    | none => .stall
    | some n =>
      let e : Fence := { serial := y.fserial, used := true, upto := s.nextId + 1, ld := bitAt k 2, st := bitAt k 3, eng := bitAt k 4,
                         scope := BitVec.ofNat 2 k, lapsed := false }
      .ok ((({ s with nextId := s.nextId + 1 } : State).updY fun y =>
          { y with fences := y.fences.set n e, fserial := y.fserial + 1 }).wx f.d.num
        (BitVec.ofNat 64 (n + y.fserial.toNat * 4)))

/-- What passing an fwait takes: the marks of fences that covered loads have read and its scope reaches (`take`), and for stores the
region and the scope that later stores leave as their mark (R104, R110). -/
def Sync.fencePass (y : Sync) (e : Fence) (take : List Mark → List Mark) : Sync :=
  let y1 := if e.ld then y.takes (take ((y.seen.filter fun p => decide (p.1 < e.upto)).map (·.2))) else y
  let y2 := if e.ld then { y1 with seen := y1.seen.filter fun p => decide (e.upto ≤ p.1) } else y1
  { y2 with fenced := if e.st then (y.region, e.scope) :: y2.fenced.filter (·.2 != e.scope) else y2.fenced, region := y.region + 1 }
def execFwait (f : SA) (s : State) : Out :=
  s.issue f.h (some f.t) .u [(f.a, .rx)] false false fun s _ =>
    let a := (s.rx f.a.num).toNat
    let n := bitsAt a 0 2
    let e := s.me.y.fences.get .reset n
    let mine := e.used && e.serial.toNat == bitsAt a 2 30
    if 2 ^ 32 ≤ a then .trap { cause := 0x02 }
    else if mine && !s.fenceFree s.cur s.curCtx e then .wait s (.fence n e.serial)
    else .ok (s.updY fun y => if mine then y.fencePass e (s.taken s.cur e.scope true) else { y with region := y.region + 1 })

/-- A stamped operation of the moving context, or of its ended thread, to a slice is not over: not applied, or its refusal is not
reported. -/
def State.stampedTo (s : State) (h : Nat) : Bool :=
  s.flights.any fun f => f.src == s.cur && ofCtx s.curCtx f.ctx && f.dest == .slice h &&
    (match f.op with | .rop _ _ => true | .rreissue _ => true | _ => false) &&
    (match f.stage with | .replying ok _ _ _ => !ok | _ => true)
def execSettle (f : MA) (s : State) : Out :=
  s.issue f.h none .u [(f.a, .rx)] false false fun s _ =>
    let ea := s.ea f.a f.m
    match spaceCheck ea 1 1 vaLimit with
    | some a => .trap a
    | none =>
      match s.xlate s.cur .data s.me.c.level ea.toNat false false with
      | .fault c d fx => .trapBy fx { cause := c, address := ea, detail := d }
      | .mig s1 => .ends s1
      | .ok pa _ _ s1 =>
        match destOf pa with
        | none => .trap { cause := 0x06, address := ea }
        | some (.slice h, _) => if s.stampedTo h then .stall else .ok s1
        | some _ => .ok s1

/-! ### What ends a wait (Observe, R100) -/

/-- The thing a context waits on holds. -/
def State.holds (s : State) (k c : Nat) : WaitOn → Bool
  | .nothing => true
  | .sem n thr => decide (thr ≤ s.sem k n)
  | .tagAny m => (s.tile k).tagbits &&& m != 0 || m == 0
  | .tagAll m => (s.tile k).tagbits &&& m == m
  | .fence n q =>
    let e := (s.ctx k c).y.fences.get .reset n
    s.fenceFree k c e || e.serial != q
  | .answer =>
    match (s.ctx k c).c.phase with
    | .armed _ => false
    | _ => true
  | .mail =>
    let s := { s with cur := k, curCtx := c }
    s.delivered s.ownBox != []
  | .quiet n => s.quiet k c n
  | .applied n => !s.accOpen k c n

end Sys2Proof.Machine
end

