-- ==== Sys2Proof/Machine/Vector.lean ====
section
/-! DEFINITION. Vector instructions at their issue (R184 to R207, R224): the checks, what a command captures, and the
engine's front queue. Their effects are in VecExec. -/

namespace Sys2Proof.Machine

/-! ### What an engine command captures (R13, R182) -/

/-- The exception key: the layout of the stamp with the engine ordinal (R182). -/
def State.excKey (s : State) : BitVec 64 :=
  BitVec.ofNat 64 ((s.owner (ownerOf s.cur)).sstep.toNat % 2 ^ 24 * 2 ^ 40 + s.ltileRead s.cur % 65536 * 2 ^ 24 +
    s.curCtx * 2 ^ 22 + bit (s.myTile.checked && decide (16 ≤ rowOf s.cur)) * 2 ^ 21 + s.me.y.eord.toNat)
/-- The captured values of the moving context, and the state with the command named and counted. -/
def State.capture (s : State) : Captured × State :=
  ({ id := s.nextId, ctx := s.curCtx, level := s.me.c.level, rmode := s.me.r.rmode, fenable := s.me.r.fenable,
     pc := s.me.r.pc, iword := s.iword, key := s.excKey, slug := s.me.c.slug.map (·.addr), region := s.me.y.region },
   ({ s with nextId := s.nextId + 1 } : State).updY fun y => { y with eord := if y.eord = 0xFFFFF then y.eord else y.eord + 1 })

/-- Places a vector instruction in the engine's front queue (R12, R188). -/
def State.pushV (s : State) (op : VOp) (d a b : Nat) (va vb : Word) (space : BitVec 2) (sig : Option (BitVec 8 × Nat)) : Res :=
  if 2 ≤ s.myTile.vq.length then .stall
  else
    let (cap, s1) := s.capture
    let r := s.me.r
    .ok (s1.updMyTile fun t => { t with vq := t.vq ++ [
      { cap := cap, op := op, d := BitVec.ofNat 8 d, a := BitVec.ofNat 8 a, b := BitVec.ofNat 8 b, va := va, vb := vb,
        space := space, vl := r.vl, msel := r.msel, win := r.win, xbase := r.xbase, vbase := r.vbase, sig := sig }] })

/-! ### The shapes -/

/-- `op vd, va, vb`. -/
def vvvF (op : VOp) (k : Nat) (f : SDAB) (s : State) : Out :=
  s.issue f.h (some f.t) .u [(f.d, .v k), (f.a, .v 0), (f.b, .v 0)] false true fun s _ =>
    s.pushV op f.d.num f.a.num f.b.num 0 0 0 f.t.doneSig
/-- `op vd, va`. -/
def vvF (op : VOp) (f : SDA) (s : State) : Out :=
  s.issue f.h (some f.t) .u [(f.d, .v 0), (f.a, .v 0)] false true fun s _ =>
    s.pushV op f.d.num f.a.num 0 0 0 0 f.t.doneSig
/-- `op vd, va, imm`. -/
def vviF (op : VOp) (f : IDA) (s : State) : Out :=
  s.issue f.h none .u [(f.d, .v 0), (f.a, .v 0)] false true fun s _ =>
    s.pushV op f.d.num f.a.num 0 0 (immZ f.imm) 0 none
/-- `op xd, va`. -/
def vredF (op : VOp) (f : SDA) (s : State) : Out :=
  s.issue f.h (some f.t) .u [(f.d, .wx), (f.a, .v 0)] false true fun s _ =>
    s.pushV op f.d.num f.a.num 0 0 0 0 f.t.doneSig
/-- `vcmp vmd, va, vb`. -/
def vcmpF (op : VOp) (f : SDAB) (s : State) : Out :=
  s.issue f.h (some f.t) .u [(f.d, .vm), (f.a, .v 0), (f.b, .v 0)] false true fun s _ =>
    s.pushV op f.d.num f.a.num f.b.num 0 0 0 f.t.doneSig
/-- `op vmd, vma, vmb`. -/
def vmaskF (op : VOp) (f : SDAB) (s : State) : Out :=
  s.issue f.h (some f.t) .u [(f.d, .vm), (f.a, .vm), (f.b, .vm)] false true fun s _ =>
    s.pushV op f.d.num f.a.num f.b.num 0 0 0 f.t.doneSig
/-- `op vd, va, xb` with a control word that a test must pass (R198, R200). -/
def vctlF (op : VOp) (ok : Nat → Bool) (f : SDAB) (s : State) : Out :=
  s.issue f.h (some f.t) .u [(f.d, .v 0), (f.a, .v 0), (f.b, .rx)] false true fun s _ =>
    let b := s.rx f.b.num
    if !ok b.toNat then .trap { cause := 0x02 } else s.pushV op f.d.num f.a.num 0 0 b 0 f.t.doneSig

/-! ### Lane instructions (R193 to R207) -/

def execVaddI (f : SDAB) (s : State) : Out := vvvF .vaddI 0 f s
def execVsubI (f : SDAB) (s : State) : Out := vvvF .vsubI 0 f s
def execVmulI (f : SDAB) (s : State) : Out := vvvF .vmulI 0 f s
def execVminI (f : SDAB) (s : State) : Out := vvvF .vminI 0 f s
def execVmaxI (f : SDAB) (s : State) : Out := vvvF .vmaxI 0 f s
def execVand (f : SDAB) (s : State) : Out := vvvF .vand 0 f s
def execVor (f : SDAB) (s : State) : Out := vvvF .vor 0 f s
def execVxor (f : SDAB) (s : State) : Out := vvvF .vxor 0 f s
def execVshl (f : SDAB) (s : State) : Out := vvvF .vshl 0 f s
def execVshr (f : SDAB) (s : State) : Out := vvvF .vshr 0 f s
def execVsra (f : SDAB) (s : State) : Out := vvvF .vsra 0 f s
def execVaddF (f : SDAB) (s : State) : Out := vvvF .vaddF 0 f s
def execVsubF (f : SDAB) (s : State) : Out := vvvF .vsubF 0 f s
def execVmulF (f : SDAB) (s : State) : Out := vvvF .vmulF 0 f s
def execVfmaF (f : SDAB) (s : State) : Out := vvvF .vfmaF 0 f s
def execVfnmaF (f : SDAB) (s : State) : Out := vvvF .vfnmaF 0 f s
def execVminF (f : SDAB) (s : State) : Out := vvvF .vminF 0 f s
def execVmaxF (f : SDAB) (s : State) : Out := vvvF .vmaxF 0 f s
def execVdivF (f : SDAB) (s : State) : Out := vvvF .vdivF 0 f s
def execVfmaBf (f : SDAB) (s : State) : Out := vvvF .vfmaBf 0 f s
def execVsel (f : SDAB) (s : State) : Out := vvvF .vsel 0 f s
def execVperm (f : SDAB) (s : State) : Out := vvvF .vperm 0 f s
def execVcmul (f : SDAB) (s : State) : Out := vvvF .vcmul 0 f s
def execVzip (f : SDAB) (s : State) : Out := vvvF .vzip 1 f s
def execVunzip (f : SDAB) (s : State) : Out := vvvF .vunzip 1 f s
def execVsplit (f : SDAB) (s : State) : Out := vvvF .vsplit 2 f s
def execVabsF (f : SDA) (s : State) : Out := vvF .vabsF f s
def execVnegF (f : SDA) (s : State) : Out := vvF .vnegF f s
def execVsqrtF (f : SDA) (s : State) : Out := vvF .vsqrtF f s
def execVrcpF (f : SDA) (s : State) : Out := vvF .vrcpF f s
def execVrsqF (f : SDA) (s : State) : Out := vvF .vrsqF f s
def execVexp2F (f : SDA) (s : State) : Out := vvF .vexp2F f s
def execVlog2F (f : SDA) (s : State) : Out := vvF .vlog2F f s
def execVrnsTo (f : SDA) (s : State) : Out := vvF .vrnsTo f s
def execVrnsFrom (f : SDA) (s : State) : Out := vvF .vrnsFrom f s
def execVmov (f : SDA) (s : State) : Out := vvF .vmov f s
def execVscanAddI (f : SDA) (s : State) : Out := vvF .vscanAddI f s
def execVscanAddF (f : SDA) (s : State) : Out := vvF .vscanAddF f s
def execVshlImm (f : IDA) (s : State) : Out := vviF .vshlImm f s
def execVshrImm (f : IDA) (s : State) : Out := vviF .vshrImm f s
def execVsraImm (f : IDA) (s : State) : Out := vviF .vsraImm f s
def execVrotImm (f : IDA) (s : State) : Out := vviF .vrot f s
def execVrot (f : SDAB) (s : State) : Out := vctlF .vrot (fun _ => true) f s
def execVcvt (f : SDAB) (s : State) : Out := vctlF .vcvt (fun b => decide (b ≤ 0x0A)) f s
def execVquant (f : SDAB) (s : State) : Out := vctlF .vquant (fun b => decide (b < 3)) f s
def execVdequant (f : SDAB) (s : State) : Out := vctlF .vdequant (fun b => decide (b < 3)) f s
def execVcmpEq (f : SDAB) (s : State) : Out := vcmpF .vcmpEq f s
def execVcmpLt (f : SDAB) (s : State) : Out := vcmpF .vcmpLt f s
def execVcmpLe (f : SDAB) (s : State) : Out := vcmpF .vcmpLe f s
def execVcmpFlt (f : SDAB) (s : State) : Out := vcmpF .vcmpFlt f s
def execVcmpFle (f : SDAB) (s : State) : Out := vcmpF .vcmpFle f s
def execVcmpFun (f : SDAB) (s : State) : Out := vcmpF .vcmpFun f s
def execVmand (f : SDAB) (s : State) : Out := vmaskF .vmand f s
def execVmor (f : SDAB) (s : State) : Out := vmaskF .vmor f s
def execVmxor (f : SDAB) (s : State) : Out := vmaskF .vmxor f s
def execVredAddF (f : SDA) (s : State) : Out := vredF .vredAddF f s
def execVredAddI (f : SDA) (s : State) : Out := vredF .vredAddI f s
def execVredMinF (f : SDA) (s : State) : Out := vredF .vredMinF f s
def execVredMaxF (f : SDA) (s : State) : Out := vredF .vredMaxF f s
def execVredMinI (f : SDA) (s : State) : Out := vredF .vredMinI f s
def execVredMaxI (f : SDA) (s : State) : Out := vredF .vredMaxI f s
def execVmnot (f : SDA) (s : State) : Out :=
  s.issue f.h (some f.t) .u [(f.d, .vm), (f.a, .vm)] false true fun s _ =>
    s.pushV .vmnot f.d.num f.a.num 0 0 0 0 f.t.doneSig
def execVmpop (f : SDA) (s : State) : Out :=
  s.issue f.h (some f.t) .u [(f.d, .wx), (f.a, .vm)] false true fun s _ =>
    s.pushV .vmpop f.d.num f.a.num 0 0 0 0 f.t.doneSig

/-! ### Moves with scalar operands (R205) -/

def execVbcast (f : SDA) (s : State) : Out :=
  s.issue f.h (some f.t) .u [(f.d, .v 0), (f.a, .rx)] false true fun s _ =>
    s.pushV .vbcast f.d.num 0 0 (s.rx f.a.num) 0 0 f.t.doneSig
def execVbcastImm (f : ID) (s : State) : Out :=
  s.issue f.h none .u [(f.d, .v 0)] false true fun s _ => s.pushV .vbcast f.d.num 0 0 (immZ f.imm) 0 0 none
def execViota (f : SDA) (s : State) : Out :=
  s.issue f.h (some f.t) .u [(f.d, .v 0), (f.a, .rx)] false true fun s _ =>
    s.pushV .viota f.d.num 0 0 (s.rx f.a.num) 0 0 f.t.doneSig
/-- A lane number in a register above 31 is an illegal operand (R205). -/
def execVmovx (f : SDAB) (s : State) : Out :=
  s.issue f.h (some f.t) .u [(f.d, .wx), (f.a, .v 0), (f.b, .rx)] false true fun s _ =>
    let n := s.rx f.b.num
    if 31 < n.toNat then .trap { cause := 0x02 } else s.pushV .vmovx f.d.num f.a.num 0 0 n 0 f.t.doneSig
def execVmovxImm (f : IDA) (s : State) : Out :=
  s.issue f.h none .u [(f.d, .wx), (f.a, .v 0)] false true fun s _ => s.pushV .vmovx f.d.num f.a.num 0 0 (immZ f.imm) 0 none
def execVmovv (f : SDAB) (s : State) : Out :=
  s.issue f.h (some f.t) .u [(f.d, .v 0), (f.a, .rx), (f.b, .rx)] false true fun s _ =>
    let n := s.rx f.b.num
    if 31 < n.toNat then .trap { cause := 0x02 } else s.pushV .vmovv f.d.num 0 0 (s.rx f.a.num) n 0 f.t.doneSig
def execVmovvImm (f : IDA) (s : State) : Out :=
  s.issue f.h none .u [(f.d, .v 0), (f.a, .rx)] false true fun s _ =>
    s.pushV .vmovv f.d.num 0 0 (s.rx f.a.num) (immZ f.imm) 0 none

/-! ### vsetvl (R185): executes in the core -/

def State.vsetvl (s : State) (d n : Nat) (k : BitVec 3) : Res :=
  let s1 := s.updR fun r => { r.setVl n with msel := k }
  .ok (s1.wx d (BitVec.ofNat 64 (s1.me.r.vl.toNat + k.toNat * 256 + bit (n == 0) * 65536)))
def execVsetvl (f : SDAB) (s : State) : Out :=
  s.issue f.h (some f.t) .u [(f.d, .wx), (f.a, .rx), (f.b, .vm)] false false fun s _ =>
    s.vsetvl f.d.num (s.rx f.a.num).toNat (BitVec.ofNat 3 f.b.num)
def execVsetvlImm (f : ID) (s : State) : Out :=
  s.issue f.h none .u [(f.d, .wx)] false false fun s _ =>
    s.vsetvl f.d.num (bitsAt f.imm.toNat 0 16) (BitVec.ofNat 3 (bitsAt f.imm.toNat 16 3))

/-! ### Vector loads and stores (R190, R192) -/

/-- Lane i of a vector register. -/
def lane (v : BitVec 1024) (i : Nat) : Nat := bitsAt v.toNat (32 * i) 32
/-- Lane i is active (R186). -/
def laneActive (vl : Nat) (m : BitVec 32) (i : Nat) : Bool := decide (i < vl) && m.getLsbD i
def activeLanes (vl : Nat) (m : BitVec 32) : List Nat := (List.range 32).filter (laneActive vl m)

/-- An instruction that writes the mask n. -/
def VCmd.writesMask (q : VCmd) (n : Nat) : Bool :=
  q.d.toNat == n && (match q.op with
    | .vcmpEq | .vcmpLt | .vcmpLe | .vcmpFlt | .vcmpFle | .vcmpFun | .vmand | .vmor | .vmxor | .vmnot => true
    | _ => false)

/-- The checks on every active lane: misaligned in any lane, then space in any lane; the message names the lowest
failing one (R190). A space of 2 or 3 is a space fault. -/
def laneCheck (space : BitVec 2) (lanes : List Nat) (addr : Nat → Word) : Option FaultArg :=
  let name (c : Nat) (i : Nat) : FaultArg := { cause := c, address := addr i, detail := BitVec.ofNat 64 i }
  match lanes.find? fun i => (addr i).toNat % 4 != 0 with
  | some i => some (name 0x04 i)
  | none =>
    if 2 ≤ space.toNat then some (name 0x14 (lanes.head?.getD 0))
    else (lanes.find? fun i => decide (spaceLimit space.toNat < (addr i).toNat + 4)).map (name 0x14)

/-- A vector access at issue. `idx` names the index register of an indexed form, `stride` the byte distance of lanes. -/
def State.vmem (s : State) (op : VOp) (space : BitVec 2) (d a b : Nat) (ea : Word) (idx : Option Nat) (stride : Word) : Res :=
  let r := s.me.r
  let maskHeld := r.msel != 0 && s.myTile.vq.any fun q => q.cap.ctx == s.curCtx && q.writesMask r.msel.toNat
  if s.acqHeld || maskHeld || (idx.isSome && s.myTile.vecOpen s.curCtx) then .stall
  else
    let addr (i : Nat) : Word :=
      match idx with
      | some n => ea + sextLow 32 (BitVec.ofNat 64 (lane (s.rv n) i))
      | none => ea + BitVec.ofNat 64 i * stride
    match laneCheck space (activeLanes r.vl.toNat (r.vm r.msel.toNat)) addr with
    | some x => .trap x
    | none => s.pushV op d a b ea stride space none

def execVld (f : MDA) (s : State) : Out :=
  s.issue f.h none .u [(f.d, .v 0), (f.a, .rx)] false true fun s _ =>
    s.vmem .vld f.m.space f.d.num 0 0 (s.ea f.a f.m) none 4
def execVlds (f : MDAB) (s : State) : Out :=
  s.issue f.h none .u [(f.d, .v 0), (f.a, .rx), (f.b, .rx)] false true fun s _ =>
    s.vmem .vlds f.m.space f.d.num 0 0 (s.ea f.a f.m) none (s.rx f.b.num)
def execVldx (f : MDAB) (s : State) : Out :=
  s.issue f.h none .u [(f.d, .v 0), (f.a, .rx), (f.b, .v 0)] false true fun s _ =>
    s.vmem .vldx f.m.space f.d.num 0 f.b.num (s.ea f.a f.m) (some f.b.num) 0
def execVst (f : MAB) (s : State) : Out :=
  s.issue f.h none .u [(f.a, .rx), (f.b, .v 0)] false true fun s _ =>
    s.vmem .vst f.m.space 0 0 f.b.num (s.ea f.a f.m) none 4
def execVsts (f : MDAB) (s : State) : Out :=
  s.issue f.h none .u [(f.d, .rx), (f.a, .rx), (f.b, .v 0)] false true fun s _ =>
    s.vmem .vsts f.m.space 0 0 f.b.num (s.ea f.a f.m) none (s.rx f.d.num)
def execVstx (f : MDAB) (s : State) : Out :=
  s.issue f.h none .u [(f.d, .v 0), (f.a, .rx), (f.b, .v 0)] false true fun s _ =>
    s.vmem .vstx f.m.space f.d.num 0 f.b.num (s.ea f.a f.m) (some f.d.num) 0

/-! ### mxrd and mxwr (R224) -/

/-- The accumulator that a matrix command names, for the kinds that name one (R212). -/
def recAcc (b : BitVec 512) : Option Nat :=
  if recField b 0 1 = 1 then none else some (recField b 2 1 % 4)
/-- A matrix command that names accumulator `acc` of a tile, issued before n, is not complete; one of a pre-empted
thread counts like any other (R222, R225). -/
def Tile.mxOpen (t : Tile) (acc n : Nat) : Bool :=
  (t.mq ++ t.mqOff).any fun q => recAcc q.bits == some acc && decide (q.cap.id < n)
/-- An instruction moves rows of accumulator `acc`, and it issued before n. -/
def VCmd.moves (q : VCmd) (acc n : Nat) : Bool :=
  (q.op == .mxrd || q.op == .mxwr) && bitsAt q.vb.toNat 3 2 == acc && decide (q.cap.id < n)
/-- Work on accumulator `acc` of a tile named below n that is not complete, that of pre-empted threads too (R225). -/
def Tile.accOpen (t : Tile) (acc n : Nat) : Bool := t.mxOpen acc n || (t.vq ++ t.vqOff).any (·.moves acc n)
/-- An accumulator move may take its rows: matrix commands that issued before it have completed, and the moves of pre-empted threads that
did have been made (R224, R225). -/
def Tile.moveFree (t : Tile) (acc n : Nat) : Bool := !t.mxOpen acc n && !t.vqOff.any (·.moves acc n)
def MxState.isRns (m : MxState) (acc : Nat) : Bool := m.rns.getLsbD acc

/-- The operand word of Table 7 is captured in the second scalar value. -/
def State.mxrw (s : State) (op : VOp) (d a : Nat) (w : Word) (sig : Option (BitVec 8 × Nat)) : Res :=
  if 64 ≤ w.toNat then .trap { cause := 0x02 }
  else if op = .mxwr && w.getLsbD 5 then
    if s.myTile.accOpen (bitsAt w.toNat 3 2) s.nextId then .stall
    else if !s.myTile.mx.isRns (bitsAt w.toNat 3 2) then .trap { cause := 0x02 }
    else s.pushV op d a 0 0 w 0 sig
  else s.pushV op d a 0 0 w 0 sig
def execMxrd (f : SDA) (s : State) : Out :=
  s.issue f.h (some f.t) .u [(f.d, .v 0), (f.a, .rx)] false true fun s _ =>
    s.mxrw .mxrd f.d.num 0 (s.rx f.a.num) f.t.doneSig
def execMxrdImm (f : ID) (s : State) : Out :=
  s.issue f.h none .u [(f.d, .v 0)] false true fun s _ => s.mxrw .mxrd f.d.num 0 (immZ f.imm) none
def execMxwr (f : SAB) (s : State) : Out :=
  s.issue f.h (some f.t) .u [(f.a, .v 0), (f.b, .rx)] false true fun s _ =>
    s.mxrw .mxwr 0 f.a.num (s.rx f.b.num) f.t.doneSig
def execMxwrImm (f : IA) (s : State) : Out :=
  s.issue f.h none .u [(f.a, .v 0)] false true fun s _ => s.mxrw .mxwr 0 f.a.num (immZ f.imm) none

end Sys2Proof.Machine
end

