-- ==== Sys2Proof/Machine/VecExec.lean ====
section
/-! DEFINITION. The vector engine (R186 to R207, R224): each operation on whole registers, block quantisation (R179),
and the step that executes the next queued instruction. -/

namespace Sys2Proof.Machine

/-! ### Lanes -/

def setLane (v : BitVec 1024) (i n : Nat) : BitVec 1024 := BitVec.ofNat 1024 (setBits v.toNat (32 * i) 32 n)
/-- A register from a value for each lane. -/
def ofLanes (f : Nat → Nat) : BitVec 1024 := BitVec.ofNat 1024 (foldUp (fun a i => a + f i % 2 ^ 32 * 2 ^ (32 * i)) 32 0 0)
/-- Writes the given lanes only. -/
def mergeLanes (old : BitVec 1024) (l : List (Nat × Nat)) : BitVec 1024 := l.foldl (fun v e => setLane v e.1 e.2) old

/-- An FP32 input under fzi (R174). -/
def flushIn (rm : BitVec 16) (x : Nat) : Nat :=
  let x := x % 2 ^ 32
  if fzi rm && bitsAt x 23 8 == 0 then x / 2 ^ 31 * 2 ^ 31 else x
/-- A BF16 input under fzi. -/
def flushInBf (rm : BitVec 16) (x : Nat) : Nat :=
  let x := x % 2 ^ 16
  if fzi rm && bitsAt x 7 8 == 0 then x / 2 ^ 15 * 2 ^ 15 else x
/-- A delivered result under fzo (R174): a subnormal becomes zero of its sign, with UF and NX. -/
def flushOut (rm : BitVec 16) (f : Fmt) (r : FRes) : FRes :=
  let m := r.1 % 2 ^ f.mag
  if fzo rm && decide (0 < m) && decide (m < 2 ^ f.p) then (r.1 / 2 ^ f.mag * 2 ^ f.mag, r.2 ||| UF ||| NX) else r

/-! ### Block quantisation (R179, R200) -/

/-- Element formats of blocks: 0 E4M3, 1 E5M2, 2 INT8. -/
def blockFmt (e : Nat) : Option Fmt :=
  match e with
  | 0 => some .e4m3
  | 1 => some .e5m2
  | _ => none
def blockEmax (e : Nat) : Int :=
  match e with
  | 0 => 8
  | 1 => 15
  | _ => 6

/-- floor(log2 |v|) of a finite non-zero value. -/
def FVal.top : FVal → Option Int
  | .fin _ m e => if m = 0 then none else some ((m.log2 : Int) + e)
  | _ => none
def maxTop : List FVal → Option Int
  | [] => none
  | v :: r =>
    match v.top, maxTop r with
    | some a, some b => some (if a < b then b else a)
    | some a, none => some a
    | none, o => o

/-- One element of a block in scale s: code and flags. -/
def quantElem (e : Nat) (rm : RM) (s : Int) (v : FVal) : FRes :=
  match v with
  | .nan _ => (0, 0)
  | .inf n =>
    (match blockFmt e with
     | some f => (f.sign n f.maxCode, OF)
     | none => (if n then 0x81 else 0x7F, OF))
  | v =>
    match blockFmt e, v.scale (127 - s) with
    | some f, w => let r := narrow f rm true w; (r.1, r.2 &&& ~~~OF)
    | none, .fin n m x =>
      let (i, exact) := toIntRound rm n m x
      if i < -128 then (0x80, NX) else if 127 < i then (0x7F, NX) else (unsignedOf 8 i, if exact then 0 else NX)
    | none, _ => (0, 0)

/-- The elements in order; `code` 4 takes one generator step for each (R177). -/
def quantElems (e code : Nat) (s : Int) (zero : Bool) : List FVal → BitVec 64 → List FRes × BitVec 64
  | [], g => ([], g)
  | v :: r, g =>
    let g1 := if code = 4 then xs g else g
    let x := if zero then (0, nvIf v.isNaN) else quantElem e (if code = 4 then .sr g1 else rmOf code) s v
    let (rest, g2) := quantElems e code s zero r g1
    (x :: rest, g2)

/-- R179 on values already read: elements, scale, and the generator after. -/
def quantBlock (e code : Nat) (vs : List FVal) (g : BitVec 64) : List FRes × Nat × BitVec 64 :=
  if vs.any FVal.isNaN then
    let (l, g1) := quantElems e code 0 true vs g
    (l, 0xFF, g1)
  else
    let s : Int := match maxTop vs with
      | some t => let x := t - blockEmax e + 127; if x < 0 then 0 else if 254 < x then 254 else x
      | none => 0
    let (l, g1) := quantElems e code s false vs g
    (l, s.toNat, g1)

/-- A block element as FP32 (R178, Table 7). -/
def dequantElem (e : Nat) (rm : RM) (s c : Nat) : FRes :=
  if s = 0xFF then (Fmt.nan .fp32, 0)
  else
    let v : FVal := match blockFmt e with
      | some f => f.read c
      | none => ofInt (signedOf 8 c)
    round32 rm (v.scale ((s : Int) - 127))

/-! ### Residue containers (R37, R170) -/

/-- The container of an integer. -/
def rnsOf (t : Int) : Nat := (t % 255).toNat + (t % 256).toNat * 256 + (t % 257).toNat * 65536
/-- The residues of a container as they are read. -/
def rnsRead (c : Nat) : Nat × Nat × Nat :=
  let a := c % 256
  let k := bitsAt c 16 9
  (if a = 255 then 0 else a, bitsAt c 8 8, if 257 ≤ k then k - 257 else k)
/-- CRT3 (R37). -/
def crt3 (r : Nat × Nat × Nat) : Int :=
  let t := (r.1 * 65792 * 128 + r.2.1 * 65535 * 255 + r.2.2 * 65280 * 129) % 16776960
  if 8388479 < t then (t : Int) - 16776960 else t
def rnsCanon (c : Nat) : Nat :=
  let r := rnsRead c
  r.1 + r.2.1 * 256 + r.2.2 * 65536

/-! ### What an instruction computes -/

/-- Everything a lane instruction reads (R186, R188). -/
structure VIn where
  q : VCmd
  a : BitVec 1024
  b : BitVec 1024
  d : BitVec 1024
  d1 : BitVec 1024
  ma : BitVec 32
  mb : BitVec 32
  md : BitVec 32
  /-- mask of VM(msel) -/
  sel : BitVec 32
  gen : BitVec 64

/-- What it writes: registers from d on, an x register, a mask, the flags of each lane, the generator. -/
structure VOut where
  v : List (BitVec 1024) := []
  x : Option Word := none
  m : Option (BitVec 32) := none
  fl : List (Nat × Flags) := []
  gen : BitVec 64

def VIn.act (i : VIn) : List Nat := activeLanes i.q.vl.toNat i.sel
def VIn.rm (i : VIn) : BitVec 16 := i.q.cap.rmode
/-- Lanes as FP32 inputs. -/
def VIn.fa (i : VIn) (n : Nat) : Nat := flushIn i.rm (lane i.a n)
def VIn.fb (i : VIn) (n : Nat) : Nat := flushIn i.rm (lane i.b n)
def VIn.fd (i : VIn) (n : Nat) : Nat := flushIn i.rm (lane i.d n)

/-- Active lanes of one destination from a function of the lane. -/
def VIn.map (i : VIn) (f : Nat → FRes) : VOut :=
  let rs := i.act.map fun n => (n, f n)
  { v := [mergeLanes i.d (rs.map fun e => (e.1, e.2.1))], fl := rs.map fun e => (e.1, e.2.2), gen := i.gen }
def VIn.int (i : VIn) (f : Nat → Nat → Nat) : VOut := i.map fun n => (f (lane i.a n) (lane i.b n), 0)
/-- FP32 lanes, rounded by arnd (R194). -/
def VIn.fp (i : VIn) (f : RM → Nat → FRes) : VOut := i.map fun n => flushOut i.rm .fp32 (f (arnd i.rm) n)
/-- Compares (R202): a bit for each active lane. -/
def VIn.cmp (i : VIn) (f : Nat → Bool × Flags) : VOut :=
  let rs := i.act.map fun n => (n, f n)
  { m := some (rs.foldl (fun m e => BitVec.ofNat 32 (setBits m.toNat e.1 1 (bit e.2.1))) i.md),
    fl := rs.map fun e => (e.1, e.2.2), gen := i.gen }

/-- The reduction tree (R206, Table 10): one level, which pairs the nodes from node `k` on of level `lvl`. -/
def redLevel {α : Type} (comb : α → α → α × Flags) (lvl : Nat) : List (Option α) → Nat → List (Option α) × List (Nat × Flags)
  | l :: r :: rest, k =>
    let (ns, fl) := redLevel comb lvl rest (k + 1)
    (match l, r with
     | some a, some b => let c := comb a b; (some c.1 :: ns, (k * 2 ^ lvl, c.2) :: fl)
     | some a, none => (some a :: ns, fl)
     | none, o => (o :: ns, fl))
  | [], _ => ([], [])
  | l, _ => (l, [])
/-- All five levels. -/
def redTree {α : Type} (comb : α → α → α × Flags) : Nat → Nat → List (Option α) → Option α × List (Nat × Flags)
  | 0, _, l => (l.head?.getD none, [])
  | n + 1, lvl, l =>
    let (l1, fl) := redLevel comb lvl l 0
    let (r, fl2) := redTree comb n (lvl + 1) l1
    (r, fl ++ fl2)
/-- The lanes of a, none where inactive. -/
def VIn.leaves {α : Type} (i : VIn) (f : Nat → α) : List (Option α) :=
  (List.range 32).map fun n => if laneActive i.q.vl.toNat i.sel n then some (f n) else none
def VIn.redF (i : VIn) (comb : Nat → Nat → FRes) (empty : Nat) : VOut :=
  let (r, fl) := redTree comb 5 1 (i.leaves i.fa)
  { x := some (BitVec.ofNat 64 (r.getD empty)), fl := fl, gen := i.gen }
def VIn.redI (i : VIn) (comb : Int → Int → Int) (empty : Int) : VOut :=
  let (r, _) := redTree (fun a b => (comb a b, (0 : Flags))) 5 1 (i.leaves fun n => signedOf 32 (lane i.a n))
  { x := some (BitVec.ofInt 64 (r.getD empty)), gen := i.gen }

/-- Running sums over the active lanes (R207). -/
def scanF (rm : BitVec 16) (f : Nat → Nat) : List Nat → Option Nat → List (Nat × FRes)
  | [], _ => []
  | n :: r, none => (n, (f n, 0)) :: scanF rm f r (some (f n))
  | n :: r, some s =>
    let x := flushOut rm .fp32 (fpAdd (arnd rm) s (f n))
    (n, x) :: scanF rm f r (some x.1)
def scanI (f : Nat → Nat) : List Nat → Nat → List (Nat × FRes)
  | [], _ => []
  | n :: r, s => (n, ((s + f n) % 2 ^ 32, 0)) :: scanI f r (s + f n)
def VIn.put (i : VIn) (l : List (Nat × FRes)) : VOut :=
  { v := [mergeLanes i.d (l.map fun e => (e.1, e.2.1))], fl := l.map fun e => (e.1, e.2.2), gen := i.gen }

/-- One lane of `vcvt` (R198, Table 7) with the generator before it. -/
def cvtLane (rm : BitVec 16) (code x old : Nat) (g : BitVec 64) : FRes × BitVec 64 :=
  let nar (f : Fmt) : FRes × BitVec 64 :=
    let (g1, r) := cvtSR f rm (satOf rm) (read32 (flushIn rm x)) g
    (flushOut rm f r, g1)
  match code with
  | 0 => let r := fpToInt 32 (crnd rm) (read32 (flushIn rm x)); ((unsignedOf 32 r.1, r.2), g)
  | 1 => (round32 (crnd rm) (ofInt (signedOf 32 x)), g)
  | 2 => nar .bf16
  | 3 => (flushOut rm .fp32 (widen .bf16 (flushInBf rm x)), g)
  | 4 => nar .e4m3
  | 5 => nar .e5m2
  | 6 => (widen .e4m3 (x % 256), g)
  | 7 => (widen .e5m2 (x % 256), g)
  | 8 =>
    let v := signedOf 32 x
    ((unsignedOf 32 (if satOf rm then (if v < -128 then -128 else if 127 < v then 127 else v) else signedOf 8 x), 0), g)
  | 9 => ((unsignedOf 32 (signedOf 8 x), 0), g)
  | _ => let r := nar .bf16; ((old % 65536 + r.1.1 * 65536, r.1.2), r.2)
def cvtLanes (rm : BitVec 16) (code : Nat) (a d : BitVec 1024) : List Nat → BitVec 64 → List (Nat × FRes) × BitVec 64
  | [], g => ([], g)
  | n :: r, g =>
    let (x, g1) := cvtLane rm code (lane a n) (lane d n) g
    let (l, g2) := cvtLanes rm code a d r g1
    ((n, x) :: l, g2)

/-- a.lo × b.lo + a.hi × b.hi + D (R196). -/
def fmaBf (rm : BitVec 16) (a b d : Nat) : FRes :=
  let h (x k : Nat) : FVal := Fmt.read .bf16 (flushInBf rm (bitsAt x (16 * k) 16))
  finish32 (arnd rm) [h a 0, h a 1, h b 0, h b 1, read32 d]
    (dotF (arnd rm) [mulF (h a 0) (h b 0), mulF (h a 1) (h b 1)] [read32 d])
/-- x × y + (−1)^neg z × w with one rounding (R197). -/
def mul2 (rm : RM) (x y z w : Nat) (neg : Bool) : FRes :=
  let z' := if neg then (read32 z).negate else read32 z
  finish32 rm [read32 x, read32 y, read32 z, read32 w] (dotF rm [mulF (read32 x) (read32 y), mulF z' (read32 w)] [])

/-- vsplit (R199): the three terms of the elements of each active lane. -/
def VIn.split (i : VIn) : VOut :=
  let el (e : Nat) : FRes := fpSplit (flushIn i.rm (if e < 32 then lane i.a e else lane i.b (e - 32)))
  let term (k n : Nat) : Nat := bitsAt (el (2 * n)).1 (16 * k) 16 + bitsAt (el (2 * n + 1)).1 (16 * k) 16 * 65536
  let put (old : BitVec 1024) (k : Nat) : BitVec 1024 := mergeLanes old (i.act.map fun n => (n, term k n))
  { v := [put i.d 2, put i.d1 1], fl := i.act.map fun n => (n, (el (2 * n)).2 ||| (el (2 * n + 1)).2), gen := i.gen }
/-- Its third destination, merged into that register's old value. -/
def VIn.splitLo (i : VIn) (old : BitVec 1024) : BitVec 1024 :=
  let el (e : Nat) : FRes := fpSplit (flushIn i.rm (if e < 32 then lane i.a e else lane i.b (e - 32)))
  mergeLanes old (i.act.map fun n => (n, (el (2 * n)).1 % 65536 + (el (2 * n + 1)).1 % 65536 * 65536))

/-- vquant (R200): elements in lanes 0 to 7, the scale in lane 8. -/
def VIn.quant (i : VIn) : VOut :=
  let e := i.q.vb.toNat % 4
  let (l, s, g) := quantBlock e (crndCode i.rm) ((List.range 32).map fun n => read32 (i.fa n)) i.gen
  let l : List FRes := match blockFmt e with
    | some f => l.map (flushOut i.rm f)
    | none => l
  let code (n : Nat) : Nat := ((l[n]?).getD (0, 0)).1 % 256
  { v := [ofLanes fun n =>
      if n < 8 then code (4 * n) + code (4 * n + 1) * 2 ^ 8 + code (4 * n + 2) * 2 ^ 16 + code (4 * n + 3) * 2 ^ 24
      else if n = 8 then s else 0],
    fl := (List.range 32).map fun n => (n, ((l[n]?).getD (0, 0)).2), gen := g }
def VIn.dequant (i : VIn) : VOut :=
  let s := lane i.a 8 % 256
  let r (n : Nat) : FRes :=
    flushOut i.rm .fp32 (dequantElem (i.q.vb.toNat % 4) (crnd i.rm) s (bitsAt (lane i.a (n / 4)) (8 * (n % 4)) 8))
  { v := [ofLanes fun n => (r n).1], fl := (List.range 32).map fun n => (n, (r n).2), gen := i.gen }

def s32 (x : Nat) : Int := signedOf 32 x

/-- Every lane instruction but the memory forms and the accumulator moves. -/
def VIn.run (i : VIn) : VOut :=
  let n5 := i.q.vb.toNat % 32
  let none_ : VOut := { gen := i.gen }
  let nans (n : Nat) : Bool := (read32 (i.fa n)).isNaN || (read32 (i.fb n)).isNaN
  match i.q.op with
  | .vaddI => i.int fun a b => a + b
  | .vsubI => i.int fun a b => a + 2 ^ 32 - b
  | .vmulI => i.int fun a b => a * b
  | .vminI => i.int fun a b => if s32 a ≤ s32 b then a else b
  | .vmaxI => i.int fun a b => if s32 a ≤ s32 b then b else a
  | .vand => i.int fun a b => a &&& b
  | .vor => i.int fun a b => a ||| b
  | .vxor => i.int fun a b => a ^^^ b
  | .vshl => i.int fun a b => a * 2 ^ (b % 32)
  | .vshr => i.int fun a b => a / 2 ^ (b % 32)
  | .vsra => i.int fun a b => unsignedOf 32 (s32 a / (2 ^ (b % 32) : Nat))
  | .vshlImm => i.int fun a _ => a * 2 ^ n5
  | .vshrImm => i.int fun a _ => a / 2 ^ n5
  | .vsraImm => i.int fun a _ => unsignedOf 32 (s32 a / (2 ^ n5 : Nat))
  | .vaddF => i.fp fun m n => fpAdd m (i.fa n) (i.fb n)
  | .vsubF => i.fp fun m n => fpSub m (i.fa n) (i.fb n)
  | .vmulF => i.fp fun m n => fpMul m (i.fa n) (i.fb n)
  | .vfmaF => i.fp fun m n => fpFma m false (i.fa n) (i.fb n) (i.fd n)
  | .vfnmaF => i.fp fun m n => fpFma m true (i.fa n) (i.fb n) (i.fd n)
  | .vminF => i.map fun n => fpMinMax false (i.fa n) (i.fb n)
  | .vmaxF => i.map fun n => fpMinMax true (i.fa n) (i.fb n)
  | .vabsF => i.map fun n => (fpAbs (i.fa n), 0)
  | .vnegF => i.map fun n => (fpNeg (i.fa n), 0)
  | .vdivF => i.fp fun m n => fpDiv m (i.fa n) (i.fb n)
  | .vsqrtF => i.fp fun m n => fpSqrt m (i.fa n)
  | .vrcpF => i.fp fun _ n => fpRcp (i.fa n)
  | .vrsqF => i.fp fun _ n => fpRsq (i.fa n)
  | .vexp2F => i.fp fun _ n => fpExp2 (i.fa n)
  | .vlog2F => i.fp fun _ n => fpLog2 (i.fa n)
  | .vfmaBf => i.map fun n => flushOut i.rm .fp32 (fmaBf i.rm (lane i.a n) (lane i.b n) (i.fd n))
  | .vcmul => i.fp fun m n =>
      let r := n / 2 * 2
      if n % 2 = 0 then mul2 m (i.fa r) (i.fb r) (i.fa (r + 1)) (i.fb (r + 1)) true
      else mul2 m (i.fa r) (i.fb (r + 1)) (i.fa (r + 1)) (i.fb r) false
  | .vcvt =>
    let (l, g) := cvtLanes i.rm (i.q.vb.toNat % 256) i.a i.d i.act i.gen
    { i.put l with gen := g }
  | .vsplit => i.split
  | .vquant => i.quant
  | .vdequant => i.dequant
  | .vrnsTo => i.map fun n => (rnsOf (s32 (lane i.a n)), 0)
  | .vrnsFrom => i.map fun n => (unsignedOf 32 (crt3 (rnsRead (lane i.a n))), 0)
  | .vcmpEq => i.cmp fun n => (lane i.a n == lane i.b n, 0)
  | .vcmpLt => i.cmp fun n => (decide (s32 (lane i.a n) < s32 (lane i.b n)), 0)
  | .vcmpLe => i.cmp fun n => (decide (s32 (lane i.a n) ≤ s32 (lane i.b n)), 0)
  | .vcmpFlt => i.cmp fun n => ((read32 (i.fa n)).lt (read32 (i.fb n)), nvIf (nans n))
  | .vcmpFle => i.cmp fun n =>
      ((read32 (i.fa n)).lt (read32 (i.fb n)) || (read32 (i.fa n)).eqv (read32 (i.fb n)), nvIf (nans n))
  | .vcmpFun => i.cmp fun n => (nans n, sigAny [read32 (i.fa n), read32 (i.fb n)])
  | .vsel => { v := [mergeLanes i.d ((List.range i.q.vl.toNat).map fun n =>
      (n, if i.sel.getLsbD n then lane i.a n else lane i.b n))], gen := i.gen }
  | .vmand => { m := some (i.ma &&& i.mb), gen := i.gen }
  | .vmor => { m := some (i.ma ||| i.mb), gen := i.gen }
  | .vmxor => { m := some (i.ma ^^^ i.mb), gen := i.gen }
  | .vmnot => { m := some (~~~i.ma), gen := i.gen }
  | .vmpop => { x := some (BitVec.ofNat 64 ((List.range i.q.vl.toNat).filter i.ma.getLsbD).length), gen := i.gen }
  | .vbcast => i.map fun _ => (i.q.va.toNat % 2 ^ 32, 0)
  | .vmovx => { x := some (BitVec.ofNat 64 (lane i.a n5)), gen := i.gen }
  | .vmovv => { v := [setLane i.d n5 (i.q.va.toNat % 2 ^ 32)], gen := i.gen }
  | .viota => i.map fun n => ((i.q.va.toNat + n) % 2 ^ 32, 0)
  | .vperm => i.map fun n => (lane i.a (lane i.b n % 32), 0)
  | .vrot => i.map fun n => (lane i.a ((n + n5) % 32), 0)
  | .vzip =>
    let c (k : Nat) : Nat := if k % 2 = 0 then lane i.a (k / 2) else lane i.b (k / 2)
    { v := [mergeLanes i.d (i.act.map fun n => (n, c n)), mergeLanes i.d1 (i.act.map fun n => (n, c (32 + n)))], gen := i.gen }
  | .vunzip =>
    let c (k : Nat) : Nat := if k < 32 then lane i.a k else lane i.b (k - 32)
    { v := [mergeLanes i.d (i.act.map fun n => (n, c (2 * n))), mergeLanes i.d1 (i.act.map fun n => (n, c (2 * n + 1)))],
      gen := i.gen }
  | .vmov => i.map fun n => (lane i.a n, 0)
  | .vredAddF => i.redF (fun a b => flushOut i.rm .fp32 (fpAdd (arnd i.rm) a b)) 0
  | .vredAddI => i.redI (· + ·) 0
  | .vredMinF => i.redF (fun a b => flushOut i.rm .fp32 (fpMinMax false a b)) 0x7F800000
  | .vredMaxF => i.redF (fun a b => flushOut i.rm .fp32 (fpMinMax true a b)) 0xFF800000
  | .vredMinI => i.redI (fun a b => if a ≤ b then a else b) 0x7FFFFFFF
  | .vredMaxI => i.redI (fun a b => if a ≤ b then b else a) (-2147483648)
  | .vscanAddI => i.put (scanI (lane i.a) i.act 0)
  | .vscanAddF => i.put (scanF i.rm i.fa i.act none)
  | _ => none_

/-! ### The engine's step -/

/-- A context is still the thread that issued a command (R180). -/
def State.isThread (s : State) (k : Nat) (c : Captured) : Bool :=
  let x := s.ctx k c.ctx
  x.c.run != .idle && x.c.slug.map (·.addr) == c.slug

/-- The flags of finished work go to the issuing context, whatever thread it runs by now; enabled ones are collected, and the context stops at its
next boundary (R180, R181). `idx` is the lowest raising index, `engine` 0 vector, 1 matrix, 2 copy. -/
def State.workFlags (s : State) (k : Nat) (cap : Captured) (engine idx : Nat) (fl : Flags) : State :=
  let s1 := s.updCtx k (if cap.ctx < 8 then cap.ctx % 4 else cap.ctx) fun x => { x with r := x.r.raiseFlags fl }
  if fl &&& cap.fenable = 0 then s1
  else
    let e : FpExc := { key := cap.key, tile := k, ctx := cap.ctx, pc := cap.pc, iword := cap.iword, gtime := s.gtime, gang := (s.ctx k cap.ctx).c.gang.isSome,
                       cyc := s.cyc k, index := idx, engine := engine, flags := fl }
    let isOpen (w : FpWindow) : Bool := w.reported.isNone && decide (s.gtime.toNat < w.opened.toNat + 4096)
    let s2 := s1.updOwner (ownerOf k) fun o =>
      { o with windows :=
          if o.windows.any isOpen then o.windows.map fun w => if isOpen w then { w with excs := w.excs ++ [e] } else w
          else o.windows ++ [{ opened := s.gtime, excs := [e], also := [], reported := none }] }
    if s.isThread k cap then s2.updCtx k cap.ctx fun x => { x with c := { x.c with fpStop := true } } else s2

/-- The signal that an instruction gives at its engine's completion; saturation names that instruction (R29). Where its thread has
ended there is no context to stop, and the overflow is reported as late refusals are (log 28). -/
def State.doneSignal (s : State) (k : Nat) (cap : Captured) (sig : Option (BitVec 8 × Nat)) : State :=
  match sig with
  | none => s
  | some (n, i) =>
    let (s1, sat) := s.addSem k n.toNat i
    if !sat then s1
    else if s.isThread k cap then s1.takeImprecise k cap.ctx cap.iword { cause := 0x0F } none
    else
      let r := s1.faultRec k (cap.ctx % 4) cap.pc cap.iword 16 { cause := 0x0F }
      s1.post (s1.levelBox k cap.level) { body := r.message (s1.ltileRead k), src := k, ctx := cap.ctx, after := 0 }

/-- An error during a vector instruction (R190, R95): it and the later ones of its context are discarded, and the
context stops at its next boundary. -/
def State.vecError (s : State) (k : Nat) (q : VCmd) (a : FaultArg) : State :=
  (s.updTile k fun t => { t with vq := t.vq.filter fun w => w.cap.ctx != q.cap.ctx }).takeImprecise k q.cap.ctx q.cap.iword
    { a with allow := allowRestartKill } none

/-- Vector registers an instruction reads, relative to its window. -/
def VCmd.reads (q : VCmd) : List Nat :=
  match q.op with
  | .vld | .vlds | .vbcast | .viota | .vmand | .vmor | .vmxor | .vmnot | .vmpop | .mxrd => []
  | .vmovv => []
  | .vldx | .vst | .vsts => [q.b.toNat]
  | .vstx => [q.d.toNat, q.b.toNat]
  | .vfmaF | .vfnmaF | .vfmaBf => [q.d.toNat, q.a.toNat, q.b.toNat]
  | .vaddI | .vsubI | .vmulI | .vminI | .vmaxI | .vand | .vor | .vxor | .vshl | .vshr | .vsra | .vaddF | .vsubF
  | .vmulF | .vminF | .vmaxF | .vdivF | .vsplit | .vcmpEq | .vcmpLt | .vcmpLe | .vcmpFlt | .vcmpFle | .vcmpFun
  | .vsel | .vperm | .vzip | .vunzip | .vcmul => [q.a.toNat, q.b.toNat]
  | _ => [q.a.toNat]

/-- An instruction with so many active lanes writes every bit of its vector registers, and so clears their poison marks (R367): `vsel`
writes by vl alone (R204), `vmovv` one lane, and code 0x0A of `vcvt` one half of each (R198). -/
def VCmd.whole (q : VCmd) (act : Nat) : Bool :=
  match q.op with
  | .vquant | .vdequant => true
  | .vsel => q.vl == 32
  | .vmovv => false
  | .vcvt => act == 32 && q.vb.toNat % 256 != 0x0A
  | _ => act == 32

/-- Lane addresses of a memory form. -/
def VCmd.addr (q : VCmd) (idx : BitVec 1024) (i : Nat) : Nat :=
  match q.op with
  | .vldx | .vstx => (q.va + sextLow 32 (BitVec.ofNat 64 (lane idx i))).toNat
  | _ => (q.va + BitVec.ofNat 64 i * q.vb).toNat

/-- Writes a vector register of a tile's file; a whole write clears its poison mark (R367). -/
def State.wvec (s : State) (k n : Nat) (v : BitVec 1024) (whole : Bool) : State :=
  s.updTile k fun t => { t with vr := t.vr.set n v, vPoison := if whole then t.vPoison.filter (· != n) else t.vPoison }

/-- The rows 2h and 2h + 1 of an accumulator as the lanes of `mxrd`, and the other way for `mxwr` (R224). -/
def MxState.el (m : MxState) (acc row col : Nat) : Nat := (m.acc.get 0 ((acc * 16 + row) * 16 + col)).toNat
def MxState.setEl (m : MxState) (acc row col v : Nat) : MxState :=
  { m with acc := m.acc.set ((acc * 16 + row) * 16 + col) (BitVec.ofNat 32 v) }
def MxState.rowsOut (m : MxState) (w : Nat) : BitVec 1024 :=
  let acc := bitsAt w 3 2
  ofLanes fun n =>
    let v := m.el acc (2 * (w % 8) + n / 16) (n % 16)
    if m.isRns acc && !bitAt w 5 then unsignedOf 32 (crt3 (rnsRead v)) else v
/-- An FP32 element as an accumulator holds it: no subnormal (R174). -/
def accFlush (x : Nat) : Nat := if bitsAt x 23 8 = 0 then x / 2 ^ 31 * 2 ^ 31 else x
def MxState.rowsIn (m : MxState) (w : Nat) (a : BitVec 1024) : MxState :=
  let acc := bitsAt w 3 2
  foldUp (fun m n =>
    let v := lane a n
    m.setEl acc (2 * (w % 8) + n / 16) (n % 16)
      (if !m.isRns acc then accFlush v else if bitAt w 5 then rnsCanon v else rnsOf (s32 v))) 32 0 m

/-- The instruction is complete: it leaves the queue, its flags and its signal take effect (R188). -/
def State.vecDone (s : State) (k : Nat) (q : VCmd) (fl : List (Nat × Flags)) : State :=
  let all := fl.foldl (fun a e => a ||| e.2) 0
  let hit := (fl.filter fun e => e.2 &&& q.cap.fenable != 0).map (·.1)
  let idx := hit.foldl (fun a n => if n < a then n else a) (hit.head?.getD 0)
  ((s.updTile k fun t => { t with vq := t.vq.drop 1 }).workFlags k q.cap 0 idx all).doneSignal k q.cap q.sig

/-- A vector load or store of the head of the queue. -/
def State.vecMem (s : State) (k : Nat) (q : VCmd) (store : Bool) : State :=
  let t := s.tile k
  let sp := q.space.toNat
  let sel := (s.ctx k q.cap.ctx).r.vm q.msel.toNat
  let idx := t.vr.get 0 (q.vbase + (if store then q.d.toNat else q.b.toNat))
  let lanes := (activeLanes q.vl.toNat sel).map fun i => (i, q.addr idx i)
  let go (s : State) : State :=
    match lanes.findSome? fun e => s.tilePoison k sp e.2 4 with
    | some u =>
      let a := poisonFault sp u
      s.vecError k q { a with detail := a.detail ||| 0x80 }
    | none =>
      if store then
        let v := t.vr.get 0 (q.vbase + q.b.toNat)
        (lanes.foldl (fun s e => s.tileWrite k sp e.2 4 (lane v e.1)) s).vecDone k q []
      else
        let n := q.vbase + q.d.toNat
        let v := mergeLanes (t.vr.get 0 n) (lanes.map fun e => (e.1, s.tileRead k sp e.2 4))
        (s.wvec k n v (lanes.length == 32)).vecDone k q []
  if sp ≠ 0 then go s
  else
    match lanes.foldl (fun r e => match r with
        | .present => s.touch k q.cap.ctx q.cap.level (.vector q.cap.id) e.2 4
        | .waits s1 => (match s1.touch k q.cap.ctx q.cap.level (.vector q.cap.id) e.2 4 with
          | .present => .waits s1
          | r => r)
        | r => r) Touched.present with
    | .present => go (s.awaited k (.vector q.cap.id))
    | .waits s1 => s1.awaits k (.vector q.cap.id) q.cap.ctx 0 0
    | .held s1 => s1.awaits k (.vector q.cap.id) q.cap.ctx 0 0
    | .trap a fx => (fx s).vecError k q a

/-- The vector engine executes the next queued instruction whole (R188). What has issued completes in a turn's drain (R15). -/
def State.vecStep (s : State) (k : Nat) : State :=
  let t := s.tile k
  if s.turn.phase == .shift || t.fenced then s
  else match t.vq with
    | [] => s
    | q :: _ =>
      if (s.ctx k q.cap.ctx).c.saving then s
      else if q.reads.any fun n => t.vPoison.contains (q.vbase + n) then
        s.vecError k q { cause := 0x11, detail := 0x84 }
      else match q.op with
        | .vld | .vlds | .vldx => s.vecMem k q false
        | .vst | .vsts | .vstx => s.vecMem k q true
        | .mxrd =>
          if !t.moveFree (bitsAt q.vb.toNat 3 2) q.cap.id then s
          else (s.wvec k (q.vbase + q.d.toNat) (t.mx.rowsOut q.vb.toNat) true).vecDone k q []
        | .mxwr =>
          if !t.moveFree (bitsAt q.vb.toNat 3 2) q.cap.id then s
          else (s.updTile k fun t => { t with mx := t.mx.rowsIn q.vb.toNat (t.vr.get 0 (q.vbase + q.a.toNat)) }).vecDone k q []
        | _ =>
          let r := (s.ctx k q.cap.ctx).r
          let vr (n : Nat) := t.vr.get 0 (q.vbase + n)
          let i : VIn := { q := q, a := vr q.a.toNat, b := vr q.b.toNat, d := vr q.d.toNat, d1 := vr (q.d.toNat + 1),
                           ma := r.vm q.a.toNat, mb := r.vm q.b.toNat, md := r.vm q.d.toNat, sel := r.vm q.msel.toNat,
                           gen := r.srstate }
          let o := i.run
          let d := q.vbase + q.d.toNat
          let vs := if q.op = .vsplit then o.v ++ [i.splitLo (vr (q.d.toNat + 2))] else o.v
          let s := (indexed2 vs).foldl (fun s e => s.wvec k (d + e.1) e.2 (q.whole i.act.length)) s
          let s := match o.x with
            | some x => if q.d = 0 then s else s.wphys k (some (q.xbase + q.d.toNat)) x
            | none => s
          let s := s.updCtx k q.cap.ctx fun x =>
            { x with r := match o.m with
              | some m => ({ x.r with srstate := o.gen } : Regs).setVm q.d.toNat m
              | none => { x.r with srstate := o.gen } }
          s.vecDone k q o.fl
where
  indexed2 (l : List (BitVec 1024)) : List (Nat × BitVec 1024) := (List.range l.length).zip l

def execVectorInstructionExecute (tile : Nat) (s : State) : Out := .next (s.vecStep tile)

end Sys2Proof.Machine
end

