-- ==== Sys2Proof/Machine/Engine.lean ====
section
/-! DEFINITION. What the matrix engine and the copy engine share (R211, R220, R227, R233): the common record fields,
completion objects, pushing a record, and the checks, reads and writes of an engine's accesses. What an engine accesses
outside its own tile leaves as packets of its own posting queues (R98, R106). -/

namespace Sys2Proof.Machine

/-! ### The common record fields (R210, R211) -/

/-- Wait: semaphore, threshold, consume. -/
def recWait (b : BitVec 512) : Option (Nat × Nat × Bool) :=
  let sctl := recField b 7 1
  if bitAt sctl 5 then some (recField b 4 1, recField b 9 1 * 256 + recField b 5 1, bitAt sctl 6) else none
/-- Signal: semaphore and increment. -/
def recSig (b : BitVec 512) : Option (Nat × Nat) :=
  let sctl := recField b 7 1
  if bitAt sctl 4 then some (recField b 6 1, if sctl % 16 = 0 then 16 else sctl % 16) else none
def recTag (b : BitVec 512) : Option Nat :=
  let v := recField b 8 1
  if bitAt v 7 then some (v % 64) else none
/-- An offset that names a barrier object (R211). -/
def barOk (off : Nat) : Bool := off % 16 == 0 && decide (off ≤ 0x7FF0)
/-- The barrier object named by the bytes at `off`, when its offset is one that R211 permits. -/
def recBarOk (b : BitVec 512) (off : Nat) : Option Nat := (recBar b off).filter barOk
/-- sctl, tag and bar hold values of Table 2. -/
def recCtlOk (b : BitVec 512) : Bool :=
  !bitAt (recField b 7 1) 7 && !bitAt (recField b 8 1) 6 && (recBar b 0x0A).isSome == (recBarOk b 0x0A).isSome
/-- rovr: bits 6:4 are 0, and a valid one names a rounding code up to `top` (R215). -/
def recRovrOk (b : BitVec 512) (top : Nat) : Bool :=
  let v := recField b 3 1
  bitsAt v 4 3 == 0 && (!bitAt v 7 || decide (v % 8 ≤ top))
/-- Rounding code and saturation: rovr when it is valid, otherwise the captured crnd and sat (R215). -/
def recRound (b : BitVec 512) (rm : BitVec 16) : Nat × Bool :=
  let v := recField b 3 1
  if bitAt v 7 then (v % 8, bitAt v 3) else (crndCode rm, satOf rm)
/-- Replaces a field of a record. -/
def setRec (b : BitVec 512) (off size v : Nat) : BitVec 512 := BitVec.ofNat 512 (setBits b.toNat (8 * off) (8 * size) v)

/-! ### Completion objects (R161, R211) -/

/-- A tag is cleared when a command that names it issues. -/
def Tile.tagIssue (t : Tile) (n : Nat) : Tile :=
  { t with tagbits := t.tagbits &&& ~~~((1 : BitVec 64) <<< n), tagerr := t.tagerr &&& ~~~((1 : BitVec 64) <<< n),
           tagOut := t.tagOut.set n (t.tagOut.get 0 n + 1) }
/-- A tag is set at completion, with the status and the error mark. -/
def Tile.tagDone (t : Tile) (n status : Nat) (err : Bool) (now : BitVec 48) : Tile :=
  { t with tagbits := t.tagbits ||| ((1 : BitVec 64) <<< n),
           tagerr := if err then t.tagerr ||| ((1 : BitVec 64) <<< n) else t.tagerr,
           tagOut := t.tagOut.set n (t.tagOut.get 0 n - 1),
           tagst := t.tagst.set n (BitVec.ofNat 32 status), tagTime := t.tagTime.set n now }
def State.tagIssue (s : State) (k : Nat) (b : BitVec 512) : State :=
  match recTag b with
  | some n => s.updTile k (·.tagIssue n)
  | none => s
/-- The signal of a completion, and whether it saturated. -/
def State.recSignal (s : State) (k : Nat) (b : BitVec 512) : State × Bool :=
  match recSig b with
  | some (n, i) => s.addSem k n i
  | none => (s, false)
def State.recTagDone (s : State) (k : Nat) (b : BitVec 512) (status : Nat) (err : Bool) : State :=
  match recTag b with
  | some n => s.updTile k (·.tagDone n status err (s.gtime.setWidth 48))
  | none => s
/-- An error update of a barrier object; it completes no phase (R218). -/
def State.barErr (s : State) (k off code : Nat) : State :=
  let (b, s) := s.barBegin k off
  s.barStore k off (b.error code) false

/-- The engine's wait passes, with its consumption (R211). -/
def State.recWaits (s : State) (k : Nat) (b : BitVec 512) : Option State :=
  match recWait b with
  | none => some s
  | some (n, thr, cons) =>
    if s.sem k n < thr then none else some (if cons then s.setSem k n (s.sem k n - thr) else s)

/-- The generator of a command that rounds by SR, and the issuing context's generator after its one step (R177). -/
def State.recGen (s : State) (k c : Nat) (uses : Bool) : BitVec 64 × State :=
  if uses then
    let g := xs (s.ctx k c).r.srstate
    (seedSR g 0 0 0, s.updCtx k c fun x => { x with r := { x.r with srstate := g } })
  else (0, s)

/-! ### Pushing a record (R223, R235) -/

/-- The checks on the scratchpad offset of a record, then its 64 bytes: a demand window is touched, a poisoned unit
consumed (R72, R94). That the records of `keyld` and `flood` touch a window too is the model's (DESIGN CHOICE, log 36). -/
def State.readRecord (s : State) (a : Word) (fin : BitVec 512 → Res) : Res :=
  if a.toNat % 64 ≠ 0 then .trap { cause := 0x04, address := a }
  else if 0x7FC0 < a.toNat then .trap { cause := 0x14, address := a }
  else match s.me.c.phase with
    | .refused c a d => .trap (refusedArg c a d)
    | _ =>
      match s.touch s.cur s.curCtx s.me.c.level .core a.toNat 64 with
      | .trap a fx => .trapBy fx a
      | .held s1 => .ends s1
      | .waits s1 =>
        let w : Waiter := { ctx := s.curCtx, space := 0, addr := a.toNat, size := 64, order := 0, scope := 0, op := .runLoad [] }
        .wait ((s1.updMyTile fun t => { t with waiters := t.waiters ++ [w] }).updC fun c => { c with phase := .armed 0 }) .answer
      | .present =>
        match s.tilePoison s.cur 0 a.toNat 64 with
        | some u => .trap (poisonFault 0 u)
        | none => fin (BitVec.ofNat 512 (s.tileRead s.cur 0 a.toNat 64))
/-- The record in eight registers, lowest first. -/
def State.regRecord (s : State) (a : Nat) : BitVec 512 :=
  BitVec.ofNat 512 (foldUp (fun v i => v + (s.rx (a + i)).toNat * 2 ^ (64 * i)) 8 0 0)

/-- mxq, cpq: `full` is the queue, `push` the issue of the record. -/
def State.pushFrom (s : State) (full : Bool) (a : Word) (push : State → BitVec 512 → Res) : Res :=
  if s.acqHeld || s.myTile.vecOpen s.curCtx || full then .stall else s.readRecord a (push s)

/-! ### An engine's accesses (R220, R233) -/

/-- Why an engine stops. -/
inductive EngStop where
  /-- the command ends with this status code -/
  | code (c : Nat)
  /-- a page fault at an address -/
  | page (va detail : BitVec 64) (fx : State → State)
  /-- it waits: for a fill, for the end of a migration (R112) -/
  | hold (s : State)

/-- A part of an access to space 2 that lies in one 4 KiB piece of an address. -/
def State.engGlobal (s : State) (k : Nat) (cap : Captured) (path : XPath) (va n : Nat) (write : Bool) :
    Except EngStop (Piece × State) :=
  match s.xlate k path cap.level va write false with
  | .fault c d fx => if c = 0x05 then .error (.page (BitVec.ofNat 64 va) d fx) else .error (.code 0x22)
  | .mig s1 => .error (.hold s1)
  | .ok pa w slot s1 =>
    match paKind pa with
    | .matrixWindow o lt off =>
      if write && path == .copy && off == 0 && n == 64 then .ok (.window (tileKey o lt), s1) else .error (.code 0x22)
    | _ =>
      match destOf pa with
      | none => .error (.code 0x22)
      | some (d, row) =>
        match s1.anchored k row with
        | .error _ => .error (.code 0x26)
        | .ok r => .ok (.mem va pa n slot d r w, s1)

/-- An access to space 2 of at most 4 KiB. -/
def State.engVa (s : State) (k : Nat) (cap : Captured) (path : XPath) (va n : Nat) (write : Bool) :
    Except EngStop (List Piece × State) :=
  let m := if n ≤ 4096 - va % 4096 then n else 4096 - va % 4096
  match s.engGlobal k cap path va m write with
  | .error e => .error e
  | .ok (p, s1) =>
    if m = n then .ok ([p], s1)
    else match s1.engGlobal k cap path (va + m) (n - m) write with
      | .error e => .error e
      | .ok (q, s2) => .ok ([p, q], s2)

/-- The touch of a scratchpad row or sector by an engine (R94, R95). -/
def State.engTouch (s : State) (k : Nat) (cap : Captured) (who : Toucher) (off n : Nat) : Except EngStop State :=
  match s.touch k cap.ctx cap.level who off n with
  | .present => .ok (s.awaited k who)
  | .waits s1 => .error (.hold (s1.awaits k who cap.ctx off n))
  | .held s1 => .error (.hold (s1.awaits k who cap.ctx off n))
  | .trap a fx =>
    .error (match a.cause with
      | 0x05 => .page a.address a.detail fx
      | 0x08 => .code 0x26
      | 0x09 => .code 0x26
      | 0x11 => .code 0x25
      | _ => .code 0x22)

/-- An address word of a record with an offset added: its space and 64-bit value. -/
def addrAt (w : Nat) (off : Int) : Nat × Nat := (w / 2 ^ 62, unsignedOf 64 ((w % 2 ^ 57 : Nat) + off))

/-- Checks `n` bytes at an address of space 0, 1 or 2: alignment, space, translation, route; then the touch. -/
def State.engAt (s : State) (k : Nat) (cap : Captured) (path : XPath) (w : Nat) (off : Int) (n align : Nat) (write : Bool) :
    Except EngStop (List Piece × State) :=
  let (sp, a) := addrAt w off
  if a % align ≠ 0 then .error (.code 0x23)
  else if sp < 2 then
    if spaceLimit sp < a + n then .error (.code 0x24)
    else if sp = 0 then
      (match s.engTouch k cap (if path == .matrix then .matrix cap.id else .copy cap.id) a n with
       | .error e => .error e
       | .ok s1 => .ok ([.here 0 a n], s1))
    else .ok ([.here 1 a n], s)
  else if vaLimit < a + n then .error (.code 0x24)
  else s.engVa k cap path a n write

def Piece.size : Piece → Nat
  | .here _ _ n => n
  | .mem _ _ n _ _ _ _ => n
  | .there _ _ n _ => n
  | .window _ => 64
/-- A part that lies outside the engine's tile; a matrix queue window is reached through the fabric, whichever tile's it is. -/
def Piece.away : Piece → Bool
  | .here _ _ _ => false
  | _ => true
/-- First physical address of the matrix queue windows, and a tile's (R333, Table 6). -/
def windowBase : Nat := 0x400000000000
def windowAddr (t : Nat) : Nat := windowBase + ownerOf t % 64 * 2 ^ 22 + t % 65536 * 64
/-- The access to a part outside the tile. -/
def Piece.req (p : Piece) (op : MemOp) (ret : Ret) : Option Req2 :=
  match p with
  | .mem va pa _ slot d r w =>
    some { dest := d, addr := pa, va := BitVec.ofNat 64 va, slot := slot, op := op, ret := ret, route := r, isLoad := false, isStore := false,
           watched := w }
  | .there t off _ r =>
    some { dest := .tile t, addr := off, va := BitVec.ofNat 64 off, op := op, ret := ret, route := r, isLoad := false, isStore := false }
  | .window t =>
    some { dest := .tile t, addr := windowAddr t, op := op, ret := ret, route := 0, isLoad := false, isStore := false }
  | .here _ _ _ => none

/-- An access of a command enters the posting queue of its engine thread, under the issuing context's identity (R98, R110); `part` is the
row or sector. -/
def State.engSend (s : State) (k : Nat) (cap : Captured) (part : Nat) (q : Req2) (data : List Byte) : State :=
  s.enqueue { s.flightOf k cap.ctx cap.level cap.region q with
    eng := some cap.id, part := part, data := data, pc := cap.pc, iword := cap.iword }
/-- What the issuing context's queue for its own tile held at a command's issue has not all performed: the command takes no step in the
tile before it has (R106). -/
def State.ownQueue (s : State) (k : Nat) (cap : Captured) : Bool :=
  s.flights.any fun g => g.src == k && g.eng.isNone && decide (g.ctx < 8) && g.ctx % 4 == cap.ctx % 4 && g.dest == .tile k &&
    decide (g.id < cap.id) && g.isOpen
/-- Packets of a command are on their way, for a row or sector of it. -/
def State.engFlying (s : State) (k id : Nat) : Bool := s.flights.any fun f => f.src == k && f.eng == some id
def State.engPart (s : State) (k id part : Nat) : Bool := s.flights.any fun f => f.src == k && f.eng == some id && f.part == part

/-- The reads of the parts that lie outside the tile leave; `i` numbers the parts. -/
def State.engGets (s : State) (k : Nat) (cap : Captured) (part : Nat) : List Piece → Nat → State
  | [], _ => s
  | p :: r, i =>
    State.engGets (match p.req (.get p.size) (.piece i) with
      | some q => s.engSend k cap part q []
      | none => s) k cap part r (i + 1)
/-- The bytes of parts once their reads are back: the tile's own are read now; the status of an uncorrectable error. -/
def State.gathered (s : State) (k : Nat) (got : SMap (List Byte)) : List Piece → Nat → Except Nat (List Byte)
  | [], _ => .ok []
  | p :: r, i =>
    match p with
    | .here sp off n =>
      if (s.tilePoison k sp off n).isSome then .error 0x25
      else (State.gathered s k got r (i + 1)).map fun l => ((s.tile k).memOf sp).bytes off n ++ l
    | _ => (State.gathered s k got r (i + 1)).map fun l => got.get [] i ++ l

/-- The second tile of a checked pair: of what it pushes or joins, the first twin's copy is the one that takes effect (R281, R370). -/
def State.silent (s : State) (k : Nat) : Bool := (s.tile k).checked && decide (16 ≤ rowOf k)

/-- Writes parts in order: the tile's own at once, the others as packets; `bar` is the remote object that counts them (R230). -/
def State.engPuts (s : State) (k : Nat) (cap : Captured) (part : Nat) (bar : Option Nat) : List Piece → List Byte → State
  | [], _ => s
  | p :: r, bs =>
    State.engPuts (match p with
      | .here sp off _ => s.tilePut k sp off (bs.take p.size)
      | p => match p.req (.put p.size bar) .none with
        | some q => s.engSend k cap part q (bs.take p.size)
        | none => s) k cap part bar r (bs.drop p.size)

/-- The status of a refused or failed access of an engine; `pw` is the one of a push word (R220, R233, R311). -/
def refusedCode (pw : Nat) (cause : BitVec 8) (detail : BitVec 64) : Nat :=
  match cause.toNat with
  | 0x11 => 0x25
  | 0x06 => if detail = 1 then pw else 0x27
  | _ => 0x27

end Sys2Proof.Machine
end

