-- ==== Sys2Proof/Machine/Matrix.lean ====
section
/-! DEFINITION. The matrix engine's instructions (R208 to R212, R218, R223, R225, R226): which records are malformed,
what a push does, the watermark, and the instructions of Table 6. The engine's steps are in MxExec. -/

namespace Sys2Proof.Machine

/-! ### The record (R210, R212, R218) -/

/-- Element size in half bytes (Table 3). -/
def mxHalf (f : Nat) : Nat :=
  match f with
  | 0 => 4
  | 1 | 2 | 3 => 2
  | 4 => 1
  | _ => 8
/-- Bytes of sixteen elements. -/
def mxRowBytes (f : Nat) : Nat := 8 * mxHalf f
/-- Alignment of a row: its element size, 1 byte for INT4 (R220). -/
def mxAlign (f : Nat) : Nat := if f = 4 then 1 else mxHalf f / 2
def mxInt (f : Nat) : Bool := f == 3 || f == 4

/-- What a kind uses (R212, Table 4). -/
structure MxUse where
  a : Bool
  b : Bool
  o : Bool
  fa : Bool
  fb : Bool
  accf : Nat
  /-- highest rounding code of rovr; none where rovr is not used -/
  rtop : Option Nat
  m : Bool
  k : Bool

def mxUse (kind : Nat) : Option MxUse :=
  match kind with
  | 1 => some { a := false, b := true, o := false, fa := false, fb := true, accf := 0x00, rtop := none, m := false, k := false }
  | 2 => some { a := true, b := false, o := false, fa := true, fb := false, accf := 0x07, rtop := some 3, m := true, k := false }
  | 3 => some { a := true, b := true, o := false, fa := true, fb := true, accf := 0x07, rtop := some 3, m := true, k := true }
  | 4 => some { a := false, b := false, o := false, fa := false, fb := false, accf := 0x03, rtop := none, m := false, k := false }
  | 5 => some { a := false, b := false, o := true, fa := false, fb := true, accf := 0x13, rtop := some 4, m := true, k := false }
  | 6 => some { a := true, b := false, o := false, fa := true, fb := false, accf := 0x03, rtop := none, m := true, k := false }
  | 7 => some { a := false, b := false, o := false, fa := false, fb := false, accf := 0x0B, rtop := none, m := false, k := false }
  | _ => none

def mxKind (b : BitVec 512) : Nat := recField b 0 1
def mxFa (b : BitVec 512) : Nat := recField b 1 1 % 16
def mxFb (b : BitVec 512) : Nat := recField b 1 1 / 16
def mxAcc (b : BitVec 512) : Nat := recField b 2 1 % 4
def mxClr (b : BitVec 512) : Bool := bitAt (recField b 2 1) 2
def mxScl (b : BitVec 512) : Bool := bitAt (recField b 2 1) 4
def mxM (b : BitVec 512) : Nat := recField b 0x24 2
def mxK (b : BitVec 512) : Nat := recField b 0x26 2
def mxRow (b : BitVec 512) : Nat := recField b 0x38 2
def mxBlock (b : BitVec 512) : Nat := recField b 0x3A 2

/-- An address and its stride: legal when they are used, 0 when not. -/
def mxAddrOk (b : BitVec 512) (used : Bool) (addr stride : Nat) : Bool :=
  let a := recField b addr 8
  if used then decide (a / 2 ^ 62 < 3) && bitsAt a 57 5 == 0 else a == 0 && recField b stride 4 == 0

/-- Malformed by the record's own fields (R218). A record that has started before keeps its progress. -/
def mxBad (b : BitVec 512) (started : Bool) : Bool :=
  match mxUse (mxKind b) with
  | none => true
  | some u =>
    let fa := mxFa b
    let fb := mxFb b
    let kind := mxKind b
    !(u.fa || fa == 0) || !(u.fb || fb == 0) ||
    recField b 2 1 &&& (255 - u.accf) != 0 ||
    (match u.rtop with | some n => !recRovrOk b n | none => recField b 3 1 != 0) ||
    !recCtlOk b ||
    !mxAddrOk b u.a 0x0C 0x14 || !mxAddrOk b u.b 0x18 0x20 || !mxAddrOk b u.o 0x2C 0x34 ||
    (!u.o && recField b 0x28 4 != 0) ||
    (if u.m then mxM b == 0 || decide (16 < mxM b) else mxM b != 0) ||
    (if u.k then mxK b == 0 else mxK b != 0) ||
    (!started && recField b 0x38 4 != 0) || recField b 0x3C 4 != 0 ||
    -- formats for their roles (Table 3)
    ((kind == 2 || kind == 3) && decide (4 < fa)) || ((kind == 1 || kind == 3) && decide (4 < fb)) ||
    (kind == 3 && mxInt fa != mxInt fb) ||
    (kind == 6 && !(decide (5 ≤ fa) && decide (fa ≤ 7))) ||
    (kind == 5 && (decide (7 < fb) || (fb == 7 && mxScl b))) ||
    -- SR for a STORE to BF16, E4M3 or E5M2 only (R215)
    (kind == 5 && bitAt (recField b 3 1) 7 && recField b 3 1 % 8 == 4 && decide (2 < fb))

/-- Malformed only because of an accumulator's mode or the latch, judged at the head (R218). -/
def mxModeBad (m : MxState) (b : BitVec 512) : Bool :=
  let rns := m.isRns (mxAcc b)
  match mxKind b with
  | 2 => mxInt (mxFa b) != mxInt m.latchFmt.toNat || mxInt (mxFa b) != rns
  | 3 => mxInt (mxFa b) != rns
  | 5 => mxFb b == 7 && !rns
  | 6 => if rns then mxFa b == 5 else mxFa b != 5
  | _ => false

/-! ### Pushing (R12, R13, R211, R223) -/

/-- The front queue is full: two commands that have not started (R12). -/
def Tile.mxFull (t : Tile) : Bool := decide (2 ≤ (t.mq.filter fun q => !q.started).length)

/-- The issue of a record for context c of tile k: what it captures and what takes effect at once. -/
def State.mxPush (s : State) (k : Nat) (cap : Captured) (b : BitVec 512) (sig : Option (BitVec 8 × Nat)) : State :=
  let good := !mxBad b false
  let (g, s1) := s.recGen k cap.ctx (good && mxKind b == 5 && decide (mxFb b ≤ 2) && !mxScl b && (recRound b cap.rmode).1 == 4)
  let s2 := s1.tagIssue k b
  let (s3, counted) := match recBarOk b 0x0A with
    | some off => if good then (s2.barAdd k off true 1, true) else (s2, false)
    | none => (s2, false)
  s3.updTile k fun t => { t with mq := t.mq ++ [
    { cap := cap, bits := b, gen := g, waited := false, started := false, fresh := true, stopped := false, counted := counted, flags := 0,
      range := false, low := none, sig := sig, asked := none, got := [], failed := none }] }
/-- The push of the moving context. -/
def State.mxIssue (sig : Option (BitVec 8 × Nat)) (s : State) (b : BitVec 512) : Res :=
  let (cap, s1) := s.capture
  .ok (s1.mxPush s.cur cap b sig)

def execMxq (f : SA) (s : State) : Out :=
  s.issue f.h (some f.t) .u [(f.a, .rx)] false true fun s _ =>
    s.pushFrom s.myTile.mxFull (s.rx f.a.num) (State.mxIssue f.t.doneSig)
def execMxqr (f : SA) (s : State) : Out :=
  s.issue f.h (some f.t) .u [(f.a, .roct)] false true fun s _ =>
    if s.acqHeld || s.myTile.vecOpen s.curCtx || s.myTile.mxFull then .stall
    else s.mxIssue f.t.doneSig (s.regRecord f.a.num)

/-- eqst (R236): error mark, tag bit and status; 0 while a command that names the tag is outstanding. -/
def execEqst (f : SDA) (s : State) : Out :=
  s.issue f.h (some f.t) .u [(f.d, .wx), (f.a, .rx)] false false fun s _ =>
    let a := (s.rx f.a.num).toNat
    let t := s.myTile
    if 64 ≤ a then .trap { cause := 0x02 }
    else if t.tagOut.get 0 a ≠ 0 then .ok (s.wx f.d.num 0)
    else .ok (s.wx f.d.num (BitVec.ofNat 64 (bit (t.tagerr.getLsbD a) * 2 ^ 33 + bit (t.tagbits.getLsbD a) * 2 ^ 32 +
      (t.tagst.get 0 a).toNat)))

/-! ### Watermark, capabilities, gate (R225, R226) -/

/-- First row that a queued or running command still writes, 16 when it writes none of the accumulator. -/
def MCmd.pendFrom (q : MCmd) (acc : Nat) : Nat :=
  let b := q.bits
  let begun := q.started && recField b 0x38 4 != 0
  if recAcc b ≠ some acc || mxBad b q.started then 16
  else match mxKind b with
    | 2 => if mxClr b && !begun then 0 else mxRow b
    | 3 => if mxClr b && !begun then 0 else if mxBlock b + 1 < mxK b then 0 else mxRow b
    | 4 => 0
    | 6 => mxRow b
    | 7 => 0
    | _ => 16
/-- The number of leading rows that no issued, incomplete command writes; those of pre-empted threads are among them. -/
def Tile.watermark (t : Tile) (acc : Nat) : Nat :=
  (t.mq ++ t.mqOff).foldl (fun w q => if q.pendFrom acc < w then q.pendFrom acc else w) 16
/-- The largest of an accumulator's row counts. -/
def MxState.topCount (m : MxState) (acc : Nat) : Nat :=
  (List.range 16).foldl (fun w r => let c := m.pcount.get 0 (acc * 16 + r); if w < c then c else w) 0

def execMxwm (f : SDA) (s : State) : Out :=
  s.issue f.h (some f.t) .u [(f.d, .wx), (f.a, .rx)] false false fun s _ =>
    let a := (s.rx f.a.num).toNat
    let t := s.myTile
    if 4 ≤ a then .trap { cause := 0x02 }
    else .ok (s.wx f.d.num (BitVec.ofNat 64 (t.watermark a + bit (t.mx.isRns a) * 2 ^ 8 + t.mx.topCount a * 2 ^ 16)))

/-- Table 8: gate, wake 96, widths 16 and 16, the gated bit, four accumulators. -/
def execMxcap (f : SD) (s : State) : Out :=
  s.issue f.h (some f.t) .u [(f.d, .wx)] false false fun s _ =>
    let m := s.myTile.mx
    .ok (s.wx f.d.num (BitVec.ofNat 64 (m.gate.toNat * 2 ^ 40 + 96 * 2 ^ 24 + 16 * 2 ^ 16 + 16 * 2 ^ 8 + bit m.gated * 8 + 3)))

def State.mxgate (s : State) (a : Word) : Res :=
  if 2 ^ 24 ≤ a.toNat then .trap { cause := 0x02 }
  else .ok (s.updMyTile fun t => { t with mx := { t.mx with gateNext := a.setWidth 24 } })
def execMxgate (f : SA) (s : State) : Out :=
  s.issue f.h (some f.t) .u [(f.a, .rx)] false false fun s _ => s.mxgate (s.rx f.a.num)
def execMxgateImm (f : I0) (s : State) : Out :=
  s.issue f.h none .u [] false false fun s _ => s.mxgate (immZ f.imm)

end Sys2Proof.Machine
end

