-- ==== Sys2Proof/Machine/MxExec.lean ====
section
/-! DEFINITION. The matrix engine's steps (R209, R213 to R222, R225, R226): the sum of a row, storing, the rows of a
command in order, how a command stops and completes, power gating and the matrix queue window. The command at the head
of the queue does one row at a time (R98, R209). -/

namespace Sys2Proof.Machine

/-! ### Elements -/

/-- Element n of a row whose bytes are the number `v`. -/
def mxElem (f v n : Nat) : Nat := bitsAt v (4 * mxHalf f * n) (4 * mxHalf f)
def mxFmt (f : Nat) : Fmt :=
  match f with
  | 0 => .bf16
  | 1 => .e4m3
  | _ => .e5m2
/-- F of R214: a subnormal element reads as zero of its sign. -/
def readFlushed (f : Fmt) (c : Nat) : FVal :=
  match f.read c with
  | .fin n m e => if c % 2 ^ f.mag < 2 ^ f.p then .fin n 0 0 else .fin n m e
  | v => v
/-- An integer element. -/
def mxIntOf (f c : Nat) : Int := signedOf (4 * mxHalf f) c

/-! ### AddRow (R214, R217) -/

/-- One element's sum with its one rounding; no subnormal is kept (R214). -/
def mxAdd (rm : RM) (c : Nat) (ps : List (FVal × Bool)) : FRes :=
  let (v, bad) := dotF rm ps [read32 c]
  if bad then (Fmt.nan .fp32, NV)
  else if v.isNaN then (Fmt.nan .fp32, 0)
  else
    let r := round32 rm v
    let m := r.1 % 2 ^ 31
    if 0 < m ∧ m < 2 ^ 23 then (r.1 / 2 ^ 31 * 2 ^ 31, r.2 ||| UF ||| NX) else r

def MxState.w (m : MxState) (j n : Nat) : Nat := (m.latch.get 0 (j * 16 + n)).toNat
/-- A row of activations into row `row` of an accumulator: the state, the flags, and whether the count passed 511. -/
def MxState.addRow (m : MxState) (acc row fa : Nat) (rm : RM) (a : Nat) : MxState × Flags × Bool :=
  let lf := m.latchFmt.toNat
  if m.isRns acc then
    let c := m.pcount.get 0 (acc * 16 + row) + 16
    let c := if 1023 < c then 1023 else c
    let sum (n : Nat) : Int :=
      (List.range 16).foldl (fun t j => t + mxIntOf fa (mxElem fa a j) * mxIntOf lf (m.w j n)) (crt3 (rnsRead (m.el acc row n)))
    (foldUp (fun q n => q.setEl acc row n (rnsOf (sum n))) 16 0 { m with pcount := m.pcount.set (acc * 16 + row) c }, 0,
      decide (511 < c))
  else
    let r (n : Nat) : FRes :=
      mxAdd rm (m.el acc row n) ((List.range 16).map fun j =>
        mulF (readFlushed (mxFmt fa) (mxElem fa a j)) (readFlushed (mxFmt lf) (m.w j n)))
    (foldUp (fun q n => q.setEl acc row n (r n).1) 16 0 m, foldUp (fun f n => f ||| (r n).2) 16 0 0, false)

/-- ACC ← 0 in its mode, pcount ← 0 (R213). -/
def MxState.clear (m : MxState) (acc : Nat) : MxState :=
  let keep (e : Nat) (n : Nat) : Bool := decide (e / n != acc)
  { m with acc := m.acc.filter fun e => keep e.1 256, pcount := m.pcount.filter fun e => keep e.1 16 }
/-- A row of weights. -/
def MxState.setLatch (m : MxState) (j f v : Nat) : MxState :=
  { m with latch := foldUp (fun l n => l.set (j * 16 + n) (BitVec.ofNat 16 (mxElem f v n))) 16 0 m.latch,
           latchFmt := BitVec.ofNat 4 f }
/-- LOADACC of one row (R213): the state and the flags. -/
def MxState.loadRow (m : MxState) (acc row f v : Nat) : MxState × Flags :=
  let el (n : Nat) : FRes :=
    let x := mxElem f v n
    match f with
    | 5 => (accFlush x, if accFlush x = x then 0 else UF ||| NX)
    | 6 => (rnsOf (signedOf 32 x), 0)
    | _ => (rnsCanon x, 0)
  (foldUp (fun q n => q.setEl acc row n (el n).1) 16 0 m, foldUp (fun fl n => fl ||| (el n).2) 16 0 0)

/-! ### STORE (R216) -/

/-- Width of an integer target. -/
def mxIntWidth (t : Nat) : Nat :=
  match t with
  | 3 => 8
  | 4 => 4
  | _ => 32
/-- v × oscale: a NaN scale or element adds no flag, zero times infinity is invalid. -/
def mxScale (v : FVal) (osc : Nat) : FVal × Flags :=
  match mulF v (read32 osc) with
  | (r, bad) => (r, nvIf bad)
/-- One element converted to target `t`, and the generator after it. SR rounds FP32 elements alone: an RNS integer and a product with
oscale, which are no FP32 values, round by RNE instead (R177, R215). -/
def mxConv (x t : Nat) (rns scl : Bool) (osc code : Nat) (sat : Bool) (g : BitVec 64) : BitVec 64 × FRes :=
  let i := crt3 (rnsRead x)
  let v0 := if rns then ofInt i else read32 x
  let (v, fl) := if scl then mxScale v0 osc else (v0, 0)
  if t = 7 then (g, (rnsCanon x, 0))
  else if t ≤ 2 then
    let sr := code == 4 && !rns && !scl
    let g1 := if sr then xs g else g
    let r := cvtNarrow (mxFmt t) (if sr then .sr g1 else rmOf code) sat v
    (g1, (r.1, r.2 ||| fl))
  else if t = 5 then
    let r := round32 (rmOf code) v
    (g, (r.1, r.2 ||| fl))
  else
    let w := mxIntWidth t
    if rns && !scl then
      let lo : Int := -((2 ^ (w - 1) : Nat) : Int)
      let hi : Int := (2 ^ (w - 1) : Nat) - 1
      (g, (unsignedOf w (if sat then (if i < lo then lo else if hi < i then hi else i) else i), 0))
    else
      let r := fpToInt w (rmOf code) v
      (g, (unsignedOf w r.1, r.2 ||| fl))
/-- The elements of a row from column n on: their number as a row, the flags, the generator. -/
def mxConvRow (el : Nat → Nat) (t : Nat) (conv : Nat → BitVec 64 → BitVec 64 × FRes) : Nat → Nat → BitVec 64 → Nat × Flags × BitVec 64
  | 0, _, g => (0, 0, g)
  | k + 1, n, g =>
    let (g1, r) := conv (el n) g
    let (v, fl, g2) := mxConvRow el t conv k (n + 1) g1
    (r.1 + 2 ^ (4 * mxHalf t) * v, r.2 ||| fl, g2)

/-! ### A row of a command (R209, R212, R220) -/

/-- An access of a row: address word, offset, bytes, alignment. -/
abbrev MxAddr := Nat × Int × Nat × Nat

/-- A signed stride. -/
def recStride (b : BitVec 512) (off : Nat) : Int := signedOf 32 (recField b off 4)
/-- Row m of k-block j of A, and row j of B. -/
def mxAAddr (b : BitVec 512) (blk m : Nat) : MxAddr :=
  let n := mxRowBytes (mxFa b)
  (recField b 0x0C 8, recStride b 0x14 * m + (blk * n : Nat), n, mxAlign (mxFa b))
def mxBAddr (b : BitVec 512) (j : Nat) : MxAddr :=
  (recField b 0x18 8, recStride b 0x20 * j, mxRowBytes (mxFb b), mxAlign (mxFb b))
def mxOAddr (b : BitVec 512) (m : Nat) : MxAddr :=
  (recField b 0x2C 8, recStride b 0x34 * m, mxRowBytes (mxFb b), mxAlign (mxFb b))

/-- Checks the addresses of a row in order. -/
def State.mxCheck (s : State) (k : Nat) (cap : Captured) (write : Bool) : List MxAddr → Except EngStop (List (List Piece) × State)
  | [] => .ok ([], s)
  | (w, off, n, al) :: r =>
    match s.engAt k cap .matrix w off n al write with
    | .error e => .error e
    | .ok (p, s1) =>
      match State.mxCheck s1 k cap write r with
      | .error e => .error e
      | .ok (ps, s2) => .ok (p :: ps, s2)
/-- The bytes of checked rows as numbers; `i` numbers the parts. -/
def State.mxRows (s : State) (k : Nat) (got : SMap (List Byte)) : List (List Piece) → Nat → Except Nat (List Nat)
  | [], _ => .ok []
  | p :: r, i =>
    match s.gathered k got p i with
    | .error c => .error c
    | .ok b =>
      match State.mxRows s k got r (i + p.length) with
      | .error c => .error c
      | .ok vs => .ok (bytesNat b :: vs)

/-- The operands of a row: their bytes are there; their reads have just left; or the row stops. -/
inductive MxFetched where
  | rows (vs : List Nat) (s : State)
  | asked (ps : List (List Piece)) (s : State)
  | stop (e : EngStop)

/-- The operands of the row in progress of a command. Where all lie in the tile they are read at once; otherwise their reads leave
first, and the row goes on when the last is back (R98, R106). -/
def State.mxFetch (s : State) (k : Nat) (q : MCmd) (l : List MxAddr) : MxFetched :=
  let read (s : State) (ps : List (List Piece)) : MxFetched :=
    match s.mxRows k q.got ps 0 with
    | .error c => .stop (.code c)
    | .ok vs => .rows vs s
  match q.asked with
  | some ps => read s ps
  | none =>
    match s.mxCheck k q.cap false l with
    | .error e => .stop e
    | .ok (ps, s1) =>
      if ps.flatten.any Piece.away then .asked ps (s1.engGets k q.cap (mxRow q.bits) ps.flatten 0) else read s1 ps

/-- A command with the flags and the range bit of a row. -/
def MCmd.noteRow (q : MCmd) (m : Nat) (fl : Flags) (range : Bool) : MCmd :=
  { q with flags := q.flags ||| fl, range := q.range || range,
           low := if fl &&& q.cap.fenable = 0 then q.low
                  else match q.low with | some n => some (if m < n then m else n) | none => some m }
/-- Progress after row m of the current k-block. -/
def MCmd.advance (q : MCmd) : MCmd :=
  let m := mxRow q.bits + 1
  if mxKind q.bits = 3 ∧ mxM q.bits ≤ m then
    { q with bits := setRec (setRec q.bits 0x38 2 0) 0x3A 2 (mxBlock q.bits + 1) }
  else { q with bits := setRec q.bits 0x38 2 m }

def State.updMx (s : State) (k : Nat) (f : MxState → MxState) : State := s.updTile k fun t => { t with mx := f t.mx }
/-- A row of products counts for the issuing context's counters (R385). -/
def State.countRow (s : State) (k : Nat) (cap : Captured) : State :=
  if s.isThread k cap then s.updCtx k cap.ctx fun x => { x with c := x.c.count 7 1 } else s

/-- How a row ends. -/
inductive MxRowEnd where
  /-- it is done -/
  | done (s : State) (q : MCmd)
  /-- its reads are on their way -/
  | asked (s : State) (q : MCmd)
  | stop (e : EngStop)

/-- A row's work on its operands. -/
def MxFetched.run (r : MxFetched) (q : MCmd) (f : List Nat → State → State × MCmd) : MxRowEnd :=
  match r with
  | .rows vs s => .done (f vs s).1 { (f vs s).2 with asked := none, got := [] }
  | .asked ps s => .asked s { q with asked := some ps, got := [] }
  | .stop e => .stop e

/-- The row at the command's progress (R212 to R217, R220). -/
def State.mxRowStep (s : State) (k : Nat) (q : MCmd) : MxRowEnd :=
  let b := q.bits
  let m := mxRow b
  let acc := mxAcc b
  match mxKind b with
  | 1 => (s.mxFetch k q [mxBAddr b m]).run q fun vs s1 => (s1.updMx k (·.setLatch m (mxFb b) (vs.headD 0)), q)
  | 6 => (s.mxFetch k q [mxAAddr b 0 m]).run q fun vs s1 =>
      let (x, fl) := (s1.tile k).mx.loadRow acc m (mxFa b) (vs.headD 0)
      (s1.updMx k fun _ => x, q.noteRow m fl false)
  | 5 =>
    let x := (s.tile k).mx
    let rns := x.isRns acc
    let (code, sat) := recRound b q.cap.rmode
    (match s.mxCheck k q.cap true [mxOAddr b m] with
     | .error e => .stop e
     | .ok (ps, s1) =>
       let (v, fl, g) := mxConvRow (fun n => x.el acc m n) (mxFb b)
         (fun e g => mxConv e (mxFb b) rns (mxScl b) (recField b 0x28 4) code sat g) 16 0 q.gen
       .done (s1.engPuts k q.cap m none ps.flatten (natBytes (mxRowBytes (mxFb b)) v))
         { q.noteRow m fl (rns && decide (511 < x.pcount.get 0 (acc * 16 + m))) with gen := g })
  | kind =>
    let blk := mxBlock b
    let latch := kind == 3 && (m == 0 || q.fresh)
    let bs := if latch then (List.range 16).map fun j => mxBAddr b (16 * blk + j) else []
    (s.mxFetch k q (bs ++ [mxAAddr b blk m])).run q fun vs s1 =>
      let x := (s1.tile k).mx
      let x := if latch then (indexed vs.dropLast).foldl (fun x e => x.setLatch e.1 (mxFb b) e.2) x else x
      let x := if mxClr b && blk == 0 && m == 0 then x.clear acc else x
      let rm := if bitAt (recField b 3 1) 7 then rmOf (recField b 3 1 % 8) else .rne
      let (x, fl, range) := x.addRow acc m (mxFa b) rm (vs.getLast?.getD 0)
      ((s1.updMx k fun _ => x).countRow k q.cap, q.noteRow m fl range)

/-! ### How a command ends (R211, R218 to R221) -/

/-- An idle period of the array begins: it takes the gate time written last (R226). -/
def MxState.idle (m : MxState) (now : BitVec 64) : MxState := { m with gate := m.gateNext, idleFrom := now }
/-- The array works on a command: neither one that has not started, nor one that waits to go on after a page fault or a pre-emption. -/
def MCmd.busy (q : MCmd) : Bool := q.started && (!q.fresh || q.asked.isSome)
/-- The status of R219. -/
def mxStatus (q : MCmd) (sat : Bool) (code erow : Nat) : Nat :=
  erow % 256 * 2 ^ 16 + bit q.range * 2 ^ 15 + bit sat * 2 ^ 14 + q.flags.toNat * 2 ^ 8 + code
/-- Completion of the command at the head: signal, barrier object, tag, in one step; the flags and the signal of its
instruction; and an idle period begins (R226). -/
def State.mxFinish (s : State) (k : Nat) (q : MCmd) (code erow : Nat) : State :=
  let s := (s.awaited k (.matrix q.cap.id)).updTile k fun t =>
    { t with mq := t.mq.drop 1, mx := if q.started then t.mx.idle s.gtime else t.mx }
  let (s, sat) := s.recSignal k q.bits
  let s := match recBarOk q.bits 0x0A with
    | some off => if q.counted then s.barSub k off true 1 code else if code ≠ 0 then s.barErr k off code else s
    | none => s
  let s := s.recTagDone k q.bits (mxStatus q sat code erow) (code != 0)
  (s.workFlags k q.cap 1 (q.low.getD 0) q.flags).doneSignal k q.cap q.sig

/-- An engine's page fault is posted (R221, R233); `src` is 4 for the matrix engine, 8 for the copy engine. -/
def State.enginePage (s : State) (k : Nat) (cap : Captured) (src : Nat) (va detail : BitVec 64) : State :=
  let f : FaultRec :=
    { (s.faultRec k cap.ctx cap.pc cap.iword src { cause := 0x05, address := va, detail := detail }) with allow := allowRetryKill }
  s.post (s.levelBox k cap.level) { body := f.message (s.ltileRead k), src := k, ctx := cap.ctx, after := cap.id }

/-- The head of the queue after a stop. -/
def State.setHeadM (s : State) (k : Nat) (q : MCmd) : State := s.updTile k fun t => { t with mq := q :: t.mq.drop 1 }

/-- Rows still to do. -/
def MCmd.rowsLeft (q : MCmd) : Nat :=
  match mxKind q.bits with
  | 1 => 16 - mxRow q.bits
  | 3 => mxK q.bits * mxM q.bits - (mxBlock q.bits * mxM q.bits + mxRow q.bits)
  | _ => mxM q.bits - mxRow q.bits

/-- One row of the command, then its completion where it was the last and nothing of it is on its way (R100, R209); a page fault stops
it at the row's boundary (R221). -/
def State.mxOne (s : State) (k : Nat) (q : MCmd) : State :=
  match s.mxRowStep k q with
  | .done s1 q1 =>
    let q2 := { q1.advance with fresh := false }
    if q2.rowsLeft = 0 && !s1.engFlying k q.cap.id then s1.mxFinish k q2 0 0 else s1.setHeadM k q2
  | .asked s1 q1 => s1.setHeadM k q1
  | .stop (.code c) => s.mxFinish k q c (mxRow q.bits)
  | .stop (.page va d fx) =>
    (((fx s).setHeadM k { q with stopped := true, fresh := true }).updMx k (·.idle s.gtime)).enginePage k q.cap 4 va
      (d ||| BitVec.ofNat 64 (0x40 + mxRow q.bits % 256 * 256))
  | .stop (.hold s1) => s1.setHeadM k q

/-- An `mxrd` or `mxwr` on the accumulator issued earlier has not read or written, one of a pre-empted thread among them (R225). -/
def Tile.moveOpen (t : Tile) (acc : Option Nat) (n : Nat) : Bool :=
  match acc with
  | some a => (t.vq ++ t.vqOff).any (·.moves a n)
  | none => false

/-- A command on the accumulator issued earlier, by a thread that is pre-empted, has not completed (R222, R225). -/
def Tile.parkedOpen (t : Tile) (acc : Option Nat) (n : Nat) : Bool :=
  acc.isSome && t.mqOff.any fun q => recAcc q.bits == acc && decide (q.cap.id < n)

/-- The command at the head begins or goes on with its next row. -/
def State.mxGo (s : State) (k : Nat) (q : MCmd) : State :=
  let t := s.tile k
  if q.started && !q.fresh then s.mxOne k q
  else if mxBad q.bits q.started || mxModeBad t.mx q.bits then s.mxFinish k q 0x20 0
  else match if q.waited then some s else s.recWaits k q.bits with
    | none => s
    | some s1 =>
      let q := { q with waited := true }
      if !q.started && (t.moveOpen (recAcc q.bits) q.cap.id || t.parkedOpen (recAcc q.bits) q.cap.id) then s1.setHeadM k q
      else
        let q := { q with started := true }
        let s2 := s1.updMx k fun m => { m with gated := false }
        match mxKind q.bits with
        | 4 => (s2.updMx k (·.clear (mxAcc q.bits))).mxFinish k q 0 0
        | 7 =>
          let acc := mxAcc q.bits
          (s2.updMx k fun m =>
            { m.clear acc with rns := BitVec.ofNat 4 (setBits m.rns.toNat acc 1 (bit (bitAt (recField q.bits 2 1) 3))) }).mxFinish k q 0 0
        | _ => s2.mxOne k q

/-- The matrix engine does the next row of the command at the head of its queue, which must be of kind `kind`; reserved kinds
end as malformed whichever kind moves. A row whose reads are on their way is finished also in a drain or before a save, but no row
begins then (R15, R222). -/
def State.mxStep (s : State) (k kind : Nat) : State :=
  let t := s.tile k
  if s.turn.phase == .shift || t.fenced then s
  else match t.mq with
    | [] => s
    | q :: _ =>
      if ((mxUse (mxKind q.bits)).isSome && mxKind q.bits != kind) || q.stopped || s.engFlying k q.cap.id then s
      else match q.failed with
        | some (c, row) => s.mxFinish k q c row
        | none =>
          if s.ownQueue k q.cap then s
          else if q.asked.isSome then s.mxOne k q
          else if q.started && q.rowsLeft = 0 then s.mxFinish k q 0 0
          else if s.stopping || (s.ctx k q.cap.ctx).c.saving then s
          else s.mxGo k q

/-- A packet of a command has come back with its bytes. -/
def State.mxBack (s : State) (k id part : Nat) (bs : List Byte) : State :=
  s.updTile k fun t => { t with mq := t.mq.map fun q => if q.cap.id = id then { q with got := q.got.set part bs } else q }
/-- A packet of a command has been refused: the command ends at its row once the others are over. -/
def State.mxRefused (s : State) (k id row code : Nat) : State :=
  s.updTile k fun t => { t with mq := t.mq.map fun q => if q.cap.id = id && q.failed.isNone then { q with failed := some (code, row) } else q }

def execLoadw (tile : Nat) (s : State) : Out := .next (s.mxStep tile 1)
def execStream (tile : Nat) (s : State) : Out := .next (s.mxStep tile 2)
def execMma (tile : Nat) (s : State) : Out := .next (s.mxStep tile 3)
def execZero (tile : Nat) (s : State) : Out := .next (s.mxStep tile 4)
def execStore (tile : Nat) (s : State) : Out := .next (s.mxStep tile 5)
def execLoadacc (tile : Nat) (s : State) : Out := .next (s.mxStep tile 6)
def execRnsmode (tile : Nat) (s : State) : Out := .next (s.mxStep tile 7)

/-! ### Power gating and the queue window (R223, R226) -/

/-- The array has been idle for its gate time. -/
def execArrayPowerGate (tile : Nat) (s : State) : Out :=
  let t := s.tile tile
  if t.mx.gate != 0 && !t.mq.any (·.busy) && decide (t.mx.idleFrom.toNat + t.mx.gate.toNat ≤ s.gtime.toNat) then
    .next (s.updMx tile fun m => { m with gated := true })
  else .next s

/-- A record that arrives through the window is pushed as if context 0 had issued it, and captures that context's
`rmode` and `fenable` at arrival. -/
def State.windowPush (s : State) (k : Nat) (b : BitVec 512) : State :=
  let me := { s with cur := k, curCtx := 0, iword := 0 }
  let (cap, s1) := me.capture
  { s1.mxPush k cap b none with cur := s.cur, curCtx := s.curCtx, iword := s.iword }
/-- While the queue is full the write is held. -/
def execMatrixQueueWindowWrite (tile : Nat) (rec : BitVec 512) (s : State) : Out :=
  if (s.tile tile).mxFull then .next s else .next (s.windowPush tile rec)

end Sys2Proof.Machine
end

