-- ==== Sys2Proof/Machine/Copy.lean ====
section
/-! DEFINITION. The copy engine's instructions (R227, R228, R230, R233, R235, R237, R375): which records are malformed,
the units a PROOFSTREAM sends, what a push does, and `cpkill`. The engine's steps are in CpExec. -/

namespace Sys2Proof.Machine

/-! ### The record (R227, R228, R233) -/

def cpKind (b : BitVec 512) : Nat := recField b 0 1
def cpSrc (b : BitVec 512) : Nat := recField b 0x0C 8
def cpDst (b : BitVec 512) : Nat := recField b 0x18 8
def cpAux (b : BitVec 512) : Nat := recField b 0x2C 8
def cpLen (b : BitVec 512) : Nat := recField b 0x24 4
def cpRows (b : BitVec 512) : Nat := recField b 0x28 4
/-- Sectors of a row (R230). -/
def cpPer (b : BitVec 512) : Nat := (cpLen b + 255) / 256

/-- An address field: bit 61 is 0, and bits 60:57 are unless it names a route register. -/
def cpAddrOk (a : Nat) : Bool := !bitAt a 61 && (a / 2 ^ 62 == 3 || bitsAt a 57 4 == 0)

/-- The fields that a PROOFSTREAM leaves no choice (R375). -/
def cpProofShape (b : BitVec 512) : Bool :=
  let sa := cpSrc b
  recField b 0x14 4 == 0 && recField b 0x20 4 == 0 && cpDst b / 2 ^ 62 == 2 && cpDst b % 256 == 0 &&
  decide (cpAux b < 2 ^ 32) &&
  (if sa / 2 ^ 62 = 1 then sa % 2 ^ 62 == 0 && cpLen b == 1 && cpRows b == 1
   else sa / 2 ^ 62 == 2 && sa % 65536 == 0 && cpLen b % 65536 == 0)

/-- Status of a record that is malformed by its fields, 0 when it is not (R233). -/
def cpBad (b : BitVec 512) (lv : Level) (resumed : Bool) : Nat :=
  let kind := cpKind b
  let quant := kind == 5
  let rb := recField b 0x34 2
  if kind = 0 || 6 < kind then 0x20
  else if kind = 6 && lv = .u then 0x29
  else
    let bad :=
      (if quant then decide (2 < recField b 1 1) else recField b 1 1 != 0) || recField b 2 1 != 0 ||
      (if quant then !recRovrOk b 4 else recField b 3 1 != 0) || !recCtlOk b ||
      !cpAddrOk (cpSrc b) || !cpAddrOk (cpDst b) ||
      ((kind == 2 || kind == 3 || quant) && !cpAddrOk (cpAux b)) ||
      cpLen b == 0 || decide (0x01000000 < cpLen b) || cpRows b == 0 || decide (0x00100000 < cpRows b) ||
      (bitAt rb 15 && (cpDst b / 2 ^ 62 != 3 || !barOk (rb % 32768))) ||
      recField b 0x36 2 != 0 || (!resumed && recField b 0x38 4 != 0) || recField b 0x3C 4 != 0 ||
      ((kind == 2 || kind == 3) && (decide (1 < cpAux b / 2 ^ 62) || cpAux b % 4 != 0)) ||
      (kind == 4 && (cpSrc b != 0 || recField b 0x14 4 != 0)) ||
      (quant && (cpLen b % 128 != 0 || cpSrc b % 4 != 0 || recField b 0x14 4 % 4 != 0 || cpAux b / 2 ^ 62 == 3)) ||
      (kind == 6 && !cpProofShape b)
    if bad then 0x20 else 0

/-! ### Units of a proof (R375) -/

/-- Inserts a unit so that kinds and then units ascend. -/
def insUnit : List PUnit → PUnit → List PUnit
  | [], u => [u]
  | v :: r, u => if u.kind < v.kind ∨ (u.kind = v.kind ∧ u.unit < v.unit) then u :: v :: r else v :: insUnit r u
/-- A unit lies in what a PROOFSTREAM record of tile k names. -/
def PUnit.inRecord (u : PUnit) (k : Nat) (b : BitVec 512) : Bool :=
  let first := cpSrc b % 2 ^ 57 / 65536
  let count := cpLen b / 65536 * cpRows b
  if cpSrc b / 2 ^ 62 = 1 then u.kind != 2 && u.tile == k else u.kind == 2 && decide (first ≤ u.unit) && decide (u.unit < first + count)
/-- A PROOFSTREAM of the owner that has not ended is to send the unit for the same proof, whichever of its sectors have performed. -/
def State.unitTaken (s : State) (o number : Nat) (u : PUnit) : Bool :=
  s.tiles.any fun e => ownerOf e.1 == o &&
    (e.2.cq ++ e.2.cqOff).any fun q => cpKind q.bits == 6 && q.ended.isNone && cpAux q.bits == number && q.units.any u.same
/-- Units that a PROOFSTREAM record of tile k sends: changed since the previous proof, not yet sent, and taken by no other. -/
def State.proofUnits (s : State) (k : Nat) (b : BitVec 512) : List PUnit :=
  let o := ownerOf k
  ((s.owner o).proof.changed.filter fun u => !u.sent && u.inRecord k b && !s.unitTaken o (cpAux b) u).foldl insUnit []
/-- Sectors of a unit: a header and its data. -/
def PUnit.sectors (u : PUnit) : Nat := if u.kind = 2 then 257 else 17
/-- The record names the taken proof. -/
def State.proofNamed (s : State) (k : Nat) (b : BitVec 512) : Bool :=
  let p := (s.owner (ownerOf k)).proof
  p.live && p.state == 1 && p.number.toNat == cpAux b

/-! ### Pushing (R13, R230, R235) -/

def Tile.cpFull (t : Tile) : Bool := decide (2 ≤ (t.cq.filter fun q => !q.started).length)

/-- The route register that an address field names, as it stands now; 0 when it names none. -/
def State.captureRoute (s : State) (a : Nat) : BitVec 128 :=
  if a / 2 ^ 62 = 3 then s.me.y.rts.get 0 (bitsAt a 57 4) else 0
/-- A captured route passes the injection checks (R233, R266). -/
def State.engRouteOk (s : State) (k : Nat) (r : BitVec 128) : Bool :=
  r != 0 && s.checkRoute k (s.posOf k) r (s.owner (ownerOf k)).turnSet.toNat true false == 0
/-- The checked bit of the register that an address field names is set when an injection along the route captured from it has passed its
checks and the register still holds that route (R271). -/
def State.noteChecked (s : State) (k c a : Nat) (r : BitVec 128) : State :=
  s.updCtx k c fun x =>
    if a / 2 ^ 62 = 3 ∧ x.y.rts.get 0 (bitsAt a 57 4) = r then
      { x with y := { x.y with rtck := x.y.rtck ||| ((1 : BitVec 16) <<< bitsAt a 57 4) } }
    else x
/-- The tile it reaches. -/
def State.engTarget (s : State) (k : Nat) (r : BitVec 128) : Nat :=
  (s.tileAt k (s.routeEnd k (s.posOf k) r)).getD (128 * 65536 * 2)

/-- The destination counts on insec (spaces 0 and 1) or outsec (R230). -/
def cpInbound (b : BitVec 512) : Bool := decide (cpDst b / 2 ^ 62 < 2)

/-- Everything of a push but the remote add: the command at the end of the queue. -/
def State.cpPush (s : State) (b : BitVec 512) (sig : Option (BitVec 8 × Nat)) (rwait : Bool) : State :=
  let k := s.cur
  let (cap, s1) := s.capture
  let st := cpBad b cap.level false
  let st := if st = 0 && cpKind b == 6 && !s.proofNamed k b then 0x20 else st
  let good := st == 0
  let units := if good && cpKind b == 6 then s.proofUnits k b else []
  let total := if !good then 0 else if cpKind b = 6 then (units.map PUnit.sectors).sum else cpRows b * cpPer b
  let src := s.captureRoute (cpSrc b)
  let dst := s.captureRoute (cpDst b)
  let (g, s2) := s1.recGen k cap.ctx (good && cpKind b == 5 && (recRound b cap.rmode).1 == 4)
  let s3 := s2.tagIssue k b
  let (s4, counted) := match recBarOk b 0x0A with
    | some off => if good then (s3.barAdd k off (cpInbound b) total, true) else (s3, false)
    | none => (s3, false)
  s4.updTile k fun t => { t with cq := t.cq ++ [
    { cap := cap, bits := b, gen := g, base := 0, srcRoute := src, dstRoute := dst, waited := false, started := false,
      stopped := false, counted := counted, rwait := rwait, radd := false, units := units, next := 0, done := 0,
      flying := [], index := none, olds := [], total := total, ended := if good then none else some (BitVec.ofNat 8 st, 0), flags := 0, low := none,
      sig := sig }] }

/-- The remote insec add has been answered: the push ends. -/
def CCmd.answered (c : Nat) (ok : Bool) (q : CCmd) : CCmd :=
  if q.rwait && q.cap.ctx == c then { q with rwait := false, radd := ok } else q

/-- The push of a record by the moving context. One with a valid rbar ends when N has been added to the remote object's
insec, or the add has been refused. -/
def State.cpIssue (sig : Option (BitVec 8 × Nat)) (s : State) (b : BitVec 512) : Res :=
  let good := cpBad b s.me.c.level false == 0
  let r := s.captureRoute (cpDst b)
  match if good then recBarOk b 0x34 else none with
  | some off =>
    if s.engRouteOk s.cur r then
      -- the injection through the register has passed its checks (R271)
      ((s.cpPush b sig true).noteChecked s.cur s.curCtx (cpDst b) r).sendWait
        (barReq (.addIn (cpRows b * cpPer b)) .gate (BitVec.ofNat 64 off) (.tile (s.engTarget s.cur r)) (withReturn r 0x80))
    else .ok (s.cpPush b sig false)
  | none => .ok (s.cpPush b sig false)
/-- The rest of a push whose remote add has been answered. -/
def State.cpResumed (s : State) : Option Res :=
  let fin (ok : Bool) : Res := .ok (s.updMyTile fun t => { t with cq := t.cq.map (CCmd.answered s.curCtx ok) })
  if !(s.myTile.cq.any fun q => q.rwait && q.cap.ctx == s.curCtx) then none
  else match s.me.c.phase with
    | .granted _ => some (fin true)
    | .refused _ _ _ => some (fin false)
    | _ => none

def execCpq (f : SA) (s : State) : Out :=
  s.issue f.h (some f.t) .u [(f.a, .rx)] false true fun s _ =>
    match s.cpResumed with
    | some r => r
    | none => s.pushFrom s.myTile.cpFull (s.rx f.a.num) (State.cpIssue f.t.doneSig)
def execCpqr (f : SA) (s : State) : Out :=
  s.issue f.h (some f.t) .u [(f.a, .roct)] false true fun s _ =>
    match s.cpResumed with
    | some r => r
    | none =>
      if s.acqHeld || s.myTile.vecOpen s.curCtx || s.myTile.cpFull then .stall
      else s.cpIssue f.t.doneSig (s.regRecord f.a.num)

/-! ### Completion (R211, R230, R233, R234) -/

/-- What a failed command leaves on its remote barrier object is taken off it by an update with the error (R233). -/
def State.remoteSub (s : State) (k : Nat) (q : CCmd) (n err : Nat) : State :=
  match if q.radd then recBarOk q.bits 0x34 else none with
  | some off =>
    s.engSend k q.cap q.total
      (barReq (.subIn n (BitVec.ofNat 8 err)) .none (BitVec.ofNat 64 off) (.tile (s.engTarget k q.dstRoute)) (withReturn q.dstRoute 0x80)) []
  | none => s

/-- The status of R234. -/
def cpStatus (q : CCmd) (sat : Bool) : Nat :=
  let (code, sec) := match q.ended with
    | some (c, n) => (c.toNat, n)
    | none => (0, 0)
  sec % 65536 * 2 ^ 16 + bit sat * 2 ^ 14 + q.flags.toNat * 2 ^ 8 + code
/-- What a PROOFSTREAM that ends early has sent of a unit that is not whole is still to stream: another sends that unit from its header
on (R375, log 66). -/
def State.unitsBack (s : State) (k : Nat) (q : CCmd) : State :=
  let o := ownerOf k
  if cpKind q.bits = 6 ∧ q.done < q.total ∧ s.proofNamed k q.bits then
    let whole := ((q.units.filter fun u => (s.owner o).proof.changed.any fun v => u.same v && v.sent).map PUnit.sectors).sum
    s.updOwner o fun w => { w with proof := { w.proof with pending := w.proof.pending + (q.done - whole) } }
  else s
/-- The completion step of the command at the head: the signal, what is left on the barrier objects with the error, the
tag; then the flags and the signal of its instruction. -/
def State.cpFinish (s : State) (k : Nat) (q : CCmd) : State :=
  let code := match q.ended with | some (c, _) => c.toNat | none => 0
  let left := if q.done = q.total then q.total - (q.total - 1) else q.total - q.done
  let s := ((s.unitsBack k q).awaited k (.copy q.cap.id)).updTile k fun t => { t with cq := t.cq.drop 1 }
  let (s, sat) := s.recSignal k q.bits
  let s := match recBarOk q.bits 0x0A with
    | some off =>
      if q.counted then s.barSub k off (cpInbound q.bits) left code else if code ≠ 0 then s.barErr k off code else s
    | none => s
  let s := if code = 0 then s else s.remoteSub k q (q.total - q.done) code
  let s := s.recTagDone k q.bits (cpStatus q sat) (code != 0)
  (s.workFlags k q.cap 2 (q.low.getD 0) q.flags).doneSignal k q.cap q.sig

/-- The command at the head can take its completion step (R231), once every access of it has performed (R100). -/
def CCmd.ready (q : CCmd) : Bool :=
  !q.rwait && q.flying.isEmpty && (q.ended.isSome || (q.started && q.done == q.total))
/-- Completions in queue order. -/
def State.cpDrain (k : Nat) : Nat → State → State
  | 0, s => s
  | n + 1, s =>
    match (s.tile k).cq with
    | q :: _ => if q.ready && !s.engFlying k q.cap.id then State.cpDrain k n (s.cpFinish k q) else s
    | [] => s
def State.cpSettle (s : State) (k : Nat) : State := s.cpDrain k (s.tile k).cq.length

/-! ### cpkill (R237) -/

/-- A command that `cpkill` ends: its code replaces one that it has met before its completion step (R237). -/
def CCmd.killed (q : CCmd) : CCmd :=
  { q with ended := some (0x28, match q.ended with | some (_, n) => n | none => q.next), stopped := false }
/-- A command that is ended early: no further sector issues. -/
def CCmd.cut (q : CCmd) (code : Nat) (sector : Nat) : CCmd :=
  if q.ended.isSome then q else { q with ended := some (BitVec.ofNat 8 code, sector), stopped := false }
/-- Kills the commands of a context that a test picks. -/
def State.cpKill (s : State) (k c : Nat) (hit : CCmd → Bool) : State :=
  (s.updTile k fun t => { t with cq := t.cq.map fun q => if q.cap.ctx == c && hit q then q.killed else q }).cpSettle k
def State.cpkill (s : State) (a : Nat) : Res :=
  if 128 ≤ a then .trap { cause := 0x02 }
  else .ok (s.cpKill s.cur s.curCtx fun q => bitAt a 6 || recTag q.bits == some (a % 64))
def execCpkill (f : SA) (s : State) : Out :=
  s.issue f.h (some f.t) .u [(f.a, .rx)] false false fun s _ => s.cpkill (s.rx f.a.num).toNat
def execCpkillImm (f : I0) (s : State) : Out :=
  s.issue f.h none .u [] false false fun s _ => s.cpkill f.imm.toNat

end Sys2Proof.Machine
end

