-- ==== Sys2Proof/Machine/CpExec.lean ====
section
/-! DEFINITION. The copy engine's steps (R228 to R234, R375): starting a command, issuing a sector, and the steps in which
a sector performs; and the end of a demand-window fill (R94, R95). A sector's reads of other places leave when it issues; when they are
back it writes its own tile and its other writes leave; it has performed when those have been applied (R100, R230, log 9). -/

namespace Sys2Proof.Machine

/-- No sector issues between T_turn and the resume, nor on a fenced tile (R292, R296). -/
def State.engPaused (s : State) (k : Nat) : Bool := s.sinceTurn || (s.tile k).fenced

/-! ### Starting (R211, R231) -/

/-- Every sector of a command has issued, or none issues any more. -/
def CCmd.issued (q : CCmd) : Bool := q.ended.isSome || (q.started && decide (q.total ≤ q.next))
/-- Applies a change to the first command that has not issued wholly, when the engine may work on it. -/
def updCurrent (f : CCmd → CCmd) : List CCmd → List CCmd
  | [] => []
  | q :: r => if q.issued then q :: updCurrent f r else f q :: r
/-- That command. -/
def current : List CCmd → Option CCmd
  | [] => none
  | q :: r => if q.issued then current r else some q
def State.updCp (s : State) (k : Nat) (f : CCmd → CCmd) : State := s.updTile k fun t => { t with cq := updCurrent f t.cq }

/-- The engine takes the next command of its front queue, when it is of kind `kind` and its wait passes. -/
def State.cpStart (s : State) (k kind : Nat) : State :=
  if s.engPaused k then s
  else
    let s := s.cpSettle k
    match current (s.tile k).cq with
    | none => s
    | some q =>
      if q.started || q.rwait || (s.ctx k q.cap.ctx).c.saving || cpKind q.bits != kind then s
      else match if q.waited then some s else s.recWaits k q.bits with
        | none => s
        | some s1 => (s1.updCp k fun q => { q with waited := true, started := true }).cpSettle k

def execCopy (tile : Nat) (s : State) : Out := .next (s.cpStart tile 1)
def execGather (tile : Nat) (s : State) : Out := .next (s.cpStart tile 2)
def execScatter (tile : Nat) (s : State) : Out := .next (s.cpStart tile 3)
def execFill (tile : Nat) (s : State) : Out := .next (s.cpStart tile 4)
def execQuant (tile : Nat) (s : State) : Out := .next (s.cpStart tile 5)
def execProofstream (tile : Nat) (s : State) : Out := .next (s.cpStart tile 6)

/-! ### Issuing a sector (R230, R231, R233) -/

/-- The checks of an address of any space. -/
def State.cpAt (s : State) (k : Nat) (q : CCmd) (w : Nat) (off : Int) (n align : Nat) (write : Bool) (r : BitVec 128) :
    Except EngStop (List Piece × State) :=
  let (sp, a) := addrAt w off
  if sp < 3 then s.engAt k q.cap .copy w off n align write
  else if a % align ≠ 0 then .error (.code 0x23)
  else if spaceLimit 1 < a + n then .error (.code 0x24)
  else if !s.engRouteOk k r then .error (.code 0x26)
  else
    .ok ([.there (s.engTarget k r) a n (withReturn r 0x80)], s)

/-- The index entry of row r: the one read when the row started, or read now from the tile's memory (R228). -/
def State.cpIndex (s : State) (k : Nat) (q : CCmd) (r : Nat) : Except EngStop (Nat × State) :=
  match q.index with
  | some (r', i) => if r' = r then .ok (i, s) else read
  | none => read
where
  read : Except EngStop (Nat × State) :=
    match s.engAt k q.cap .copy (cpAux q.bits) (4 * r : Nat) 4 4 false with
    | .error e => .error e
    | .ok (ps, s1) =>
      match s1.gathered k [] ps 0 with
      | .error c => .error (.code c)
      | .ok bs => .ok (bytesNat bs, s1)

/-- The unit and the sector within it of a PROOFSTREAM's sector. -/
def unitAt : List PUnit → Nat → Option (PUnit × Nat)
  | [], _ => none
  | u :: r, n => if n < u.sectors then some (u, n) else unitAt r (n - u.sectors)

/-- A part in a remote-module window. -/
def Piece.isRemote : Piece → Bool
  | .mem _ _ _ _ (.gate (_ + 1)) _ _ => true
  | _ => false
/-- The checks of sector n: where it reads and where it writes, and the index entry of its row. -/
def State.cpPlan (s : State) (k : Nat) (q : CCmd) (n : Nat) : Except EngStop (Sect × Option (Nat × Nat) × State) :=
  let b := q.bits
  let r := n / cpPer b
  let o := n % cpPer b * 256
  let ln := if cpLen b - o < 256 then cpLen b - o else 256
  let ss := recStride b 0x14
  let ds := recStride b 0x20
  -- the row number that a stride multiplies: an index list's entry, or the row itself
  let idx : Except EngStop (Nat × State) := if cpKind b = 2 ∨ cpKind b = 3 then s.cpIndex k q r else .ok (r, s)
  match idx with
  | .error e => .error e
  | .ok (i, s) =>
    let srow : Int := (if cpKind b = 2 then i else r : Nat)
    let drow : Int := (if cpKind b = 3 then i else r : Nat)
    let src : Except EngStop (List Piece × State) :=
      if cpKind b = 4 ∨ cpKind b = 6 then .ok ([], s)
      else s.cpAt k q (cpSrc b) (srow * ss + (o : Int)) ln (if cpKind b = 5 then 4 else 1) false q.srcRoute
    match src with
    | .error e => .error e
    | .ok (sp, s) =>
      let dst : Except EngStop (List Piece × State) :=
        if cpKind b = 6 then s.cpAt k q (cpDst b) (n * 256 : Nat) 256 1 true 0
        else if cpKind b = 5 then s.cpAt k q (cpDst b) (drow * ds + (o / 4 : Nat)) (ln / 4) 1 true q.dstRoute
        else s.cpAt k q (cpDst b) (drow * ds + (o : Int)) ln 1 true q.dstRoute
      match dst with
      | .error e => .error e
      | .ok (dp, s) =>
        let aux : Except EngStop (List Piece × State) :=
          if cpKind b = 5 then s.cpAt k q (cpAux b) (r * (cpLen b / 128) + o / 128 : Nat) (ln / 128) 1 true 0
          else .ok ([], s)
        match aux with
        | .error e => .error e
        | .ok (ap, s) =>
          -- the log area of a PROOFSTREAM lies in a remote-module window; another place is malformed (R375)
          if cpKind b = 6 && !dp.all Piece.isRemote then .error (.code 0x20)
          else .ok ({ n := n, src := sp, dst := dp, aux := ap, got := [], sent := false }, if cpKind b = 2 ∨ cpKind b = 3 then some (r, i) else none, s)

/-- Sectors of a tile in flight. -/
def Tile.cpFlying (t : Tile) : Nat := (t.cq.map fun q => q.flying.length).sum

/-- The engine issues the next sector of its current command. -/
def State.cpSector (s : State) (k : Nat) : State :=
  let t := s.tile k
  match current t.cq with
  | none => s
  | some q =>
    if s.engPaused k || !q.started || q.stopped || (s.ctx k q.cap.ctx).c.saving || 16 ≤ t.cpFlying || s.ownQueue k q.cap then s
    else match s.cpPlan k q q.next with
      | .ok (x, i, s1) =>
        let s2 := s1.updCp k fun q => { q with flying := q.flying ++ [x], next := q.next + 1, index := i }
        let s3 := if s2.isThread k q.cap then
            (s2.noteChecked k q.cap.ctx (cpSrc q.bits) q.srcRoute).noteChecked k q.cap.ctx (cpDst q.bits) q.dstRoute
          else s2
        s3.engGets k q.cap x.n x.src 0
      | .error (.code c) => (s.updCp k (·.cut c q.next)).cpSettle k
      | .error (.hold s1) => s1
      | .error (.page va d fx) =>
        ((fx s).updCp k fun q => { q with stopped := true }).enginePage k q.cap 8 va
          (d ||| BitVec.ofNat 64 (0x80 + q.next % 2 ^ 24 * 256))
def execCopySectorIssue (tile : Nat) (s : State) : Out := .next (s.cpSector tile)

/-! ### A sector performs (R228 to R231, R233) -/

/-- The place a part belongs to: parts of one place perform in issue order (R231). -/
def Piece.dest (k : Nat) : Piece → Dest
  | .here _ _ _ => .tile k
  | .mem _ _ _ _ d _ _ => d
  | .there t _ _ _ => .tile t
  | .window t => .tile t
/-- The places that a sector writes. -/
def Sect.dests (k : Nat) (x : Sect) : List Dest := (x.dst ++ x.aux).map (Piece.dest k)
/-- A sector issued before this one writes a place that it writes, and its writes have not left; one of an earlier command, which has a
queue of its own, has not performed (R231). -/
def Tile.cpBehind (t : Tile) (k id n : Nat) (x : Sect) : Bool :=
  t.cq.any fun q => q.flying.any fun y =>
    (decide (q.cap.id < id) || (q.cap.id == id && decide (y.n < n) && !y.sent)) && (y.dests k).any fun d => (x.dests k).contains d

/-- Steps of the SR generator. -/
def xsN : Nat → BitVec 64 → BitVec 64
  | 0, g => g
  | n + 1, g => xsN n (xs g)
/-- Elements of a QUANT before sector n. -/
def elemsBefore (b : BitVec 512) (n : Nat) : Nat := n / cpPer b * (cpLen b / 4) + n % cpPer b * 64
/-- Blocks of 32 elements from FP32 words: codes, scales, flags by element (R179). -/
def quantRow (e code : Nat) (rm : BitVec 16) (v : Nat) : Nat → Nat → BitVec 64 → List Nat × List Nat × List (Nat × Flags)
  | 0, _, _ => ([], [], [])
  | k + 1, n, g =>
    let xs := (List.range 32).map fun i => read32 (flushIn rm (bitsAt v (32 * (32 * n + i)) 32))
    let (l, s, g1) := quantBlock e code xs g
    let (cs, ss, fs) := quantRow e code rm v k (n + 1) g1
    (l.map (·.1 % 256) ++ cs, s :: ss, ((List.range l.length).zip l).map (fun p => (32 * n + p.1, p.2.2)) ++ fs)

/-- The header sector of a unit (R375, Table 5). -/
def unitHeader (number owner : Nat) (u : PUnit) : List Byte :=
  let v := number + owner * 2 ^ 32 + u.kind * 2 ^ 40 + (if u.kind = 2 then 0 else ltileOf u.tile * 2 ^ 48) +
    (if u.kind = 2 then u.unit * 65536 else u.unit * 4096) * 2 ^ 64 + (if u.kind = 2 then 65536 else 4096) * 2 ^ 128
  natBytes 256 v
/-- 256 bytes of a unit of the taken proof: its saved copy, or its live contents. -/
def State.unitData (s : State) (o : Nat) (u : PUnit) (j : Nat) : List Byte :=
  match (s.owner o).proof.saved.find? u.same with
  | some c =>
    (match s.poolAt o (c.pool + 256 * j) false with
     | some (pa, slot) => s.memBytes slot pa 256
     | none => List.replicate 256 0)
  | none =>
    match u.kind with
    | 0 => (s.tile u.tile).store.bytes (u.unit * 4096 + 256 * j) 256
    | 1 => (s.tile u.tile).pad.bytes (u.unit * 4096 + 256 * j) 256
    | _ => match s.poolAt o (u.unit * 65536) false with
      | some (pa, slot) => s.memBytes slot (pa + 256 * j) 256
      | none => List.replicate 256 0
/-- The page that those bytes are read from has A set in its leaf (R332). -/
def State.unitRead (s : State) (o : Nat) (u : PUnit) (j : Nat) : State :=
  match (s.owner o).proof.saved.find? u.same with
  | some c => s.leafUsed o (c.pool + 256 * j) false
  | none => if u.kind < 2 then s else s.leafUsed o (u.unit * 65536) false
/-- The proof is complete: the pool keeps the copies made since it was taken, which a rollback needs, and releases the older ones
(R373 to R376); an armed one takes its place. -/
def Proof.close (p : Proof) : Proof :=
  let p := { p with state := 2, older := [], used := (p.saved.map PUnit.bytes).sum,
                    complete := some { number := p.number, sstep := p.sstep, heads := p.heads, cells := p.cells, fresh := p.fresh } }
  if p.queued then { p with number := p.number + 1, state := 0, queued := false } else p
/-- A sector of the taken proof has been streamed: `pending` falls, a unit's last sector marks it sent, and at 0 the
proof is complete. -/
def State.proofSent (s : State) (o : Nat) (u : PUnit) (last : Bool) : State :=
  let s1 := s.updOwner o fun w =>
    let p := w.proof
    let p := { p with pending := p.pending - 1,
                      changed := if last then p.changed.map fun v => if u.same v then { v with sent := true } else v else p.changed }
    { w with proof := if p.pending = 0 then p.close else p }
  s1.proofRecord o

/-- What a sector writes: its destination bytes, its scale bytes, and the flags of its elements. -/
def State.cpData (s : State) (k : Nat) (q : CCmd) (x : Sect) (src : List Byte) : List Byte × List Byte × List (Nat × Flags) :=
  let b := q.bits
  match cpKind b with
  | 4 => ((List.range ((x.dst.map Piece.size).sum)).map fun i => BitVec.ofNat 8 (cpAux b / 2 ^ (8 * (i % 8))), [], [])
  | 5 =>
    let code := (recRound b q.cap.rmode).1
    let n := elemsBefore b x.n
    let g := if code = 4 then xsN (n - elemsBefore b q.base) q.gen else 0
    let (cs, ss, fs) := quantRow (recField b 1 1) code q.cap.rmode (bytesNat src) (src.length / 128) 0 g
    (cs.map (BitVec.ofNat 8 ·), ss.map (BitVec.ofNat 8 ·), fs.map fun f => (n + f.1, f.2))
  | 6 =>
    (match unitAt q.units x.n with
     | some (u, 0) => (unitHeader (cpAux b) (ownerOf k) u, [], [])
     | some (u, j + 1) => (s.unitData (ownerOf k) u j, [], [])
     | none => ([], [], []))
  | _ => (src, [], [])

/-- Changes the command with a name. -/
def State.updCmd (s : State) (k id : Nat) (f : CCmd → CCmd) : State :=
  s.updTile k fun t => { t with cq := t.cq.map fun q => if q.cap.id = id then f q else q }
/-- The lowest element that raised an enabled flag. -/
def lowFlag (en : Flags) (low : Option Nat) (fs : List (Nat × Flags)) : Option Nat :=
  fs.foldl (fun l e => if e.2 &&& en = 0 then l else match l with
    | some n => some (if e.1 < n then e.1 else n)
    | none => some e.1) low

/-- The places of a part's bytes: module memory is 0, and tile k's scratchpad and tile store are 2k + 1 and 2k + 2. -/
def Piece.places (k : Nat) : Piece → List (Nat × Nat)
  | .here sp off n => (List.range n).map fun i => (2 * k + 1 + (if sp = 0 then 0 else 1), off + i)
  | .mem _ pa n _ _ _ _ => (List.range n).map fun i => (0, pa + i)
  | .there t off n _ => (List.range n).map fun i => (2 * t + 2, off + i)
  | .window _ => []
/-- The bytes that stand in a part. -/
def State.standing (s : State) (k : Nat) : Piece → List Byte
  | .here sp off n => ((s.tile k).memOf sp).bytes off n
  | .mem _ pa n slot (.slice _) _ _ => s.homeBytes slot (ownerOf k) pa n
  | .mem _ pa n _ _ _ _ => s.mem.bytes pa n
  | .there t off n _ => (s.tile t).store.bytes off n
  | .window _ => []
/-- The bytes that a sector reads. One that earlier sectors of its command have overwritten is open between the byte that
stood there at issue and those written since: a free value chooses (R228). The last argument counts the free values. -/
def pickSource (olds : List ((Nat × Nat) × Byte)) : List (Nat × Nat) → List Byte → Nat → List Byte × Nat
  | p :: ps, b :: bs, n =>
    let old := (olds.filter fun e => e.1 == p).map (·.2)
    let (v, n1) := if old.isEmpty then (b, n) else ((b :: old).getD ((Config.freeWord n).toNat % (old.length + 1)) b, n + 1)
    let (r, n2) := pickSource olds ps bs n1
    (v :: r, n2)
  | _, _, n => ([], n)
/-- What a sector of a kind that reads a source overwrites (R228). -/
def State.overwrites (s : State) (k : Nat) (q : CCmd) (x : Sect) : List ((Nat × Nat) × Byte) :=
  if cpKind q.bits = 4 ∨ cpKind q.bits = 6 then []
  else (x.dst ++ x.aux).flatMap fun p => (p.places k).zip (s.standing k p)

/-- The remote object that a command's sectors are taken off (R230). -/
def CCmd.rbar (q : CCmd) : Option Nat := if q.radd then recBarOk q.bits 0x34 else none
/-- A sector's writes; the scales go beside the elements. A matrix queue window's bytes leave as a packet like the others (R223, R279). -/
def State.cpWrite (s : State) (k : Nat) (q : CCmd) (x : Sect) (dst aux : List Byte) : State :=
  (s.engPuts k q.cap x.n none x.aux aux).engPuts k q.cap x.n q.rbar x.dst dst

/-- A sector has performed: 1 off the object of the issuing tile; the last sector's subtraction is the completion's (R230). -/
def State.cpDone (s : State) (k : Nat) (q : CCmd) (x : Sect) : State :=
  let s1 := if s.isThread k q.cap then s.updCtx k q.cap.ctx fun y => { y with c := y.c.count 8 1 } else s
  let s2 := match if cpKind q.bits = 6 && s1.proofNamed k q.bits then unitAt q.units x.n else none with
    | some (u, j) => s1.proofSent (ownerOf k) u (j + 1 == u.sectors)
    | none => s1
  let s3 := match recBarOk q.bits 0x0A with
    | some off => if q.counted && decide (q.done + 1 < q.total) then s2.barSub k off (cpInbound q.bits) 1 0 else s2
    | none => s2
  (s3.updCmd k q.cap.id fun q => { q with flying := q.flying.filter (fun y => y.n != x.n), done := q.done + 1 }).cpSettle k
/-- A sector cannot perform, or a packet of it has been refused: its command ends at it. -/
def State.cpFail (s : State) (k id n code : Nat) : State :=
  (s.updCmd k id fun q => { q with flying := q.flying.filter fun y => y.n != n }.cut code n).cpSettle k

/-- The bytes of a sector are there: it writes its own tile, and its other writes leave. It has performed when nothing of it is on its
way. -/
def State.cpPerform (s : State) (k : Nat) (q : CCmd) (x : Sect) : State :=
  match s.gathered k x.got x.src 0 with
  | .error c => s.cpFail k q.cap.id x.n c
  | .ok here =>
    let (src, free) := pickSource q.olds (x.src.flatMap (Piece.places k)) here s.free
    let s1 : State := { (match if cpKind q.bits = 6 then unitAt q.units x.n else none with
      | some (u, j + 1) => s.unitRead (ownerOf k) u j
      | _ => s) with free := free }
    let was := s1.overwrites k q x
    let (dst, aux, fs) := s1.cpData k q x src
    let all := fs.foldl (fun a e => a ||| e.2) 0
    let s2 := (s1.cpWrite k q x dst aux).updCmd k q.cap.id fun q =>
      { q with flying := q.flying.map fun y => if y.n = x.n then { y with sent := true, got := [] } else y,
               olds := was ++ q.olds, flags := q.flags ||| all, low := lowFlag q.cap.fenable q.low fs }
    if s2.engPart k q.cap.id x.n then s2 else s2.cpDone k q x

/-- The next step of sector `sector` of the command named `cmd`, once its reads, or its writes, are no longer on their way. -/
def State.cpPerformed (s : State) (k cmd sector : Nat) : State :=
  match (s.tile k).cq.find? fun q => q.cap.id == cmd with
  | none => s
  | some q =>
    match q.flying.find? fun x => x.n == sector with
    | none => s.cpSettle k
    | some x =>
      if s.engPart k cmd sector then s
      else if x.sent then s.cpDone k q x
      else if (s.tile k).cpBehind k cmd sector x then s
      else s.cpPerform k q x

/-- A packet of a sector has come back with its bytes. -/
def State.cpBack (s : State) (k id n part : Nat) (bs : List Byte) : State :=
  s.updCmd k id fun q => { q with flying := q.flying.map fun x => if x.n = n then { x with got := x.got.set part bs } else x }
def execCopySectorPerformed (tile cmd sector : Nat) (s : State) : Out := .next (s.cpPerformed tile cmd sector)

/-! ### The end of a fill (R94, R95) -/

/-- An access that waited performs now that its sectors are present. -/
def State.performWaiter (s : State) (k : Nat) (w : Waiter) : State :=
  let off := w.addr
  let found := (s.tile k).marksAt 0 off w.op.size
  let phase (s : State) (p : Phase) : State := s.updCtx k w.ctx fun x => { x with c := { x.c with phase := p } }
  match s.doLocal k 0 off w.op with
  | .ok s1 =>
    let s2 := ({ s1 with cur := k, curCtx := w.ctx } : State).localOrder 0 off w.op w.order w.scope found
    phase { s2 with cur := s.cur, curCtx := s.curCtx } (.granted 0)
  | .error a => phase s (.refused (BitVec.ofNat 8 a.cause) a.address a.detail)
/-- One waiting access goes on when its sectors are all present: a core's performs, an engine's instruction, row or sector is taken up
again. A sector of a copy whose bytes come from elsewhere writes once they are there. -/
def State.wake (k : Nat) (s : State) (w : Waiter) : State :=
  let t := s.tile k
  match w.who with
  | .core =>
    if t.waiters.contains w && (t.missing w.addr w.size).isEmpty then
      (s.updTile k fun t => { t with waiters := t.waiters.erase w }).performWaiter k w
    else s
  | .vector id =>
    (match t.vq with
     | q :: _ => if q.cap.id = id then s.vecStep k else s
     | [] => s)
  | .matrix id =>
    (match t.mq with
     | q :: _ => if q.cap.id = id then s.mxStep k (mxKind q.bits) else s
     | [] => s)
  | .copy id =>
    (match current t.cq with
     | some q => if q.cap.id = id then (s.cpSector k).cpPerformed k id q.next else s
     | none => s)
/-- The waiting accesses perform in the order of their touches (R94, R97). -/
def State.wakeFilled (s : State) (k : Nat) : State := (s.tile k).waiters.foldl (State.wake k) s

/-- A failed fill leaves its sector absent; the access that touched faults by its own rules, and the others touch again (R95). A race
that it meets is the touching context's, with the detail of Table 5 of R111 (log 36). -/
def State.fillFailed (s : State) (k : Nat) (f : Fill) (c : BitVec 8) (d : BitVec 64) : State :=
  let t := s.tile k
  let on (w : Waiter) : Bool :=
    (w.size == 0 || (decide (w.addr / 256 ≤ f.sector) && decide (f.sector ≤ (w.addr + w.size - 1) / 256)))
  let hit := t.waiters.filter fun w => on w && w.who == .core
  let s := s.updTile k fun t => { t with waiters := t.waiters.filter fun w => !on w }
  let set (s : State) (c : Nat) (p : Phase) : State := s.updCtx k c fun x => { x with c := { x.c with phase := p } }
  let d := d ||| fillMark f.who c.toNat
  let s := hit.foldl (fun s w => set s w.ctx (if f.who = .core ∧ w.ctx = f.ctx then .refused c f.va d else .passed)) s
  let code : Nat := if c = 0x11 then 0x25 else if c = 0x0A then 0x27 else 0x22
  -- a race that an engine's fill meets is also reported to the issuing context (R111)
  let raced (s : State) (cap : Captured) : State :=
    if c = 0x0A ∧ s.isThread k cap then s.takeImprecise k cap.ctx cap.iword { cause := 0x0A, address := f.va, detail := d } none else s
  match f.who with
  | .core => s
  | .vector id =>
    (match t.vq.find? fun q => q.cap.id == id with
     | some q => s.vecError k q { cause := c.toNat, address := f.va, detail := d }
     | none => s)
  | .matrix id =>
    (match t.mq with
     | q :: _ => if q.cap.id = id then raced (s.mxFinish k q code (mxRow q.bits)) q.cap else s
     | [] => s)
  | .copy id =>
    (match current t.cq with
     | some q => if q.cap.id = id then raced ((s.updCp k (·.cut code q.next)).cpSettle k) q.cap else s
     | none => s)

/-- A fill ends: its bytes are written, the sector is present and the accesses that wait for it perform; or it fails (R94, R95). -/
def State.fillEnd (s : State) (k : Nat) (f : Fill) (r : Except (BitVec 8 × BitVec 64) (List Byte)) : State :=
  let s := s.updTile k fun t => { t with fills := t.fills.filter fun g => g.sector != f.sector }
  match r with
  | .ok bs => ((s.tilePut k 0 (256 * f.sector) bs).updTile k (·.setSector f.sector 2)).wakeFilled k
  | .error (c, d) => (s.updTile k (·.setSector f.sector 0)).fillFailed k f c d

/-- The reply of a sector's fill is there. -/
def State.fillDone (s : State) (k sector : Nat) : State :=
  match (s.tile k).fills.find? fun f => f.sector == sector with
  | none => s
  | some f =>
    match s.flights.find? fun g => g.id == f.flight with
    | none => s
    | some g =>
      let s1 : State := { s with flights := s.flights.filter fun g => g.id != f.flight }
      match g.stage with
      | .replying true _ _ _ => (s1.fillEnd k f (.ok g.data)).settleMail
      | .replying false c d _ => (s1.fillEnd k f (.error (c, d))).settleMail
      | _ => s
def execFillCompletion (tile sector : Nat) (s : State) : Out := .next (s.fillDone tile sector)

end Sys2Proof.Machine
end

