-- ==== Sys2Proof/Machine/Fabric.lean ====
section
/-! DEFINITION. The steps of an access between its issue and its reply (R81, R82, R98 to R103, R263 to R265, R279 to
R281, R383, R394): posting queues, delivery, checked twins, the units that apply, replies and refusals. -/

namespace Sys2Proof.Machine

/-! ### Accesses in flight -/

def State.flight (s : State) (id : Nat) : Option Flight := s.flights.find? fun f => f.id == id
def State.updFlight (s : State) (id : Nat) (g : Flight → Flight) : State :=
  { s with flights := s.flights.map fun f => if f.id = id then g f else f }
def State.setStage (s : State) (id : Nat) (x : Stage) : State := s.updFlight id fun f => { f with stage := x }
def State.dropFlight (s : State) (id : Nat) : State := { s with flights := s.flights.filter fun f => f.id != id }
/-- The next number of the order in which packets are sent or delivered. -/
def State.tickId (s : State) : Nat × State := (s.nextId, { s with nextId := s.nextId + 1 })

/-- The first stands in the posting queue of the second (R98): an engine thread has queues of its own; one of a pre-empted thread
stands in none. -/
def Flight.sameQueue (f g : Flight) : Bool :=
  f.src == g.src && decide (f.ctx < 8) && f.ctx % 4 == g.ctx % 4 && f.dest == g.dest && f.eng == g.eng
/-- An engine thread takes no step towards a place before what its context's queue for that place held at the issue has performed
(R106). -/
def State.engineFree (s : State) (f : Flight) : Bool :=
  match f.eng with
  | some n => s.flights.all fun g =>
      !(g.src == f.src && g.eng.isNone && decide (g.ctx < 8) && g.ctx % 4 == f.ctx % 4 && g.dest == f.dest && decide (g.id < n) && g.isOpen)
  | none => true
/-- One that was sent again waits until everything that its context issued before it stopped has been applied (R394). -/
def State.resendFree (s : State) (f : Flight) : Bool := f.resent.isNone || !s.accOpen f.src f.ctx f.id

/-! ### Send (R100, R102) -/

/-- The head of a posting queue; a release or SC access waits for everything earlier. -/
def State.canSend (s : State) (f : Flight) : Bool :=
  f.stage == .queued && decide (f.ctx < 8) && decide (f.src < gateBase) && s.flights.all (fun g => !(g.sameQueue f && decide (g.id < f.id) && g.stage == .queued)) &&
  (!f.release || (s.quiet f.src (f.ctx % 4) f.id && s.quiet f.src (f.ctx % 4 + 4) f.id)) && s.resendFree f && s.engineFree f
/-- A packet leaves. -/
def State.sendNet (s : State) (f : Flight) : State :=
  let (n, s1) := s.tickId
  s1.updFlight f.id fun _ => { f with stage := .net n }
/-- An access that is sent again is translated anew: its page may have migrated since, and is waited for while it migrates (R112); what
its check finds is reported like a refusal (log 43). -/
def State.sendRenewed (s : State) (f : Flight) : State :=
  let refused (s : State) (c : Nat) (d : BitVec 64) : State := s.setStage f.id (.replying false (BitVec.ofNat 8 c) d 0)
  match f.dest with
  | .tile _ => s.sendNet f
  | .cluster _ => s.sendNet f
  | _ =>
    match s.xlate f.src .data f.level f.va.toNat f.op.writes false with
    | .fault c d fx => fx (refused s c d)
    | .mig s1 => s1
    | .ok pa w slot s1 =>
      match destOf pa with
      | none => refused s1 0x06 0
      | some (d, row) =>
        match s1.anchored f.src row with
        | .error a => refused s1 a.cause a.detail
        | .ok r => s1.sendNet { f with addr := pa, slot := slot, dest := d, route := r, watched := w && f.watched }
def execPostingQueueSend (id : Nat) (s : State) : Out :=
  match s.flight id with
  | some f => .next (if s.canSend f then (if f.resent.isSome then s.sendRenewed f else s.sendNet f) else s)
  | none => .next s

/-! ### Deliver (R100, R383) -/

/-- No packet in flight with the same route and endpoints was sent earlier. -/
def State.canDeliver (s : State) (f : Flight) (sent : Nat) : Bool :=
  s.flights.all fun g => match g.stage with
    | .net n => !(g.src == f.src && g.dest == f.dest && g.route == f.route && decide (n < sent))
    | _ => true
/-- The tile with a stopped context that an access is for (R383). -/
def Flight.stopTile (s : State) (f : Flight) : Option Nat :=
  match f.dest with
  | .tile k => if (s.tile k).hasStop then some k else none
  | _ => none
/-- A packet that is a request of class 1 for a stopped tile whose stop area is full is not accepted. -/
def State.stopFull (s : State) (f : Flight) : Bool :=
  match f.stopTile s with
  | some k => decide (stopRoom ≤ (s.tile k).stopArea.length)
  | none => false
/-! ### Checked twins (R279 to R281) -/

/-- One step of CRC-64 with polynomial 0x42F0_E1EB_A9EA_3693. -/
def crcBits : Nat → BitVec 64 → BitVec 64
  | 0, c => c
  | n + 1, c => crcBits n (if c.getLsbD 63 then (c <<< 1) ^^^ 0x42F0E1EBA9EA3693 else c <<< 1)
def crc64 : List Byte → BitVec 64 → BitVec 64
  | [], c => c
  | b :: r, c => crc64 r (crcBits 8 (c ^^^ ((b.setWidth 64) <<< 56)))

/-- Type of a packet (R263, Table 4), the length of its payload, and the payload, whose layout the spec does not give: a read's is the number
of its bytes (log 27). -/
def MemOp.packet : MemOp → Nat × Nat × List Byte
  | .load n => (0x01, 2, natBytes 2 n)
  | .store n v => (0x02, n, natBytes n v.toNat)
  | .amo k n b x => (0x03, 17, natBytes 8 b.toNat ++ natBytes 8 x.toNat ++ [BitVec.ofNat 8 (n * 16 + amoCode k)])
  | .rop k b => (0x04, 9, natBytes 8 b.toNat ++ [BitVec.ofNat 8 k.toNat])
  | .rreissue b => (0x04, 9, natBytes 8 b.toNat ++ [4])
  | .ldT => (0x05, 1, [0])
  | .ldS w => (0x05, 9, natBytes 8 w.toNat ++ [1])
  | .rcell k => (0x05, 1, [BitVec.ofNat 8 (8 + k.toNat)])
  | .rfree => (0x05, 1, [2])
  | .rstat => (0x05, 1, [3])
  | .bar op => (0x06, 6, barBytes op)
  | .ev l a g => (0x07, 3, [BitVec.ofNat 8 l, BitVec.ofNat 8 a, BitVec.ofNat 8 g])
  | .join => (0x03, 17, natBytes 16 0 ++ [0x4E])
  | .get n => (0x01, 2, natBytes 2 n)
  | .put n _ => (0x02, n, [])
where
  amoCode : AmoKind → Nat
    | .add => 0 | .and => 1 | .or => 2 | .xor => 3 | .min => 4 | .max => 5 | .minu => 6 | .maxu => 7 | .xchg => 8
    | .cas => 9 | .fadd => 10 | .fmin => 11 | .fmax => 12 | .bfadd2 => 13
  barBytes : BarOp → List Byte
    | .arrive => natBytes 6 0
    | .wait g => natBytes 6 (1 + 256 * g.toNat)
    | .arriveWait => natBytes 6 2
    | .status => natBytes 6 3
    | .join => natBytes 6 4
    | .withdraw g v => natBytes 6 (5 + 256 * (g.toNat * 2 + bit v))
    | .addIn n => natBytes 6 (6 + 256 * n)
    | .subIn n e => natBytes 6 (7 + 256 * n + 2 ^ 40 * e.toNat)

/-- The kind of the copy command whose access a packet carries; 0 for none. -/
def State.copyKind (s : State) (f : Flight) : Nat :=
  match f.eng with
  | some n => (((s.tile f.src).cq.find? fun q => q.cap.id == n).map fun q => cpKind q.bits).getD 0
  | none => 0
/-- Type, length and payload of an access's packet: a fill, a copy sector and a proof stream have types of their own (Table 4, R231). -/
def State.packet (s : State) (f : Flight) : Nat × Nat × List Byte :=
  let (ty, len, pay) := f.op.packet
  let bulk := ty == 0x01 || ty == 0x02
  ((match f.ret with
    | .fill _ => 0x08
    | _ => if bulk && s.copyKind f == 6 then 0x0D else if bulk && s.copyKind f != 0 then 0x09 else ty),
   len, pay ++ (match f.op with | .put _ _ => f.data | _ => []))
/-- Virtual-channel class of a type (Table 4). -/
def packetClass (ty : Nat) : Nat :=
  match ty with
  | 0x09 => 2
  | 0x0A => 0
  | 0x0B => 0
  | 0x0D => 3
  | _ => 1
/-- The source field (R263, Table 2). -/
def State.sourceField (s : State) (f : Flight) (ty : Nat) : Nat :=
  f.owner % 64 + s.ltileRead f.src % 65536 * 2 ^ 6 + f.ctx % 4 * 2 ^ 22 + packetClass ty * 2 ^ 24 + bit f.twin * 2 ^ 26
/-- The message hash (R280): both copies of a pair carry the same when the two tiles agree. -/
def State.hash (s : State) (f : Flight) : BitVec 64 :=
  let (ty, len, pay) := s.packet f
  crc64 (natBytes 8 (f.key &&& ~~~((1 : BitVec 64) <<< 21)).toNat ++ natBytes 4 (s.sourceField { f with twin := false } ty) ++
    natBytes 8 f.addr ++ natBytes 4 (ty + len * 256) ++ pay) 0
/-- A header flit as it is injected, with no hop taken (R263, Tables 1 to 3). -/
def headerFlit (route : BitVec 128) (stamp : BitVec 64) (source addr ty : Nat) (hash : BitVec 64) (pay : List Byte) : BitVec 512 :=
  BitVec.ofNat 512 (route.toNat + stamp.toNat * 2 ^ 128 + source * 2 ^ 192 + addr % 2 ^ 64 * 2 ^ 224 + (ty + pay.length * 2 ^ 8) * 2 ^ 288 +
    hash.toNat * 2 ^ 320 + (if 16 < pay.length then 0 else bytesNat pay) * 2 ^ 384)
/-- The data flits of a payload of more than 16 bytes, which lies in them in order. -/
def payloadFlits (pay : List Byte) : List (BitVec 512) :=
  if pay.length ≤ 16 then []
  else (List.range ((pay.length + 63) / 64)).map fun i => BitVec.ofNat 512 (bytesNat ((pay.drop (64 * i)).take 64))
/-- The header of an access's packet, and its data flits. -/
def State.header (s : State) (f : Flight) : BitVec 512 :=
  let (ty, _, pay) := s.packet f
  let checked := (s.tile f.src).checked
  headerFlit f.route (if checked then f.key else f.stamp) (s.sourceField f ty) f.addr ty (if checked then s.hash f else 0) pay
def State.dataFlits (s : State) (f : Flight) : List (BitVec 512) := payloadFlits (s.packet f).2.2
/-- The payload of a reply: the bytes or the value that it brings, or the cause and detail of a refusal (types 0x0A and 0x0B; the layout is
the model's, log 27). -/
def Flight.replyPayload (f : Flight) : List Byte :=
  match f.stage with
  | .replying true _ _ v => if f.data.isEmpty then natBytes (match f.ret with | .pair _ => 16 | _ => 8) v.toNat else f.data
  | .replying false c d _ => natBytes 1 c.toNat ++ natBytes 8 d.toNat
  | _ => []
def Flight.replyType (f : Flight) : Nat :=
  match f.stage with
  | .replying true _ _ _ => 0x0A
  | _ => 0x0B
/-- The header of a reply, and its data flits: it takes the request's route back (R265). -/
def State.replyHeader (s : State) (f : Flight) : BitVec 512 :=
  headerFlit (replyRoute f.route) f.stamp (s.sourceField { f with twin := false } f.replyType) f.addr f.replyType 0 f.replyPayload
def Flight.replyFlits (f : Flight) : List (BitVec 512) := payloadFlits f.replyPayload
/-- The header and the data flit of a mailbox message (type 0x0C): the way to the mailbox is the one that the interface takes. -/
def State.mailHeader (s : State) (route : BitVec 128) (m : Msg) : BitVec 512 :=
  headerFlit route 0 (ownerOf m.src % 64 + s.ltileRead m.src % 65536 * 2 ^ 6 + m.ctx % 4 * 2 ^ 22 + packetClass 0x0C * 2 ^ 24) 0 0x0C 0
    (natBytes 64 m.body.toNat)
/-- The header of a trace record's packet (type 0x0D), of tile k. That of a discovery packet (type 0x0E) is `State.floodHeader`'s. -/
def State.traceHeader (s : State) (k : Nat) (route : BitVec 128) (pa : Nat) (r : BitVec 128) : BitVec 512 :=
  headerFlit route 0 (ownerOf k % 64 + s.ltileRead k % 65536 * 2 ^ 6 + packetClass 0x0D * 2 ^ 24) pa 0x0D 0 (natBytes 16 r.toNat)

/-- The other copy of a checked pair's packet. -/
def Flight.twins (f g : Flight) : Bool :=
  g.src == otherTwin f.src && g.twin != f.twin && g.dest == f.dest &&
  g.key &&& ~~~((1 : BitVec 64) <<< 21) == f.key &&& ~~~((1 : BitVec 64) <<< 21)
def State.partner (s : State) (f : Flight) : Option Flight :=
  if (s.tile f.src).checked then s.flights.find? fun g => f.twins g else none
def Stage.isTwin : Stage → Bool
  | .twin _ => true
  | _ => false
/-- A copy whose partner has not arrived holds a slot of the port. -/
def State.portHeld (s : State) (d : Dest) : Nat :=
  (s.flights.filter fun f => f.dest == d && f.stage.isTwin && (match s.partner f with
    | some g => (match g.stage with | .home _ => false | .replying _ _ _ _ => false | _ => true)
    | none => true)).length

/-- The ejection port of a destination, numbered as EJECT-PORT numbers it (R264): a slice's of table 5, Benez 6, and a Zeltin gateway's
by its place among those of its die. -/
def State.portOf (s : State) : Dest → Nat
  | .slice n => bitsAt (s.map 5 n).toNat 16 3
  | .gate 0 => 6
  | .gate (n + 1) =>
    8 + ((List.range n).filter fun i => s.imap.any (fun e => e.1 == 6 * 4096 + (i + 1)) &&
      bitsAt (s.map 6 (i + 1)).toNat 0 6 == bitsAt (s.map 6 (n + 1)).toNat 0 6).length
  | .tile k => ltileOf k
  | .cluster k => k
/-- The site at which a route leaves the fabric, and its ejection byte. -/
def State.ejects (s : State) (k : Nat) (r : BitVec 128) : Pos × Nat := (s.routeEnd k (s.posOf k) r, seg r ((firstEject r).getD 0))
/-- A packet on a row of the anchored or of an ingress table leaves the fabric elsewhere than at its destination: its row's route ends at
another place (R264, R278). -/
def State.astray (s : State) (f : Flight) : Bool :=
  let inbound := decide (gateBase ≤ f.src)
  let (p, b) := if inbound then ((routeHops f.route).foldl (fun p h => p.hop h.2) (entrySite (s.map 6 (f.src - gateBase)).toNat),
                                 seg f.route ((firstEject f.route).getD 0))
    else s.ejects f.src f.route
  let at_ (e : Nat) : Bool := entrySite e == p && b == 0xA0 + s.portOf f.dest
  (decide (f.src < bootBase) || inbound) && match f.dest with
  | .slice n => !at_ (s.map 5 n).toNat
  | .gate n => !at_ (s.map 6 n).toNat
  | .tile k => inbound && !(s.tileAt 0 p == some k && b == 0x80)
  | _ => false
/-- The imprecise twin-mismatch fault of both tiles (R281, R371): the key, and the destination's ltile or port. -/
def State.mismatch (s : State) (f : Flight) : State :=
  let place : Nat := s.portOf f.dest
  let c := f.ctx % 4
  let one (s : State) (k : Nat) : State :=
    let x := (s.ctx k c).c
    let r := s.faultRec k c (s.ctx k c).r.pc f.iword 16
      { cause := 0x12, stamp := f.key, detail := BitVec.ofNat 64 place, allow := allowRestartKill }
    -- a tile that its twin's fault has just stopped takes its own report
    if x.run == .blocked && x.fault.isNone && x.gang.isNone then s.takeRec k c r else s.raise k c r
  one (one s (firstTwin f.src)) (otherTwin (firstTwin f.src))
/-- Both copies are discarded. -/
def State.dropPair (s : State) (f : Flight) : State :=
  (match s.partner f with
   | some g => (s.dropFlight f.id).dropFlight g.id
   | none => s.dropFlight f.id).settleMail

/-! ### Replies that are formed (R100, R101) -/

/-- A reply that says the access was applied. -/
def Stage.granted : Stage → Bool
  | .replying ok _ _ _ => ok
  | _ => false
/-- The answer of a performing unit becomes the reply of the access, and of its twin's copy (R281); a posted access
that was applied is over. Messages that it held back arrive (R325). -/
def State.respond (s : State) (f : Flight) (x : Stage) (seen : List Mark) (data : List Byte) : State :=
  let one (s : State) (f : Flight) : State :=
    if x.granted && f.ret == .none then s.dropFlight f.id
    else s.replies f.id fun g => { g with stage := x, seen := seen, data := data }
  (match s.partner f with
   | some g => one (one s f) g
   | none => one s f).settleMail
def State.answer (f : Flight) : Answer → State
  | .held s1 => s1
  | .done s1 v seen => s1.respond f (.replying true 0 0 v) seen []
  | .bytes s1 bs => s1.respond f (.replying true 0 0 0) [] bs
  | .refuse s1 c d => s1.respond f (.replying false c d 0) [] []

/-- The packet is at its endpoint. One that has left the fabric where its destination is not is refused there like an access that ends at a
core without a tile store (R81, R264; DESIGN CHOICE, log 31); an event message for a stopped tile waits (R383). -/
def State.arrive (s : State) (f : Flight) : State :=
  if s.astray f then State.answer f (.refuse s 0x08 0)
  else
    let (n, s1) := s.tickId
    let s2 := s1.setStage f.id (.home n)
    match f.op, f.stopTile s with
    | .ev _ _ _, some k => s2.toStop k (.event f.id)
    | _, _ => s2
def execPacketDeliver (id : Nat) (s : State) : Out :=
  match s.flight id with
  | some f =>
    (match f.stage with
     | .net n =>
       if s.canDeliver f n && !s.stopFull f && !(s.tile f.src).checked then .next (s.arrive f) else .next s
     | _ => .next s)
  | none => .next s

/-- A copy reaches the ejection port (R281): it is held, or matched with the copy that is held there, and then the first
tile's goes on. -/
def execTwinCopyArrival (id : Nat) (s : State) : Out :=
  match s.flight id with
  | some f =>
    (match f.stage with
     | .net n =>
       if !(s.tile f.src).checked || !s.canDeliver f n || s.stopFull f then .next s
       else match s.partner f with
         | some g =>
           if !g.stage.isTwin then
             if s.portHeld f.dest < 32 then .next (s.setStage id (.twin s.gtime)) else .next s
           else if s.hash f = s.hash g then
             if f.twin then .next ((s.setStage id (.twin s.gtime)).arrive g) else .next (s.arrive f)
           else .next ((s.dropPair f).mismatch f)
         | none => if s.portHeld f.dest < 32 then .next (s.setStage id (.twin s.gtime)) else .next s
     | _ => .next s)
  | none => .next s

/-- 50 µs after the first copy, a copy without its partner is discarded; the limit does not run in a pause, at whose end `since` has
moved on by its length (R281, R303). -/
def execTwinTimeout (id : Nat) (s : State) : Out :=
  match s.flight id with
  | some f =>
    (match f.stage with
     | .twin since =>
       let alone := match s.partner f with
         | some g => (match g.stage with | .queued => true | .net _ => true | _ => false)
         | none => true
       let pause := s.sinceTurn
       if alone && !pause && decide (since.toNat + 50000 ≤ s.gtime.toNat) then .next ((s.dropPair f).mismatch f) else .next s
     | _ => .next s)
  | none => .next s

/-! ### Apply (R100, R101) -/

/-- An earlier access of the same context along the same route waits at the same place. -/
def State.applyHeld (s : State) (f : Flight) : Bool :=
  s.flights.any fun g => g.sameQueue f && g.route == f.route && decide (g.id < f.id) && (match g.stage with
    | .home _ => true
    | _ => false)
/-- An access of the host's window is applied behind every earlier write of it: a write behind all, a read behind those to its home
(R346). -/
def State.windowHeld (s : State) (f : Flight) : Bool :=
  f.src == gateBase && s.flights.any fun g =>
    g.src == gateBase && decide (g.id < f.id) && g.isStore && g.isOpen && (f.isStore || g.dest == f.dest)
/-- The access delivered under a name, when it may be applied. -/
def State.delivered? (s : State) (id : Nat) : Option Flight :=
  match s.flight id with
  | some f =>
    (match f.stage with
     | .home _ => if s.applyHeld f || s.windowHeld f then none else some f
     | _ => none)
  | none => none
def MemOp.isStamped : MemOp → Bool
  | .rop _ _ => true
  | .rreissue _ => true
  | _ => false

/-! A matrix row that crosses a 4 KiB edge leaves as two packets, and its two parts are applied in one step: where one is refused the other
is not applied either, so that the row, like those behind it, stands unchanged (R220). -/

/-- The other part of the matrix row whose part a packet carries. -/
def State.rowSibling (s : State) (f : Flight) : Option Flight :=
  match f.op, f.eng with
  | .put _ _, some id =>
    if (s.tile f.src).mq.any fun q => q.cap.id == id then
      s.flights.find? fun g => g.id != f.id && g.src == f.src && g.eng == f.eng && g.part == f.part && (match g.op with
        | .put _ _ => true
        | _ => false)
    else none
  | _, _ => none
/-- The write of one part at its place. -/
def State.applyPart (s : State) (f : Flight) : Answer :=
  match f.dest with
  | .gate _ => s.applyGate f
  | _ => s.applyPut f
/-- Both parts of a row are refused. -/
def State.refuseRow (s : State) (f g : Flight) (c : BitVec 8) (d : BitVec 64) : State :=
  State.answer g (.refuse (State.answer f (.refuse s c d)) c d)
/-- One part of a row that has two is applied when the other may be too. -/
def State.applyRow (s : State) (f g : Flight) : State :=
  match g.stage with
  | .replying false c d _ => State.answer f (.refuse s c d)
  | _ =>
    if (s.delivered? g.id).isNone then s
    else match s.applyPart f with
      | .done s1 _ _ =>
        (match s1.applyPart g with
         | .done s2 _ _ => State.answer g (.done (State.answer f (.done s2 0 [])) 0 [])
         | .refuse _ c d => s.refuseRow f g c d
         | _ => s)
      | .refuse _ c d => s.refuseRow f g c d
      | _ => s
/-- The write of an engine's part. -/
def State.applyParts (s : State) (f : Flight) : State :=
  match s.rowSibling f with
  | some g => s.applyRow f g
  | none => State.answer f (s.applyPart f)

/-- A record that reaches a matrix queue window, at both tiles of a checked pair: another owner's tile, a fenced one and a site without one
refuse it, and a full queue holds it (R223, R370). -/
def State.applyWindow (s : State) (f : Flight) (k : Nat) : Answer :=
  if ownerOf k ≠ f.owner || decide (gateBase ≤ k) || (s.tile k).fenced then .refuse s 0x08 0
  else if (s.targets k).any fun t => (s.tile t).mxFull then .held s
  else .done ((s.targets k).foldl (fun s t => s.windowPush t (BitVec.ofNat 512 (bytesNat f.data))) s) 0 []

/-- A home slice applies one load, store, atomic or cell operation. -/
def execHomeSliceApply (id : Nat) (s : State) : Out :=
  match s.delivered? id with
  | some f =>
    (match f.dest, f.op with
     | .slice _, .load _ => .next (State.answer f (s.applyPlain f))
     | .slice _, .store _ _ => .next (State.answer f (s.applyPlain f))
     | .slice _, .amo _ _ _ _ => .next (State.answer f (s.applyPlain f))
     | .slice _, .join => .next (State.answer f (s.applyJoin f))
     | .slice _, .get n => .next (State.answer f (s.applyGet f n))
     | .slice _, .put _ _ => .next (s.applyParts f)
     | .slice _, op => if op.isStamped then .next s else .next (State.answer f (s.applyCell f))
     | _, _ => .next s)
  | none => .next s
def execStampedOperationApply (id : Nat) (s : State) : Out :=
  match s.delivered? id with
  | some f =>
    (match f.dest with
     | .slice _ => if f.op.isStamped then .next (State.answer f (s.applyStamped f)) else .next s
     | _ => .next s)
  | none => .next s
/-- A target tile applies a load, a store or an atomic (R80, R81). -/
def execRemoteAccessApply (id : Nat) (s : State) : Out :=
  match s.delivered? id with
  | some f =>
    (match f.dest, f.op with
     | .tile _, .bar _ => .next s
     | .tile _, .ev _ _ _ => .next s
     | .tile k, .put _ _ => .next (State.answer f (if windowBase ≤ f.addr then s.applyWindow f k else s.applyTile f k))
     | .tile k, _ => .next (State.answer f (s.applyTile f k))
     | _, _ => .next s)
  | none => .next s
def execRemoteBarrierUpdate (id : Nat) (s : State) : Out :=
  match s.delivered? id with
  | some f =>
    (match f.dest, f.op with
     | .tile k, .bar _ => .next (State.answer f (s.applyTile f k))
     | _, _ => .next s)
  | none => .next s
/-- The event unit of the target tile's cluster acts on a message (R153). -/
def execEventUnitMessage (id : Nat) (s : State) : Out :=
  match s.delivered? id with
  | some f =>
    (match f.dest, f.op with
     | .tile k, .ev line action arg =>
       if (s.tile k).stopArea.contains (.event id) then .next s
       else if ownerOf k ≠ f.owner || (s.tile k).fenced then .next (State.answer f (.refuse s 0x08 0))
       else .next (State.answer f (.done (s.lineAct (clusterKey k) line action arg) 0 []))
     | _, _ => .next s)
  | none => .next s
/-- A gateway reports an access applied (R99). -/
def execGatewayApplied (id : Nat) (s : State) : Out :=
  match s.delivered? id with
  | some f =>
    (match f.dest with
     | .gate _ => .next (s.applyParts f)
     | _ => .next s)
  | none => .next s

/-! ### Reply (R100, R103, R265, R394) -/

/-- A reply: formed when the access was applied or refused. -/
def Stage.isReply : Stage → Bool
  | .replying _ _ _ _ => true
  | _ => false
/-- No reply still on its way was sent earlier between the same endpoints along the same route, which is formed from the request's
(R100, R265): `flights` keeps replies in the order in which they were formed. -/
def State.replyFirst (s : State) (f : Flight) : Bool :=
  (s.flights.takeWhile fun g => g.id != f.id).all fun g =>
    !(g.stage.isReply && g.src == f.src && g.dest == f.dest && replyRoute g.route == replyRoute f.route)

/-- Replies that a refused stamped operation allows (R130, Table 5). -/
def stampedAllow (c : BitVec 8) : BitVec 5 :=
  match c.toNat with
  | 0x0B => allowData
  | 0x0C => allowSkipResumeKill
  | 0x06 => allowSkipResumeKill
  | 0x11 => allowRetryRestartKill
  | _ => allowAll
/-- Replies that the refusal or error of an access allows (R326). -/
def Flight.allow (f : Flight) (c : BitVec 8) : BitVec 5 :=
  if f.op.isStamped then stampedAllow c
  else if c = 0x11 then allowRetryRestartKill
  else allowAll

/-- What a value that returns leaves for order: an acquire takes the marks of releases that it read, and every load keeps those of
fences for a fence (R103, R104, R110). -/
def Sync.replied (y : Sync) (f : Flight) (take : List Mark → List Mark) : Sync :=
  let y := if f.acquire then y.takes (take f.seen) else y
  let y := { y with seen := y.seen ++ (f.seen.filter (·.fence)).map fun e => (f.turn, e) }
  if y.acq == some f.id then { y with acq := none } else y

/-- A piece of a read through the host's window is back, and with the last one the answer (R345). -/
def HostPort.bringPiece (h : HostPort) (name off n v : Nat) : HostPort :=
  match h.reads.find? fun r => r.name == name with
  | none => h
  | some r =>
    let d := BitVec.ofNat 512 (setBits r.data.toNat (8 * off) (8 * n) v)
    if r.left ≤ 1 then { h with rdata := d, reads := h.reads.filter fun q => q.name != name }
    else { h with reads := h.reads.map fun q => if q.name = name then { q with left := q.left - 1, data := d } else q }
/-- A window access was refused (Table 4 of R344). -/
def HostPort.marked (h : HostPort) (bad : Bool) : HostPort := { h with werr := h.werr || bad }
/-- The answer of an inbound packet leaves through its gateway: for the host's window, the bytes read at the place that the
access was given, or the mark of a refusal (R345). -/
def State.gateReply (s : State) (f : Flight) (ok : Bool) (v : BitVec 128) : State :=
  let s1 := s.dropFlight f.id
  if f.src ≠ gateBase then s1
  else
    let n := match f.op with | .load n => n | _ => 0
    let w := if ok then v.toNat else 2 ^ 128 - 1
    { s1 with host := (if n = 0 then s1.host else s1.host.bringPiece f.part f.va.toNat n w).marked !ok }

/-- The answer of an engine's access: the bytes that a row or a sector waits for, or the end of its command (R220, R233, R311). A race is
also reported to the issuing context, at its next boundary (R110, R111, log 36). -/
def State.engReply (s : State) (f : Flight) (ok : Bool) (c : BitVec 8) (d : BitVec 64) : State :=
  let k := f.src
  let id := f.eng.getD 0
  let matrix := (s.tile k).mq.any fun q => q.cap.id == id
  if ok then
    (match f.ret with
     | .piece n => if matrix then s.mxBack k id n f.data else s.cpBack k id f.part n f.data
     | _ => s)
  else
    let s1 := if matrix then s.mxRefused k id f.part (refusedCode 0x27 c d) else s.cpFail k id f.part (refusedCode 0x22 c d)
    let mine := ((s.tile k).mq.map (·.cap) ++ (s.tile k).cq.map (·.cap)).any fun q => q.id == id && s.isThread k q
    if c = 0x0A ∧ mine then
      s1.takeImprecise k f.ctx f.iword { cause := 0x0A, address := f.va, detail := d } none
    else s1

/-- The detail of a refusal: an uncorrectable error has bit 7 (R394). -/
def refusedDetail (c : BitVec 8) (d : BitVec 64) : BitVec 64 := if c = 0x11 then d ||| 0x80 else d
/-- A refusal that arrives with the reply: the context stops at its next boundary, and RETRY sends the access again (R394); a stamped
operation's detail is its operand (R130). -/
def State.refusedReply (s : State) (f : Flight) (c : BitVec 8) (d : BitVec 64) : State :=
  s.takeImprecise f.src f.ctx f.iword
    { cause := c.toNat, address := f.va, stamp := f.stamp,
      detail := if f.op.isStamped then f.op.operand else refusedDetail c d, allow := f.allow c } (some f)
/-- The instruction that waits for an access goes on, or it has failed. -/
def State.armedTo (s : State) (f : Flight) (p : Phase) : State :=
  s.updCtx f.src f.ctx fun x => if x.c.phase = .armed f.id then { x with c := { x.c with phase := p } } else x
/-- A race that a home slice finds is precise at the access, whose context has issued nothing after it (R111): the instruction that waits
for it fails, also when its other pieces are back. An instruction that has failed so fails once. None: the access was sent again, and the
context has gone on. -/
def State.raceStop (s : State) (f : Flight) (d : BitVec 64) : Option State :=
  let x := s.ctx f.src f.ctx
  let here := x.r.pc == f.pc && f.resent.isNone
  match x.c.phase with
  | .armed n => if n = f.id || here then some (s.updCtx f.src f.ctx fun x => { x with c := { x.c with phase := .refused 0x0A f.va d } }) else none
  | .granted _ => if here then some (s.updCtx f.src f.ctx fun x => { x with c := { x.c with phase := .refused 0x0A f.va d } }) else none
  | .refused _ _ _ => if here then some s else none
  | _ => none
/-- The value of a reply goes into its registers. -/
def State.replyValue (s : State) (f : Flight) (v : BitVec 128) : State :=
  match f.ret with
  | .reg r bits e => s.wphys f.src r (e.extend (bits / 8) (v.toNat % 2 ^ bits))
  | .pair r => (s.wphys f.src (some r) (v.setWidth 64)).wphys f.src (some (r + 1)) ((v >>> 64).setWidth 64)
  | _ => s
/-- The refusal of an access that its context waits for. What an instruction itself waits for fails precisely, but an access to a watched
page only where the race check refuses it: its other refusals, and all of one that was sent again, are those of R394. -/
def State.waitRefused (s : State) (f : Flight) (c : BitVec 8) (d : BitVec 64) : State :=
  if f.watched && f.op != .join then
    match if c = 0x0A then s.raceStop f d else none with
    | some s1 => s1
    | none => (s.armedTo f (.granted 0)).refusedReply f c d
  else match f.ret with
    | .gate => s.armedTo f (.refused c f.va (if f.op.isStamped then f.op.operand else d))
    | _ => s.refusedReply f c d
/-- The reply of an access reaches its context. One of an ended thread, slot 4 and above, has no context to stop and no destination that
anything reads: the load's value or refusal is dropped without a report (the spec says nothing of it: DESIGN CHOICE, log 28). -/
def State.reply (s : State) (f : Flight) (ok : Bool) (c : BitVec 8) (d : BitVec 64) (v : BitVec 128) : State :=
  let s1 := s.dropFlight f.id
  if gateBase ≤ f.src then s.gateReply f ok v
  else (if f.eng.isSome then s1.engReply f ok c d
    else if 4 ≤ f.ctx then s1
    else if ok then
      ((s1.updCtx f.src f.ctx fun x =>
        { x with y := x.y.replied f (s.taken f.src f.scope false) }).replyValue f v).armedTo f (.granted v)
    else s1.waitRefused f c d).settleMail
/-- The reply of a fill is for FILL_COMPLETION, the refusal of a posted access for POSTED_REFUSAL. One of a pre-empted thread waits
until the thread is resumed. -/
def Flight.plainReply (f : Flight) (ok : Bool) : Bool :=
  (decide (gateBase ≤ f.src) || decide (f.ctx < 8)) && match f.ret with
  | .fill _ => false
  | .none => ok || f.eng.isSome
  | _ => true
/-- REPLY: it comes later than the issue, so that no access takes no time (R306). -/
def execReply (id : Nat) (s : State) : Out :=
  match s.flight id with
  | some f =>
    (match f.stage with
     | .replying ok c d v => .next (if f.plainReply ok && s.replyFirst f && f.born != s.gtime then s.reply f ok c d v else s)
     | _ => .next s)
  | none => .next s

/-- What a late refusal says: the operand of a stamped operation, else the route register and the mark of an imprecise fault (R82,
R130). -/
def Flight.lateDetail (f : Flight) (c : BitVec 8) (d : BitVec 64) : BitVec 64 :=
  if f.op.isStamped then f.op.operand else if c = 0x11 then d ||| 0x80 else d ||| 0x80 ||| f.rtn.setWidth 64
/-- The address of a late refusal: the access's, or the poisoned doubleword's (R82, R367). -/
def Flight.lateAddress (f : Flight) (c : BitVec 8) : BitVec 64 := if c = 0x11 then f.va &&& ~~~7 else f.va
/-- The refusal of a posted operation of an ended thread finds no context to stop: it is reported, a withdrawal's to the owner's service
core, and no reply is expected (R151). Its detail is a stamped operation's operand, and else the route register of the access without the
mark of bit 7, which says that a context was stopped at a boundary (the spec says neither: DESIGN CHOICE, log 28). -/
def State.lostRefusal (s : State) (f : Flight) (c : BitVec 8) : State :=
  let withdrawn := match f.op with | .bar (.withdraw _ _) => true | _ => false
  let r := s.faultRec f.src (f.ctx % 4) f.pc f.iword 16
    { cause := c.toNat, address := f.va, stamp := f.stamp, detail := if f.op.isStamped then f.op.operand else f.rtn.setWidth 64 }
  s.post (if withdrawn then s.serviceBox f.src else s.levelBox f.src f.level)
    { body := r.message (s.ltileRead f.src), src := f.src, ctx := f.ctx, after := 0 }
/-- A withdrawal that finds no context to stop is reported to the service core (R151). -/
def State.withdrawReport (s : State) (k c : Nat) (pc : BitVec 64) (rtn : Nat) (off : Nat) : State :=
  let f : FaultRec := { (s.faultRec k c pc 0 16 { cause := 0x08, address := BitVec.ofNat 64 off, detail := BitVec.ofNat 64 rtn }) with stamp := 0 }
  s.post (s.serviceBox k) { body := f.message (s.ltileRead k), src := k, ctx := c, after := 0 }
/-- The late refusal of a posted operation stops its context at the next boundary (R82, R130); a race is precise (R111), and one that RETRY
sent again is sent again once more (R394). -/
def State.lateRefusal (s : State) (f : Flight) (c : BitVec 8) (d : BitVec 64) : State :=
  let s1 := s.dropFlight f.id
  if gateBase ≤ f.src then s.gateReply f false 0
  else (if 4 ≤ f.ctx then s1.lostRefusal f c
    else match if f.watched && c == 0x0A then s1.raceStop f d else none with
      | some s2 => s2
      | none =>
        s1.takeImprecise f.src f.ctx f.iword
          { cause := c.toNat, address := f.lateAddress c, stamp := f.stamp, detail := f.lateDetail c d, allow := f.allow c }
          (if f.resent.isSome then some f else none)).settleMail
def execPostedRefusal (id : Nat) (s : State) : Out :=
  match s.flight id with
  | some f =>
    (match f.stage with
     | .replying false c d _ =>
       .next (if f.ret == .none && f.eng.isNone && s.replyFirst f then s.lateRefusal f c d else s)
     | _ => .next s)
  | none => .next s

/-- RETRY of a reported access sends it again: it is applied after everything its context has issued since, and an acquire
holds the context again (R103, R394). An instruction that waited for the access is over, so the new one is posted. -/
def State.resend (s : State) (f : Flight) : State :=
  let (n, s1) := s.tickId
  let g := { f with id := n, stage := .queued, seen := [], data := [], resent := some f.turn,
                    ret := if f.ret == .gate then .none else f.ret }
  let s2 : State := { s1 with flights := s1.flights ++ [g] }
  if f.acquire then s2.updCtx f.src f.ctx fun x => { x with y := { x.y with acq := some n } } else s2

end Sys2Proof.Machine
end

