-- ==== Sys2Proof/Machine/Image.lean ====
section
/-! DEFINITION. The context image (R336, Table 7): its 12,288 bytes, loading it, the engine records in it, and the memory
it is saved to. An image is written, and read, in one step (log 21). -/

namespace Sys2Proof.Machine

/-! ### Engine records (R191, R222, R232) -/

/-- The vector operations in the order of their codes in an image: the layout of a queued vector instruction is the
model's (log 22). -/
def vops : List VOp :=
  [.vld, .vlds, .vldx, .vst, .vsts, .vstx, .vaddI, .vsubI, .vmulI, .vminI, .vmaxI, .vand, .vor, .vxor, .vshl, .vshr, .vsra,
   .vshlImm, .vshrImm, .vsraImm, .vaddF, .vsubF, .vmulF, .vfmaF, .vfnmaF, .vminF, .vmaxF, .vabsF, .vnegF, .vdivF, .vsqrtF,
   .vrcpF, .vrsqF, .vexp2F, .vlog2F, .vfmaBf, .vcvt, .vsplit, .vquant, .vdequant, .vrnsTo, .vrnsFrom] ++
  [.vcmpEq, .vcmpLt, .vcmpLe, .vcmpFlt, .vcmpFle, .vcmpFun, .vsel, .vmand, .vmor, .vmxor, .vmnot, .vmpop,
   .vbcast, .vmovx, .vmovv, .viota, .vperm, .vrot, .vzip, .vunzip, .vmov,
   .vredAddF, .vredAddI, .vredMinF, .vredMaxF, .vredMinI, .vredMaxI, .vscanAddI, .vscanAddF, .vcmul, .mxrd, .mxwr]
/-- Code of an operation, counted from 1. -/
def VOp.code (o : VOp) : Nat := (findFrom (fun i => vops[i]? == some o) 80 0).getD 0 + 1
def VOp.ofCode (n : Nat) : VOp := (vops[n - 1]?).getD .vmov

/-- A queued vector instruction as 64 bytes. -/
def VCmd.record (q : VCmd) : List Byte :=
  let (ssem, inc) := match q.sig with | some (n, i) => (n.toNat, 128 + i % 32) | none => (0, 0)
  natBytes 1 q.op.code ++ natBytes 1 q.d.toNat ++ natBytes 1 q.a.toNat ++ natBytes 1 q.b.toNat ++
  natBytes 8 q.va.toNat ++ natBytes 8 q.vb.toNat ++ natBytes 1 q.space.toNat ++ natBytes 1 q.vl.toNat ++
  natBytes 1 q.msel.toNat ++ natBytes 1 q.win.toNat ++ natBytes 1 inc ++ natBytes 1 ssem ++
  natBytes 2 q.cap.rmode.toNat ++ natBytes 1 q.cap.fenable.toNat ++ natBytes 8 q.cap.key.toNat ++
  natBytes 8 q.cap.pc.toNat ++ natBytes 12 q.cap.iword.toNat ++ natBytes 3 q.cap.region.toNat ++ natBytes 4 0

/-- An ABI tag or semaphore number of the saving context becomes the loading context's (R336). -/
def abiTo (c c' n : Nat) : Nat := if 16 * c ≤ n ∧ n < 16 * c + 16 then n - 16 * c + 16 * c' else n
def abiRecord (c c' : Nat) (b : BitVec 512) : BitVec 512 :=
  let w := abiTo c c' (recField b 4 1)
  let g := abiTo c c' (recField b 6 1)
  let t := recField b 8 1
  setRec (setRec (setRec b 4 1 w) 6 1 g) 8 1 (t / 64 * 64 + abiTo c c' (t % 64))

/-! ### Saving -/

/-- One entry of the clearance table in an image. -/
def Clear.word (e : Clear) : Nat := e.ltile.toNat + e.ctx.toNat * 2 ^ 16 + e.region.toNat * 2 ^ 18 + 2 ^ 63
/-- One counter's configuration in an image. -/
def Counter.word (q : Counter) : Nat := q.event.toNat + bit q.enabled * 2 ^ 16 + bit q.claimed * 2 ^ 17 + bit q.byM * 2 ^ 18
/-- A membership's control word (R147). -/
def Member.word (m : Member) : Nat := m.op.toNat + m.gen.toNat * 2 ^ 16 + bit m.arrived * 2 ^ 20 + 2 ^ 31

/-- A copy command's record with sprog brought up to date, and its progress record (R232, Table 3). -/
def CCmd.record (q : CCmd) : BitVec 512 := setRec q.bits 0x38 4 q.done
/-- Elements of a command before its next sector step its generator from where it stood before sector `base` (R229). -/
def CCmd.genAt (q : CCmd) : BitVec 64 :=
  if cpKind q.bits = 5 ∧ (recRound q.bits q.cap.rmode).1 = 4 then xsN (elemsBefore q.bits q.done - elemsBefore q.bits q.base) q.gen else q.gen
/-- `pos` is 0 for the running command, 1 or 2 for a queued one. -/
def CCmd.progress (q : CCmd) (pos : Nat) : List Byte :=
  natBytes 4 q.done ++ natBytes 4 q.total ++ natBytes 8 q.genAt.toNat ++ natBytes 4 (cpStatus q false) ++ natBytes 2 pos ++
  natBytes 2 (1 + bit (q.waited && (recWait q.bits).isSome) * 2 + bit q.radd * 4) ++ natBytes 8 0
/-- The progress records of a context's commands. -/
def progresses (cs : List CCmd) : List (List Byte) :=
  let first := match cs with | q :: _ => bit !q.started | [] => 0
  (List.range cs.length).zip cs |>.map fun e => e.2.progress (e.1 + first)

/-- Puts values into n slots of a size, zeros after the last. -/
def slots (n size : Nat) (l : List (List Byte)) : List Byte :=
  ((List.range n).map fun i => (l[i]?).getD (List.replicate size 0)).flatten

/-- Registers of the window in the image: slots beyond it are 0. -/
def Tile.xSlots (t : Tile) (r : Regs) : List Byte :=
  ((List.range 128).map fun i => natBytes 8 (if 0 < i ∧ i < xWindow r.win then (t.xr.get 0 (r.xbase + i)).toNat else 0)).flatten
def Tile.vSlots (t : Tile) (r : Regs) : List Byte :=
  ((List.range 64).map fun i => natBytes 128 (if i < vWindow r.win then (t.vr.get 0 (r.vbase + i)).toNat else 0)).flatten

/-- Offsets 0x0000 to 0x24FF: registers and control. `c0` is the context whose ABI objects the image takes. -/
def State.imageLow (s : State) (k : Nat) (x : Ctx) : List Byte :=
  let t := s.tile k
  let r := x.r
  let cause := match x.c.fault with | some f => f.cause.toNat * 2 ^ 24 + 2 ^ 22 | none => 0
  let gangNo := match x.c.gang with | some g => g.member | none => 0
  t.xSlots r ++ t.vSlots r ++
  ((List.range 8).map fun i => natBytes 4 (r.vm i).toNat).flatten ++
  natBytes 8 (setBits r.preds.toNat 0 1 1 + r.vl.toNat * 2 ^ 8 + r.msel.toNat * 2 ^ 16 + r.win.toNat * 2 ^ 24) ++
  natBytes 8 r.pc.toNat ++ natBytes 8 r.ln.toNat ++ natBytes 8 (r.lc.toNat + r.lcstk.length * 2 ^ 32) ++
  slots 4 4 (r.lcstk.reverse.map fun v => natBytes 4 v.toNat) ++
  natBytes 8 r.slim.toNat ++ natBytes 8 (r.rmode.toNat + r.fflags.toNat * 2 ^ 16 + r.fenable.toNat * 2 ^ 24) ++
  natBytes 8 r.srstate.toNat ++ natBytes 8 r.ire.toNat ++
  natBytes 8 (r.seq.toNat + x.y.eord.toNat * 2 ^ 20 + x.y.twinCtr.toNat * 2 ^ 40) ++
  natBytes 8 x.y.region.toNat ++ natBytes 8 x.y.cmark.toNat ++
  natBytes 8 (match x.c.slug with | some g => g.addr.toNat | none => 0) ++
  natBytes 8 (x.c.prior + s.runTime x).toNat ++
  natBytes 8 (gangNo % 16 + bit x.c.fpStop * 2 ^ 4 + x.y.rtck.toNat * 2 ^ 6 + cause) ++ List.replicate 96 0

/-- Offsets 0x2500 to 0x29FF: routes, groups, fences, ABI semaphores and tags, clearance. -/
def State.imageMid (s : State) (k c : Nat) (x : Ctx) : List Byte :=
  let t := s.tile k
  let fence (i : Nat) : Nat := (x.y.fences.get .reset i).serial.toNat + (if i = 0 then x.y.fserial.toNat * 2 ^ 32 else 0)
  ((List.range 16).map fun i => natBytes 16 (x.y.rts.get 0 i).toNat).flatten ++
  slots 8 16 (x.y.members.map fun m => natBytes 16 (if m.op.getLsbD 11 then m.route.toNat else 0)) ++
  ((List.range 4).map fun i => natBytes 8 (fence i)).flatten ++
  ((List.range 16).map fun i => natBytes 2 (s.sem k (16 * c + i))).flatten ++
  natBytes 8 (bitsAt t.tagbits.toNat (16 * c) 16 + bitsAt t.tagerr.toNat (16 * c) 16 * 2 ^ 16) ++
  ((List.range 16).map fun i => natBytes 4 (t.tagst.get 0 (16 * c + i)).toNat).flatten ++
  slots 8 4 (x.y.members.map fun m => natBytes 4 m.word) ++ List.replicate 216 0 ++
  slots 64 8 (x.y.clear.map fun e => natBytes 8 e.word)

/-- Offsets 0x2A00 to 0x2FFF: engine records, counters, with the values that `val` gives them, and what the records captured. -/
def imageHigh (x : Ctx) (val : Nat → BitVec 64) (ms : List MCmd) (cs : List CCmd) (vs : List VCmd) : List Byte :=
  slots 3 64 (ms.map fun q => natBytes 64 q.bits.toNat) ++
  slots 3 64 (cs.map fun q => natBytes 64 q.record.toNat) ++
  slots 3 32 (progresses cs) ++ List.replicate 32 0 ++
  slots 2 64 (vs.map VCmd.record) ++
  ((List.range 8).map fun i => natBytes 8 (val i).toNat).flatten ++
  ((List.range 8).map fun i => natBytes 8 (x.c.counters.get .reset i).word).flatten ++
  slots 3 16 (ms.map fun q => natBytes 8 (q.cap.rmode.toNat + q.cap.fenable.toNat * 2 ^ 16) ++ natBytes 8 q.gen.toNat) ++
  slots 3 48 (cs.map fun q =>
    natBytes 8 (q.cap.rmode.toNat + q.cap.fenable.toNat * 2 ^ 16) ++ natBytes 8 0 ++
    natBytes 16 q.srcRoute.toNat ++ natBytes 16 q.dstRoute.toNat) ++
  List.replicate 576 0

/-- A context's commands in an engine's queue. -/
def Tile.mOf (t : Tile) (c : Nat) : List MCmd := t.mq.filter fun q => q.cap.ctx == c
def Tile.cOf (t : Tile) (c : Nat) : List CCmd := t.cq.filter fun q => q.cap.ctx == c
def Tile.vOf (t : Tile) (c : Nat) : List VCmd := t.vq.filter fun q => q.cap.ctx == c

/-- The context image of context c of tile k (R336, Table 7). -/
def State.image (s : State) (k c : Nat) : List Byte :=
  let x := s.ctx k c
  let t := s.tile k
  s.imageLow k x ++ s.imageMid k c x ++
    imageHigh x (fun i => s.tileCount k c (x.c.counters.get .reset i)) ((t.mOf c).take 3) ((t.cOf c).take 3) ((t.vOf c).take 2)

/-! ### Loading -/

/-- A number in an image. -/
def imgN (img : List Byte) (off n : Nat) : Nat := bytesNat ((img.drop off).take n)
/-- Bytes of an image that are all 0. -/
def imgZero (img : List Byte) (off n : Nat) : Bool := ((img.drop off).take n).all (· == 0)

/-- The windows code is the context's, and the 0 fields are 0 (Table 9, `ctxld`). -/
def imageFits (img : List Byte) (win : BitVec 8) : Bool :=
  imgN img 0x2423 1 == win.toNat &&
  imgZero img (8 * xWindow win) (1024 - 8 * xWindow win) &&
  imgZero img 0x24A0 96 && imgZero img 0x2728 216 && imgZero img 0x2BE0 32 && imgZero img 0x2DC0 576 &&
  ((List.range 8).all fun i => bitsAt (imgN img (0x2708 + 4 * i) 4) 21 10 == 0) &&
  ((List.range 3).all fun i => imgN img (0x2B96 + 32 * i) 2 / 8 == 0 && imgZero img (0x2B98 + 32 * i) 8) &&
  imgZero img 0x2D38 8 && imgZero img 0x2D68 8 && imgZero img 0x2D98 8

def regsOfImage (img : List Byte) (r : Regs) : Regs :=
  let vl := imgN img 0x2421 1 % 64
  { r with
    pc := BitVec.ofNat 64 (imgN img 0x2428 8), ln := BitVec.ofNat 64 (imgN img 0x2430 8),
    lc := BitVec.ofNat 32 (imgN img 0x2438 4),
    lcstk := ((List.range (clampNat 0 4 (imgN img 0x243C 1 % 8))).map fun i => BitVec.ofNat 32 (imgN img (0x2440 + 4 * i) 4)).reverse,
    slim := BitVec.ofNat 64 (imgN img 0x2450 8), rmode := BitVec.ofNat 16 (imgN img 0x2458 2 % 512),
    fflags := BitVec.ofNat 5 (imgN img 0x245A 1), fenable := BitVec.ofNat 5 (imgN img 0x245B 1),
    srstate := (if imgN img 0x2460 8 = 0 then 1 else BitVec.ofNat 64 (imgN img 0x2460 8)),
    ire := BitVec.ofNat 64 (imgN img 0x2468 8), seq := BitVec.ofNat 20 (imgN img 0x2470 8),
    preds := BitVec.ofNat 8 (imgN img 0x2420 1), msel := BitVec.ofNat 3 (imgN img 0x2422 1),
    vl := BitVec.ofNat 6 (clampNat 1 32 (if vl = 0 then 32 else vl)),
    vms := foldUp (fun m i => m.set i (BitVec.ofNat 32 (imgN img (0x2400 + 4 * i) 4))) 8 0 r.vms }

/-- Memberships of an image: the control words that are valid, with their routes. -/
def membersOfImage (img : List Byte) : List Member :=
  (List.range 8).filterMap fun i =>
    let w := imgN img (0x2708 + 4 * i) 4
    if bitAt w 31 then
      some { op := BitVec.ofNat 16 w, route := BitVec.ofNat 128 (imgN img (0x2600 + 16 * i) 16),
             gen := BitVec.ofNat 4 (bitsAt w 16 4), arrived := bitAt w 20 }
    else none
def clearOfImage (img : List Byte) : List Clear :=
  (List.range 64).filterMap fun i =>
    let w := imgN img (0x2800 + 8 * i) 8
    if bitAt w 63 then some { ltile := BitVec.ofNat 16 w, ctx := BitVec.ofNat 2 (bitsAt w 16 2), region := BitVec.ofNat 24 (bitsAt w 18 24) }
    else none
/-- Every fence slot is loaded free, with its serial (R163, R336). -/
def syncOfImage (img : List Byte) (y : Sync) : Sync :=
  { y with
    rts := foldUp (fun m i => m.set i (BitVec.ofNat 128 (imgN img (0x2500 + 16 * i) 16))) 16 0 y.rts,
    rtck := BitVec.ofNat 16 (bitsAt (imgN img 0x2498 4) 6 16),
    members := membersOfImage img,
    fences := foldUp (fun m i => m.set i { Fence.reset with serial := BitVec.ofNat 30 (imgN img (0x2680 + 8 * i) 4) }) 4 0 y.fences,
    fserial := BitVec.ofNat 30 (imgN img 0x2684 4),
    region := BitVec.ofNat 24 (imgN img 0x2478 8), clear := clearOfImage img,
    cmark := BitVec.ofNat 48 (imgN img 0x2480 8),
    eord := BitVec.ofNat 20 (imgN img 0x2470 8 / 2 ^ 20), twinCtr := BitVec.ofNat 20 (imgN img 0x2470 8 / 2 ^ 40) }
/-- The counters of an image, which count on from now; one that `taken` says another context of the tile has claimed meanwhile is
lost (R385; DEDUCED, log 50). -/
def countersOfImage (img : List Byte) (now : BitVec 64) (taken : Nat → Bool) (m : SMap Counter) : SMap Counter :=
  foldUp (fun m i =>
    let w := imgN img (0x2CC0 + 8 * i) 8
    m.set i { claimed := bitAt w 17 && !taken i, byM := bitAt w 18, event := BitVec.ofNat 16 w, enabled := bitAt w 16,
              value := BitVec.ofNat 64 (imgN img (0x2C80 + 8 * i) 8), since := now }) 8 0 m

/-- Semaphores and tags of the ABI ranges of context c (R336). -/
def Tile.loadAbi (t : Tile) (c : Nat) (img : List Byte) : Tile :=
  let tw := imgN img 0x26C0 4
  { t with
    sems := foldUp (fun m i => m.set (16 * c + i) (BitVec.ofNat 16 (imgN img (0x26A0 + 2 * i) 2))) 16 0 t.sems,
    tagbits := BitVec.ofNat 64 (setBits t.tagbits.toNat (16 * c) 16 (tw % 65536)),
    tagerr := BitVec.ofNat 64 (setBits t.tagerr.toNat (16 * c) 16 (tw / 65536)),
    tagst := foldUp (fun m i => m.set (16 * c + i) (BitVec.ofNat 32 (imgN img (0x26C8 + 4 * i) 4))) 16 0 t.tagst }
/-- The register windows; a register whose doublewords in the image are poisoned is poisoned (R367): `bad` tests a doubleword. -/
def Tile.loadRegs (t : Tile) (r : Regs) (img : List Byte) (bad : Nat → Bool) : Tile :=
  let nx := xWindow r.win
  let nv := vWindow r.win
  { t with
    xr := foldUp (fun m i => m.set (r.xbase + i) (BitVec.ofNat 64 (imgN img (8 * i) 8))) (nx - 1) 1 t.xr,
    vr := foldUp (fun m i => m.set (r.vbase + i) (BitVec.ofNat 1024 (imgN img (0x400 + 128 * i) 128))) nv 0 t.vr,
    xPoison := foldUp (fun l i => if bad i then insNat l (r.xbase + i) else l) (nx - 1) 1 (delRange t.xPoison r.xbase nx),
    vPoison := foldUp (fun l i => if (List.range 16).any (fun j => bad (128 + 16 * i + j)) then insNat l (r.vbase + i) else l) nv 0
      (delRange t.vPoison r.vbase nv) }

/-- What a record re-enters with besides what the image holds: the saved command's own, or, under a name `n` of its own, the loading
context's. -/
def State.capOf (s : State) (k c n : Nat) : Captured :=
  let x := s.ctx k c
  { id := s.nextId + n, ctx := c, level := x.c.level, rmode := x.r.rmode, fenable := x.r.fenable, pc := x.r.pc, iword := 0,
    key := 0, slug := x.c.slug.map (·.addr), region := x.y.region }

/-- The matrix commands of an image, for context c; `old` are the commands as they were saved. -/
def State.mOfImage (s : State) (k c c0 : Nat) (img : List Byte) (old : List MCmd) : List MCmd :=
  (List.range 3).filterMap fun i =>
    let b := BitVec.ofNat 512 (imgN img (0x2A00 + 64 * i) 64)
    if b = 0 then none
    else
      let m := imgN img (0x2D00 + 16 * i) 8
      let begun := recField b 0x38 4 != 0
      let q : MCmd := (old[i]?).getD
        { cap := s.capOf k c i, bits := b, gen := 0, waited := begun, started := begun, fresh := true, stopped := false, counted := (recBarOk b 0x0A).isSome,
          flags := 0, range := false, low := none, sig := none, asked := none, got := [], failed := none }
      some { q with
        cap := { q.cap with ctx := c, rmode := BitVec.ofNat 16 m, fenable := BitVec.ofNat 5 (m / 2 ^ 16) },
        bits := abiRecord c0 c b, gen := BitVec.ofNat 64 (imgN img (0x2D08 + 16 * i) 8), stopped := false, fresh := true }
/-- The last units of a list that make up n sectors. -/
def unitsFor (n : Nat) : List PUnit → List PUnit
  | [] => []
  | u :: r => if n ≤ (r.map PUnit.sectors).sum then unitsFor n r else u :: r
/-- The units of a PROOFSTREAM record of N sectors whose command is not known: the last of those that the proof streams and the record
names; those before them had been sent when it issued (the image does not hold them: DEDUCED, log 22). -/
def State.unitsOfRecord (s : State) (k : Nat) (b : BitVec 512) (n : Nat) : List PUnit :=
  if cpKind b = 6 then unitsFor n (((s.owner (ownerOf k)).proof.changed.filter fun u => u.inRecord k b).foldl insUnit []) else []
/-- The copy commands of an image. One that is not known has ended when its accumulated status has a code. -/
def State.cOfImage (s : State) (k c c0 : Nat) (img : List Byte) (old : List CCmd) : List CCmd :=
  (List.range 3).filterMap fun i =>
    let b := BitVec.ofNat 512 (imgN img (0x2AC0 + 64 * i) 64)
    if b = 0 then none
    else
      let p := 0x2B80 + 32 * i
      let m := imgN img (0x2D30 + 48 * i) 8
      let done := imgN img p 4
      let fl := imgN img (p + 0x16) 2
      let st := imgN img (p + 0x10) 4
      let q : CCmd := (old[i]?).getD
        { cap := s.capOf k c (3 + i), bits := b, gen := 0, base := 0, srcRoute := 0, dstRoute := 0, waited := false, started := done != 0, stopped := false,
          counted := (recBarOk b 0x0A).isSome, rwait := false, radd := false, units := s.unitsOfRecord k b (imgN img (p + 4) 4), next := done, done := done, flying := [], index := none, olds := [],
          total := imgN img (p + 4) 4, ended := if st % 256 = 0 then none else some (BitVec.ofNat 8 st, st / 65536), flags := 0, low := none,
          sig := none }
      some { q with
        cap := { q.cap with ctx := c, rmode := BitVec.ofNat 16 m, fenable := BitVec.ofNat 5 (m / 2 ^ 16) },
        bits := abiRecord c0 c b, gen := BitVec.ofNat 64 (imgN img (p + 8) 8), base := done, next := done, done := done, index := none,
        total := imgN img (p + 4) 4, flags := BitVec.ofNat 5 (imgN img (p + 0x11) 1), waited := bitAt fl 1, radd := bitAt fl 2,
        srcRoute := BitVec.ofNat 128 (imgN img (0x2D40 + 48 * i) 16), dstRoute := BitVec.ofNat 128 (imgN img (0x2D50 + 48 * i) 16),
        stopped := false }
/-- The vector instructions of an image. -/
def State.vOfImage (s : State) (k c c0 : Nat) (img : List Byte) (old : List VCmd) : List VCmd :=
  let r := (s.ctx k c).r
  (List.range 2).filterMap fun i =>
    let n := 0x2C00 + 64 * i
    if imgN img n 1 = 0 then none
    else
      let f (off w : Nat) : Nat := imgN img (n + off) w
      let cap : Captured := match old[i]? with
        | some q => { q.cap with ctx := c }
        | none => s.capOf k c (6 + i)
      some { cap := { cap with rmode := BitVec.ofNat 16 (f 26 2), fenable := BitVec.ofNat 5 (f 28 1), key := BitVec.ofNat 64 (f 29 8),
                                       pc := BitVec.ofNat 64 (f 37 8), iword := BitVec.ofNat 96 (f 45 12), region := BitVec.ofNat 24 (f 57 3) },
             op := VOp.ofCode (f 0 1), d := BitVec.ofNat 8 (f 1 1), a := BitVec.ofNat 8 (f 2 1), b := BitVec.ofNat 8 (f 3 1),
             va := BitVec.ofNat 64 (f 4 8), vb := BitVec.ofNat 64 (f 12 8), space := BitVec.ofNat 2 (f 20 1),
             vl := BitVec.ofNat 6 (f 21 1), msel := BitVec.ofNat 3 (f 22 1), win := r.win, xbase := r.xbase, vbase := r.vbase,
             sig := if 128 ≤ f 24 1 then some (BitVec.ofNat 8 (abiTo c0 c (f 25 1)), f 24 1 % 32) else none }

/-- The tags that commands name are outstanding. -/
def Tile.tagsHeld (t : Tile) (l : List (BitVec 512)) : Tile :=
  l.foldl (fun t b => match recTag b with | some n => { t with tagOut := t.tagOut.set n (t.tagOut.get 0 n + 1) } | none => t) t
def Tile.tagsFreed (t : Tile) (l : List (BitVec 512)) : Tile :=
  l.foldl (fun t b => match recTag b with | some n => { t with tagOut := t.tagOut.set n (t.tagOut.get 0 n - 1) } | none => t) t

/-- A context's commands leave the engines. When a command that the array had begun is among them, an idle period begins
(R226). -/
def Tile.takeOut (t : Tile) (c : Nat) (now : BitVec 64) : Tile :=
  let t := t.tagsFreed ((t.mOf c).map (·.bits) ++ (t.cOf c).map (·.bits))
  { t with mx := if (t.mOf c).any (·.busy) then t.mx.idle now else t.mx,
           mq := t.mq.filter (fun q => q.cap.ctx != c), cq := t.cq.filter (fun q => q.cap.ctx != c),
           vq := t.vq.filter (fun q => q.cap.ctx != c) }
/-- A command enters the matrix queue behind the running one and those issued before it (R209, R225). -/
def enterM (q : MCmd) : List MCmd → List MCmd
  | [] => [q]
  | p :: r => if p.started || decide (p.cap.id < q.cap.id) then p :: enterM q r else q :: p :: r
/-- A vector instruction enters its queue behind those issued before it (R191, R224, R225). -/
def enterV (q : VCmd) : List VCmd → List VCmd
  | [] => [q]
  | p :: r => if p.cap.id < q.cap.id then p :: enterV q r else q :: p :: r
/-- The context that saved the image of a slug last; the loading one when none has (R336). -/
def State.saverOf (s : State) (o : Nat) (slug : BitVec 64) (c : Nat) : Nat := (s.owner o).savers.get c slug.toNat
/-- The records of an image enter the engines of tile k ahead of what context c issues afterwards (R336). `c0` is the
context that saved them. Commands that are not known take names of their own, matrix before copy before vector. -/
def State.reenter (s : State) (k c c0 : Nat) (img : List Byte) (oldM : List MCmd) (oldC : List CCmd) (oldV : List VCmd) : State :=
  let ms := s.mOfImage k c c0 img oldM
  let cs := s.cOfImage k c c0 img oldC
  let vs := s.vOfImage k c c0 img oldV
  ({ s with nextId := s.nextId + if ms.isEmpty && cs.isEmpty && vs.isEmpty then 0 else 8 } : State).updTile k fun t =>
    { (t.tagsHeld (ms.map (·.bits) ++ cs.map (·.bits))) with
        mq := ms.foldl (fun l q => enterM q l) t.mq, cq := t.cq ++ cs, vq := vs.foldl (fun l q => enterV q l) t.vq }

/-- Loads everything of an image but its engine records into context c of tile k, whose windows are placed. -/
def State.loadImage (s : State) (k c : Nat) (img : List Byte) (bad : Nat → Bool) : State :=
  let taken (i : Nat) : Bool := (List.range 4).any fun d => d != c && ((s.ctx k d).c.counters.get .reset i).claimed
  let s := s.updCtx k c fun x =>
    { r := regsOfImage img x.r, y := syncOfImage img x.y, c := { x.c with counters := countersOfImage img s.gtime taken x.c.counters } }
  s.updTile k fun t => (t.loadRegs (t.ctxs.get .reset c).r img bad).loadAbi c img

/-! ### The memory of an image -/

/-- A cell lies in [pa, pa + n). -/
def State.cellIn (s : State) (pa n : Nat) : Bool :=
  s.slices.any fun e => e.2.cells.any fun q => q.2.isSome && decide (pa / 8 ≤ q.1) && decide (q.1 < (pa + n + 7) / 8)

/-- A part of an image in memory: its virtual and physical address, its length, the key slot of its leaf, and whether its page is
watched. -/
structure Span where
  va : Nat
  pa : Nat
  size : Nat
  slot : Nat
  watch : Bool
deriving DecidableEq, Repr
/-- Why an image cannot be reached: a fault, or a page under migration, which is waited for. -/
inductive SpanStop where
  | fault (a : FaultArg) (fx : State → State)
  | hold (s : State)
/-- The parts of [va, va + n) by 64 KiB page, where each lies; or the fault of R83. -/
def State.spanPieces (k : Nat) (lv : Level) (write : Bool) : Nat → Nat → Nat → State → Except SpanStop (List Span × State)
  | 0, _, _, s => .ok ([], s)
  | fuel + 1, va, n, s =>
    if n = 0 then .ok ([], s)
    else
      let m := if n < 65536 - va % 65536 then n else 65536 - va % 65536
      match s.xlate k .data lv va write false with
      | .fault c d fx => .error (.fault { cause := c, address := BitVec.ofNat 64 va, detail := d } fun q => fx (s.walked k q))
      | .mig s1 => .error (.hold s1)
      | .ok pa w slot s1 =>
        if (destOf pa).isNone || (write && s1.cellIn pa m) then .error (.fault { cause := 0x06, address := BitVec.ofNat 64 va } (s1.walked k))
        else match State.spanPieces k lv write fuel (va + m) (n - m) s1 with
          | .error e => .error e
          | .ok (l, s2) => .ok ({ va := va, pa := pa, size := m, slot := slot, watch := w && paKind pa == .module } :: l, s2)
/-- The race check of an instruction's access to parts (R110, R111): recorded, or the precise exception. -/
def State.raceSpans (s : State) (write : Bool) : List Span → Except FaultArg State
  | [] => .ok s
  | p :: r =>
    match if p.watch then s.raceLines s.cur s.curCtx s.me.y.region (!write) write (p.pa / 64) ((p.pa + p.size + 63) / 64 - p.pa / 64)
          else .ok s with
    | .error d => .error { cause := 0x0A, address := BitVec.ofNat 64 p.va, detail := d }
    | .ok s1 => State.raceSpans s1 write r
/-- Writes bytes to parts. -/
def State.putPieces (s : State) (o : Nat) : List Span → List Byte → State
  | [], _ => s
  | p :: r, bs => State.putPieces (s.memPut o p.va p.slot p.pa (bs.take p.size)) o r (bs.drop p.size)
/-- Bytes of parts, and which doublewords of them are poisoned. -/
def State.getPieces (s : State) : List Span → List Byte
  | [] => []
  | p :: r => s.memBytes p.slot p.pa p.size ++ State.getPieces s r
def State.badPieces (s : State) : List Span → List Bool
  | [] => []
  | p :: r => (List.range (p.size / 8)).map (fun i => s.memPoison.contains (p.pa / 8 + i)) ++ State.badPieces s r

/-- Poisoned registers of a context leave their mark on their doublewords of its image (R367). -/
def Tile.badUnits (t : Tile) (r : Regs) : List Nat :=
  ((List.range (xWindow r.win)).filter fun i => t.xPoison.contains (r.xbase + i)) ++
  ((List.range (16 * vWindow r.win)).filter fun i => t.vPoison.contains (r.vbase + i / 16)).map (· + 128)
def unitOf : List Span → Nat → Option Nat
  | [], _ => none
  | p :: r, i => if i < p.size / 8 then some (p.pa / 8 + i) else unitOf r (i - p.size / 8)

/-- Writes the image of a context at a virtual address; the owner keeps which context saved the slug's. -/
def State.saveAt (s : State) (k c : Nat) (l : List Span) : State :=
  let s2 := s.putPieces (ownerOf k) l (s.image k c)
  let add (p : List Nat) (i : Nat) : List Nat := match unitOf l i with | some n => insNat p n | none => p
  let s3 : State := { s2 with memPoison := ((s.tile k).badUnits (s.ctx k c).r).foldl add s2.memPoison }
  match (s.ctx k c).c.slug with
  | some g => s3.updOwner (ownerOf k) fun o => { o with savers := o.savers.set g.addr.toNat (c % 4) }
  | none => s3

/-! ### Stopping a thread so that its image can be saved (R316, R336) -/

/-- A held `ld.s`: the home slice may give it back (R85). -/
def Flight.isLdS (f : Flight) : Bool :=
  match f.op, f.stage with
  | .ldS _, .replying _ _ _ _ => false
  | .ldS _, _ => true
  | _, _ => false
/-- A wait on a barrier object of another tile (R144, R145). -/
def Flight.isBarWait (f : Flight) : Bool :=
  match f.op with
  | .bar (.wait _) => true
  | .bar .arriveWait => true
  | _ => false
/-- One that is held there: the same wait goes on after a pre-emption (R144). -/
def State.barHeld (s : State) (f : Flight) : Bool :=
  f.isBarWait && (match f.dest with
    | .tile t => (s.tile t).barWait.any fun w => w.ctx.isNone && w.flight == f.id
    | _ => false)
/-- A demand-window fill, which a pre-emption leaves alone (R96). -/
def Flight.isFill (f : Flight) : Bool := match f.ret with | .fill _ => true | _ => false
/-- No engine command of a context is inside a row or a sector. -/
def Tile.enginesParked (t : Tile) (c : Nat) : Bool :=
  ((t.cOf c).all fun q => q.flying.isEmpty) && (t.mOf c).all fun q => q.asked.isNone && q.failed.isNone
/-- Nothing of a stopped context is in flight but what goes on waiting. -/
def State.saveReady (s : State) (k c : Nat) : Bool :=
  s.flights.all (fun f => !(f.src == k && f.ctx == c) || f.isFill || f.isLdS || s.barHeld f) && (s.tile k).enginesParked c
/-- Every access of a context has performed or been refused (R336). -/
def State.imageReady (s : State) (k c : Nat) : Bool :=
  s.flights.all (fun f => !(f.src == k && f.ctx == c) || f.isFill) && (s.tile k).enginesParked c

/-- The thread stops for its save: it waits no more and issues nothing. -/
def Ctx.stopForSave (x : Ctx) (now : BitVec 64) : Ctx :=
  { x with c := { x.c.stopRun now with run := .held, waitOn := .nothing, saving := true } }

/-- First free slot for a pre-empted thread of context c of a tile. -/
def Tile.freeSlot (t : Tile) (c : Nat) : Nat :=
  8 + 4 * (findFrom (fun j => (t.ctxs.get .reset (8 + 4 * j + c)).c.run == .idle) 64 0).getD 0 + c

/-- What names the thread of context c of tile k names it as context c' of tile k' from now on. -/
def State.rename (s : State) (k c k' c' : Nat) : State :=
  let me := partyOf k c
  let you := partyOf k' c'
  let fixL (l : EvLine) : EvLine :=
    { l with holder := l.holder.map (fun p => if p = me then you else p), queue := l.queue.map fun p => if p = me then you else p }
  let fixW (w : FpWindow) : FpWindow :=
    { w with excs := w.excs.map (fun e => if e.tile = k ∧ e.ctx = c then { e with tile := k', ctx := c' } else e),
             also := w.also.map fun e => if e = (k, c) then (k', c') else e }
  let fixP (p : Push) : Push := if p.launcher ∧ p.src = k ∧ p.ctx = c then { p with src := k', ctx := c' } else p
  let fixB (w : BarWaiter) : BarWaiter := if w.ctx = some me then { w with ctx := some you } else w
  -- the offsets for imbalance records move with the thread (R158)
  let offs := (s.tile k).recOff.filter fun e => e.1 % 1024 == c
  let s := (s.updTile k fun t => { t with recOff := t.recOff.filter fun e => e.1 % 1024 != c }).updTile k' fun t =>
    { t with recOff := offs.foldl (fun m e => m.set (e.1 / 1024 * 1024 + c') e.2) t.recOff }
  let dx : Int := ((s.ctx k' c').r.xbase : Int) - ((s.ctx k c).r.xbase : Int)
  let move (r : Ret) : Ret := match r with
    | .reg (some n) b e => .reg (some ((n : Int) + dx).toNat) b e
    | r => r
  { s with
    tiles := s.tiles.map fun e => (e.1, { e.2 with barWait := e.2.barWait.map fixB }),
    clusters := s.clusters.map fun e => (e.1, { e.2 with lines := e.2.lines.map fun l => (l.1, fixL l.2) }),
    owners := s.owners.map fun e => (e.1, { e.2 with windows := e.2.windows.map fixW }),
    formes := s.formes.map fun e => (e.1, { e.2 with galleys := e.2.galleys.map fun g => (g.1, { g.2 with pushes := g.2.pushes.map fixP }) }),
    flights := s.flights.map fun f =>
      if f.src = k ∧ f.ctx = c ∧ f.isLdS then { f with src := k', ctx := c', stage := .queued, ret := move f.ret }
      else if f.src = k ∧ f.ctx = c ∧ f.isBarWait then { f with src := k', ctx := c' }
      else f }

/-- A fill wait is given up: the access is made again at the resume (R96); the context's commands, which leave their engines, touch again
too. -/
def State.dropWaiters (s : State) (k c : Nat) : State :=
  let core := (s.tile k).waiters.any fun w => w.ctx == c && w.who == .core
  let s := if (s.tile k).waiters.any fun w => w.ctx == c then s.updTile k fun t => { t with waiters := t.waiters.filter fun w => w.ctx != c } else s
  if core then s.updCtx k c fun x => { x with c := { x.c with phase := .passed } } else s

/-- The saved thread leaves its context: a slot of the tile keeps what the image does not hold (log 23). -/
def State.park (s : State) (k c : Nat) : State :=
  let s := s.dropWaiters k c
  let x := s.ctx k c
  let n := (s.tile k).freeSlot c
  let s := s.setCtx k n { x with c := { x.c with run := .held, saving := false, runFrom := none, blkFrom := none } }
  let s := s.rename k c k n
  let own (q : Captured) : Captured := { q with ctx := n }
  let s := s.updTile k fun t =>
    { (t.takeOut c s.gtime) with
        migHeld := t.migHeld.filter (fun h => h.ctx != c),
        vqOff := t.vqOff ++ ((t.vOf c).take 2).map (fun q => { q with cap := own q.cap }),
        mqOff := t.mqOff ++ ((t.mOf c).take 3).map (fun q => { q with cap := own q.cap }),
        cqOff := t.cqOff ++ ((t.cOf c).take 3).map fun q => { q with cap := own q.cap } }
  s.updCtx k c fun x => { x with y := { x.y with members := [], acq := none }, c := .reset }

/-- A number that a superstep close has set to 0 in a slot stays 0, whatever the image holds (R110, R121, R182, R279). -/
def unlessClosed (kept img : BitVec w) : BitVec w := if kept = 0 then 0 else img
/-- The slot of a tile that keeps the pre-empted thread of a slug. -/
def Tile.slotOf (t : Tile) (slug : BitVec 64) : Option Nat :=
  (t.ctxs.find? fun e => decide (8 ≤ e.1) && e.2.c.run != .idle && (e.2.c.slug.map (·.addr)) == some slug).map (·.1)
/-- What a slot kept goes to the context that resumes the thread. -/
def State.unpark (s : State) (k n k' c' : Nat) (img : List Byte) : State :=
  let x := s.ctx k n
  let t := s.tile k
  let oldM := t.mqOff.filter fun q => q.cap.ctx == n
  let oldC := t.cqOff.filter fun q => q.cap.ctx == n
  let oldV := t.vqOff.filter fun q => q.cap.ctx == n
  let s := s.rename k n k' c'
  let s := s.updTile k fun t =>
    { t with mqOff := t.mqOff.filter (fun q => q.cap.ctx != n), cqOff := t.cqOff.filter (fun q => q.cap.ctx != n),
             vqOff := t.vqOff.filter (fun q => q.cap.ctx != n), ctxs := t.ctxs.erase n }
  let s := s.updCtx k' c' fun y =>
    { r := { y.r with seq := unlessClosed x.r.seq y.r.seq },
      y := { y.y with region := unlessClosed x.y.region y.y.region, eord := unlessClosed x.y.eord y.y.eord,
                      twinCtr := unlessClosed x.y.twinCtr y.y.twinCtr, fenced := x.y.fenced, seen := x.y.seen, evicted := x.y.evicted, acq := x.y.acq },
      c := { y.c with phase := x.c.phase, held := x.c.held, waitOn := x.c.waitOn, preJoin := x.c.preJoin, blkAcc := x.c.blkAcc,
                      -- a gang goes on inside the instruction in which it stopped (R322)
                      gang := y.c.gang.map fun g => match x.c.gang with
                        | some h => { g with turn := h.turn, did := h.did, word := h.word, pc := h.pc }
                        | none => g,
                      wdNext := x.c.wdNext, prior := BitVec.ofNat 64 (imgN img 0x2490 8),
                      fpStop := x.c.fpStop && bitAt (imgN img 0x2498 4) 4 } }
  s.reenter k' c' (n % 4) img oldM oldC oldV

end Sys2Proof.Machine
end

