-- ==== Sys2Proof/Machine/Slug.lean ====
section
/-! DEFINITION. Slugs, galleys and threads (R68, R69, R308 to R318, R321): the slug record, pushes, `launch` and `join`,
how a thread starts and how it ends. -/

namespace Sys2Proof.Machine

/-! ### Reads and writes of the galley controller and the distributors -/

/-- A 57-bit address of an owner as the controllers reach it, with the key slot of its leaf; the cause when they cannot. -/
def State.ctlAt (s : State) (o va : Nat) (write : Bool) : Except Nat (Nat × Nat) :=
  if 2 ^ 57 ≤ va then .error 0x05
  else match walk s.mem (s.owner o).ptbase va with
    | .leaf _ e level _ =>
      let t := tlbOf va e level true
      let pa := t.frame + va % 2 ^ t.lg
      if !t.r || (write && !t.w) || (destOf pa).isNone || !s.keyOk o t.key then .error 0x06 else .ok (pa, t.key)
    | .stop _ _ => .error 0x05
/-- n bytes there. -/
def State.ctlRead (s : State) (o va n : Nat) : Option Nat :=
  match s.ctlAt o va false with
  | .ok (pa, slot) => if s.memPoisoned pa n then none else some (s.memReadN slot pa n)
  | .error _ => none
/-- The low n bytes of a number are written there; nothing is where the page cannot be written. -/
def State.ctlWrite (s : State) (o va n v : Nat) : State :=
  match s.ctlAt o va true with
  | .ok (pa, slot) => (s.leafUsed o va true).memWrite o va slot pa n v
  | .error _ => s
/-- Detail of the page fault of a controller (R326): a read or a write, and where its walk stopped. -/
def State.ctlDetail (s : State) (o va : Nat) (write : Bool) : Nat :=
  (if write then 2 ^ 53 else 2 ^ 52) + match walk s.mem (s.owner o).ptbase va with
    | .stop level bad => bit bad * 2 ^ 51 + level % 4 * 2 ^ 48
    | .leaf _ _ _ _ => 0

/-! ### The slug record (R308, Table 1) -/

structure Slug where
  code : BitVec 64
  frame : BitVec 64
  succ : BitVec 64
  galley : Nat
  flags : BitVec 16
  energy : Nat
  current : Nat
  windows : BitVec 8
  slice : Nat
  group : BitVec 16
  prio : Nat
  width : Nat
  index : BitVec 32
  arg0 : BitVec 64
  arg1 : BitVec 64
deriving DecidableEq, Repr

def Slug.ofNat (v : Nat) : Slug :=
  let f (off n : Nat) : Nat := bitsAt v (8 * off) (8 * n)
  { code := BitVec.ofNat 64 (f 0 8), frame := BitVec.ofNat 64 (f 8 8), succ := BitVec.ofNat 64 (f 0x10 8), galley := f 0x1C 2,
    flags := BitVec.ofNat 16 (f 0x1E 2), energy := f 0x20 2, current := f 0x22 1, windows := BitVec.ofNat 8 (f 0x23 1),
    slice := f 0x24 4, group := BitVec.ofNat 16 (f 0x28 2), prio := f 0x2A 1, width := f 0x2B 1,
    index := BitVec.ofNat 32 (f 0x2C 4), arg0 := BitVec.ofNat 64 (f 0x30 8), arg1 := BitVec.ofNat 64 (f 0x38 8) }
def State.readSlug (s : State) (o va : Nat) : Option Slug := (s.ctlRead o va 64).map Slug.ofNat

def Slug.barrier (g : Slug) : Bool := g.flags.getLsbD 0
def Slug.twin (g : Slug) : Bool := g.flags.getLsbD 1
def Slug.isGang (g : Slug) : Bool := g.flags.getLsbD 2
/-- Tiles that run the slug. -/
def Slug.span (g : Slug) : Nat := if g.isGang then g.width else 1
/-- A windows code of R25. -/
def windowsOk (w : BitVec 8) : Bool := decide (bitsAt w.toNat 2 3 < 5) && bitsAt w.toNat 5 3 == 0
/-- The fault of a record that breaks Table 1, and the offset of its first failing field (R309). -/
def Slug.broken (g : Slug) (ckmode : Bool) : Option (Nat × Nat) :=
  if g.code.toNat % 4 ≠ 0 then some (0x04, 0x00)
  else if 32 ≤ g.flags.toNat || g.twin != ckmode then some (0x02, 0x1E)
  else if !windowsOk g.windows then some (0x02, 0x23)
  else if 3 < g.prio then some (0x02, 0x2A)
  else if (if g.isGang then !(decide (2 ≤ g.width) && decide (g.width ≤ 16)) else decide (1 < g.width)) then some (0x02, 0x2B)
  else none

/-! ### Messages of the galley controller (R308, R318, R325) -/

/-- The tile and context that a controller's message names: a private galley's own; for a shared galley the forme's
first tile and context 0 (log 24). -/
def galleyTile (o f g : Nat) : Nat := tileKey o (f * 1024 + if 256 ≤ g then (g - 256) / 4 else 0)
def galleyCtx (g : Nat) : Nat := if 256 ≤ g then (g - 256) % 4 else 0
def State.ctlPost (s : State) (o f g cause address detail : Nat) : State :=
  let k := galleyTile o f g
  let r : FaultRec :=
    { cause := BitVec.ofNat 8 cause, src := BitVec.ofNat 8 (galleyCtx g + 12), pc := 0, iword := 0, address := BitVec.ofNat 64 address,
      stamp := 0, detail := BitVec.ofNat 64 detail, gtime := s.gtime, cyc := s.cyc k, allow := allowRetry, resend := none,
      atFin := false, once := false }
  s.post (s.serviceBox k) { body := r.message (ltileOf k), src := k, ctx := 0, after := 0 }

def State.galley (s : State) (o f g : Nat) : Galley := (s.forme (o * 64 + f)).galleys.get .reset g
def State.updGalley (s : State) (o f g : Nat) (u : Galley → Galley) : State :=
  s.updForme (o * 64 + f) fun w => { w with galleys := w.galleys.set g (u (w.galleys.get .reset g)) }

/-! ### join (R69) -/

/-- The join step on the slug at an address leaves the moving context for the home slice of its count: one access of release order at
owner scope, which the context waits for. -/
def State.sendJoin (s : State) (va : Word) : Res :=
  match spaceCheck va 64 64 vaLimit with
  | some a => .trap a
  | none =>
    match s.reach va.toNat true true with
    | .trap a fx => .trapBy fx a
    | .hold s1 => .ends s1
    | .at_ pa slot d r w s1 =>
      let q : Req2 := { dest := d, addr := pa + 0x18, va := va, slot := slot, op := .join, ret := .gate, route := r, isLoad := true,
                        isStore := true, order := 2, scope := 2, watched := w }
      match s.watched2 (va + 0x18) q with
      | some r => r.after (s1.walked s.cur)
      | none => s1.sendWait q
/-- The galley that a join could not push to, from its value. -/
def unpushedGalley (v : BitVec 128) : Option Nat := if v.getLsbD 32 then some (bitsAt v.toNat 33 16) else none
/-- join (R69): its address is checked, then it waits in its queue for everything earlier of the context (DESIGN CHOICE, log 72: the
spec gives the two no order). -/
def execJoin (f : SDA) (s : State) : Out :=
  s.issue f.h (some f.t) .u [(f.d, .wx), (f.a, .rx)] false false fun s _ =>
    match s.me.c.phase with
    | .granted v =>
      (match unpushedGalley v with
       | some g => .trap { cause := 0x06, detail := BitVec.ofNat 64 g }
       | none => .ok (s.wx f.d.num (BitVec.ofNat 64 (v.toNat % 2 ^ 32))))
    | .refused c a d => .trap (refusedArg c a d)
    | _ => if s.acqHeld then .stall else s.sendJoin (s.rx f.a.num)

/-! ### launch (R68, R311) -/

/-- The ring has no room behind what waits and what is on its way. -/
def Galley.full (g : Galley) : Bool := decide (g.capacity ≤ g.waiting + g.pushes.length)
/-- launch: its address is checked, then the galley, and then it waits for everything earlier of the context (DESIGN CHOICE, log 72: the
spec gives the checks no order). Its address is translated as `join` translates its own, so it takes the faults of the route to the slug
too, though it makes no access itself (R68 names no such fault: DESIGN CHOICE, log 72). Into a full ring it waits as under Wait, keeping its place. In checked mode one of the pair's two
pushes goes on, the first tile's (R281, R370). -/
def execLaunch (f : SAB) (s : State) : Out :=
  s.issue f.h (some f.t) .u [(f.a, .rx), (f.b, .rx)] false false fun s _ =>
    let a := s.rx f.a.num
    let g := (s.rx f.b.num).toNat
    let o := ownerOf s.cur
    let fo := formeOf s.cur
    match s.resumed (fun _ => s) with
    | some r => r
    | none =>
      match spaceCheck a 64 64 vaLimit with
      | some e => .trap e
      | none =>
        match s.reach a.toNat true true with
        | .trap e fx => .trapBy fx e
        | .hold s1 => .ends s1
        | .at_ _ _ _ _ _ s1 =>
          if !s.pushable o fo g then .trapBy (s1.walked s.cur) { cause := 0x06, detail := BitVec.ofNat 64 g }
          else if s.acqHeld || !s.allQuiet then .stall
          else if s.silent s.cur then .ok (s1.updY Sync.ordered)
          else
            let full := (s.readGalley o fo g).full
            let p : Push := { addr := a, src := s.cur, ctx := s.curCtx, after := 0, launcher := full, flight := none,
                              mark := some (s.markOf s.cur s.curCtx (s.me.y.region, 2) false) }
            let s2 := (s1.pushTo o fo g p).updY Sync.ordered
            if full then s2.armWait else .ok s2

/-! ### A push is applied (R308, R310 to R312) -/

/-- What was waiting for the push goes on: a `launch`, a store at its home slice. -/
def State.pushed (s : State) (p : Push) : State :=
  let s := if p.launcher then s.updCtx p.src p.ctx fun x => { x with c := { x.c with phase := .granted 0 } } else s
  match p.flight with
  | some id => (match s.flight id with | some f => State.answer f (.done s 0 []) | none => s)
  | none => s
/-- The place in the ring that a new entry takes: the lowest free one (DESIGN CHOICE, log 74); beyond the ring when it is full. -/
def Galley.place (q : Galley) : Nat :=
  (findFrom (fun i => q.fifo.all fun e => e.2.all fun x => x.slot != i) q.capacity 0).getD q.capacity
/-- An entry is written into its galley's ring (R310): the slug's address, and the resume mark in bit 0. -/
def State.ringWrite (s : State) (o : Nat) (q : Galley) (e : Entry) : State :=
  if q.capacity ≤ e.slot then s
  else s.ctlWrite o (bitsAt q.ring.toNat 12 45 * 4096 + 8 * e.slot) 8 (e.addr.toNat + bit e.resume)
/-- The oldest push of a galley is applied when its ring has room; a prio byte that cannot be read holds it, with one
message (R308). -/
def State.applyPush (s : State) (o f g : Nat) : State :=
  let q := s.galley o f g
  match q.pushes with
  | [] => s
  | p :: rest =>
    if q.stuck.contains 4 || decide (q.capacity ≤ q.waiting) then s
    else
      let e : Entry := { addr := p.addr, resume := false, slot := q.place, mark := p.mark }
      let put (s : State) (prio : Nat) : State :=
        ((s.updGalley o f g fun w => { w with pushes := rest, fifo := w.fifo.set prio (w.fifo.get [] prio ++ [e]) }).ringWrite o q e).pushed p
      if q.kind = 2 then put s 0
      else match s.ctlRead o (p.addr.toNat + 0x2A) 1 with
        | some b => put (s.leafUsed o (p.addr.toNat + 0x2A) false) (b % 4)
        | none =>
          (s.updGalley o f g fun w => { w with stuck := w.stuck ++ [4] }).ctlPost o f g 0x05 p.addr.toNat
            (s.ctlDetail o (p.addr.toNat + 0x2A) false)

/-- A push reaches the FIFO of its priority. -/
def execGalleyPush (forme galley : Nat) (s : State) : Out := .next (s.applyPush (forme / 64) (forme % 64) galley)
/-- A held push is applied once the ring has room, ahead of any later one (R311). -/
def execHeldPushApply (forme galley : Nat) (s : State) : Out := .next (s.applyPush (forme / 64) (forme % 64) galley)

/-! ### Windows (R313) -/

/-- The windows that the threads of a tile hold: first entry and size. -/
def Tile.xUsed (t : Tile) : List (Nat × Nat) :=
  t.ctxs.filterMap fun e =>
    let g := e.2.c.slug
    if e.1 < 4 ∧ e.2.c.run ≠ .idle ∧ !((g.map (·.malformed)).getD false) then some (e.2.r.xbase, xWindow e.2.r.win) else none
def Tile.vUsed (t : Tile) : List (Nat × Nat) :=
  t.ctxs.filterMap fun e =>
    let g := e.2.c.slug
    if e.1 < 4 ∧ e.2.c.run ≠ .idle ∧ !((g.map (·.malformed)).getD false) then some (e.2.r.vbase, vWindow e.2.r.win) else none
/-- The lowest free offset of a file that is a multiple of the size. -/
def placeWindow (used : List (Nat × Nat)) (file size : Nat) : Option Nat :=
  if size = 0 then some 0
  else (findFrom (fun i => used.all fun u => decide (u.1 + u.2 ≤ i * size) || decide (i * size + size ≤ u.1)) (file / size) 0).map (· * size)
def Tile.placeFor (t : Tile) (win : BitVec 8) : Option (Nat × Nat) :=
  match placeWindow t.xUsed 128 (xWindow win), placeWindow t.vUsed 64 (vWindow win) with
  | some x, some v => some (x, v)
  | _, _ => none

/-! ### Start (R314, R323) -/

/-- The level of a context that takes a slug (R323); both tiles of a checked pair read the first one's ltile (R370). -/
def State.startLevel (s : State) (k c : Nat) : Level :=
  if ownerOf k = firmware then .m
  else
    let sv := (s.forme (formeKey k)).svloc.toNat
    if bitAt sv 31 && sv % 65536 == ltileOf (if (s.owner (ownerOf k)).ckmode then firstTwin k else k) && bitsAt sv 16 2 == c then .s else .u

/-- Registers of a window, and masks and predicates, hold no defined value at routine start (R25, R184): free values. -/
def State.freeWindow (s : State) (k : Nat) (r : Regs) : State × Regs :=
  let n := s.free
  let s1 := { s with free := n + 256 }
  (s1.updTile k fun t =>
    { t with xr := foldUp (fun m i => m.set (r.xbase + i) (Config.freeWord (n + i))) (xWindow r.win - 1) 1 t.xr,
             vr := foldUp (fun m i => m.set (r.vbase + i) (Config.freeVec (n + i))) (vWindow r.win) 0 t.vr,
             xPoison := delRange t.xPoison r.xbase (xWindow r.win), vPoison := delRange t.vPoison r.vbase (vWindow r.win) },
   { r with preds := (Config.freeWord (n + 128)).setWidth 8,
            vms := foldUp (fun m i => m.set i ((Config.freeWord (n + 129 + i)).setWidth 32)) 8 0 r.vms })

/-- The stack area of context c: its top and its base (R245, R337). -/
def stackArea (cfg : BitVec 60) (c : Nat) : Nat × Nat :=
  let top := bitsAt cfg.toNat 0 20 + bitsAt cfg.toNat 20 20 * c
  (top, top - bitsAt cfg.toNat 40 20)

/-- What a popped slug becomes as the thread's own record. -/
def Slug.info (g : Slug) (addr : BitVec 64) (e i galley forme : Nat) : SlugInfo :=
  { addr := addr, frame := g.frame, succ := g.succ, flags := g.flags, energy := e, current := i, slice := g.slice, prio := g.prio,
    width := g.span, index := g.index, galley := galley, forme := forme, malformed := false }

/-- Registers at routine start (R314, Table 7), on context c of tile k with its windows placed. -/
def State.startRegs (s : State) (k c : Nat) (g : Slug) (addr : BitVec 64) (xb vb : Nat) : State :=
  let o := s.owner (ownerOf k)
  let (top, low) := stackArea o.stkcfg c
  let s := s.updTile k fun t => { t with checked := o.ckmode }
  let old := (s.ctx k c).r
  let r0 : Regs := { Regs.reset with
    pc := g.code, slim := BitVec.ofNat 64 low, rmode := BitVec.ofNat 16 (o.defmode.toNat % 512),
    fenable := BitVec.ofNat 5 (o.defmode.toNat / 65536), srstate := seedSR o.jobseed (s.ltileRead k) c g.index, ire := g.code,
    seq := old.seq, win := g.windows, xbase := xb, vbase := vb }
  let (s, r) := s.freeWindow k r0
  let put (t : Tile) (n : Nat) (v : Word) : Tile := { t with xr := t.xr.set (xb + n) v }
  let s := s.updTile k fun t => put (put (put (put (put t 1 (BitVec.ofNat 64 top)) 2 g.frame) 3 addr) 4 g.arg0) 5 g.arg1
  s.updCtx k c fun x => { x with r := r }

/-- A thread takes context c of tile k (R314): `gang` is its place in a gang. -/
def State.startThread (s : State) (k c : Nat) (g : Slug) (info : SlugInfo) (gang : Option Gang) (xb vb : Nat) : State :=
  let lv := s.startLevel k c
  let s := s.startRegs k c g info.addr xb vb
  s.updCtx k c fun x =>
    { x with
      y := { x.y with members := [] },
      c := { Sched.reset with
        run := .ready, level := lv, slug := some info, preJoin := if g.group = 0 then none else some g.group, runFrom := s.clock,
        gang := gang, counters := x.c.counters } }

/-- A pre-empted thread takes context c of tile k: its image is loaded, and what the saving tile kept for it (R314,
R316, R336). -/
def State.resumeThread (s : State) (k c : Nat) (g : Slug) (info : SlugInfo) (gang : Option Gang) (xb vb : Nat)
    (from_ : Option (Nat × Nat)) (img : List Byte) (bad : Nat → Bool) : State :=
  let s := s.startThread k c g info gang xb vb
  let s := s.updCtx k c fun x => { x with c := { x.c with preJoin := none, prior := BitVec.ofNat 64 (imgN img 0x2490 8) } }
  let s := s.loadImage k c img bad
  let s := match from_ with
    | some (k0, n) => s.unpark k0 n k c img
    | none => s.reenter k c (s.saverOf (ownerOf k) info.addr c) img [] [] []
  s.updCtx k c fun x =>
    { x with c := { x.c with run := match x.c.phase with | .armed _ => .waiting | _ => .ready,
                             waitOn := match x.c.phase with | .armed _ => .answer | _ => .nothing } }

/-! ### End (R151, R155, R314, R315) -/

/-- The tiles whose context c is killed, or leaves, with that of tile k: its gang, and in checked mode the twins (R322, R370). -/
def State.teamTiles (s : State) (k c : Nat) : List Nat :=
  let l := s.gangTiles k c
  if (s.tile k).checked then l ++ l.map otherTwin else l
/-- The tile that accounts for a thread of several tiles: the leader, the first of a pair. -/
def State.accounts (s : State) (k c : Nat) : Bool :=
  (match (s.ctx k c).c.gang with | some g => g.member == 0 | none => true) && !((s.tile k).checked && decide (16 ≤ rowOf k))

/-- Every membership of a context is withdrawn, in list order. -/
def State.withdrawAll (s : State) (k c : Nat) (pc : BitVec 64) : State :=
  let ms := (s.ctx k c).y.members
  let one (s : State) (m : Member) : State :=
    match State.withdraw { s with cur := k, curCtx := c } m with
    | .ok s1 => s1
    | .error _ => s.withdrawReport k c pc m.rtn.toNat m.off
  let old := (s.ctx k c).r.pc
  let s1 := s.updCtx k c fun x => { x with r := { x.r with pc := pc }, y := { x.y with members := [] } }
  let s2 := ms.foldl one s1
  ({ s2 with cur := s.cur, curCtx := s.curCtx }).updCtx k c fun x => { x with r := { x.r with pc := old } }

/-- The accesses and engine commands of an ended thread go on without it: slot c + 4 keeps its order. -/
def State.orphan (s : State) (k c : Nat) : State :=
  let dead (q : Captured) : Captured := if q.ctx = c then { q with ctx := c + 4, slug := none } else q
  let x := s.ctx k c
  let left (r : Ret) : Ret := match r with | .fill n => .fill n | .piece n => .piece n | _ => .none
  let s : State := { s with
    flights := s.flights.map (fun f => if f.src = k ∧ f.ctx = c then { f with ctx := c + 4, ret := left f.ret } else f),
    tiles := s.tiles.map fun e => (e.1, { e.2 with barWait := e.2.barWait.filter fun w => w.ctx != some (partyOf k c) }) }
  let win (w : FpWindow) : FpWindow :=
    { w with excs := w.excs.map (fun e => if e.tile = k ∧ e.ctx = c then { e with ctx := c + 4 } else e),
             also := w.also.filter (· != (k, c)) }
  let s := s.updOwner (ownerOf k) fun o => { o with windows := o.windows.map win }
  s.updTile k fun t =>
    { t with migHeld := t.migHeld.filter (fun h => h.ctx != c), vq := t.vq.filter (fun q => q.cap.ctx != c), mq := t.mq.map (fun q => { q with cap := dead q.cap }),
             cq := t.cq.map (fun q => { q with cap := dead q.cap, rwait := if q.cap.ctx = c then false else q.rwait }),
             waiters := (t.waiters.filter (fun w => w.ctx != c || (match w.who with | .matrix _ => true | .copy _ => true | _ => false))).map
               fun w => if w.ctx = c then { w with ctx := c + 4 } else w,
             ctxs := (t.ctxs.set (c + 4) { r := .reset, y := x.y, c := .reset }).set c
               { x with y := { x.y with members := [], seen := [] }, c := { Sched.reset with counters := x.c.counters } } }

/-- The current reservation of a thread is released (R315). -/
def State.unreserve (s : State) (k : Nat) (g : SlugInfo) : State :=
  s.updCluster (clusterKey k) fun q => { q with iUsed := q.iUsed - g.current }

/-- A finished instance counts towards its launch (R318). -/
def State.countInstance (s : State) (o f : Nat) (addr : BitVec 64) : State :=
  let inst (l : Launch) : Option Nat :=
    match s.ctlRead o l.record.toNat 64 with
    | some v =>
      let base := bitsAt v 128 64
      let n := bitsAt v 96 32
      if base ≤ addr.toNat ∧ addr.toNat < base + 64 * n then some ((addr.toNat - base) / 64) else none
    | none => none
  s.updForme (o * 64 + f) fun w =>
    { w with launches := w.launches.map fun l => match inst l with
        | some i => { l with finished := i :: l.finished }
        | none => l }

/-- The last part of an end: lines left, what is in flight orphaned, windows and context free; on the tile that
accounts for the thread, the reservation and the galley. -/
def State.release (s : State) (k c : Nat) (killed : Bool) : State :=
  let x := s.ctx k c
  let acct := s.accounts k c
  let s := (s.leaveLines k c killed).orphan k c
  match x.c.slug with
  | some g =>
    if !acct then s
    else
      let s := s.unreserve k g
      let s := s.updGalley (ownerOf k) g.forme g.galley fun q => { q with live := q.live - 1 }
      s.countInstance (ownerOf k) g.forme g.addr
  | none => s

/-- The thread of context c of tile k is killed (Table 9, `kill`): withdrawals, no successor step, its copy commands as
`cpkill` with all, its matrix commands run out. -/
def State.killThread (s : State) (k c : Nat) : State :=
  if (s.ctx k c).c.run == .idle then s
  else
    let one (s : State) (t : Nat) : State := ((s.withdrawAll t c 0).cpKill t c fun _ => true)
    let l := s.teamTiles k c
    let s := l.foldl one s
    l.foldl (fun s t => s.release t c true) s

/-- A pre-empted thread dies in its slot; what it sent, its withdrawals among it, goes on as an ended thread's, and the units of its proof
streams are to be sent by others (R359, R375). -/
def State.killSlot (s : State) (k c : Nat) : State :=
  let s0 := ((s.withdrawAll k c 0).leaveLines k c true)
  let left (r : Ret) : Ret := match r with | .fill n => .fill n | _ => .none
  let s1 : State := { s0 with
    flights := s0.flights.map (fun f => if f.src = k ∧ f.ctx = c then { f with ctx := c % 4 + 4, ret := left f.ret } else f),
    tiles := s0.tiles.map fun e => (e.1, { e.2 with barWait := e.2.barWait.filter fun w => w.ctx != some (partyOf k c) }) }
  let s2 := ((s1.tile k).cqOff.filter fun q => q.cap.ctx == c).foldl (fun s q => s.unitsBack k q) s1
  s2.updTile k fun t => { t with ctxs := t.ctxs.erase c, vqOff := t.vqOff.filter (fun q => q.cap.ctx != c),
                                 mqOff := t.mqOff.filter (fun q => q.cap.ctx != c), cqOff := t.cqOff.filter fun q => q.cap.ctx != c }
/-- The slots of a forme that keep the pre-empted thread of a slug are given up. -/
def State.killSlots (s : State) (o f : Nat) (slug : BitVec 64) : State :=
  (s.tiles.filterMap fun e =>
    if ownerOf e.1 = o ∧ formeOf e.1 = f then (e.2.slotOf slug).map fun n => (e.1, n) else none).foldl (fun s e => s.killSlot e.1 e.2) s

/-- The end of one context: a slug discarded without a successor step (R309), or a FIN completed from step 4 (R314). What a fault of
its end had stopped of its gang goes on with its own end. -/
def State.endMember (s : State) (k c : Nat) : State :=
  let rest := (s.gangTiles k c).filter (· != k)
  let s := rest.foldl (fun s t => s.updCtx t c fun x =>
    if x.c.run == .blocked && x.c.fault.isNone then { x with c := { x.c with run := .ending } } else x) s
  s.release k c false

/-- A FIN may be completed: the context's vector instructions are done, and with memberships or a successor all of its accesses have
performed (R151, R188, R314). -/
def State.finReady (s : State) (k c : Nat) : Bool :=
  let succ := match (s.ctx k c).c.slug with | some g => g.succ | none => 0
  !(s.tile k).vecOpen c && ((s.ctx k c).y.members.isEmpty && succ == 0 || s.quiet k c s.nextId)
/-- In a gang the members end one after another, once all have executed the FIN, and the leader last: it holds the reservation and the
windows' place in the galley's count (R322; their order is a DESIGN CHOICE, log 72). -/
def State.endsNow (s : State) (k c : Nat) : Bool :=
  match (s.ctx k c).c.gang with
  | none => true
  | some g =>
    let others := (s.gangTiles k c).filter (· != k)
    ((s.ctx g.leader c).c.gang.map (·.turn)) == some 0 && (s.ctx g.leader c).c.run == .ending &&
      others.all (fun t => (s.ctx t c).c.fault.isNone && !(s.ctx t c).c.phase.waits) && (g.member != 0 || others.isEmpty)
/-- A context whose FIN has issued has a step of its end to take (R314). -/
def State.endDue (s : State) (k c : Nat) : Bool :=
  let x := (s.ctx k c).c
  x.run == .ending && x.dying.isNone && s.endsNow k c && (match x.phase with | .armed _ => false | .granted _ => true | .refused _ _ _ => true | _ => s.finReady k c)

/-- The word of the instruction at a context's pc, as the instruction cache holds it. -/
def State.wordHere (s : State) (k c : Nat) : BitVec 96 := ((s.tile k).icache.get none (s.ctx k c).r.pc.toNat).getD 0
/-- The successor step of a FIN and its end (R314, R69): each context of a gang and of a pair makes it for itself; of a pair's two, one
goes on (R281). A step that faults before it takes the count is a fault of the instruction with the FIN (R327). -/
def State.finSuccessor (s : State) (k c : Nat) : State :=
  let x := s.ctx k c
  let fault (s : State) (a : FaultArg) (fin : Bool) : State :=
    s.takeRec k c { s.faultRec k c x.r.pc (s.wordHere k c) 0 a with atFin := fin }
  let succ := match x.c.slug with | some g => g.succ | none => 0
  if succ = 0 then s.endMember k c
  else match x.c.phase with
    | .granted v =>
      (match unpushedGalley v with
       | some _ => fault s { cause := 0x06, address := succ, allow := allowRetrySkipKill } true
       | none => s.endMember k c)
    | .refused e a d => fault s (refusedArg e a d) false
    | .armed _ => s
    | _ =>
      let back (t : State) : State := { t with cur := s.cur, curCtx := s.curCtx, iword := s.iword }
      match ({ s with cur := k, curCtx := c, iword := s.wordHere k c } : State).sendJoin succ with
      | .wait t _ => back t
      | .ends t => back t
      | .trap a => fault s a false
      | .trapBy fx a => fault (fx s) a false
      | _ => s
/-- RETRY of a FIN whose successor was not pushed (R314): the push alone, against the galley as it is by then, and then the end. -/
def State.finPush (s : State) (t c : Nat) (f : FaultRec) : State :=
  let f1 := { f with gtime := s.gtime, cyc := s.cyc t }
  let again : State := (s.updCtx t c fun x => { x with c := { x.c with fault := some f1 } }).post (s.faultBox t c)
    { body := f1.message (s.ltileRead t), src := t, ctx := c, after := s.nextId }
  match (s.ctx t c).c.slug with
  | none => s.endMember t c
  | some g =>
    match s.ctlRead (ownerOf t) (g.succ.toNat + 0x1C) 2 with
    | some n =>
      let p : Push := { addr := g.succ, src := t, ctx := c, after := 0, launcher := false, flight := none,
                        mark := some (s.markOf t c ((s.ctx t c).y.region, 2) false) }
      if !s.pushable (ownerOf t) (formeOf t) n then again
      else if s.silent t then s.endMember t c
      else (s.pushTo (ownerOf t) (formeOf t) n p).endMember t c
    | none => again

/-- ROUTINE_END: a step of R314's steps 1 to 5 for a context whose FIN has issued; the end of one that the watchdog kills (R317). -/
def execRoutineEnd (tile ctx : Nat) (s : State) : Out :=
  if (s.ctx tile ctx).c.dying.isSome then .next (s.killThread tile ctx)
  else if s.endDue tile ctx then .next ((s.withdrawAll tile ctx (s.ctx tile ctx).r.pc).finSuccessor tile ctx) else .next s

end Sys2Proof.Machine
end

