-- ==== Sys2Proof/Machine/Sched.lean ====
section
/-! DEFINITION. Admission and time (R308 to R317): the pop of a slug, budgets, slices, pre-emption and requeueing, the
watchdog. -/

namespace Sys2Proof.Machine

/-! ### Budgets (R315) -/

/-- The energy and current a head declares; a declared 0 counts as the galley's, a private galley's as galley 0's, as the controller
has read them at a push (R310), or reads galley 0's now when nothing was ever pushed there. -/
def State.charge (s : State) (o f g : Nat) (sl : Slug) : Nat × Nat :=
  let n := if 256 ≤ g then 0 else g
  let q := if (s.galley o f n).read then s.galley o f n else s.readGalley o f n
  (if sl.energy = 0 then q.dnrg else sl.energy, if sl.current = 0 then q.dcur else sl.current)
def Cluster.fits (q : Cluster) (e i : Nat) : Bool :=
  (decide ((e : Int) ≤ q.eRem) || decide (q.eRem = q.eFull)) && (decide (q.iUsed + i ≤ q.ibud) || q.iUsed == 0)
def Cluster.reserve (q : Cluster) (e i : Nat) : Cluster := { q with eRem := q.eRem - e, iUsed := q.iUsed + i }

/-- A new interval begins: a debt carries into it, budgets written since take effect, and throttle level 2 halves Eb (R315,
R380, R381). -/
def Cluster.reload (q : Cluster) (now : BitVec 64) : Cluster :=
  let eb := q.ebudNext.getD q.ebud
  let full := if q.lev = 2 then eb / 2 else eb
  { q with ebud := eb, eFull := full, ibud := q.ibudNext.getD q.ibud, ebudNext := none, ibudNext := none,
           eRem := (full : Int) + (if q.eRem < 0 then q.eRem else 0), reloaded := now }
def execBudgetIntervalReload (cluster : Nat) (s : State) : Out :=
  if (s.cluster cluster).reloaded.toNat / 10000 < s.gtime.toNat / 10000 then .next (s.updCluster cluster (·.reload s.gtime)) else .next s

/-! ### Which head, for which context (R309, R312, R313, R321) -/

/-- The slot that keeps member j of a pre-empted thread of an owner's forme, on a first tile or on a second one of a checked thread's
pairs: tile and slot. -/
def State.findSlot (s : State) (o f : Nat) (slug : BitVec 64) (j : Nat) (second : Option Bool) : Option (Nat × Nat) :=
  (s.tiles.filterMap fun e =>
    if ownerOf e.1 = o ∧ formeOf e.1 = f ∧ second.all (· == decide (16 ≤ rowOf e.1)) then
      match e.2.slotOf slug with
      | some n =>
        let m := match (e.2.ctxs.get .reset n).c.gang with | some g => g.member | none => 0
        if m = j then some (e.1, n) else none
      | none => none
    else none).head?

/-- A tile and what a member is given there: its windows, and for a resumed thread the image and its kept part. -/
structure Seat where
  tile : Nat
  member : Nat
  xb : Nat
  vb : Nat
  slot : Option (Nat × Nat)
  img : List Byte
  bad : List Bool
deriving DecidableEq, Repr

/-- What a head is, for a context. -/
inductive HeadIs where
  | held
  /-- refused by the budget test -/
  | poor
  | unreadable (addr : BitVec 64)
  | broken (sl : Slug) (cause off : Nat)
  | fits (sl : Slug) (e i : Nat) (seats : List Seat)

/-- A context can take a member: idle, on a tile in service, with room for the windows. -/
def State.seatAt (s : State) (k c member : Nat) (win : BitVec 8) : Option Seat :=
  if (s.ctx k c).c.run != .idle || (s.ctx k c).c.barred || (s.tile k).fenced then none
  else ((s.tile k).placeFor win).map fun p => { tile := k, member := member, xb := p.1, vb := p.2, slot := none, img := [], bad := [] }
/-- Every member's seat, or none. -/
def allSeats : List (Option Seat) → Option (List Seat)
  | [] => some []
  | none :: _ => none
  | some x :: r => (allSeats r).map (x :: ·)
/-- The seats of a head for a context: the gang's tiles, and in checked mode the twins. -/
def State.seats (s : State) (k c g : Nat) (q : Galley) (sl : Slug) : Option (List Seat) :=
  let tiles := (List.range sl.span).map fun j => (k + j, j)
  let inRow := decide (colOf k + sl.span ≤ 32)
  let serves (t : Nat) : Bool := 256 ≤ g || q.serve.getLsbD (clusterIn t)
  if !inRow || !(tiles.all fun t => serves t.1) then none
  else allSeats ((tiles ++ if sl.twin then tiles.map (fun t => (otherTwin t.1, t.2)) else []).map fun t => s.seatAt t.1 c t.2 sl.windows)
/-- The image of a resumed member, from frame + 12,288 × member; the address of one that cannot be read, none of one whose page is under
migration. -/
def State.seatImage (s : State) (c : Nat) (sl : Slug) (addr : BitVec 64) (x : Seat) : Except (Option (BitVec 64)) Seat :=
  let va := sl.frame.toNat + 12288 * x.member
  match State.spanPieces x.tile (s.startLevel x.tile c) false 2 va 12288 s with
  | .ok (l, _) =>
    let second := if sl.twin then some (decide (16 ≤ rowOf x.tile)) else none
    .ok { x with img := s.getPieces l, bad := s.badPieces l, slot := s.findSlot (ownerOf x.tile) (formeOf x.tile) addr x.member second }
  | .error (.fault _ _) => .error (some (BitVec.ofNat 64 va))
  | .error (.hold _) => .error none
/-- The walks of that read stand (R332, R335). -/
def State.seatWalk (c : Nat) (sl : Slug) (s : State) (x : Seat) : State :=
  match State.spanPieces x.tile (s.startLevel x.tile c) false 2 (sl.frame.toNat + 12288 * x.member) 12288 s with
  | .ok (_, s1) => s1
  | .error _ => s
def seatImages (f : Seat → Except (Option (BitVec 64)) Seat) : List Seat → Except (Option (BitVec 64)) (List Seat)
  | [] => .ok []
  | x :: r => match f x with
    | .error a => .error a
    | .ok y => match seatImages f r with
      | .error a => .error a
      | .ok l => .ok (y :: l)

/-- Judges the head of a FIFO for context c of tile k. -/
def State.headFor (s : State) (k c g : Nat) (q : Galley) (e : Entry) : HeadIs :=
  let o := ownerOf k
  let f := formeOf k
  match s.readSlug o e.addr.toNat with
  | none => .unreadable e.addr
  | some sl =>
    match sl.broken (s.owner o).ckmode with
    | some (cause, off) => .broken sl cause off
    | none =>
      let (en, i) := s.charge o f g sl
      if sl.barrier && !e.resume && q.live != 0 then .held
      else if !(s.cluster (clusterKey k)).fits en i then .poor
      else match s.seats k c g q sl with
        | none => .held
        | some l =>
          if !e.resume then .fits sl en i l
          else match seatImages (s.seatImage c sl e.addr) l with
            | .error (some a) => .unreadable a
            | .error none => .held
            | .ok l => .fits sl en i l

/-! ### The pop (R309, R312, R314) -/

def Galley.dropHead (q : Galley) (p : Nat) : Galley := { q with fifo := q.fifo.set p ((q.fifo.get [] p).drop 1) }

/-- A malformed head is popped by the context, which starts nothing and faults (R309). One with the resume mark counts in its galley
already, and its thread, which no longer can be resumed, is given up. -/
def State.popBroken (s : State) (k c g p : Nat) (e : Entry) (sl : Slug) (cause off : Nat) : State :=
  let f := formeOf k
  let s := s.leafUsed (ownerOf k) e.addr.toNat false
  let s := s.updGalley (ownerOf k) f g fun q => { q.dropHead p with live := if e.resume then q.live else q.live + 1 }
  let s := if e.resume then s.killSlots (ownerOf k) f e.addr else s
  let s := if g < 256 then s.updCluster (clusterKey k) fun q => { q with lastServed := q.lastServed.set p g } else s
  let lv := s.startLevel k c
  let s := s.updCtx k c fun x =>
    { r := { x.r with pc := sl.code }, y := { x.y with members := [] },
      c := { Sched.reset with
        run := .ready, level := lv, slug := some { sl.info e.addr 0 0 g f with malformed := true, succ := 0, width := 1 },
        counters := x.c.counters } }
  s.takeRec k c { s.faultRec k c sl.code 0 0 { cause := cause, detail := BitVec.ofNat 64 off, allow := allowSkipKill } with atFin := true }

/-- The pop's read of the record is an acquire at owner scope: it takes what the pusher's release left (R308, R110). -/
def State.popTakes (s : State) (k c : Nat) (m : Option Mark) : State :=
  s.updCtx k c fun x => { x with y := (x.y.takes (s.taken k 2 false m.toList)).ordered }
/-- One member takes its seat. -/
def State.sit (s : State) (k c : Nat) (sl : Slug) (info : SlugInfo) (e : Entry) (x : Seat) : State :=
  let gang : Option Gang :=
    if sl.isGang then some { member := x.member, width := sl.width, leader := if (x.tile < k) ∨ (k + 16 ≤ x.tile) then otherTwin k else k,
                             turn := 0, did := false, word := 0, pc := sl.code }
    else none
  let s := if !e.resume then s.startThread x.tile c sl info gang x.xb x.vb
    else s.resumeThread x.tile c sl info gang x.xb x.vb x.slot x.img fun i => (x.bad[i]?).getD false
  s.popTakes x.tile c e.mark
/-- A thread whose window was answered with KILL while it was pre-empted dies as it runs again (R183). -/
def State.popDoomed (s : State) (l : List Seat) : Bool :=
  l.any fun x => match x.slot with | some (t, n) => (s.ctx t n).c.run == .halted | none => false
def State.popFits (s : State) (k c g p : Nat) (e : Entry) (sl : Slug) (en i : Nat) (l : List Seat) : State :=
  let f := formeOf k
  let doomed := s.popDoomed l
  let s := s.leafUsed (ownerOf k) e.addr.toNat false
  let s := if e.resume then l.foldl (State.seatWalk c sl) s else s
  let s := s.updGalley (ownerOf k) f g fun q => { q.dropHead p with live := if e.resume then q.live else q.live + 1 }
  let s := s.updCluster (clusterKey k) fun q => { q.reserve en i with lastServed := if g < 256 then q.lastServed.set p g else q.lastServed }
  let s := l.foldl (·.sit k c sl (sl.info e.addr en i g f) e) s
  if doomed then s.killThread k c else s

/-- Shared galleys of a cluster in round-robin order after the last one served. -/
def State.served (s : State) (ck cl p : Nat) : List Nat :=
  let l := (s.forme (ck / 64)).galleys.filterMap fun e =>
    if e.1 < 256 ∧ e.2.kind = 1 ∧ e.2.serve.getLsbD cl then some e.1 else none
  let last := (s.cluster ck).lastServed.get 256 p
  l.filter (fun g => decide (last < g)) ++ l.filter (fun g => decide (g ≤ last))
/-- The contexts of a cluster in the order of R312, as tile key and context. -/
def clusterCtxs (ck : Nat) : List (Nat × Nat) :=
  let o := ck / 4096
  let f := ck / 64 % 64
  let cl := ck % 64
  (List.range 64).map fun n =>
    let i := n / 4
    (tileKey o (f * 1024 + (cl / 8 * 4 + i / 4) * 32 + cl % 8 * 4 + i % 4), n % 4)
/-- What a context considers: (tile, context, priority, galley), in order. -/
def State.considers (s : State) (ck : Nat) (kc : Nat × Nat) : List (Nat × Nat × Nat × Nat) :=
  let (k, c) := kc
  let f := s.forme (ck / 64)
  if (s.ctx k c).c.run != .idle || (s.ctx k c).c.barred || (s.tile k).fenced || ((s.owner (ck / 4096)).ckmode && decide (16 ≤ rowOf k)) then []
  else
    let own := 256 + 4 * (rowOf k * 32 + colOf k) + c
    let has (p g : Nat) : Bool := (f.galleys.get .reset g).fifo.get [] p != []
    if (f.galleys.get .reset own).waiting ≠ 0 then
      ((List.range 4).filter fun p => has p own).map fun p => (k, c, p, own)
    else
      ((List.range 4).map fun p => ((s.served ck (ck % 64) p).filter fun g => has p g).map fun g => (k, c, p, g)).flatten
/-- The first admissible head is popped; an unreadable one is reported once. -/
def State.popScan : List (Nat × Nat × Nat × Nat) → State → State
  | [], s => s
  | (k, c, p, g) :: r, s =>
    let q := s.galley (ownerOf k) (formeOf k) g
    if q.stuck.contains p then State.popScan r s
    else match q.fifo.get [] p with
      | [] => State.popScan r s
      | e :: _ =>
        match s.headFor k c g q e with
        | .held => State.popScan r s
        | .poor => State.popScan r (s.countCluster (clusterKey k) 0x0102)
        | .unreadable a =>
          State.popScan r ((s.updGalley (ownerOf k) (formeOf k) g fun w => { w with stuck := w.stuck ++ [p] }).ctlPost
            (ownerOf k) (formeOf k) g 0x05 a.toNat (s.ctlDetail (ownerOf k) a.toNat false))
        | .broken sl cause off => s.popBroken k c g p e sl cause off
        | .fits sl en i l => s.popFits k c g p e sl en i l

/-- SLUG_POP: one cluster makes at most one pop. -/
def execSlugPop (cluster : Nat) (s : State) : Out :=
  let f := s.forme (cluster / 64)
  if s.boot || s.sinceTurn || f.held || (s.cluster cluster).lev == 3 ||
      !(s.owner (cluster / 4096)).live then .next s
  else .next (s.popScan ((clusterCtxs cluster).map (s.considers cluster)).flatten)

/-! ### Pre-emption (R316, R336) -/

/-- A slug of equal or higher priority waits in a galley that the context serves. -/
def State.waitsFor (s : State) (k c prio : Nat) : Bool :=
  let f := s.forme (formeKey k)
  let own := 256 + 4 * (rowOf k * 32 + colOf k) + c
  f.galleys.any fun e =>
    (e.1 == own || (decide (e.1 < 256) && e.2.kind == 1 && e.2.serve.getLsbD (clusterIn k))) &&
    (List.range (prio + 1)).any fun p => e.2.fifo.get [] p != []

/-- A thread is running: neither stopped nor at its end. -/
def Run.isRunning : Run → Bool
  | .ready => true
  | .waiting => true
  | _ => false
/-- Every tile of a thread stops for a save. -/
def State.stopAll (s : State) (k c : Nat) : State := (s.teamTiles k c).foldl (fun s t => s.updCtx t c (·.stopForSave s.gtime)) s
/-- Every context of a thread runs: none is stopped or at its end (R322). -/
def State.teamRunning (s : State) (k c : Nat) : Bool := (s.teamTiles k c).all fun t => (s.ctx t c).c.run.isRunning
def State.allSaveReady (s : State) (k c : Nat) : Bool := (s.teamTiles k c).all fun t => s.saveReady t c

/-- The images of a thread's tiles at frame + 12,288 × member; a pair saves one. -/
def State.saveImages (c : Nat) (frame : Nat) : List Nat → State → Except SpanStop State
  | [], s => .ok s
  | t :: r, s =>
    if s.silent t then State.saveImages c frame r s
    else
      let j := match (s.ctx t c).c.gang with | some g => g.member | none => 0
      match State.spanPieces t (s.ctx t c).c.level true 2 (frame + 12288 * j) 12288 s with
      | .error e => .error e
      | .ok (l, s1) => State.saveImages c frame r (s1.saveAt t c l)
/-- A stopped thread goes on as if it had not been stopped. -/
def State.carryOn (s : State) (t c : Nat) : State :=
  s.updCtx t c fun x =>
    { x with c := { x.c with
        saving := false, runFrom := match x.c.runFrom with | some f => some f | none => s.clock,
        run := match x.c.phase with | .armed _ => .waiting | _ => .ready,
        waitOn := match x.c.phase with | .armed _ => .answer | _ => .nothing } }
/-- The stopped thread is saved, leaves its contexts and is put at the head of its FIFO with the resume mark. A save that
cannot write the frame is abandoned, and cause 0x05 is posted for the frame's address; one to a page under migration waits. -/
def State.requeue (s : State) (k c : Nat) : State :=
  match (s.ctx k c).c.slug with
  | none => s
  | some g =>
    let l := s.teamTiles k c
    match s.saveImages c g.frame.toNat l with
    | .error (.hold _) => s
    | .error (.fault a fx) =>
      let s := l.foldl (fun s t => s.carryOn t c) (fx s)
      let r := s.faultRec k c (s.ctx k c).r.pc 0 0 { cause := 0x05, address := g.frame, detail := if a.cause = 0x05 then a.detail else 0 }
      s.post (s.serviceBox k) { body := r.message (s.ltileRead k), src := k, ctx := c, after := s.nextId }
    | .ok s1 =>
      let s2 := l.foldl (fun s t => s.park t c) s1
      let s3 := s2.unreserve k g
      let q := s3.galley (ownerOf k) g.forme g.galley
      let e : Entry := { addr := g.addr, resume := true, slot := q.place, mark := none }
      (s3.updGalley (ownerOf k) g.forme g.galley fun q => { q with fifo := q.fifo.set g.prio (e :: q.fifo.get [] g.prio) }).ringWrite
        (ownerOf k) q e

/-- SLICE_EXPIRY: past its slice, with such a slug waiting, the thread is stopped; once nothing of it is in flight it is
saved and requeued. The FIN that has issued wins. -/
def execSliceExpiry (tile ctx : Nat) (s : State) : Out :=
  let x := s.ctx tile ctx
  if s.sinceTurn || !s.accounts tile ctx then .next s
  else if x.c.saving then (if s.allSaveReady tile ctx then .next (s.requeue tile ctx) else .next s)
  else match x.c.slug with
    | some g =>
      if s.teamRunning tile ctx && decide (0 < g.slice) && decide (g.slice * 1000 < (s.runTime x).toNat) && s.waitsFor tile ctx g.prio
      then .next (s.stopAll tile ctx) else .next s
    | none => .next s

/-! ### The watchdog (R317) -/

/-- Watchdog time of a step of the galley a thread came from, in ns; a private galley takes galley 0's. -/
def State.wdogOf (s : State) (o f g step : Nat) : Nat :=
  ((s.forme (o * 64 + f)).wdog.get (if step = 2 then 100000 else 1000) ((if 256 ≤ g then 0 else g) * 4 + step)).toNat
def State.wdogNs (s : State) (k : Nat) (g : SlugInfo) (step : Nat) : Nat := 1000 * s.wdogOf (ownerOf k) g.forme g.galley step

/-- Step 1: run time has reached T1. -/
def execWatchdogT1 (tile ctx : Nat) (s : State) : Out :=
  let x := s.ctx tile ctx
  match x.c.slug with
  | some g =>
    let t1 := s.wdogNs tile g 1
    if t1 != 0 && !x.c.wd1 && s.teamRunning tile ctx && s.accounts tile ctx && decide (x.c.prior.toNat < t1) &&
       decide (t1 ≤ (x.c.prior + s.runTime x).toNat) then
      let s1 := s.updCtx tile ctx fun x => { x with c := { x.c with wd1 := true } }
      .next (if s.waitsFor tile ctx g.prio then s1.stopAll tile ctx else s1)
    else .next s
  | none => .next s

/-- A wait that is broken off: the context is taken from what it waits on. -/
def State.abandonWait (s : State) (k c : Nat) : State :=
  let me := partyOf k c
  let s := s.updTile k fun t => { t with waiters := t.waiters.filter fun w => !(w.ctx == c && w.who == .core) }
  { s with
    tiles := s.tiles.map (fun e => (e.1, { e.2 with barWait := e.2.barWait.filter fun w => w.ctx != some me })),
    clusters := s.clusters.map fun e =>
      (e.1, { e.2 with lines := e.2.lines.map fun l => (l.1, { l.2 with queue := l.2.queue.filter (· != me) }) }) }
/-- A context is at an instruction boundary: not inside an instruction, unless in a wait that nothing of its own ends. -/
def State.atBoundary (s : State) (k c : Nat) : Bool :=
  match (s.ctx k c).c.phase with
  | .armed id => s.flights.all fun f => !(f.src == k && f.ctx == c && f.id == id) || f.isLdS || s.barHeld f
  | p => !p.inside
/-- The watchdog kills a thread (R317): it issues nothing more, its pending faults are discarded, and ROUTINE_END makes the kill. -/
def State.condemn (s : State) (k c : Nat) : State :=
  let stop (x : Ctx) : Ctx := { x with c := { (s.block x).c with fault := none, held := [] } }
  ((s.teamTiles k c).foldl (fun s t => s.updCtx t c stop) s).updCtx k c fun x =>
    { x with c := { x.c with run := .ending, dying := some (s.wdTime x) } }
/-- The blocked time of a thread so far. -/
def State.blkTime (s : State) (x : Ctx) : BitVec 64 :=
  match x.c.blkFrom with | some f => x.c.blkAcc + (s.gtime - f) | none => x.c.blkAcc

/-- Step 2: watchdog time has reached T1 + T2, or a further T2 after a RESUME: a running thread is stopped as by a fault;
a thread blocked on a fault is killed, and 0x10 is posted as a report. -/
def execWatchdogT2 (tile ctx : Nat) (s : State) : Out :=
  let x := s.ctx tile ctx
  match x.c.slug with
  | some g =>
    let t2 := s.wdogNs tile g 2
    let due := match x.c.wdNext with | some v => v.toNat | none => s.wdogNs tile g 1 + t2
    let already := match x.c.fault with | some f => f.cause == 0x10 | none => false
    if t2 == 0 || already || x.c.dying.isSome || !s.accounts tile ctx || (x.c.prior + s.wdTime x).toNat < due then .next s
    else
      let pc := x.r.pc
      let r := s.faultRec tile ctx pc (((s.tile tile).icache.get none pc.toNat).getD 0) 0 { cause := 0x10, allow := allowResumeKill }
      let box := s.faultBox tile ctx
      if x.c.run == .blocked then
        .next ((s.condemn tile ctx).post box { body := r.message (s.ltileRead tile), src := tile, ctx := ctx, after := s.nextId })
      else if s.teamRunning tile ctx && (s.teamTiles tile ctx).all (fun t => s.atBoundary t ctx) then
        let s1 := ((s.teamTiles tile ctx).foldl (fun s t => s.abandonWait t ctx) s).takeRec tile ctx r
        .next (s1.updCtx tile ctx fun y => { y with c := { y.c with wdStop := some (s1.blkTime y) } })
      else .next s
  | none => .next s

/-- Whether every tile of a forme is fenced. -/
def State.formeFenced (s : State) (o f : Nat) : Bool := (List.range 1024).all fun i => (s.tile (tileKey o (f * 1024 + i))).fenced
/-- The contexts of a tile are killed, its engines stop, and nothing is delivered to it any more. -/
def State.fenceTile (s : State) (k : Nat) : State :=
  let s := (List.range 4).foldl (fun s c => s.killThread k c) s
  let s := s.updTile k fun t => { t with fenced := true }
  if s.formeFenced (ownerOf k) (formeOf k) then s.updForme (formeKey k) fun w => { w with lost := true } else s
/-- Step 3: no reply has been applied T3 after the stop of step 2, so the hardware kills the thread; and a kill that has not ended the
context T3 after it was made fences the tile, of which M hears. -/
def execWatchdogT3 (tile ctx : Nat) (s : State) : Out :=
  let x := s.ctx tile ctx
  match x.c.slug with
  | none => .next s
  | some g =>
    let t3 := s.wdogNs tile g 3
    match x.c.dying, x.c.wdStop with
    | some d, _ =>
      if t3 != 0 && decide (d.toNat + t3 ≤ (s.wdTime x).toNat) then
        let s1 := s.fenceTile tile
        .next { s1 with mEvents := s1.mEvents ++ [(2, tile)] }
      else .next s
    | none, some t => if x.c.run == .blocked && t3 != 0 && decide (t.toNat + t3 ≤ (s.blkTime x).toNat) then .next (s.condemn tile ctx) else .next s
    | none, none => .next s

end Sys2Proof.Machine
end

