-- ==== Sys2Proof/Machine/Indexed.lean ====
section
/-! DEFINITION. Indexed launches and the distributors (R318 to R320): the launch record, deterministic and dynamic
distribution, chunks, the end of a launch, and what the loss of a die does. -/

namespace Sys2Proof.Machine

/-! ### The launch record (R318, Table 3) -/

structure LaunchRec where
  tmpl : Nat
  first : Nat
  count : Nat
  sarea : Nat
  fbase : Nat
  fstride : Nat
  galley : Nat
  mode : Nat
  nc : Nat
  chunk : Nat
  fmask : BitVec 64
  succ : BitVec 64
deriving DecidableEq, Repr

def LaunchRec.ofNat (v : Nat) : LaunchRec :=
  let f (off n : Nat) : Nat := bitsAt v (8 * off) (8 * n)
  { tmpl := f 0 8, first := f 8 4, count := f 0x0C 4, sarea := f 0x10 8, fbase := f 0x18 8, fstride := f 0x20 4, galley := f 0x24 2,
    mode := f 0x26 1, nc := f 0x27 1, chunk := f 0x28 4, fmask := BitVec.ofNat 64 (f 0x30 8), succ := BitVec.ofNat 64 (f 0x38 8) }
def LaunchRec.dynamic (r : LaunchRec) : Bool := r.mode == 1
/-- The formes of a launch, ascending. -/
def LaunchRec.formes (r : LaunchRec) : List Nat := (List.range 64).filter fun f => r.fmask.getLsbD f
/-- A record that keeps Table 3; `det` is the template's b4, `shared` says that no forme has its galley for launch records. -/
def LaunchRec.ok (r : LaunchRec) (formes : Nat) (det shared : Bool) : Bool :=
  decide (1 ≤ r.count) && r.fstride % 64 == 0 && decide (1 ≤ r.nc ∧ r.nc ≤ 4) && decide (r.mode ≤ 1) && r.fmask != 0 &&
  r.formes.all (fun f => decide (f < formes)) &&
  (if r.dynamic then decide (r.galley < 256) && shared && decide (1 ≤ r.chunk ∧ r.chunk ≤ 65536) else r.galley == 0 && det)

def State.readLaunch (s : State) (o va : Nat) : Option LaunchRec := (s.ctlRead o va 64).map LaunchRec.ofNat

def State.updLaunch (s : State) (o f : Nat) (rec_ : BitVec 64) (u : Launch → Launch) : State :=
  s.updForme (o * 64 + f) fun w => { w with launches := w.launches.map fun l => if l.record = rec_ then u l else l }
def State.launchOf (s : State) (o f : Nat) (rec_ : BitVec 64) : Option Launch :=
  (s.forme (o * 64 + f)).launches.find? fun l => l.record == rec_ && l.joining.isNone
/-- A die of the launch is lost, and its master has not taken over what it held (R320). -/
def State.launchTorn (s : State) (o : Nat) (rec_ : BitVec 64) (r : LaunchRec) : Bool :=
  r.formes.any fun f => (s.forme (o * 64 + f)).lost && (s.launchOf o f rec_).isSome
/-- The formes of a launch whose dies are live. -/
def State.liveFormes (s : State) (o : Nat) (r : LaunchRec) : List Nat :=
  r.formes.filter fun f => !(s.forme (o * 64 + f)).lost && decide (f < (s.owner o).formes)
/-- The master: the distributor of the lowest live forme (R318). -/
def State.masterOf (s : State) (o : Nat) (r : LaunchRec) : Nat := ((s.liveFormes o r).head?).getD 0

/-! ### The end of a launch (R318) -/

/-- What the join step of a controller on a slug leaves: what is left to do with the cause, the address and the detail of the stop, or
nothing (R69, R318). `push` says that the count has been taken to 0 before and the push alone is left. -/
def State.ctlJoin (s : State) (o f : Nat) (succ : BitVec 64) (push : Bool) : State × Option (Bool × Nat × Nat) :=
  let p : Push := { addr := succ, src := tileKey o (f * 1024), ctx := 0, after := 0, launcher := false, flight := none, mark := none }
  let send (s : State) (g : Nat) : State × Option (Bool × Nat × Nat) :=
    if s.pushable o f g then (s.pushTo o f g p, none) else (s, some (true, 0x06, g))
  let va := succ.toNat + 0x18
  if succ = 0 then (s, none)
  else match s.ctlAt o va true with
    | .error c => (s, some (push, c, if c = 0x05 then s.ctlDetail o va true else 0))
    | .ok (pa, slot) =>
      let s := s.leafUsed o va true
      if s.memPoisoned pa 6 then (s, some (push, 0x05, s.ctlDetail o va false))
      else if push then send s (s.memReadN slot (pa + 4) 2)
      else if (s.cellAt pa).isSome then (s, some (false, 0x06, 0))
      else
        let c := s.memReadN slot pa 4
        if c = 0 then (s, none)
        else
          let s1 := s.memWrite o va slot pa 4 (c - 1)
          if c ≠ 1 then (s1, none) else send s1 (s1.memReadN slot (pa + 4) 2)
/-- The join of succ for a distributor that ends a launch. One that cannot be made stops it with a message of its controller, as an
instance that cannot be pushed does; RETRY makes what is left of it, KILL gives it up (R318, R326; the spec says nothing of this stop:
DEDUCED, log 35). -/
def State.joinSucc (s : State) (o f : Nat) (l : Launch) (succ : BitVec 64) (push : Bool) : State :=
  match s.ctlJoin o f succ push with
  | (s1, none) => s1
  | (s1, some (left, c, d)) =>
    (s1.updForme (o * 64 + f) fun w => { w with launches := w.launches ++ [{ l with stuck := true, joining := some left }] }).ctlPost
      o f l.galley c succ.toNat d
/-- Status is written, succ is joined, and every distributor forgets the launch. -/
def State.closeLaunch (s : State) (o : Nat) (l : Launch) (r : LaunchRec) (status : Nat) : State :=
  let s1 := s.ctlWrite o (l.record.toNat + 0x2C) 4 status
  let s2 := (List.range 64).foldl (fun s f =>
    if (s.launchOf o f l.record).isNone then s
    else s.updForme (o * 64 + f) fun w => { w with launches := w.launches.filter fun q => q.record != l.record }) s1
  s2.joinSucc o (s2.masterOf o r) l r.succ false
/-- RETRY of a join that was left. -/
def State.joinAgain (s : State) (o f : Nat) (l : Launch) (push : Bool) : State :=
  let s1 := s.updForme (o * 64 + f) fun w => { w with launches := w.launches.erase l }
  match s1.readLaunch o l.record.toNat with
  | some r => s1.joinSucc o f l r.succ push
  | none => s

/-- A distributor has written all it will write, and all of it has finished. -/
def Launch.over (l : Launch) (r : LaunchRec) : Bool :=
  (l.abandoned || (if r.dynamic then l.chunks.isEmpty else decide (r.count ≤ l.next))) && decide (l.written ≤ l.finished.length)
/-- Every chunk has been handed out. -/
def Launch.allHanded (l : Launch) (r : LaunchRec) : Bool := !r.dynamic || l.abandoned || (l.redo.isEmpty && decide (r.count ≤ l.handed * r.chunk))
/-- The launch ends once every live distributor is through (R318), and nothing of a lost die is left to take over (R320). -/
def State.settleLaunch (s : State) (o : Nat) (rec_ : BitVec 64) : State :=
  match s.readLaunch o rec_.toNat with
  | none => s
  | some r =>
    let ls := (s.liveFormes o r).filterMap fun f => s.launchOf o f rec_
    match s.launchOf o (s.masterOf o r) rec_ with
    | none => s
    | some m =>
      if !s.launchTorn o rec_ r && ls.all (·.over r) && m.allHanded r then s.closeLaunch o m r (if ls.any (fun l => l.lost || l.abandoned) then 2 else 1) else s
/-- All launches of a forme. -/
def State.settleAll (s : State) (o f : Nat) : State :=
  (s.forme (o * 64 + f)).launches.foldl (fun s l => s.settleLaunch o l.record) s

/-! ### Writing an instance (R318) -/

/-- Instance i: the template with frame and index replaced. -/
def LaunchRec.instance_ (r : LaunchRec) (tmpl i : Nat) : Nat :=
  setBits (setBits tmpl 64 64 (r.fbase + i * r.fstride)) (8 * 0x2C) 32 (r.first + i)
/-- How writing and pushing an instance ends: the cause and the address when it cannot be done. -/
def State.writeInstance (s : State) (o f g : Nat) (r : LaunchRec) (i : Nat) : Except (Nat × Nat) State :=
  let va := r.sarea + 64 * i
  match s.ctlRead o r.tmpl 64 with
  | none => .error (0x05, r.tmpl)
  | some t =>
    match s.ctlAt o va true with
    | .error c => .error (c, va)
    | .ok (pa, slot) =>
      if !pushValueOk va || (s.readGalley o f g).kind == 0 then .error (0x06, va)
      else .ok ((((s.leafUsed o r.tmpl false).leafUsed o va true).memWrite o va slot pa 64 (r.instance_ t i)).pushTo o f g
        { addr := BitVec.ofNat 64 va, src := tileKey o (f * 1024), ctx := 0, after := 0, launcher := false, flight := none, mark := none })
/-- Writes an instance for a distributor, or stops it with one message. -/
def State.distribute (s : State) (o f g : Nat) (l : Launch) (r : LaunchRec) (i : Nat) (next : Nat) : State :=
  match s.writeInstance o f g r i with
  | .ok s1 => s1.updLaunch o f l.record fun l => { l with next := next, written := l.written + 1 }
  | .error (c, va) => (s.updLaunch o f l.record fun l => { l with stuck := true }).ctlPost o f l.galley c va
      (if c = 0x05 then s.ctlDetail o va (va != r.tmpl) else 0)

/-! ### Deterministic distribution (R319) -/

/-- The first instance from n on that falls to the die of a rank. -/
def LaunchRec.nextOf (r : LaunchRec) (rank n : Nat) : Nat :=
  let w := 1024 * r.nc
  let p := r.formes.length * w
  let q := n % p
  if q < rank * w then n + (rank * w - q) else if q < rank * w + w then n else n + (p - q + rank * w)
/-- The private galley of an instance on its die. -/
def LaunchRec.privateOf (r : LaunchRec) (i : Nat) : Nat :=
  let q := i % (r.formes.length * (1024 * r.nc))
  let t := q % (1024 * r.nc) / r.nc
  256 + 4 * t + q % r.nc
def State.distDet (s : State) (o f : Nat) (l : Launch) (r : LaunchRec) : State :=
  let rank := (r.formes.filter fun g => decide (g < f)).length
  let i := r.nextOf rank l.next
  if r.count ≤ i then s.updLaunch o f l.record fun l => { l with next := r.count }
  else s.distribute o f (r.privateOf i) l r i (i + 1)

/-! ### Dynamic distribution (R320) -/

/-- Instances of a chunk. -/
def LaunchRec.chunkOf (r : LaunchRec) (k : Nat) : List Nat :=
  (List.range r.chunk).filterMap fun j => if k * r.chunk + j < r.count then some (k * r.chunk + j) else none
/-- The instance that a die writes next: `next` counts over its chunks in the order they were handed out. -/
def Launch.nextInstance (l : Launch) (r : LaunchRec) : Option Nat := ((l.chunks.map r.chunkOf).flatten)[l.next]?
def State.distDyn (s : State) (o f : Nat) (l : Launch) (r : LaunchRec) : State :=
  match l.nextInstance r with
  | some i => s.distribute o f r.galley l r i (l.next + 1)
  | none => s
/-- Instances of the launch that wait in the shared galley of a forme. -/
def State.waitingOf (s : State) (o f : Nat) (r : LaunchRec) : Nat :=
  let mine (a : BitVec 64) : Bool := decide (r.sarea ≤ a.toNat) && decide (a.toNat < r.sarea + 64 * r.count)
  let q := s.galley o f r.galley
  ((q.fifo.map fun e => (e.2.filter fun x => mine x.addr).length).sum) + (q.pushes.filter fun p => mine p.addr).length

/-! ### The steps -/

/-- A launch begins: a record from a galley of kind 2 reaches every distributor of its formes. -/
def State.beginLaunch (s : State) (o f g : Nat) (e : Entry) : State :=
  let s0 := s.updGalley o f g (·.dropHead 0)
  match s.readLaunch o e.addr.toNat with
  | none =>
    if (s.galley o f g).stuck.contains 0 then s
    else (s.updGalley o f g fun w => { w with stuck := w.stuck ++ [0] }).ctlPost o f g 0x05 e.addr.toNat
      (s.ctlDetail o e.addr.toNat false)
  | some r =>
    let det := match s.readSlug o r.tmpl with | some t => t.flags.getLsbD 4 | none => false
    let rec0 : Launch :=
      { record := e.addr, galley := g, next := 0, written := 0, finished := [], chunks := [], handed := 0, reported := [], redo := [],
        lost := !r.dynamic && r.formes.any (fun f => (s.forme (o * 64 + f)).lost), abandoned := false, stuck := false }
    let shared := r.formes.all fun h => (s.readGalley o h r.galley).kind != 2
    let s0 := s0.leafUsed o e.addr.toNat false
    if !r.ok (s.owner o).formes det shared then s0.closeLaunch o rec0 r 3
    else
      let s1 := s0.ctlWrite o (e.addr.toNat + 0x2C) 4 0
      (s1.liveFormes o r).foldl (fun s f => s.updForme (o * 64 + f) fun w => { w with launches := w.launches ++ [rec0] }) s1

/-- The oldest launch from a galley that a distributor still has instances to write for. -/
def State.launchWork (s : State) (o f g : Nat) : Option (Launch × LaunchRec) :=
  ((s.forme (o * 64 + f)).launches.filterMap fun l =>
    if l.galley ≠ g ∨ l.stuck ∨ l.abandoned ∨ l.joining.isSome then none
    else match s.readLaunch o l.record.toNat with
      | some r => if (if r.dynamic then (l.nextInstance r).isSome else decide (l.next < r.count)) then some (l, r) else none
      | none => none).head?

/-- INDEXED_LAUNCH_READ: a distributor writes its next instance, or takes the next record of its galley of kind 2. -/
def execIndexedLaunchRead (forme galley : Nat) (s : State) : Out :=
  let o := forme / 64
  let f := forme % 64
  let w := s.forme forme
  if s.sinceTurn || w.held || w.lost then .next s
  else match s.launchWork o f galley with
    | some (l, r) => .next ((if r.dynamic then s.distDyn o f l r else s.distDet o f l r).settleLaunch o l.record)
    | none =>
      let q := s.galley o f galley
      match q.kind, q.fifo.get [] 0 with
      | 2, e :: _ => .next (s.beginLaunch o f galley e)
      | _, _ => .next (s.settleAll o f)

/-- The oldest dynamic launch from a galley of a forme that passes a test. -/
def State.dynOf (s : State) (o f g : Nat) (ok : Launch → LaunchRec → Bool) : Option (Launch × LaunchRec) :=
  ((s.forme (o * 64 + f)).launches.filterMap fun l =>
    match s.readLaunch o l.record.toNat with
    | some r => if l.galley = g ∧ r.dynamic ∧ !l.abandoned ∧ l.joining.isNone ∧ ok l r then some (l, r) else none
    | none => none).head?
/-- A distributor asks for a chunk of a launch: fewer than `chunk` of its instances wait in the galley, it has not been served at this
gtime, and the master has one to hand out. -/
def State.wantsChunk (s : State) (o f : Nat) (l : Launch) (r : LaunchRec) : Bool :=
  decide (s.waitingOf o f r < r.chunk) && decide (l.asked ≤ s.gtime.toNat) && !s.launchTorn o l.record r &&
    (match s.launchOf o (s.masterOf o r) l.record with
     | some ml => !ml.redo.isEmpty || decide (ml.handed * r.chunk < r.count)
     | none => false)

/-- A live distributor of a lower forme asks too: it is served first (R320). -/
def State.lowerAsks (s : State) (o f : Nat) (rec_ : BitVec 64) (r : LaunchRec) : Bool :=
  (s.liveFormes o r).any fun h => decide (h < f) && (match s.launchOf o h rec_ with
    | some l => !l.abandoned && s.wantsChunk o h l r
    | none => false)
/-- CHUNK_REQUEST: a distributor asks at once, and whenever fewer than `chunk` of its instances wait in the galley; the
master hands out chunks to be run again first, then new ones in ascending order. Of the requests of one cycle, which is a gtime here, each
is served once, in ascending order of the formes. -/
def execChunkRequest (forme galley : Nat) (s : State) : Out :=
  let o := forme / 64
  let f := forme % 64
  if s.sinceTurn || (s.forme forme).lost then .next s
  else match s.dynOf o f galley fun l r => s.wantsChunk o f l r && !s.lowerAsks o f l.record r with
    | none => .next s
    | some (l, r) =>
      let m := s.masterOf o r
      let give (s : State) (k : Nat) : State := s.updLaunch o f l.record fun l => { l with chunks := l.chunks ++ [k], asked := s.gtime.toNat + 1 }
      match s.launchOf o m l.record with
      | none => .next s
      | some ml =>
        match ml.redo with
        | k :: rest => .next (give (s.updLaunch o m l.record fun l => { l with redo := rest }) k)
        | [] => .next (give (s.updLaunch o m l.record fun l => { l with handed := l.handed + 1 }) ml.handed)

/-- A die holds a chunk of a launch, has written every instance of it, and all of them have finished. -/
def Launch.through (l : Launch) (r : LaunchRec) (chunk : Nat) : Bool :=
  let is := r.chunkOf chunk
  let behind := ((l.chunks.takeWhile (· != chunk)).map fun k => (r.chunkOf k).length).sum
  l.chunks.contains chunk && decide (behind + is.length ≤ l.next) && is.all fun i => l.finished.contains i
/-- CHUNK_REPORT: every instance of a chunk of a die has finished. -/
def execChunkReport (forme galley chunk : Nat) (s : State) : Out :=
  let o := forme / 64
  let f := forme % 64
  match s.dynOf o f galley fun l r => l.through r chunk with
  | none => .next s
  | some (l, r) =>
    let is := r.chunkOf chunk
    let s1 := s.updLaunch o f l.record fun l =>
      { l with chunks := l.chunks.erase chunk, next := l.next - is.length, written := l.written - is.length,
               finished := is.foldl List.erase l.finished }
    let s2 := s1.updLaunch o (s.masterOf o r) l.record fun l => { l with reported := insNat l.reported chunk }
    .next (s2.settleLaunch o l.record)

/-- MASTER_FAILOVER: dies of a launch are lost. The lowest live forme becomes master with what the dies report; every chunk that was
handed out and not reported is handed out again, if the template may run twice; otherwise the launch has lost them (R320). -/
def State.failover (s : State) (o : Nat) (rec_ : BitVec 64) (r : LaunchRec) : State :=
  let dead := r.formes.filter fun f => (s.forme (o * 64 + f)).lost && (s.launchOf o f rec_).isSome
  let gone := dead.filterMap fun f => s.launchOf o f rec_
  let m := s.masterOf o r
  let known := ((r.formes.filterMap fun f => s.launchOf o f rec_))
  let handed := known.foldl (fun a x => max a x.handed) 0
  let done := (known.map (·.reported)).flatten
  let again := (List.range handed).filter fun k => !done.contains k
  let twice := match s.readSlug o r.tmpl with | some t => t.flags.getLsbD 3 | none => false
  let s1 := s.updLaunch o m rec_ fun l =>
    { l with handed := handed, reported := done.foldl insNat [], redo := if r.dynamic && twice then again else [],
             lost := l.lost || !r.dynamic || (!twice && !again.isEmpty) || gone.any (·.lost) }
  let s2 := dead.foldl (fun s f => s.updForme (o * 64 + f) fun w => { w with launches := w.launches.filter fun l => l.record != rec_ }) s1
  let s3 := if r.dynamic && !twice && !again.isEmpty then
      let k := tileKey o (m * 1024)
      let f : FaultRec := { s2.faultRec k 0 0 0 12 { cause := 0x16, detail := 3 } with src := 12 }
      s2.post (s2.serviceBox k) { body := f.message (ltileOf k), src := k, ctx := 0, after := 0 }
    else s2
  s3.settleLaunch o rec_
def execMasterFailover (owner galley : Nat) (s : State) : Out :=
  let hit := ((List.range 64).map fun f => (s.forme (owner * 64 + f)).launches.filterMap fun l =>
    if (s.forme (owner * 64 + f)).lost ∧ l.galley = galley ∧ l.joining.isNone then some l.record else none).flatten
  match hit with
  | [] => .next s
  | a :: _ => (match s.readLaunch owner a.toNat with
    | some r => .next (s.failover owner a r)
    | none => .next s)

/-- KILL of a distributor's stop: every instance not yet written is abandoned (R318). -/
def State.abandonLaunch (s : State) (o : Nat) (rec_ : BitVec 64) : State :=
  ((List.range 64).foldl (fun s f =>
    if (s.launchOf o f rec_).isNone then s else s.updLaunch o f rec_ fun l => { l with abandoned := true, lost := true, stuck := false }) s).settleLaunch o rec_

end Sys2Proof.Machine
end

