-- ==== Sys2Proof/Machine/Mail.lean ====
section
/-! DEFINITION. Mailboxes and replies (R325 to R329, R183, R371, R394): the target word, what a reply does to a context, to
an engine, to a galley controller, and the instructions `mbxw` and `mbxr`. -/

namespace Sys2Proof.Machine

/-! ### System instructions as a whole (R338) -/

/-- A system instruction: an operand whose must-be-0 bits are set is illegal, and it is held until every earlier access of
its context has performed. -/
def State.sys (s : State) (h : Head) (t : STail) (need : Level) (ops : List Req) (ok : State → Bool) (body : State → Res) : Out :=
  s.issue h (some t) need ops false false fun s _ =>
    if !ok s then .trap { cause := 0x02 } else if s.acqHeld || !s.allQuiet then .stall else body s
def State.sysDAB (s : State) (f : SDAB) (need : Level) (ok : Word → Word → Bool) (body : State → Word → Word → Res) : Out :=
  s.sys f.h f.t need [(f.d, .wx), (f.a, .rx), (f.b, .rx)] (fun s => ok (s.rx f.a.num) (s.rx f.b.num)) fun s => body s (s.rx f.a.num) (s.rx f.b.num)
def State.sysDA (s : State) (f : SDA) (need : Level) (ok : Word → Bool) (body : State → Word → Res) : Out :=
  s.sys f.h f.t need [(f.d, .wx), (f.a, .rx)] (fun s => ok (s.rx f.a.num)) fun s => body s (s.rx f.a.num)
/-- No bit of a word is set from `n` on. -/
def below (n : Nat) (w : Word) : Bool := decide (w.toNat < 2 ^ n)

/-! ### The target word (R329, Table 3) -/

/-- A legal target word: `prmt` has a mode, `mbxr` a reply. -/
def targetOk (mode reply : Bool) (w : Word) : Bool :=
  below 25 w && (mode || !w.getLsbD 24) && (if reply then decide (bitsAt w.toNat 20 4 ≤ 4) else bitsAt w.toNat 20 4 == 0)
/-- The tile of the issuing owner that has an ltile; one that does not exist has a key that no tile has. -/
def State.named (s : State) (lt : Nat) : Nat :=
  if bootBase ≤ s.cur then (if lt < 1056 then bootBase + formeOf s.cur * 1056 + lt else 2 * bootBase)
  else tileKey (ownerOf s.cur) lt
def State.targetTile (s : State) (w : Word) : Nat := s.named (bitsAt w.toNat 0 16)
def targetCtx (w : Word) : Nat := bitsAt w.toNat 16 2
def targetSrc (w : Word) : Nat := bitsAt w.toNat 18 2
/-- The tiles that an ltile may mean: in checked mode both of a pair read the first tile's (R370). -/
def State.pair (s : State) (k : Nat) : List Nat := if (s.tile k).checked then [firstTwin k, otherTwin (firstTwin k)] else [k]

/-! ### Replies to a context (R327, R371, R394, R395) -/

/-- The fault that a thread of a context awaits a reply for, and the tile it arose on: the named member's, or another's of its gang
(R322, R327). -/
def State.faultAt (s : State) (k c : Nat) : Option (Nat × FaultRec) :=
  ((s.pair k ++ ((s.pair k).map fun t => s.gangTiles t c).flatten).filterMap fun t => (s.ctx t c).c.fault.map fun f => (t, f)).head?
/-- Whether a reply is allowed for a fault (R326): after a `rop` of an exhausted `seq`, RETRY once `seq` is written. -/
def State.allows (s : State) (t c : Nat) (f : FaultRec) (r : Nat) : Bool :=
  f.allow.getLsbD r && !(f.cause == 0x16 && f.detail == 1 && r == 0 && (s.ctx t c).r.seq == 0xFFFFF)

/-- The refusal of a `rop` reported at a later boundary: SKIP goes on at that boundary (R130). -/
def FaultRec.refusedRop (f : FaultRec) : Bool :=
  f.src.getLsbD 4 && decide (0xF0 ≤ bitsAt f.iword.toNat 85 9) && decide (bitsAt f.iword.toNat 85 9 ≤ 0xF3)
/-- The late refusal of a posted operation: RESUME continues at the stopped pc (R82, R130). -/
def FaultRec.postedRefusal (f : FaultRec) : Bool :=
  f.src.getLsbD 4 && f.resend.isNone && (f.cause == 0x06 || f.cause == 0x08 || f.cause == 0x0B || f.cause == 0x0C)
/-- Where the context goes on under a reply; none where it stays (RETRY). The instruction of a gang member is the one it
executes, its boundary the leader's. -/
def State.replyPc (s : State) (t c r : Nat) (f : FaultRec) (addr : Word) : Option Word :=
  let x := s.ctx (if f.src.getLsbD 4 then s.leadTile t c else t) c
  match r with
  | 1 => if f.refusedRop then none else some (pcPlus x.r.pc 1)
  | 2 => if f.postedRefusal then none else some addr
  | 3 => some (s.ctx (s.leadTile t c) c).r.ire
  | _ => none
/-- RETRY sends a refused access again (R394). -/
def State.sendAgain (s : State) (f : FaultRec) (r : Nat) : State :=
  match f.resend with
  | some q => if r = 0 then s.resend q else s
  | none => s
/-- After a watchdog's stop, RESUME gives the thread T2 more (R317). -/
def State.giveT2 (s : State) (t c : Nat) (f : FaultRec) : State :=
  if f.cause = 0x10 then
    s.updCtx t c fun x =>
      { x with c := { x.c with wdNext := some (x.c.prior + s.wdTime x + BitVec.ofNat 64 (match x.c.slug with
          | some g => s.wdogNs t g 2
          | none => 0)) } }
  else s

/-- The other tile of a pair goes on too after an uncorrectable error or a twin mismatch (R371): one that has not stopped yet does not
stop any more, and RESTART-REGION takes it to its `ire` at its next boundary. RESTART-REGION sets both message counters to the larger
one and discards the copies that a port holds. -/
def State.replyTwin (s : State) (t c r : Nat) (f : FaultRec) : State :=
  if !((s.tile t).checked && (f.cause == 0x11 || f.cause == 0x12)) then s
  else
    let u := otherTwin t
    let s := if (s.ctx u c).c.run == .blocked then s.resumeAt u c (if r = 3 then some (s.ctx u c).r.ire else none)
      else s.updCtx u c fun x => { x with c := { x.c with twinStop := false, twinIre := x.c.twinStop && r == 3 } }
    if r ≠ 3 then s
    else
      let a := (s.ctx t c).y.twinCtr
      let b := (s.ctx u c).y.twinCtr
      let m := if a.toNat < b.toNat then b else a
      let s := (s.updCtx t c fun x => { x with y := { x.y with twinCtr := m } }).updCtx u c fun x => { x with y := { x.y with twinCtr := m } }
      { s with flights := s.flights.filter fun q => !((q.src == t || q.src == u) && q.stage.isTwin) }

/-- A reply that is allowed is applied to the context whose fault it answers. -/
def State.applyReply (s : State) (t c r : Nat) (f : FaultRec) (addr : Word) : State :=
  if r = 4 then s.killThread t c
  else if f.atFin then (if r = 0 then s.finPush t c f else s.endMember t c)
  else
    let pc := s.replyPc t c r f addr
    ((((s.sendAgain f r).giveT2 t c f).resumeAt t c pc).replyTwin t c r f)

/-! ### Replies to a collected report (R183) -/

def FpWindow.names (w : FpWindow) (k c : Nat) : Bool := w.excs.any (fun e => e.tile == k && e.ctx == c) || w.also.contains (k, c)
/-- Everyone whom a window stops, each once. -/
def FpWindow.who (w : FpWindow) : List (Nat × Nat) :=
  (w.excs.map (fun e => (e.tile, e.ctx)) ++ w.also).foldl (fun l e => if l.contains e then l else l ++ [e]) []
/-- The first window of an owner whose report names a context of a pair, and a source. -/
def State.windowOf (s : State) (o : Nat) (ks : List Nat) (c src : Nat) : Option (Nat × FpWindow) :=
  (((List.range (s.owner o).windows.length).zip (s.owner o).windows).filter fun e => ks.any fun k => e.2.reported == some (k, c, src)).head?
/-- RETRY or KILL acts on every context of the window, and on the threads that keep its stop (R183). -/
def State.answerWindow (s : State) (o i : Nat) (w : FpWindow) (r : Nat) : State :=
  let rest := dropAt (s.owner o).windows i
  let s := s.updOwner o fun q => { q with windows := rest }
  let one (s : State) (e : Nat × Nat) : State :=
    if !(s.ctx e.1 e.2).c.fpStop then s
    else if r = 4 then
      if e.2 < 4 then s.killThread e.1 e.2 else s.updCtx e.1 e.2 fun x => { x with c := { x.c with run := .halted, fpStop := false } }
    else if rest.any (·.names e.1 e.2) then s
    else s.updCtx e.1 e.2 fun x => { x with c := { x.c with fpStop := false } }
  w.who.foldl one s

/-! ### Replies to engines and controllers (R221, R233, R308, R318) -/

/-- A reply to a matrix command stopped by a page fault: RETRY or KILL. -/
def State.replyMatrix (s : State) (k c r : Nat) : Option (Nat × State) :=
  match (s.tile k).mq with
  | q :: _ =>
    if !q.stopped || q.cap.ctx % 4 != c then none
    else if r = 0 then some (0, s.setHeadM k { q with stopped := false })
    else if r = 4 then some (0, s.mxFinish k q 0x21 (mxRow q.bits))
    else some (2, s)
  | [] => none
/-- A reply to a copy command stopped by a page fault. -/
def State.replyCopy (s : State) (k c r : Nat) : Option (Nat × State) :=
  match current (s.tile k).cq with
  | some q =>
    if !q.stopped || q.cap.ctx % 4 != c then none
    else if r = 0 then some (0, s.updCp k fun q => { q with stopped := false })
    else if r = 4 then some (0, (s.updCp k (·.cut 0x21 q.next)).cpSettle k)
    else some (2, s)
  | none => none
/-- KILL of a distributor's stop. -/
def State.killLaunch (s : State) (o f : Nat) (l : Launch) : State :=
  if l.joining.isSome then s.updForme (o * 64 + f) fun w => { w with launches := w.launches.erase l } else s.abandonLaunch o l.record
/-- A reply to a galley controller: the oldest of its stops that the target word names. -/
def State.replyGalley (s : State) (k c r : Nat) : Option (Nat × State) :=
  let o := ownerOf k
  let f := formeOf k
  let w := s.forme (formeKey k)
  let here (g : Nat) : Bool := galleyTile o f g == k && galleyCtx g == c
  let stuck := (w.galleys.filter fun e => here e.1 && e.2.stuck != []).map (·.1)
  let runs := w.launches.filter fun l => here l.galley && l.stuck
  match stuck, runs with
  | g :: _, runs =>
    if r = 0 then some (0, s.updGalley o f g fun q => { q with stuck := q.stuck.drop 1 })
    else (match runs with
      | l :: _ => if r = 4 then some (0, s.killLaunch o f l) else some (2, s)
      | [] => some (2, s))
  | [], l :: _ =>
    if r = 0 then
      some (0, match l.joining with
        | some push => s.joinAgain o f l push
        | none => s.updLaunch o f l.record fun l => { l with stuck := false })
    else if r = 4 then some (0, s.killLaunch o f l)
    else some (2, s)
  | [], [] => none
/-- The first of the tiles for which there is an answer. -/
def State.firstReply (s : State) (f : State → Nat → Option (Nat × State)) : List Nat → Nat × State
  | [] => (1, s)
  | k :: r => match f s k with
    | some e => e
    | none => State.firstReply s f r

/-! ### The reply (R327, R329) -/

/-- A reply to a report: RETRY or KILL. -/
def State.replyWindow (s : State) (o i : Nat) (w : FpWindow) (r : Nat) : Nat × State :=
  if r = 0 ∨ r = 4 then (0, s.answerWindow o i w r) else (2, s)
/-- A reply to an engine: a stopped command, or a report of what it raised. -/
def State.replyEngine (s : State) (k c src r : Nat) (f : State → Nat → Option (Nat × State)) : Nat × State :=
  match s.firstReply f (s.pair k) with
  | (1, _) =>
    (match s.windowOf (ownerOf k) (s.pair k) c src with
     | some (i, w) => s.replyWindow (ownerOf k) i w r
     | none => (1, s))
  | e => e
/-- A reply to a context: the fault it awaits a reply for; the report that names it; or the hold of a `prmt`, which RETRY
ends. -/
def State.replyContext (s : State) (k c r : Nat) (addr : Word) : Nat × State :=
  let fault (t : Nat) (f : FaultRec) : Nat × State :=
    if !s.allows t c f r || (r == 2 && addr.toNat % 4 != 0) then (2, s) else (0, s.applyReply t c r f addr)
  let window (i : Nat) (w : FpWindow) : Nat × State := s.replyWindow (ownerOf k) i w r
  match s.faultAt k c, s.windowOf (ownerOf k) (s.pair k) c 0 with
  | some (t, f), some (i, w) => if w.opened.toNat + 4096 ≤ f.gtime.toNat then window i w else fault t f
  | some (t, f), none => fault t f
  | none, some (i, w) => window i w
  | none, none =>
    match (s.pair k).find? fun t => (s.ctx t c).c.run == .held && !(s.ctx t c).c.saving with
    | none => (1, s)
    | some t =>
      if r = 0 then (0, (s.teamTiles t c).foldl (fun s u => if (s.ctx u c).c.run == .held then s.carryOn u c else s) s)
      else (2, s)

def State.mbxReply (s : State) (w addr : Word) : Nat × State :=
  let k := s.targetTile w
  let c := targetCtx w
  let r := bitsAt w.toNat 20 4
  match targetSrc w with
  | 0 => s.replyContext k c r addr
  | 1 => s.replyEngine k c 1 r fun s k => s.replyMatrix k c r
  | 2 => s.replyEngine k c 2 r fun s k => s.replyCopy k c r
  | _ => s.firstReply (fun s k => s.replyGalley k c r) [k]

/-- A context that an instruction has killed does not go on. -/
def State.goOn (s : State) (d : Nat) (v : Word) : Res :=
  if s.me.c.run == .ready then .ok (s.wx d v) else .ends s

/-- The reply waits in the stop area of its target's tile, and the instruction for what becomes of it there (R383, log 78). -/
def State.queueReply (s : State) (k : Nat) (a b : Word) : Res :=
  if stopRoom ≤ (s.tile k).stopArea.length then .stall
  else
    .wait ((s.toStop k (.reply s.cur s.curCtx a b)).updC fun c => { c with phase := .armed 0 }) .answer
/-- mbxr xd, xa, xb (R329). A reply that would act on a context of a stopped tile is queued there. -/
def execMbxr (f : SDAB) (s : State) : Out :=
  s.sysDAB f .s (fun a _ => targetOk false true a) fun s a b =>
    match s.resumed (fun v => s.wx f.d.num (v.setWidth 64)) with
    | some r => r
    | none =>
      let (st, s1) := s.mbxReply a b
      if st = 0 && targetSrc a == 0 && (s.tile (s.targetTile a)).hasStop then s.queueReply (s.targetTile a) a b
      else s1.goOn f.d.num (BitVec.ofNat 64 st)
/-- What waits in a tile's stop area is taken (R383): an event message acts, a message arrives at its mailbox, and a reply is applied,
whose status its `mbxr` receives. -/
def State.takeStop (s : State) (p : StopPacket) : State :=
  match p with
  | .event id => (match execEventUnitMessage id s with
    | .next s1 => s1
    | _ => s)
  | .mail k body =>
    let m : Msg := { body := body, src := 0, ctx := 0, after := 0, here := false }
    (s.updForme k fun f => { f with mailbox := f.mailbox.filter (·.here) ++ [m] ++ f.mailbox.filter fun m => !m.here }).settleForme k
  | .reply t c a b =>
    let (st, s1) := ({ s with cur := t, curCtx := c } : State).mbxReply a b
    ({ s1 with cur := s.cur, curCtx := s.curCtx } : State).updCtx t c fun x =>
      if x.c.phase = .armed 0 then { x with c := { x.c with phase := .granted (BitVec.ofNat 128 st) } } else x

/-! ### Taking a message (R329) -/

/-- A message leaves its mailbox. -/
def State.dropMsg (s : State) (b : Box) (m : Msg) : State :=
  match b with
  | .forme k => s.updForme k fun f => { f with mailbox := s.arrivals ((s.arrivals f.mailbox).erase m) }
  | .die d => s.updDie d fun q => { q with mailbox := s.arrivals ((s.arrivals q.mailbox).erase m) }
/-- mbxw xd, xa (R329): the oldest message moves to pad a. The move is an access of the context to its scratchpad, and touches a demand
window as a store does (R94 does not name it: DESIGN CHOICE, log 36). -/
def execMbxw (f : SDA) (s : State) : Out :=
  s.issue f.h (some f.t) .s [(f.d, .wx), (f.a, .rx)] false false fun s _ =>
    let a := s.rx f.a.num
    match spaceCheck a 64 64 0x8000 with
    | some e => .trap e
    | none =>
      match s.me.c.phase with
      | .refused c a d => .trap (refusedArg c a d)
      | _ =>
        if s.acqHeld || s.myTile.vecOpen s.curCtx then .stall
        else match s.delivered s.ownBox with
          | [] => .wait s .mail
          | m :: rest =>
            -- a page fault of the touch comes before a watchpoint (R328)
            match s.touch s.cur s.curCtx s.me.c.level .core a.toNat 64 with
            | .trap a fx => .trapBy fx a
            | .held s1 => ((s.watched 0 a.toNat 64 false true).map (·.after (s1.walked s.cur))).getD (.ends s1)
            | .waits s1 =>
              let w : Waiter := { ctx := s.curCtx, space := 0, addr := a.toNat, size := 64, order := 0, scope := 0, op := .runLoad [] }
              ((s.watched 0 a.toNat 64 false true).map (·.after (s1.walked s.cur))).getD
                (.wait ((s1.updMyTile fun t => { t with waiters := t.waiters ++ [w] }).updC fun c => { c with phase := .armed 0 }) .answer)
            | .present =>
              let t : BitVec 48 := if m.body.toNat % 256 = 0xF0 then s.me.y.cmark else m.body.extractLsb' 320 48
              (s.watched 0 a.toNat 64 false true).getD
                (.ok ((((s.dropMsg s.ownBox m).tileWrite s.cur 0 a.toNat 64 m.body.toNat).updY (·.passed t)).wx f.d.num
                  (BitVec.ofNat 64 rest.length)))

end Sys2Proof.Machine
end

