-- ==== Sys2Proof/Machine/Rows.lean ====
section
/-! DEFINITION. Route registers, anchored and ingress rows, turn sets, the imposition map and the acknowledgement of a turn
(R271 to R273, R277, R278, R290, R294, R339). -/

namespace Sys2Proof.Machine

/-! ### Route registers (R272, R273) -/

def execRtld (f : SAB) (s : State) : Out :=
  s.issue f.h (some f.t) .u [(f.a, .rpair), (f.b, .rx)] false false fun s _ =>
    let b := s.rx f.b.num
    if !below 4 b then .trap { cause := 0x02 }
    else
      let r : BitVec 128 := BitVec.ofNat 128 ((s.rx f.a.num).toNat + (s.rx (f.a.num + 1)).toNat * 2 ^ 64)
      .ok (s.updY fun y => { y with rts := y.rts.set b.toNat r, rtck := y.rtck &&& ~~~((1 : BitVec 16) <<< b.toNat) })
def execRtchk (f : SDA) (s : State) : Out :=
  s.issue f.h (some f.t) .u [(f.d, .wx), (f.a, .rx)] false false fun s _ =>
    let a := s.rx f.a.num
    if !below 4 a then .trap { cause := 0x02 }
    else
      let st := s.checkReg a.toNat
      let s1 := if st = 0 then s.updY fun y => { y with rtck := y.rtck ||| ((1 : BitVec 16) <<< a.toNat) } else s
      .ok (s1.wx f.d.num (BitVec.ofNat 64 st))

/-! ### The circuit of the next turn (R288, R289, R339) -/

/-- An entry of a version: the next one holds what it does not change. -/
def State.mapAt (s : State) (next : Bool) (table index : Nat) : BitVec 64 :=
  if next then s.imapNext.get (s.map table index) (table * 4096 + index) else s.map table index
/-- The number that `turns` has after the next turn. -/
def State.tnext (s : State) : BitVec 64 := s.turns + 1
def State.southToo (s : State) : Bool := s.tnext.toNat % 8 == 0
/-- The next bed under the standard circuit (R289). -/
def standardBed (south : Bool) (b : Nat) : Nat := ((if south then b / 8 + 1 else b / 8) % 8) * 8 + (b % 8 + 1) % 8
def standardCircuit (south : Bool) : List Nat := (List.range 64).map (standardBed south)
/-- The circuit of the next turn: the written table, or the standard one where no entry of the table was ever written. -/
def State.circuit (s : State) : List Nat :=
  if s.imap.any (fun e => e.1 / 4096 == 1) || s.imapNext.any (fun e => e.1 / 4096 == 1)
  then (List.range 64).map fun b => (s.mapAt true 1 b).toNat % 64 else standardCircuit s.southToo
def State.isStandard (s : State) : Bool := s.circuit == standardCircuit s.southToo
/-- A bed's number after the next turn. -/
def State.nextBed (s : State) (b : Nat) : Nat := s.circuit.getD b b

/-! ### Rows and turn sets (R277, R278) -/

/-- Where a bed's forme has its origin. -/
def bedOrigin (b : Nat) : Pos := { row := 32 * (b / 8), col := 32 * (b % 8) }
/-- Indices of the gateways on a die in table 6: Zeltin gateways in ascending order (R264). -/
def State.zeltins (s : State) (die : Nat) : List Nat :=
  ((List.range 32).map (· + 1)).filter fun i => s.imap.any (fun e => e.1 == 6 * 4096 + i) && bitsAt (s.map 6 i).toNat 0 6 == die
/-- The gateway that `gw` of a control word names on a die: 0 Benez, i the Zeltin gateway of entry i. -/
def State.gatewayOn (s : State) (die gw : Nat) : Option Nat :=
  if gw = 0 then (if s.imap.any (fun e => e.1 == 6 * 4096) && bitsAt (s.map 6 0).toNat 0 6 == die then some 0 else none)
  else (s.zeltins die)[gw - 1]?
/-- A row's route as a packet takes it through the gateway: rows of formes with both appended segments (R278). -/
def ingressRoute (row : Nat) (r : BitVec 128) (south east : Nat) : BitVec 128 :=
  if row < 144 then r
  else mkRoute ((segs r).takeWhile isMove ++ (if south = 0 then [] else [64 + south]) ++ (if east = 0 then [] else [32 + east]) ++ [0x80])

/-- The must-be-0 bits of the control word (Table 10). -/
def artwOk (b : Word) : Bool := bitsAt b.toNat 24 8 == 0 && bitsAt b.toNat 16 4 == 0 && bitsAt b.toNat 3 5 == 0
/-- What `artw` does and its status (Table 11). -/
def State.artw (s : State) (op row gw : Nat) (tag : BitVec 32) (r : BitVec 128) : Nat × State :=
  let o := ownerOf s.cur
  let fk := formeKey s.cur
  let turns := (s.owner o).turnSet.toNat
  let new : Row := { route := r, tag := tag, valid := true }
  let judged (p : Pos) (q : BitVec 128) : Nat := s.checkRoute s.cur p q turns false false % 256
  let bed := (s.bedOf o (formeOf s.cur)).getD 0
  let ingress (put : State → Nat → State) : Nat × State :=
    match s.gatewayOn (s.dieOf s.cur) gw with
    | none => (4, s)
    | some g =>
      if 207 < row then (3, s)
      else
        let st := judged (entrySite (s.map 6 g).toNat) (ingressRoute row r 1 1)
        if st ≠ 0 then (0x100 + st, s) else (0, put s (g * 208 + row))
  match op with
  | 0 => let st := judged (bedOrigin bed) r
         if st ≠ 0 then (0x100 + st, s) else (0, s.updForme fk fun f => { f with anch := f.anch.set row new })
  -- a shadow row is of the forme's bed after the next turn (R295, R305)
  | 1 => let st := judged (bedOrigin (s.nextBed bed)) r
         if st ≠ 0 then (0x100 + st, s) else (0, s.updForme fk fun f => { f with shadow := f.shadow.set row new })
  | 2 => ingress fun s n => s.updOwner o fun q => { q with ingress := q.ingress.set n new }
  | 3 => ingress fun s n => s.updOwner o fun q => { q with ingressShadow := q.ingressShadow.set n new }
  | 4 =>
    let off (m : SMap Row) : SMap Row := m.set row { m.get .reset row with valid := false }
    (0, s.updForme fk fun f => { f with anch := off f.anch, shadow := off f.shadow })
  | 5 =>
    let t := r.setWidth 8
    if t &&& ~~~s.modSet ≠ 0 then (2, s) else (0, (s.updOwner o fun q => { q with turnSet := t }).clearChecked o)
  | 6 =>
    let t := r.setWidth 8
    if !turnSetOk t.toNat then (2, s) else (0, { s with modSet := t })
  | _ => (4, s)
/-- artw xd, xa, xb (R277). -/
def execArtw (f : SDAB) (s : State) : Out :=
  s.issue f.h (some f.t) .s [(f.d, .wx), (f.a, .rpair), (f.b, .rx)] false false fun s _ =>
    let b := s.rx f.b.num
    let op := bitsAt b.toNat 0 3
    if !artwOk b then .trap { cause := 0x02 }
    else if op = 6 ∧ s.me.c.level ≠ .m then .trap { cause := 0x03 }
    else
      let r : BitVec 128 := BitVec.ofNat 128 ((s.rx f.a.num).toNat + (s.rx (f.a.num + 1)).toNat * 2 ^ 64)
      let (st, s1) := s.artw op (bitsAt b.toNat 8 8) (bitsAt b.toNat 20 4) ((b >>> 32).setWidth 32) r
      .ok (s1.wx f.d.num (BitVec.ofNat 64 st))

/-! ### The imposition map (R290, R339) -/

/-- Entries of a table (Table 10). -/
def imapSize : Nat → Nat
  | 0 => 64
  | 1 => 64
  | 2 => 128
  | 3 => 2048
  | 4 => 2048
  | 5 => 144
  | 6 => 33
  | _ => 0
/-- A link as the tile north or west of it, its axis, and the direction it is used in. -/
def linkUse (p : Pos) (d : Nat) : Nat × Nat × Bool × Bool :=
  match d with
  | 0 => ((p.hop 0).row, (p.hop 0).col, true, false)
  | 2 => (p.row, p.col, true, true)
  | 1 => (p.row, p.col, false, true)
  | _ => ((p.hop 3).row, (p.hop 3).col, false, false)
/-- The links a transfer route uses. -/
def linkUses : List (Nat × Nat) → Pos → List (Nat × Nat × Bool × Bool)
  | [], _ => []
  | (_, d) :: r, p => linkUse p d :: linkUses r (p.hop d)
def opposed (a b : Nat × Nat × Bool × Bool) : Bool :=
  a.1 == b.1 && a.2.1 == b.2.1 && a.2.2.1 == b.2.2.1 && a.2.2.2 != b.2.2.2
/-- A bed's transfer route in a version of table 2. -/
def State.transferRoute (s : State) (next : Bool) (bed : Nat) : BitVec 128 :=
  BitVec.ofNat 128 ((s.mapAt next 2 (2 * bed)).toNat + (s.mapAt next 2 (2 * bed + 1)).toNat * 2 ^ 64)
/-- The judgement of a second word (R290). -/
def State.circuitOk (s : State) (next : Bool) (bed : Nat) (r : BitVec 128) : Bool :=
  let ok := if next then s.circOkNext else s.circOk
  let mine := linkUses (routeHops r) (bedOrigin bed)
  s.checkRoute 0 (bedOrigin bed) r s.modSet.toNat true false == 0 &&
  (List.range 64).all fun b => b == bed || !ok.getLsbD b ||
    (linkUses (routeHops (s.transferRoute next b)) (bedOrigin b)).all fun e => mine.all fun q => !opposed e q
/-- The acceptance of a bed's route in a version; a version written at boot is what the next one starts from. -/
def State.setCirc (s : State) (next : Bool) (bed : Nat) (b : Bool) : State :=
  let put (v : BitVec 64) : BitVec 64 := if b then v ||| ((1 : BitVec 64) <<< bed) else v &&& ~~~((1 : BitVec 64) <<< bed)
  if next then { s with circOkNext := put s.circOkNext } else { s with circOk := put s.circOk, circOkNext := put s.circOkNext }
/-- A write of one entry and its status. A change of the link-health bitmap in force clears checked bits (R271). -/
def State.writeMap (s : State) (next : Bool) (table index : Nat) (v : BitVec 64) : Nat × State :=
  if imapSize table ≤ index then (1, s)
  else
    let key := table * 4096 + index
    let put (s : State) : State := if next then { s with imapNext := s.imapNext.set key v } else { s with imap := s.imap.set key v }
    match table with
    | 1 => (0, (put s).setCirc next index false)
    | 2 =>
      if index % 2 = 0 then (0, (put s).setCirc next (index / 2) false)
      else
        let r : BitVec 128 := BitVec.ofNat 128 ((s.mapAt next 2 (index - 1)).toNat + v.toNat * 2 ^ 64)
        if s.circuitOk next (index / 2) r then (0, (put s).setCirc next (index / 2) true) else (2, s)
    | 4 => (0, if next || s.map 4 index == v then put s else (List.range 65).foldl State.clearChecked (put s))
    | _ => (0, put s)
/-- imap xd, xa, xb (R339). -/
def execImap (f : SDAB) (s : State) : Out :=
  s.sysDAB f .u (fun a _ => below 19 a) fun s a b =>
    let index := bitsAt a.toNat 0 12
    let table := bitsAt a.toNat 12 4
    if !a.getLsbD 17 then
      .ok (s.wx f.d.num (if imapSize table ≤ index then ones else s.mapAt (a.getLsbD 16 && !a.getLsbD 18) table index))
    else if s.me.c.level != .m || (a.getLsbD 18 && !s.boot) then .trap { cause := 0x03 }
    else
      let (st, s1) := s.writeMap (!a.getLsbD 18) table index b
      .ok (s1.wx f.d.num (BitVec.ofNat 64 st))

/-! ### turnack (R294) -/

/-- turnack xd, xa: one step at the die's turn sequencer. -/
def execTurnack (f : SDA) (s : State) : Out :=
  s.issue f.h (some f.t) .s [(f.d, .wx), (f.a, .rx)] false false fun s _ =>
    let a := s.rx f.a.num
    if !below 32 a then .trap { cause := 0x02 }
    else
      let k := formeKey s.cur
      match (s.forme k).notice with
      | none => .ok (s.wx f.d.num 1)
      | some n =>
        if n.tturn.toNat ≤ s.gtime.toNat then .ok (s.wx f.d.num 1)
        else if a.setWidth 32 ≠ n.tnext.setWidth 32 then .ok (s.wx f.d.num 2)
        else if n.ack then .ok (s.wx f.d.num 3)
        else .ok ((s.updForme k fun w => { w with notice := some { n with ack := true } }).wx f.d.num 0)

end Sys2Proof.Machine
end

