-- ==== Sys2Proof/Machine/System.lean ====
section
/-! DEFINITION. The system instructions of Table 9 of "Faults, service cores, translation and system instructions"
(R334, R336, R338, R350, R372, R384, R385): software traps, TLB invalidation, images, holding and killing threads, tree
sets, watchdogs, proofs, counters, trace, scrubs, keys, folds, fences, discovery and halt. -/

namespace Sys2Proof.Machine

/-! ### svc -/

def execSvc (f : I0) (s : State) : Out :=
  s.issue f.h none .u [] false false fun s _ =>
    if s.acqHeld || !s.allQuiet then .stall
    else .trap { cause := 0x15, detail := BitVec.ofNat 64 (f.imm.toNat + 2 ^ 32) }

/-! ### tlbi (R334) -/

/-- A tile lies in the scope of a `tlbi` of the moving context. -/
def State.inScope (s : State) (all : Bool) (k : Nat) : Bool :=
  ownerOf k == ownerOf s.cur && (all || s.dieOf k == s.dieOf s.cur)
/-- Entries that the operation drops. -/
def tlbDrops (op va : Nat) (e : TlbEntry) : Bool :=
  match op with
  | 1 => !e.g
  | 2 => true
  | _ => e.maps va
/-- Pages, by their numbers, that the operation drops whatever a TLB holds: the named one, or all (R335). -/
def tlbGone (op va page : Nat) : Bool :=
  match op with
  | 1 => false
  | 2 => true
  | _ => page == va / 65536
/-- The entries that the TLBs of a cluster hold, its own and those of its tiles. -/
def State.clusterTlb (s : State) (ck : Nat) : List TlbEntry :=
  (s.cluster ck).l2 ++ s.tiles.flatMap fun e =>
    if clusterKey e.1 = ck then e.2.itlb ++ e.2.dtlb ++ e.2.mtlb ++ e.2.ctlb else []
/-- Drops the matching entries of every tile and cluster that a test picks; their pages, and those that `gone` names, are not
resident any more (R334, R335). -/
def State.dropTlb (s : State) (pick : Nat → Bool) (drops : TlbEntry → Bool) (gone : Nat → Bool) : State :=
  let keep (l : List TlbEntry) : List TlbEntry := l.filter fun e => !drops e
  let tile (t : Tile) : Tile := { t with itlb := keep t.itlb, dtlb := keep t.dtlb, mtlb := keep t.mtlb, ctlb := keep t.ctlb }
  let cluster (ck : Nat) (c : Cluster) : Cluster :=
    let lost := (s.clusterTlb ck).filter drops
    { c with l2 := keep c.l2,
             tracker := c.tracker.map (clearResident fun p => gone p || lost.any (·.maps (p * 65536))) }
  -- a cluster is in scope with its first tile
  let first (ck : Nat) : Nat := tileKey (ck / 4096) (ck / 64 % 64 * 1024)
  { s with tiles := s.tiles.map fun e => if pick e.1 then (e.1, tile e.2) else e,
           clusters := s.clusters.map fun e => if pick (first e.1) then (e.1, cluster e.1 e.2) else e }
/-- An access translated before the drop has not been applied: its number, or its engine command's, is below `n`. One that waits to be
translated anew counts for nothing (operation 3). -/
def State.translatedOpen (s : State) (all : Bool) (n : Nat) : Bool :=
  s.flights.any (fun f => f.owner == ownerOf s.cur && s.inScope all f.src && decide (f.id < n) && f.isOpen &&
    !(f.resent.isSome && f.stage == .queued) &&
    (match f.dest with | .slice _ => true | .gate _ => true | _ => false)) ||
  s.tiles.any fun e => s.inScope all e.1 &&
    (e.2.cq.any (fun q => decide (q.cap.id < n) && !q.flying.isEmpty) || e.2.mq.any fun q => decide (q.cap.id < n) && q.asked.isSome)
/-- Accesses held under MIG whose page the operation drops translate again (R112, R334). -/
def migFrees (op va : Nat) (h : MigHold) : Bool :=
  match op with
  | 1 => !h.g
  | 2 => true
  | _ => h.covers va
def State.freeHeld (s : State) (pick : Nat → Bool) (frees : MigHold → Bool) : State :=
  if s.tiles.all fun e => e.2.migHeld.isEmpty then s
  else { s with tiles := s.tiles.map fun e => if pick e.1 then (e.1, { e.2 with migHeld := e.2.migHeld.filter fun h => !frees h }) else e }
/-- A repair cell lies in the frames of the page at an address. -/
def State.pageHasCell (s : State) (va : Nat) : Bool :=
  match walk s.mem (s.owner (ownerOf s.cur)).ptbase va with
  | .leaf _ e level _ => s.cellIn (pteFrame e) (2 ^ leafLg level)
  | .stop _ _ => false
/-- tlbi xd, xa, xb. Operation 3 goes on when what was translated before the drop has been applied. -/
def execTlbi (f : SDAB) (s : State) : Out :=
  s.sysDAB f .s (fun _ b => below 4 b && decide (bitsAt b.toNat 0 3 < 4)) fun s a b =>
    let op := bitsAt b.toNat 0 3
    let all := b.getLsbD 3
    let va := a.toNat
    match s.me.c.phase with
    | .granted n =>
      if s.translatedOpen all n.toNat then .stall
      else .ok (((s.freeHeld (s.inScope all) (migFrees op va)).updY Sync.ordered).wx f.d.num (BitVec.ofNat 64 (bit (s.pageHasCell va))))
    | _ =>
      let s1 := s.dropTlb (s.inScope all) (tlbDrops op va) (tlbGone op va)
      if op = 3 then .wait (s1.updC fun c => { c with phase := .granted (BitVec.ofNat 128 s.nextId) }) .nothing
      else .ok (((s1.freeHeld (s.inScope all) (migFrees op va)).updY Sync.ordered).wx f.d.num 0)

/-! ### Images: ctxsv and ctxld (R336) -/

/-- A context that is stopped: on a fault, by `prmt`, by the debug module, for a window, or by `halt`. -/
def Ctx.isStopped (x : Ctx) : Bool :=
  match x.c.run with
  | .blocked => true
  | .held => true
  | .debugStop => true
  | .halted => true
  | .ready => x.c.fpStop
  | .waiting => x.c.fpStop
  | _ => false
/-- The alignment and space of an image. -/
def imageCheck (b : Word) : Option FaultArg := spaceCheck b 12288 64 vaLimit
def execCtxsv (f : SDAB) (s : State) : Out :=
  s.sysDAB f .s (fun a _ => targetOk false false a) fun s a b =>
    let k := s.targetTile a
    let c := targetCtx a
    match imageCheck b with
    | some e => .trap e
    | none =>
      if targetSrc a ≠ 0 ∨ !(s.ctx k c).isStopped then .ok (s.wx f.d.num 1)
      else if !s.imageReady k c then .stall
      else match State.spanPieces s.cur s.me.c.level true 2 b.toNat 12288 s with
        | .error (.fault e fx) => .trapBy fx e
        | .error (.hold s1) => .ends s1
        | .ok (l, s1) =>
          -- a page fault comes before a watchpoint (R328)
          match s.watched 2 b.toNat 12288 false true with
          | some r => r.after (s1.walked s.cur)
          | none =>
            match s1.raceSpans true l with
            | .error e => .trapBy (s1.walked s.cur) e
            | .ok s2 => .ok ((s2.saveAt k c l).wx f.d.num 0)

/-- The records of a context's commands, as an image holds them. -/
def Tile.sameRecords (t : Tile) (c : Nat) (img : List Byte) : Bool :=
  ((List.range 3).all fun i => imgN img (0x2A00 + 64 * i) 64 == (((t.mOf c)[i]?).map fun q => q.bits.toNat).getD 0) &&
  ((List.range 3).all fun i => imgN img (0x2AC0 + 64 * i) 64 == (((t.cOf c)[i]?).map fun q => q.record.toNat).getD 0) &&
  (List.range 2).all fun i => imgN img (0x2C00 + 64 * i) 64 == (((t.vOf c)[i]?).map fun q => bytesNat q.record).getD 0
/-- Everything an image holds goes into a stopped context: its registers, its slug, its run time, its window stop and its
engine records. -/
def State.loadInto (s : State) (k c : Nat) (img : List Byte) : State :=
  let t := s.tile k
  let slug := BitVec.ofNat 64 (imgN img 0x2488 8)
  let c0 := s.saverOf (ownerOf k) slug c
  let same := t.sameRecords c img
  let oldM := if same then t.mOf c else []
  let oldC := if same then t.cOf c else []
  let oldV := if same then t.vOf c else []
  let pc := (s.ctx k c).r.pc
  let stop := bitAt (imgN img 0x2498 4) 4
  let s := (s.updTile k (·.takeOut c s.gtime)).loadImage k c img fun _ => false
  let s := s.updCtx k c fun x =>
    { x with c := { x.c with
        slug := x.c.slug.map fun g => { g with addr := slug },
        runAcc := BitVec.ofNat 64 (imgN img 0x2490 8) - x.c.prior, fpStop := stop,
        phase := if x.r.pc = pc then x.c.phase else .fresh } }
  let s := if stop then s.updOwner (ownerOf k) fun o =>
      { o with windows := o.windows.map fun w => if w.who.any (fun e => e.1 == k && e.2 % 4 == c0) then { w with also := w.also ++ [(k, c)] } else w }
    else s
  s.reenter k c c0 img oldM oldC oldV
def execCtxld (f : SDAB) (s : State) : Out :=
  s.sysDAB f .s (fun a _ => targetOk false false a) fun s a b =>
    let k := s.targetTile a
    let c := targetCtx a
    match imageCheck b with
    | some e => .trap e
    | none =>
      if targetSrc a ≠ 0 ∨ !(s.ctx k c).isStopped then .ok (s.wx f.d.num 1)
      else if !s.imageReady k c then .stall
      else match State.spanPieces s.cur s.me.c.level false 2 b.toNat 12288 s with
        | .error (.fault e fx) => .trapBy fx e
        | .error (.hold s1) => .ends s1
        | .ok (l, s1) =>
          match s.watched 2 b.toNat 12288 true false with
          | some r => r.after (s1.walked s.cur)
          | none =>
            match s1.raceSpans false l with
            | .error e => .trapBy (s1.walked s.cur) e
            | .ok s2 =>
              match findFrom (fun i => ((s2.badPieces l)[i]?).getD false) 1536 0 with
              | some i =>
                .trapBy (s1.walked s.cur) { cause := 0x11, address := b + BitVec.ofNat 64 (8 * i), detail := 5, allow := allowRetryRestartKill }
              | none =>
                let img := s2.getPieces l
                if imageFits img (s2.ctx k c).r.win then .ok ((s2.loadInto k c img).wx f.d.num 0) else .ok (s2.wx f.d.num 2)

/-! ### prmt and kill -/

/-- Mode 1 is refused: a tile of the thread is blocked on a fault, holds faults, or is stopped by the debug module. -/
def State.unsavable (s : State) (k c : Nat) : Bool :=
  (s.teamTiles k c).any fun t =>
    let x := (s.ctx t c).c
    x.run == .blocked || x.run == .debugStop || x.run == .halted || x.fault.isSome || x.held != []
def State.isTeam (s : State) (k c : Nat) : Bool := s.curCtx == c && (s.teamTiles k c).contains s.cur
/-- A running thread is held in place. -/
def State.holdAll (s : State) (k c : Nat) : State :=
  (s.teamTiles k c).foldl (fun s t => s.updCtx t c fun x =>
    if x.c.run.isRunning then { x with c := { x.c.stopRun s.gtime with run := .held, waitOn := .nothing } } else x) s
/-- prmt xd, xa. A context that stops itself does so once the instruction is over. -/
def execPrmt (f : SDA) (s : State) : Out :=
  s.sysDA f .s (targetOk true false) fun s a =>
    let k := s.targetTile a
    let c := targetCtx a
    let x := s.ctx k c
    let done (s : State) (v : Nat) : Res := .ok (s.wx f.d.num (BitVec.ofNat 64 v))
    let self (fin : State → State) : Res :=
      let s1 := (s.wx f.d.num 0).finish f.h (some f.t) true false
      .ends (if s1.me.c.run == .ready then fin s1 else s1)
    match s.me.c.phase with
    | .granted _ =>
      if s.unsavable k c then done s 3
      else if !x.c.saving then done s 0
      else if s.allSaveReady k c then
        -- a frame's page under migration is waited for
        let s1 := s.requeue k c
        if (s1.ctx k c).c.saving then .ends s1 else done s1 0
      else .stall
    | _ =>
      if targetSrc a ≠ 0 ∨ x.c.run == .idle then done s 1
      else if !a.getLsbD 24 then
        if x.isStopped || x.c.run == .ending then done s 0
        else if s.isTeam k c then self fun s => s.holdAll k c
        else done (s.holdAll k c) 0
      else if s.unsavable k c then done s 3
      else if x.c.slug.isNone then done s 1
      else if x.c.run == .ending then done s 0
      else if s.isTeam k c then self fun s => s.stopAll k c
      else .wait ((s.stopAll k c).updC fun q => { q with phase := .granted 0 }) .nothing

/-- kill xd, xa. -/
def execKill (f : SDA) (s : State) : Out :=
  s.sysDA f .s (targetOk false false) fun s a =>
    let k := s.targetTile a
    let c := targetCtx a
    if targetSrc a ≠ 0 ∨ (s.ctx k c).c.run == .idle then .ok (s.wx f.d.num 1) else (s.killThread k c).goOn f.d.num 0

/-! ### gpart (R156, R159, R364) -/

/-- The participation set becomes `new`. A set that was empty takes part from the next generation; a removal that
completes the tile's arrivals is its arrival. -/
def State.setParts (s : State) (k g : Nat) (new : BitVec 4) : State :=
  let old := s.partSet k g
  let now := s.gtime
  s.updTile k fun t =>
    if old = 0 then { t with partsNext := if new = 0 then t.partsNext.erase g else t.partsNext.set g new }
    else
      let a := t.arrivals.get .reset g
      let completes := (old &&& ~~~a.ctxs) != 0 && (new &&& ~~~a.ctxs) == 0
      { t with parts := t.parts.set g new, arrivals := if completes then t.arrivals.set g { a with time := now } else t.arrivals }
/-- gpart xd, xa, xb. -/
def execGpart (f : SDAB) (s : State) : Out :=
  s.sysDAB f .s (fun a b => below 22 a && below 4 b) fun s a b =>
    let k := s.named (bitsAt a.toNat 0 16)
    let g := bitsAt a.toNat 16 6
    if 56 ≤ g ∧ s.me.c.level ≠ .m then .trap { cause := 0x03 }
    else if s.treeOwner g ≠ ownerOf s.cur then .trap { cause := 0x06 }
    else .ok ((s.setParts k g (b.setWidth 4)).wx f.d.num ((s.partSet k g).setWidth 64))

/-! ### wdog (R317) -/

def wdogOk (a : Word) : Bool := below 10 a && bitsAt a.toNat 8 2 != 0
def State.wdogSet (s : State) (d : Nat) (a v : Word) : Res :=
  let g := bitsAt a.toNat 0 8
  let step := bitsAt a.toNat 8 2
  let old := s.wdogOf (ownerOf s.cur) (formeOf s.cur) g step
  .ok ((s.updForme (formeKey s.cur) fun w => { w with wdog := w.wdog.set (g * 4 + step) v }).wx d (BitVec.ofNat 64 old))
def execWdog (f : SDAB) (s : State) : Out := s.sysDAB f .s (fun a _ => wdogOk a) fun s a b => s.wdogSet f.d.num a b
/-- The form with an immediate: the time is the immediate, sign-extended as every I-form immediate is (R21). -/
def State.sysIDA (s : State) (f : IDA) (ok : Word → Bool) (body : State → Word → Word → Res) : Out :=
  s.issue f.h none .s [(f.d, .wx), (f.a, .rx)] false false fun s _ =>
    if !ok (s.rx f.a.num) then .trap { cause := 0x02 }
    else if s.acqHeld || !s.allQuiet then .stall
    else body s (s.rx f.a.num) (immS f.imm)
def execWdogImm (f : IDA) (s : State) : Out := s.sysIDA f wdogOk fun s a v => s.wdogSet f.d.num a v

/-! ### proof (R372) -/

/-- Arms a proof, unless one is armed; the proof's number. -/
def Proof.arm (p : Proof) : BitVec 32 × Proof :=
  if !p.live then (1, { p with live := true, number := 1, state := 0 })
  else if p.state = 0 then (p.number, p)
  else if p.queued then (p.number + 1, p)
  else if p.state = 1 then (p.number + 1, { p with queued := true })
  else (p.number + 1, { p with number := p.number + 1, state := 0 })
def execProof (f : ID) (s : State) : Out :=
  s.issue f.h none .s [(f.d, .wx)] false false fun s _ =>
    if s.acqHeld || !s.allQuiet then .stall
    else
      let o := ownerOf s.cur
      let (n, p) := (s.owner o).proof.arm
      .ok (((s.updOwner o fun w => { w with proof := p }).proofRecord o).wx f.d.num (n.setWidth 64))

/-! ### Counters and trace (R384, R385) -/

/-- The event can be counted by a counter of a bank (Table 4): die-link events only in clusters on a die edge. -/
def eventOk (cluster edge : Bool) (e : Nat) : Bool :=
  if cluster then decide (0x100 ≤ e ∧ e ≤ 0x103) || (edge && decide (0x104 ≤ e ∧ e ≤ 0x105)) else decide (1 ≤ e ∧ e ≤ 9)
/-- A cluster on an edge of its die. -/
def onEdge (k : Nat) : Bool := let q := clusterIn k; q / 8 == 0 || q / 8 == 7 || q % 8 == 0 || q % 8 == 7
/-- The context of the moving tile that has claimed tile counter n: the moving one when none has (R385). -/
def State.counterCtx (s : State) (n : Nat) : Nat :=
  ((List.range 4).find? fun d => ((s.ctx s.cur d).c.counters.get .reset n).claimed).getD s.curCtx
def State.counterOf (s : State) (a : Word) : Counter :=
  let n := bitsAt a.toNat 0 5
  if a.getLsbD 5 then (s.cluster (clusterKey s.cur)).counters.get .reset (n % 16)
  else (s.ctx s.cur (s.counterCtx (n % 8))).c.counters.get .reset (n % 8)
/-- A counter becomes the moving context's: what another context of the tile held of it is taken over. -/
def State.setCounter (s : State) (a : Word) (q : Counter) : State :=
  let n := bitsAt a.toNat 0 5
  if a.getLsbD 5 then s.updCluster (clusterKey s.cur) fun c => { c with counters := c.counters.set (n % 16) q }
  else
    let h := s.counterCtx (n % 8)
    let s1 := if h = s.curCtx then s
      else s.updCtx s.cur h fun x => { x with c := { x.c with counters := x.c.counters.set (n % 8) .reset } }
    s1.updC fun c => { c with counters := c.counters.set (n % 8) q }
/-- What the counter reads. -/
def State.counterValue (s : State) (a : Word) : BitVec 64 :=
  let q := s.counterOf a
  if a.getLsbD 5 then s.clusterCount s.cur q else s.tileCount s.cur (s.counterCtx (bitsAt a.toNat 0 5 % 8)) q
/-- A claim, or its release; M takes a counter from S, not S from M. -/
def State.claim (s : State) (d : Nat) (a b : Word) : Res :=
  let q := s.counterOf a
  let m := s.me.c.level == .m
  if q.claimed && q.byM && !m then .ok (s.wx d 1)
  else if b.getLsbD 17 then .ok ((s.setCounter a { q with claimed := false, enabled := false }).wx d 0)
  else if !eventOk (a.getLsbD 5) (onEdge s.cur) (bitsAt b.toNat 0 16) then .ok (s.wx d 2)
  else .ok ((s.setCounter a { claimed := true, byM := m, event := b.setWidth 16, enabled := b.getLsbD 16, value := 0, since := s.gtime }).wx d 0)
def execCntc (f : SDAB) (s : State) : Out := s.sysDAB f .s (fun a b => below 6 a && below 18 b) fun s a b => s.claim f.d.num a b
def execCntcImm (f : IDA) (s : State) : Out := s.sysIDA f (below 6) fun s a v => s.claim f.d.num a v
def execCntr (f : SDA) (s : State) : Out :=
  s.sysDA f .u (below 6) fun s a =>
    let q := s.counterOf a
    .ok (s.wx f.d.num (if !q.claimed || !eventOk (a.getLsbD 5) (onEdge s.cur) q.event.toNat then ones else s.counterValue a))

/-- a: a buffer address with the size's log in bits 3:0. -/
def trcOk (a : Word) : Bool := bitsAt a.toNat 4 8 == 0
def State.traceSet (s : State) (d : Nat) (a b : Word) : Res :=
  let tr := s.myTile.trace
  let m := s.me.c.level == .m
  if tr.on && tr.byM && !m then .ok (s.wx d 1)
  else
    let tr : Trace := { tr with on := b.getLsbD 0, byM := m, kinds := (b >>> 1).setWidth 3, base := BitVec.ofNat 64 (a.toNat / 4096 * 4096),
                                lg := bitsAt a.toNat 0 4, pos := 0 }
    .ok ((s.updMyTile fun t => { t with trace := tr }).wx d 0)
def execTrc (f : SDAB) (s : State) : Out := s.sysDAB f .s (fun a b => trcOk a && below 4 b) fun s a b => s.traceSet f.d.num a b
def execTrcImm (f : IDA) (s : State) : Out := s.sysIDA f trcOk fun s a v => s.traceSet f.d.num a v
/-- The buffered records are stored into the ring, oldest first (R384). A record whose place cannot be written is lost. -/
def State.traceDrain (s : State) (k : Nat) : State :=
  let tr := (s.tile k).trace
  let one (s : State) (e : Nat × BitVec 128) : State :=
    s.ctlWrite (ownerOf k) (tr.base.toNat + (tr.pos + e.1) % 2 ^ (8 + tr.lg) * 16) 16 e.2.toNat
  let s := ((List.range tr.buf.length).zip tr.buf).foldl one s
  s.updTile k fun t => { t with trace := { tr with buf := [], pos := tr.pos + tr.buf.length } }
/-- Once per µs the unit writes `cyc` (kind 2); which of the contexts its record names is open, and the step says it (log 50). -/
def State.cycRecord (s : State) (k c : Nat) : State :=
  let us := s.gtime.toNat / 1000
  if (s.tile k).trace.last ≤ us ∧ c < 4 then
    (s.traceRec k c 2 (s.cyc k)).updTile k fun t => { t with trace := { t.trace with last := us + 1 } }
  else s
/-- The record of the microsecond is written, and what the unit has buffered is stored. -/
def execTraceCycRecord (tile ctx : Nat) (s : State) : Out :=
  .next ((s.cycRecord tile ctx).traceDrain tile)

/-! ### scrub and keyld (R338, R347, R362) -/

/-- The tile key of a place of a bed. -/
def State.placeOf (s : State) (bed site : Nat) : Nat :=
  if s.boot then bootBase + bed * 1056 + site
  else
    let e := (s.map 0 bed).toNat
    tileKey (if bitAt e 12 then firmware else bitsAt e 0 6) (bitsAt e 6 6 * 1024 + site)
/-- scrub xd, xa: launches of the forme are held until the scrub has completed. -/
def execScrub (f : SDA) (s : State) : Out :=
  s.sysDA f .m (below 17) fun s a =>
    let k := s.placeOf (bitsAt a.toNat 0 6) 0
    let what := if a.getLsbD 16 then 1024 else bitsAt a.toNat 6 10
    .ok ((s.updForme (formeKey k) fun w => { w with held := true, scrubs := insNat w.scrubs what }).wx f.d.num 0)
/-- A key slot takes a pair of keys. What was written under others that it held reads as those make of it (R362). -/
def State.takeKeys (s : State) (n : Nat) (q : KeySlot) : State := { s with keys := s.keys.set n q }
/-- keyld xd, xa, xb: the data key and the tweak key from the scratchpad. -/
def execKeyld (f : SDAB) (s : State) : Out :=
  s.sysDAB f .m (fun a _ => below 12 a) fun s a b =>
    s.readRecord b fun v =>
      let q : KeySlot := { (s.keys.get .reset a.toNat) with
        loaded := true, owner := (s.die (s.dieOf s.cur)).mown.toNat, data := v.extractLsb' 0 256, tweak := v.extractLsb' 256 256 }
      .ok ((s.takeKeys a.toNat q).wx f.d.num 0)

/-! ### rflush (R132) -/

/-- History entries of an owner's cells at a slice. -/
def Slice.history (q : Slice) (o : Nat) : Nat :=
  (q.cells.map fun e => match e.2 with | some c => if c.owner = o then c.hist.length else 0 | none => 0).sum
def State.flushSlice (s : State) (h o w : Nat) : State :=
  (s.foldCells h o fun _ => true).updSlice h fun q => { q with wmark := q.wmark.set o w }
/-- rflush xd, va:[xa+disp]: scope 2 the home of the address, scope 3 every slice. -/
def execRflush (f : MDA) (s : State) : Out :=
  s.issue f.h none .s [(f.d, .wx), (f.a, .rx)] false false fun s _ =>
    if s.acqHeld || !s.allQuiet then .stall
    else
      let o := ownerOf s.cur
      let w := bitsAt (s.owner o).sstep.toNat 0 24
      let go (s : State) (l : List Nat) : Res :=
        let n := (l.map fun h => (s.slice h).history o).sum
        .ok ((l.foldl (fun s h => s.flushSlice h o w) s).wx f.d.num (BitVec.ofNat 64 (if n < 2 ^ 32 then n else 2 ^ 32 - 1)))
      if f.m.scope = 3 then go s (List.range 144)
      else
        let ea := s.ea f.a f.m
        match spaceCheck ea 1 1 vaLimit with
        | some e => .trap e
        | none =>
          match s.reach ea.toNat false false with
          | .trap e fx => .trapBy fx e
          | .hold s1 => .ends s1
          | .at_ _ _ (.slice h) _ _ s1 => go s1 [h]
          | .at_ _ _ _ _ _ s1 => .trapBy (s1.walked s.cur) { cause := 0x06, address := ea }

/-! ### fencecore, flood, halt -/

/-- The column that a row of a die skips (R339, table 3). -/
def State.skipOf (s : State) (die row : Nat) : Nat := bitsAt (s.map 3 (die * 32 + row)).toNat 0 6
/-- The tile at a physical site of a die; a skipped site has none. -/
def State.tileAtSite (s : State) (die site : Nat) : Option Nat :=
  if s.boot then some (bootBase + die * 1056 + site)
  else
    let row := site / 33
    let col := site % 33
    let skip := s.skipOf die row
    if col = skip then none else some (s.placeOf die (row * 32 + (if skip < col then col - 1 else col)))
def execFencecore (f : SDA) (s : State) : Out :=
  s.sysDA f .m (below 17) fun s a =>
    let die := bitsAt a.toNat 0 6
    let site := bitsAt a.toNat 6 11
    let s1 := s.updDie die fun q => { q with fencedSites := insNat q.fencedSites site }
    match if site < 1056 then s1.tileAtSite die site else none with
    | some k => (s1.fenceTile k).goOn f.d.num 0
    | none => .ok (s1.wx f.d.num 0)

/-- The header that the hardware fills into bytes 0x00 to 0x2F of a discovery packet: the route FLOOD and fifteen END, the source
field of a packet of class 1, and tlen for type 0x0E with 16 payload bytes (R263, R350). -/
def State.floodHeader (s : State) : Nat :=
  (mkRoute [0xC0]).toNat + (firmware % 64 + ltileOf s.cur % 65536 * 2 ^ 6 + s.curCtx % 4 * 2 ^ 22 + 1 * 2 ^ 24) * 2 ^ 192 +
    0x100E * 2 ^ 288
/-- flood xd, xa (R350): the packet spreads over the sites south and east; each then answers. -/
def execFlood (f : SDA) (s : State) : Out :=
  s.sysDA f .m (fun _ => true) fun s a =>
    if !s.boot then .trap { cause := 0x03 }
    else s.readRecord a fun v =>
      let r := rowOf s.cur
      let c := colOf s.cur
      let away := (List.range 1056).filter fun i => decide (i / 33 < r) || decide (i % 33 < c)
      let q : Flood := { dtab := recField v 0x30 4, dbar := recField v 0x34 2, answered := away, arriving := [] }
      let s1 := (s.tileWrite s.cur 0 a.toNat 48 s.floodHeader).updDie (formeOf s.cur) fun d => { d with floods := d.floods ++ [q] }
      .ok (s1.wx f.d.num 0)

/-- The first halt of a boot whose value has a fail code is recorded (R349). -/
def HostPort.failed (h : HostPort) (code die : Nat) : HostPort :=
  if h.phase = 0xFF ∨ code = 0 then h else { h with phase := 0xFF, fcode := BitVec.ofNat 8 code, fdie := BitVec.ofNat 6 die }
/-- halt xa: `dstat` is written and the context issues nothing until module reset. -/
def execHalt (f : SA) (s : State) : Out :=
  s.sys f.h f.t .m [(f.a, .rx)] (fun s => below 32 (s.rx f.a.num)) fun s =>
    let v := s.rx f.a.num
    let die := s.dieOf s.cur
    let s1 := s.updDie die fun d => { d with dstat := v.setWidth 32 }
    let s2 : State := if s.boot then { s1 with host := s1.host.failed (bitsAt v.toNat 8 8) die } else s1
    let s3 := s2.finish f.h (some f.t) true false
    .ends (if s3.me.c.run == .ready then s3.updC fun c => { c.stopRun s.gtime with run := .halted } else s3)

end Sys2Proof.Machine
end

