-- ==== Sys2Proof/Machine/Units.lean ====
section
/-! DEFINITION. Steps of the units that stand beside the cores (Table 2 of R100): what ends a wait, walks, watermarks, FP
collection windows, gateways, die links and link-level retry. -/

namespace Sys2Proof.Machine

/-! ### Observe (R100) -/

/-- A context whose completion object holds may issue again; until it does, its wait on a semaphore stands before an engine's
(R211). -/
def execObserve (tile ctx : Nat) (s : State) : Out :=
  let x := s.ctx tile ctx
  if x.c.run == .waiting && s.holds tile ctx x.c.waitOn then
    .next (s.updCtx tile ctx fun x =>
      { x with c := { x.c with run := .ready, waitOn := match x.c.waitOn with | .sem n thr => .sem n thr | _ => .nothing } })
  else .next s

/-! ### A walk (R330 to R332, R335) -/

/-- A walker reads the entries for an address: A, and for a write D, are set in a valid leaf and the TLBs of the path filled;
a page fault changes the tracker. The access that asked for the walk reports the fault when it translates (log 7). -/
def execPageTableWalk (tile : Nat) (va : BitVec 64) (write fetch : Bool) (s : State) : Out :=
  if 2 ^ 57 ≤ va.toNat then .next s
  else match s.walkFor tile (if fetch then .fetch else .data) .m va.toNat write fetch with
    | .ok _ _ _ s1 => .next s1
    | .fault _ _ fx => .next (fx s)
    | .mig s1 => .next s1

/-! ### Watermarks (R132) -/

/-- The watermark of a close reaches a slice. -/
def execSettlingWatermarkAdvance (owner slice : Nat) (s : State) : Out :=
  match (s.owner owner).wmarks.find? fun e => e.1 == slice with
  | some e =>
    let s1 := s.updOwner owner fun o => { o with wmarks := dropFirst (fun q => q == e) o.wmarks }
    .next (s1.raiseMark slice owner e.2)
  | none => .next s
where
  dropFirst (p : Nat × Nat → Bool) : List (Nat × Nat) → List (Nat × Nat)
    | [] => []
    | x :: r => if p x then r else x :: dropFirst p r

/-! ### Collection windows (R181, R182) -/

/-- The exception with the smallest key. -/
def leastKey : List FpExc → Option FpExc
  | [] => none
  | e :: r => match leastKey r with
    | some m => if m.key.toNat < e.key.toNat then some m else some e
    | none => some e
/-- The report of a window (Table 8). -/
def FpWindow.report (w : FpWindow) (e : FpExc) : FaultRec :=
  let others := w.excs.length - 1
  { cause := 0x0D, src := BitVec.ofNat 8 (e.ctx % 4 + 4 * e.engine + 32 * bit e.gang), pc := e.pc, iword := e.iword,
    address := BitVec.ofNat 64 (w.excs.foldl (fun m x => m ||| 2 ^ (clusOf x.tile % 64)) 0), stamp := e.key, gtime := e.gtime, cyc := e.cyc,
    detail := BitVec.ofNat 64 ((if others < 2 ^ 32 then others else 2 ^ 32 - 1) * 2 ^ 32 + e.index % 256 * 2 ^ 8 + e.engine * 2 ^ 6 + e.flags.toNat),
    allow := allowRetryKill, resend := none, atFin := false, once := false }
/-- The module does not pause, and the service core that would be told is not stopped by the debug module. -/
def State.canReport (s : State) (k : Nat) : Bool :=
  let sv := (s.forme (formeKey k)).svloc.toNat
  !s.sinceTurn &&
  !(bitAt sv 31 && (s.ctx (tileKey (ownerOf k) (sv % 65536)) (bitsAt sv 16 2)).c.run == .debugStop)
/-- The first window that has closed and can be reported is, to the service core of the die of its least key. -/
def State.closeWindow (s : State) (o : Nat) : List FpWindow → List FpWindow → State
  | _, [] => s
  | pre, w :: r =>
    if w.reported.isSome || decide (s.gtime.toNat < w.opened.toNat + 4096) then s.closeWindow o (pre ++ [w]) r
    else match leastKey w.excs with
      | none => s.closeWindow o (pre ++ [w]) r
      | some e =>
        if !s.canReport e.tile then s.closeWindow o (pre ++ [w]) r
        else
          let q := { w with reported := some (e.tile, e.ctx % 4, e.engine) }
          let s1 := s.updOwner o fun x => { x with windows := pre ++ q :: r }
          s1.post (s.serviceBox e.tile) { body := (w.report e).message (s.ltileRead e.tile), src := e.tile, ctx := e.ctx, after := 0 }
def execCollectionWindowClose (owner : Nat) (s : State) : Out := .next (s.closeWindow owner [] (s.owner owner).windows)
/-- Every window of an owner that is due is reported, before its contexts issue (R181). -/
def State.closeDue (s : State) (o : Nat) : State :=
  (s.owner o).windows.foldl (fun s _ => s.closeWindow o [] (s.owner o).windows) s

/-! ### Gateways (R278) -/

/-- The source that inbound packets of a gateway carry. -/
def gateSource (gate : Nat) : Nat := gateBase + gate
/-- The host's window accesses enter in the order in which they arrive, and a galley push once every earlier window write
has performed (R346). -/
def State.hostOrder (s : State) (f : Flight) : Bool :=
  f.src != gateBase ||
  (let push := match f.op with | .store _ _ => (s.pushAt f.owner f.addr).isSome | _ => false
   s.flights.all fun g => !(g.src == gateBase && decide (g.id < f.id)) ||
     (g.stage != .queued && !(push && g.isStore && g.isOpen)))
/-- Row of an owner's ingress table for a destination, and the row and column of a tile. -/
def Dest.ingressRow : Dest → Option (Nat × Nat × Nat)
  | .slice n => some (n, 0, 0)
  | .tile k => some (144 + formeOf k, rowOf k, colOf k)
  | _ => none
/-- A route-stale fault is posted to the owner's service core on the gateway's die (R278). -/
def State.gatewayFault (s : State) (o gate row : Nat) : State :=
  let die := bitsAt (s.map 6 gate).toNat 0 6
  let k := match findFrom (fun f => (s.map 0 die).toNat == bedEntry o f) 64 0 with
    | some f => tileKey o (f * 1024)
    | none => tileKey o 0
  let r : FaultRec :=
    { cause := 0x09, src := 0, pc := 0, iword := 0, address := 0, stamp := 0, detail := BitVec.ofNat 64 (row % 256 + 256), gtime := s.gtime,
      cyc := s.cyc k, allow := 0, resend := none, atFin := false, once := false }
  s.post (s.serviceBox k) { body := r.message (ltileOf k), src := gateSource gate, ctx := 0, after := 0 }
/-- A packet of an owner of another module enters at a gateway, or one of the host's window at Benez, for a place of that owner: it names
its destination, and a home slice takes it under a key slot (log 60). -/
def State.gateFlight (s : State) (gate owner slot : Nat) (dest : Dest) (addr : Nat) (va : Word) (op : MemOp) (ret : Ret) : Flight :=
  { id := s.nextId, src := gateSource gate, ctx := 0, owner := owner, level := .m, dest := dest, addr := addr, va := va, slot := slot,
    op := op, ret := ret, stage := .queued, route := 0, stamp := 0, twin := false, key := 0, isLoad := op.reads, isStore := op.writes,
    release := false, acquire := false, watched := false, region := 0, scope := 0, mark := [], seen := [], eng := none, part := 0,
    data := [], pc := 0, iword := 0, rtn := 0, resent := none, born := s.gtime }
/-- A packet enters at one of the module's Zeltin gateways (R278). -/
def State.inbound (s : State) (gate owner slot : Nat) (dest : Dest) (addr : Nat) (op : MemOp) : State :=
  let there := match dest with | .slice n => decide (n < 144) && homeSlice addr == n && paKind addr == .module | .tile k => ownerOf k == owner | _ => false
  let asks := match op with | .load _ => true | .store _ _ => true | .amo _ _ _ _ => true | _ => false
  if s.boot || gate < 1 || 32 < gate || 64 ≤ owner || !there || !asks then s
  else
    { s with flights := s.flights ++ [s.gateFlight gate owner slot dest addr (BitVec.ofNat 64 addr) op (if op.reads then .gate else .none)],
             nextId := s.nextId + 1 }
/-- A packet that entered the module takes its route from the owner's ingress row; one that meets a stale or invalid row is
held, and reported once: its stamp field marks that. -/
def execGatewayIngress (id : Nat) (s : State) : Out :=
  match s.flight id with
  | none => .next s
  | some f =>
    if f.src < gateBase || f.stage != .queued || !s.hostOrder f || s.sinceTurn then .next s
    else match f.dest.ingressRow with
      | none => .next s
      | some (row, south, east) =>
        let gate := f.src - gateBase
        let v := (s.owner f.owner).ingress.get .reset (gate * 208 + row)
        if !v.valid || v.tag != s.turns.setWidth 32 then
          (if f.stamp = 1 then .next s else .next ((s.updFlight id fun f => { f with stamp := 1 }).gatewayFault f.owner gate row))
        else
          let (n, s1) := s.tickId
          -- the return segment is the gateway's port (R278)
          let port := if gate = 0 then 0xA6 else 0xA8 + ((s.zeltins (bitsAt (s.map 6 gate).toNat 0 6)).takeWhile (· != gate)).length
          .next (s1.updFlight id fun f => { f with route := withReturn (ingressRoute row v.route south east) port, stamp := 0, stage := .net n })

/-! ### The rounds of a shift (R290, R292, R299) -/

/-- The circuit sends two formes to one bed, or a bed on a cycle longer than 1 has no accepted transfer route (R290). -/
def State.badCircuit (s : State) : Bool :=
  let l := s.circuit
  !l.Nodup || (!s.isStandard && (List.range 64).any fun b => s.nextBed b != b && !s.circOkNext.getLsbD b)
/-- Rounds that the shift takes (R292, R299). -/
def State.shiftRounds (s : State) : Nat :=
  if s.turn.noShift || s.badCircuit then 0
  else if s.isStandard then (if s.southToo then 64 else 32)
  else if (List.range 64).any fun b => s.nextBed b != b then 1 else 0

/-! ### Die links (R282 to R284, R366) -/

def State.link (s : State) (n : Nat) : Link := s.links.get .reset n
def State.updLink (s : State) (n : Nat) (f : Link → Link) : State := { s with links := s.links.set n (f (s.link n)) }
/-- Module m of edge e (0 N, 1 E, 2 S, 3 W) of die d is d × 64 + e × 16 + m; its link control is die d's. -/
def linkDie (n : Nat) : Nat := n / 64
/-- The cluster of a die that a module lies beside. -/
def linkCluster (n : Nat) : Nat :=
  let m := n % 16 / 2
  match n / 16 % 4 with
  | 0 => m
  | 1 => m * 8 + 7
  | 2 => 56 + m
  | _ => m * 8
/-- The module at the other end. -/
def linkPeer (n : Nat) : Nat :=
  let r := n / 64 / 8
  let c := n / 64 % 8
  let m := n % 16
  match n / 16 % 4 with
  | 0 => ((r + 7) % 8 * 8 + c) * 64 + 32 + m
  | 1 => (r * 8 + (c + 1) % 8) * 64 + 48 + m
  | 2 => ((r + 1) % 8 * 8 + c) * 64 + m
  | _ => (r * 8 + (c + 7) % 8) * 64 + 16 + m
/-- Counts an event of a module by the cluster beside it (R385). -/
def State.countLink (s : State) (n event : Nat) : State :=
  s.countCluster (formeKey (s.placeOf (n / 64 % 64) 0) * 64 + linkCluster n) event
/-- A corrected error on a module is counted for its threshold and by counters (event 0x0104). -/
def State.linkError (s : State) (n : Nat) : State :=
  (s.updLink n fun l => { l with corrected := l.corrected + 1 }).countLink n 0x0104
/-- The physical rows, on an E or W edge, or columns, on an N or S edge, that a module serves (R282). -/
def linkServes (n : Nat) : List Nat :=
  let m := n % 16
  [2 * m, 2 * m + 1] ++ if m = 15 ∧ n / 16 % 2 = 0 then [32] else []
/-- The module that carries the rows of module n: n itself, or the next one of its edge while n retrains (R284). -/
def State.carrier (s : State) (n : Nat) : Nat :=
  if (s.link n).retraining then (if n % 16 = 15 then n - 1 else n + 1) else n
/-- A packet of a reserved type arrives over a module: it is discarded and counts as a link error (R263). -/
def State.stray (s : State) (link : Nat) : State := s.linkError link
/-- A UCIe flit reaches its receiver: it is accepted when its number is the expected one and its CRC holds; a failed one and
every flit after it is replayed, one accepted before is discarded. A module that retrains carries none (R284). -/
def execUcieFlitReceive (link seqno : Nat) (crcOk : Bool) (s : State) : Out :=
  if s.carrier link ≠ link then .next s else
  let s := s.countLink (linkPeer link) 0x0105
  if !crcOk then .next (s.linkError link)
  else if seqno = (s.link link).expect then .next (s.updLink link fun l => { l with expect := l.expect + 1 })
  else .next s
/-- Retrainings in progress. -/
def State.retraining (s : State) : Nat := (s.links.filter fun e => e.2.retraining).length
/-- A module whose corrected errors have passed the threshold retrains to 32 lanes; from T_turn to the resume one at a time, and at
most two (R284, R292). One that begins before the last round of a shift, or lasts into it, overlaps it (R302). -/
def execLinkRetrain (link : Nat) (s : State) : Out :=
  let l := s.link link
  if l.retraining || l.narrow || l.corrected ≤ (s.die (linkDie link)).linkthr.toNat ||
      (s.sinceTurn && (0 < s.retraining || 2 ≤ s.turn.retrains)) then .next s
  else
    let s1 := s.updLink link fun l => { l with retraining := true, early := !s.sinceTurn }
    .next { s1 with turn := { s1.turn with
      retrains := if s.sinceTurn then s1.turn.retrains + 1 else s1.turn.retrains,
      overlaps := if s.turn.phase == .shift && decide (s.turn.rounds < s.shiftRounds) then s1.turn.overlaps + 1 else s1.turn.overlaps } }
def execLinkRetrainComplete (link : Nat) (s : State) : Out :=
  if (s.link link).retraining then .next (s.updLink link fun l => { l with retraining := false, narrow := true, early := false }) else .next s
/-- A flit of a mesh or Zeltin link failed its CRC and is sent again: nothing of the machine's results changes (R366). -/
def execLinkLevelRetry (_link : Nat) (s : State) : Out := .next s

end Sys2Proof.Machine
end

