-- ==== Sys2Proof/Machine/Turns.lean ====
section
/-! DEFINITION. Turns and pauses (R15, R16, R288 to R303): circuits, the notice, quiesce, drain, shift, resume and
cancellation, the pause log; and the changes of bed owners that a pause carries (R357 to R361). -/

namespace Sys2Proof.Machine

/-! ### Beds (R288, R339) -/

/-- Owner and forme number that a table-0 entry names. -/
def entryOwner (e : Nat) : Nat := if bitAt e 12 then firmware else bitsAt e 0 6
def entryForme (e : Nat) : Nat := bitsAt e 6 6
/-- The forme key of a bed. -/
def State.onBed (s : State) (b : Nat) : Nat := entryOwner (s.map 0 b).toNat * 64 + entryForme (s.map 0 b).toNat

/-! ### Notice (R291, R293) -/

/-- A signed move of one dimension of the torus as a byte: from −4 to 3. -/
def moveByte (from_ to_ : Nat) : Nat := let d := (to_ + 8 - from_) % 8; if d < 4 then d else 248 + d
/-- Signed bed-column and bed-row move of the forme on a bed, as bytes. -/
def State.bedMove (s : State) (b : Nat) : Nat × Nat :=
  if s.turn.noShift then (0, 0) else let n := s.nextBed b; (moveByte (b % 8) (n % 8), moveByte (b / 8) (n / 8))
/-- The formes of an owner move by different vectors. -/
def State.split (s : State) (o : Nat) : Bool :=
  let l := ((List.range 64).filter fun b => s.onBed b / 64 == o).map s.bedMove
  match l with
  | [] => false
  | v :: r => r.any (· != v)
/-- The notice of the forme on a bed (R293, Table 2). -/
def State.noticeBody (s : State) (b : Nat) : BitVec 512 :=
  let k := s.onBed b
  let (dc, dr) := s.bedMove b
  let tn := if s.turn.noShift then s.turns else s.tnext
  BitVec.ofNat 512 (0xF0 + bit s.turn.noShift * 2 ^ 8 + bit (!s.isStandard) * 2 ^ 16 + k % 64 * 2 ^ 24 + b * 2 ^ 32 +
    (if s.turn.noShift then b else s.nextBed b) * 2 ^ 40 + (bit (s.split (k / 64)) + 2 * bit (!s.turn.noShift && s.southToo)) * 2 ^ 48 +
    tn.toNat * 2 ^ 64 + s.turn.tturn.toNat * 2 ^ 128 + dc * 2 ^ 192 + dr * 2 ^ 200)
def Ctx.stopClocks (x : Ctx) (now : BitVec 64) : Ctx := { x with c := (x.c.stopRun now).stopBlk now }
/-- A change of every context of a tile. -/
def Tile.mapCtx (t : Tile) (f : Ctx → Ctx) : Tile := { t with ctxs := t.ctxs.map fun e => (e.1, f e.2) }
def State.mapTiles (s : State) (f : Nat → Tile → Tile) : State := { s with tiles := s.tiles.map fun e => (e.1, f e.1 e.2) }
/-- One notice. -/
def State.notify (s : State) (b : Nat) : State :=
  let fk := s.onBed b
  let k := tileKey (fk / 64) (fk % 64 * 1024)
  let m : Msg := { body := s.noticeBody b, src := k, ctx := 0, after := 0 }
  let n : Notice := { tnext := if s.turn.noShift then s.turns else s.tnext, tturn := s.turn.tturn, ack := false, split := s.split (fk / 64) }
  (s.updForme fk fun w => { w with notice := some n }).post (s.serviceBox k) m
/-- The formes that a request takes from an owner: the highest-numbered ones of a shrink, all of a retire. -/
def State.removed (s : State) (p : Pending) : List Nat :=
  let o := recField p.req 1 1
  let n := (s.owner o).formes
  match recField p.req 0 1 with
  | 3 => (List.range (recField p.req 2 1)).map fun i => o * 64 + (n - 1 - i)
  | 4 => (List.range n).map fun i => o * 64 + i
  | _ => []
/-- A request that the coming pause carries: it waits for the next turn, or for a pause without a shift (R356, R358). -/
def Pending.carried (noShift : Bool) (p : Pending) : Bool := p.stage == 1 && (recField p.req 3 1 == 1) == noShift
/-- A firmware forme number that no bed has in either version. -/
def State.spareForme (s : State) : Nat :=
  (findFrom (fun f => (List.range 64).all fun b =>
    (s.map 0 b).toNat != bedEntry firmware f && (s.mapAt true 0 b).toNat != bedEntry firmware f) 128 0).getD 0
/-- The next version of table 0 names a forme otherwise, at the bed where it now lies. -/
def State.mapBed (fk : Nat) (entry : State → Nat) (s : State) : State :=
  match findFrom (fun b => s.onBed b == fk) 64 0 with
  | some b => { s with imapNext := s.imapNext.set b (BitVec.ofNat 64 (entry s)) }
  | none => s
/-- Step 2 of R358: what a request changes in table 0. Given-up beds get firmware's formes. -/
def State.mapRequest (s : State) (p : Pending) : State :=
  let o := recField p.req 1 1
  let n := (s.owner o).formes
  if recField p.req 0 1 ≤ 2 then ((List.range p.formes.length).zip p.formes).foldl (fun s e => s.mapBed e.2 fun _ => o + 64 * (n + e.1)) s
  else (s.removed p).foldl (fun s fk => s.mapBed fk fun s => bedEntry firmware s.spareForme) s
/-- A pause that ends without its turn carries nothing: M takes the changes back. -/
def State.unmapRequest (s : State) (p : Pending) : State :=
  let fks := if recField p.req 0 1 ≤ 2 then p.formes else s.removed p
  { s with imapNext := (List.range 64).foldl (fun m b => if fks.contains (s.onBed b) then m.erase b else m) s.imapNext }
/-- A request that comes to wait in the lead of a pause that carries it changes table 0 then, any other at the notice. -/
def State.mapInLead (s : State) (p : Pending) : State :=
  if s.turn.phase == .notice && p.carried s.turn.noShift then s.mapRequest p else s
/-- A request to change owners waits for a pause without a shift (R358). -/
def Pending.asksPause (p : Pending) : Bool := p.stage == 1 && recField p.req 3 1 == 1
/-- T_turn of the next turn: one interval after the last, and not less than one lead after a change of the interval (R291). -/
def Turn.due (t : Turn) : Nat :=
  let d := t.last.toNat + t.interval.toNat * 1000
  let c := t.changed.toNat + t.lead.toNat * 1000
  if d < c then c else d
/-- The notice of the next turn, or of a pause that a request asks for, goes out: no clock of a slice or a watchdog runs
from here to the resume (R16). -/
def execTurnNotice (s : State) : Out :=
  let lead := s.turn.lead.toNat * 1000
  let now := s.gtime.toNat
  let regular := decide (s.turn.due ≤ now + lead)
  if s.boot || s.turn.phase != .none || !(regular || s.host.pending.any Pending.asksPause) then .next s
  else
    let at_ := if regular then s.turn.due else now + lead
    let s1 : State := { s with turn := { s.turn with phase := .notice, retrains := 0, noShift := !regular, tturn := BitVec.ofNat 64 at_ } }
    let s2 := s1.mapTiles fun _ t => t.mapCtx (·.stopClocks s.gtime)
    let s3 := (s2.host.pending.filter (Pending.carried s2.turn.noShift)).foldl State.mapRequest s2
    .next ((List.range 64).foldl State.notify s3)

/-! ### Quiesce (R296, R359, R361) -/

/-- Every thread of a tile is killed, and the tile leaves every tree. -/
def State.clearTile (s : State) (k : Nat) : State :=
  let s := (List.range 4).foldl (fun s c => s.killThread k c) s
  let s := ((s.tile k).ctxs.map (·.1)).foldl (fun s c => if 8 ≤ c then s.killSlot k c else s) s
  (List.range 64).foldl (fun s g => if s.partSet k g = 0 then { s with tiles := s.tiles.set k { (s.tile k) with partsNext := (s.tile k).partsNext.erase g } }
    else s.setParts k g 0) s
def formeOfTile (k : Nat) : Nat := ownerOf k * 64 + formeOf k
/-- A forme leaves its owner: its threads die, and to a running launch it is a fenced die (R359). -/
def State.clearForme (s : State) (fk : Nat) : State :=
  let s := ((s.tiles.filter fun e => formeOfTile e.1 == fk).map (·.1)).foldl State.clearTile s
  let s := s.updForme fk fun w => { w with lost := true }
  ((s.forme fk).launches.map (·.record)).foldl (fun s a => match s.readLaunch (fk / 64) a.toNat with
    | some r => s.failover (fk / 64) a r
    | none => s) s
/-- Beds of a list of formes, as a mask. -/
def State.bedMask (s : State) (fks : List Nat) : BitVec 64 :=
  (List.range 64).foldl (fun m b => if fks.contains (s.onBed b) then m ||| ((1 : BitVec 64) <<< b) else m) 0
/-- The formes whose threads die at the quiesce for a request: those that an owner gives up, and M's own that pass to an owner (log 63). -/
def State.cleared (s : State) (p : Pending) : List Nat := s.removed p ++ if recField p.req 0 1 ≤ 2 then p.formes else []
/-- QUIESCE: at T_turn every context stops at its instruction boundary. -/
def execQuiesce (s : State) : Out :=
  if s.turn.phase != .notice || decide (s.gtime.toNat < s.turn.tturn.toNat) then .next s
  else
    let s1 : State := { s with turn := { s.turn with phase := .quiesce, rounds := 0, overlaps := 0, tstop := s.gtime } }
    .next ((((s1.host.pending.filter (Pending.carried s1.turn.noShift)).map s1.cleared).flatten).foldl State.clearForme s1)

/-! ### Drain (R96, R108, R296) -/

/-- An access that an interface still counts. What a place holds for as long as a wait lasts goes on after the pause: a
settled load at its slice (R85), a wait on a barrier object of another tile (R144), an event message in a stop area
(R303), a twin copy without its partner (R281), an inbound packet at its gateway. -/
def State.outstanding (s : State) (f : Flight) : Bool :=
  match f.stage, f.op with
  | .twin _, _ => false
  | .queued, _ => decide (f.ctx < 8) && decide (f.src < gateBase)
  | .home _, .ldS _ => false
  | .home _, .bar _ => !(s.tiles.any fun e => e.2.barWait.any fun w => w.ctx.isNone && w.flight == f.id)
  | .home _, .ev _ _ _ => !(match f.dest with | .tile k => (s.tile k).stopArea.contains (.event f.id) | _ => false)
  | _, _ => true
/-- A FIN that has issued has a step of its end to take (R15). DESIGN CHOICE (log 73): the drain does not wait for a FIN that is itself
held for engine commands, which the pause stops at a row or sector, or for a vector instruction that waits for such an engine; it
completes after the resume. -/
def State.finDue (s : State) (k c : Nat) : Bool := s.endDue k c || (s.ctx k c).c.dying.isSome
/-- The vector engine of a tile has nothing that it can do: what has issued has completed, or waits for an engine that has
stopped (R15). -/
def State.vecIdle (s : State) (k : Nat) : Bool :=
  (s.tile k).vq.isEmpty || ((s.vecStep k).tile k).vq.length == (s.tile k).vq.length
/-- An instruction of a context that has issued can go on: its answer is there, or the register of its next address (R15, R31). -/
def Ctx.canEnd (x : Ctx) : Bool :=
  x.c.run == .ready && (match x.c.phase with | .granted _ => true | .refused _ _ _ => true | .leaving _ _ => true | _ => false)
/-- Every interface's counts are zero, what has issued has completed, and no retraining that began before T_turn is left (R292). -/
def State.drained (s : State) : Bool :=
  s.flights.all (fun f => !s.outstanding f) &&
  s.links.all (fun e => !(e.2.retraining && e.2.early)) &&
  s.tiles.all fun e =>
    e.2.fenced || (e.2.fills.isEmpty && e.2.cq.all (·.flying.isEmpty) && s.vecIdle e.1 &&
      (List.range 4).all fun c => !s.finDue e.1 c && !(s.ctx e.1 c).canEnd)
/-- The drain has overrun its bound of 40 µs (R292, R301). -/
def State.overrun (s : State) : Bool := decide (s.turn.tturn.toNat + 40000 < s.gtime.toNat)
/-- DRAIN_COMPLETE: the release of g63. -/
def execDrainComplete (s : State) : Out :=
  if s.turn.phase != .quiesce || s.overrun || !s.drained then .next s
  else .next { s with turn := { s.turn with phase := .shift, tdrain := s.gtime, tshift := s.gtime, overlaps := if s.shiftRounds = 0 then 0 else s.retraining } }

/-! ### Shift (R297 to R299) -/

/-- SHIFT_ROUND: one round; a retraining makes it wait (R303). The state moves as a whole at the end of the last one: no
context can see what lies between. -/
def execShiftRound (s : State) : Out :=
  if s.turn.phase != .shift || s.shiftRounds ≤ s.turn.rounds || 0 < s.retraining then .next s
  else .next { s with turn := { s.turn with rounds := s.turn.rounds + 1, tshift := s.gtime } }

/-! ### What is keyed by owner and forme, when a bed changes owner -/

/-- Renames the keys of a map by the forme that they name. -/
def reKey {α : Type} (fkOf : Nat → Nat) (withFk : Nat → Nat → Nat) (ren : List (Nat × Nat)) (m : SMap α) : SMap α :=
  m.foldl (fun acc e =>
    match ren.find? fun q => q.1 == fkOf e.1 with
    | some q => acc.set (withFk e.1 q.2) e.2
    | none => if ren.any fun q => q.2 == fkOf e.1 then acc else acc.set e.1 e.2) []
/-- Formes take new names: what lies on their beds goes with them. -/
def State.renameFormes (s : State) (ren : List (Nat × Nat)) : State :=
  { s with
    tiles := reKey formeOfTile (fun k fk => tileKey (fk / 64) (fk % 64 * 1024 + k % 1024)) ren s.tiles,
    clusters := reKey (· / 64) (fun k fk => fk * 64 + k % 64) ren s.clusters,
    formes := reKey id (fun _ fk => fk) ren s.formes }
/-- Table 0 of the new version, at the beds as they lie before the forme moves. -/
def State.renames (s : State) : List (Nat × Nat) :=
  (List.range 64).filterMap fun b =>
    let e := (s.mapAt true 0 b).toNat
    let new := entryOwner e * 64 + entryForme e
    if new = s.onBed b then none else some (s.onBed b, new)

/-! ### The owner changes that a pause carries (R358 to R361) -/

/-- M posts a message to the host; while dmsg is unread it waits (R346). -/
def HostPort.tell (h : HostPort) (v : BitVec 512) : HostPort :=
  if h.ddoor then { h with dwait := h.dwait ++ [v] } else { h with dmsg := v, ddoor := true }
/-- The reply to an owner request (Table 2). -/
def ownerReply (req : BitVec 512) (status : Nat) (beds tpause : BitVec 64) : BitVec 512 :=
  BitVec.ofNat 512 ((recField req 0 1 + 128) % 256 + recField req 1 1 * 2 ^ 8 + status * 2 ^ 16 + beds.toNat * 2 ^ 64 + tpause.toNat * 2 ^ 128)
/-- What a scrub clears of a cluster: event lines, tracker, TLB and counters; budgets and monitors stay. -/
def Cluster.scrubbed (q : Cluster) : Cluster := { q with lines := [], lastServed := [], l2 := [], tracker := [], counters := [] }
/-- A new forme of an owner (R360, Table 3): everything that is not listed there is in its scrubbed state. -/
def State.newForme (s : State) (o f : Nat) : State :=
  let fk := o * 64 + f
  let s := s.mapTiles fun k t => if formeOfTile k = fk ∧ k < bootBase then { Tile.reset with fenced := t.fenced } else t
  let s : State := { s with clusters := s.clusters.map fun e => if e.1 / 64 = fk then (e.1, e.2.scrubbed) else e }
  s.updForme fk fun _ => { Forme.reset with svloc := BitVec.ofNat 32 (2 ^ 31 + f * 1024) }
/-- What a slice holds of an owner starts anew: its watermark and the counts of `rstat` (R124, R135, R360). -/
def State.forgetOwner (s : State) (o h : Nat) : State :=
  s.updSlice h fun q => { q with wmark := q.wmark.erase o, dups := q.dups.erase o, ovf := q.ovf.erase o }
/-- The repair cells of an owner at a slice become plain doublewords that hold their folded bases, under the keys of their lines (R361). -/
def State.plainCells (s : State) (o h : Nat) : State :=
  let s := s.foldCells h o fun _ => true
  let own := (s.slice h).cells.filter fun e => match e.2 with | some c => c.owner == o | none => false
  let s := own.foldl (fun s e => match e.2 with
    | some c => { s with mem := s.mem.writeN (e.1 * 8) 8 c.base.toNat }
    | none => s) s
  (s.updSlice h fun q => { q with cells := q.cells.filter fun e => match e.2 with | some c => c.owner != o | none => true }).forgetOwner o h
/-- A key slot is overwritten with fresh random keys, free values, and is marked as never loaded (R363). -/
def State.releaseKey (s : State) (n : Nat) : State :=
  let w (i : Nat) : BitVec 256 := BitVec.ofNat 256 ((List.range 4).foldl (fun a j => a * 2 ^ 64 + (Config.freeWord (s.free + i * 4 + j)).toNat) 0)
  { s with keys := s.keys.set n { KeySlot.reset with data := w 0, tweak := w 1 }, free := s.free + 8 }
/-- The TLB entries that name a key slot are dropped on every die of an owner (R363). -/
def State.dropKeyTlb (s : State) (o : Nat) (slot : Nat → Bool) : State :=
  s.dropTlb (fun k => ownerOf k == o) (fun e => slot e.key) fun _ => false
def State.releaseKeys (s : State) (o : Nat) (l : List Nat) : State :=
  (l.foldl State.releaseKey s).dropKeyTlb o fun k => l.contains k
/-- Slots that an owner holds. -/
def State.heldKeys (s : State) (o : Nat) : List Nat := (s.keys.filter fun e => e.2.holder == some o || (e.2.loaded && e.2.owner == o)).map (·.1)
/-- Every access that went through one of some slots has performed, whoever made it (R362, R363); a copy sector or a matrix row of the
firmware owner on its way counts, whichever slots it goes through. -/
def State.slotsQuiet (s : State) (l : List Nat) : Bool :=
  s.flights.all (fun f => !(l.contains f.slot && f.isOpen && (match f.dest with | .slice _ => true | .gate _ => true | _ => false))) &&
  s.tiles.all fun e => ownerOf e.1 != firmware || (e.2.cq.all (·.flying.isEmpty) && e.2.mq.all (·.asked.isNone))
/-- Settled loads that slices hold for dead threads of some formes are over (R85, R359; log 63). -/
def State.dropSettled (s : State) (fks : List Nat) : State :=
  { s with flights := s.flights.filter fun f => match f.stage, f.op with
    | .home _, .ldS _ => !fks.contains (formeOfTile f.src)
    | _, _ => true }
/-- What a request has changed by this resume, once its beds bear their new names. -/
def State.applyRequest (s : State) (p : Pending) : State :=
  let o := recField p.req 1 1
  let n := (s.owner o).formes
  let cnt := recField p.req 2 1
  match recField p.req 0 1 with
  | 1 =>
    let trees := recField p.req 0x10 8
    let s := s.updOwner o fun _ => { Owner.reset with live := true, formes := cnt }
    let s := (List.range 144).foldl (fun s h => s.forgetOwner o h) s
    let s : State := { s with trees := foldUp (fun m g => if bitAt trees g then m.set g (some o) else m) 56 0 s.trees }
    (List.range cnt).foldl (fun s f => s.newForme o f) s
  | 2 =>
    let s := s.updOwner o fun w => { w with formes := n + cnt }
    (List.range cnt).foldl (fun s f => s.newForme o (n + f)) s
  | 3 => (s.dropSettled ((List.range cnt).map fun i => o * 64 + (n - 1 - i))).updOwner o fun w => { w with formes := n - cnt }
  | 4 =>
    let s := (List.range 144).foldl (fun s h => s.plainCells o h) s
    let s : State := { s with trees := s.trees.map fun e => if e.2 == some o then (e.1, none) else e }
    let s := s.dropSettled ((List.range n).map fun i => o * 64 + i)
    (if s.slotsQuiet (s.heldKeys o) then s.releaseKeys o (s.heldKeys o) else s).updOwner o fun _ => Owner.reset
  | _ => s
/-- The formes of given-up beds, firmware's from now on, are scrubbed and held (R358). -/
def State.scrubForme (s : State) (fk : Nat) : State :=
  s.updForme fk fun w => { w with held := true, scrubs := insNat w.scrubs 1024 }
def bedsIn (mask : BitVec 64) : List Nat := (List.range 64).filter fun b => mask.getLsbD b
/-- A request that has taken effect: its reply at once, or after the scrub of what was given up. -/
def State.settleRequest (s : State) (p : Pending) : State :=
  match recField p.req 0 1 with
  | 1 => { s with host := s.host.tell (ownerReply p.req 0 p.beds s.turn.tturn) }
  | 2 => { s with host := s.host.tell (ownerReply p.req 0 p.beds s.turn.tturn) }
  | _ =>
    let l := (bedsIn p.beds).map s.onBed
    let s := l.foldl (fun s fk => (s.updForme fk fun _ => Forme.reset).scrubForme fk) s
    { s with host := { s.host with pending := s.host.pending ++ [{ p with formes := l, stage := 2, tpause := s.turn.tturn }] } }

/-! ### Resume (R295, R300) -/

/-- Shadow versions become current where they are valid (R295). -/
def promote (cur sh : SMap Row) : SMap Row := sh.foldl (fun m e => if e.2.valid then m.set e.1 e.2 else m) cur
def Forme.promoted (w : Forme) : Forme :=
  match w.notice with
  | some n => if n.ack then { w with anch := promote w.anch w.shadow, shadow := [] } else { w with shadow := [] }
  | none => { w with shadow := [] }
/-- The formes of an owner that lie on a bed, by their numbers. -/
def State.bedFormes (s : State) (o : Nat) : List Nat :=
  ((List.range 64).filter fun b => s.onBed b / 64 == o).map fun b => s.onBed b % 64
/-- Every die of an owner has acknowledged (R295). -/
def State.allAcked (s : State) (o : Nat) : Bool :=
  (s.bedFormes o).all fun f => match (s.forme (o * 64 + f)).notice with | some n => n.ack | none => false
/-- The owners whose formes were told that they move by different vectors: flag bit 0 of their notice (R293, R300). -/
def State.toldSplit (s : State) (o : Nat) : Bool :=
  (s.bedFormes o).any fun f => match (s.forme (o * 64 + f)).notice with | some n => n.split | none => false
def State.promoteRows (s : State) : State :=
  let own (e : Nat × Owner) : Nat × Owner :=
    (e.1, { e.2 with ingress := if s.allAcked e.1 then promote e.2.ingress e.2.ingressShadow else e.2.ingress, ingressShadow := [] })
  { s with owners := s.owners.map own, formes := s.formes.map fun e => (e.1, e.2.promoted) }
def State.dropShadows (s : State) : State :=
  { s with owners := s.owners.map (fun e => (e.1, { e.2 with ingressShadow := [] })), formes := s.formes.map fun e => (e.1, { e.2 with shadow := [] }) }
/-- Instruction caches and TLBs are empty (R300). -/
def State.emptyCaches (s : State) : State :=
  let s := s.mapTiles fun _ t => { t with icache := [], itlb := [], dtlb := [], mtlb := [], ctlb := [], migHeld := [] }
  { s with clusters := s.clusters.map fun e => (e.1, { e.2 with l2 := [] }) }
/-- What of a cluster belongs to the die: the monitors and their thresholds (R381). -/
def Cluster.monitors (q p : Cluster) : Cluster :=
  { q with hyst := p.hyst, t1 := p.t1, t2 := p.t2, t3 := p.t3, lev := p.lev, levFrom := p.levFrom, temp := p.temp, volt := p.volt, osc := p.osc }
/-- Counts of cluster cycles up to now, which passed by the clock of cluster n of a die (R10, R385). -/
def Cluster.settled (q : Cluster) (die n : Nat) (now : BitVec 64) : Cluster :=
  { q with counters := q.counters.map fun e =>
      (e.1, if e.2.enabled && e.2.event == 0x100 then
        { e.2 with value := e.2.value + (Config.cycles die n now - Config.cycles die n e.2.since), since := now } else e.2) }
/-- Each bed's formes move to their next beds: table 0 turns, while fences and monitors stay with the dies. -/
def State.moveFormes (s : State) (next : Nat → Nat) : State :=
  let s : State := { s with clusters := s.clusters.map fun e =>
    (e.1, e.2.settled ((s.bedOf (e.1 / 64 / 64) (e.1 / 64 % 64)).getD 0) (e.1 % 64) s.gtime) }
  let old := s
  let s : State := { s with imap := (List.range 64).foldl (fun m b => m.set (next b) (old.map 0 b)) s.imap }
  let stay (s : State) (n : Nat) : State :=
    let b := n / 64
    s.updCluster (s.onBed b * 64 + n % 64) (·.monitors (old.cluster (old.onBed b * 64 + n % 64)))
  (List.range 4096).foldl stay s
/-- A tile is fenced when it lies on a fenced site (R338). -/
def State.fenceSites (s : State) : State :=
  let s := s.mapTiles fun _ t => { t with fenced := false }
  ((s.dies.map fun d => d.2.fencedSites.map fun i => (d.1, i)).flatten).foldl (fun s e =>
    match if e.2 < 1056 then s.tileAtSite e.1 e.2 else none with
    | some k => s.updTile k fun t => { t with fenced := true }
    | none => s) s
/-- The next version of the map is in force; a changed link-health bitmap clears checked bits (R271). -/
def State.takeMap (s : State) : State :=
  let links := s.imapNext.any fun e => e.1 / 4096 == 4 && s.imap.get 0 e.1 != e.2
  let s1 : State := { s with imap := s.imapNext.foldl (fun m e => m.set e.1 e.2) s.imap, imapNext := [], circOk := s.circOkNext }
  if links then (List.range 65).foldl State.clearChecked s1 else s1

/-! ### The pause log (R302) -/

/-- Bits of the formes whose dies did not acknowledge. -/
def State.unacked (s : State) (o : Nat) : Nat :=
  (s.bedFormes o).foldl (fun a f => match (s.forme (o * 64 + f)).notice with
    | some n => if n.ack then a else a + 2 ^ f
    | none => a) 0
/-- One record for an owner (Table 4). -/
def State.logPause (kind cause : Nat) (unack : Nat → Nat) (s : State) (o : Nat) : State :=
  let w := s.owner o
  if w.plogb = 0 || !w.live then s
  else
    let t := s.turn
    let v := s.turns.toNat + t.tturn.toNat * 2 ^ 64 + t.tstop.toNat * 2 ^ 128 + t.tdrain.toNat * 2 ^ 192 + t.tshift.toNat * 2 ^ 256 +
      s.gtime.toNat * 2 ^ 320 + (kind + cause * 2 ^ 8 + t.rounds * 2 ^ 16 + t.overlaps * 2 ^ 24) * 2 ^ 384 + unack o * 2 ^ 448
    let va := w.plogb.toNat + 64 * (w.plogi % 2 ^ w.plogn.toNat)
    (s.ctlWrite o va 64 v).updOwner o fun q => { q with plogi := q.plogi + 1 }

/-! ### Contexts go on (R16, R300) -/

/-- The clocks of a thread run again from now on. -/
def Ctx.startClocks (x : Ctx) (now : BitVec 64) : Ctx :=
  if x.c.slug.isNone then x
  else match x.c.run with
    | .ready => run
    | .waiting => run
    | .ending => run
    | .blocked => { x with c := { x.c with blkFrom := some now } }
    | _ => x
where
  run : Ctx := { x with c := { x.c with runFrom := some now } }
/-- Under a notice with flag bit 0 a thread of a tenant resumes stopped, as if pre-empted. -/
def Ctx.resumeHeld (x : Ctx) : Ctx :=
  if x.c.level == .u && (x.c.run == .ready || x.c.run == .waiting) then { x with c := { x.c with run := .held, waitOn := .nothing, runFrom := none } } else x
/-- A copy that waits for its partner in checked mode has waited none of the pause (R281, R303). -/
def Flight.skipPause (f : Flight) (tturn now : BitVec 64) : Flight :=
  match f.stage with
  | .twin t => { f with stage := .twin (if t.toNat < tturn.toNat then now - (tturn - t) else now) }
  | _ => f
/-- Contexts may issue; faults that reached a stopped context, and collection windows that closed, are reported first (R134, R181,
R300). -/
def State.goOnAll (s : State) (held : Nat → Bool) : State :=
  let s : State := { s with flights := s.flights.map (·.skipPause s.turn.tturn s.gtime) }
  let s := s.mapTiles fun k t => t.mapCtx fun x => let y := x.startClocks s.gtime; if held (ownerOf k) then y.resumeHeld else y
  let s : State := { s with turn := { s.turn with phase := .none }, formes := s.formes.map fun e => (e.1, { e.2 with notice := none }) }
  let due := (s.tiles.map fun e => (List.range 4).filterMap fun c =>
    let x := s.ctx e.1 c
    if x.c.held != [] && x.c.run.isRunning && !x.c.phase.waits then some (e.1, c) else none).flatten
  let s := due.foldl (fun s e => s.takeHeld e.1 e.2) s
  (s.owners.map (·.1)).foldl State.closeDue s

/-- The pause ends without its turn: nothing moved, every shadow is discarded, M receives an event (R301). -/
def State.cancelTurn (s : State) (cause : Nat) : State :=
  let un := s.unacked
  let s := (s.host.pending.filter (Pending.carried s.turn.noShift)).foldl State.unmapRequest s
  let s1 := if s.turn.noShift then s else s.dropShadows
  let s2 : State := { s1 with
    mEvents := s1.mEvents ++ [(1, cause)],
    turn := { s1.turn with last := if s1.turn.noShift then s1.turn.last else s1.turn.tturn,
                           tdrain := if s1.turn.phase == .shift then s1.turn.tdrain else s1.gtime,
                           tshift := if s1.turn.phase == .shift then s1.turn.tdrain else s1.gtime } }
  ((s2.owners.map (·.1)).foldl (State.logPause 2 cause un) s2).goOnAll fun _ => false

def Ctx.freeFences (x : Ctx) : Ctx := { x with y := { x.y with fences := x.y.fences.map fun e => (e.1, { e.2 with lapsed := true }) } }
/-- After a turn every fence slot is free (R108, R164). -/
def State.freeFences (s : State) : State :=
  { s with tiles := s.tiles.map fun e => (e.1, { e.2 with ctxs := e.2.ctxs.map fun x => (x.1, x.2.freeFences) }) }
/-- The steps of R300 after a shift or a pause without one. -/
def State.resumeModule (s : State) : State :=
  let un := s.unacked
  let owners := (List.range 65).filter s.toldSplit
  let next := s.nextBed
  -- the beds that change owner, as they lie at this pause (R356)
  let due := (s.host.pending.filter (Pending.carried s.turn.noShift)).map fun p => { p with beds := s.bedMask (s.cleared p) }
  let s0 : State := { s with host := { s.host with pending := s.host.pending.filter fun p => !p.carried s.turn.noShift } }
  -- the new map, with the formes of changed beds under their new names
  let s1 := (s0.renameFormes s0.renames).takeMap
  let s2 := due.foldl State.applyRequest s1
  let s3 := due.foldl State.settleRequest s2
  let s4 : State := if s.turn.noShift then s3 else { s3.moveFormes next with turns := s3.turns + 1, turn := { s3.turn with last := s3.turn.tturn } }
  let s5 := if s.turn.noShift then s4 else s4.promoteRows
  let s6 := s5.fenceSites.emptyCaches.freeFences
  ((s6.owners.map (·.1)).foldl (State.logPause (bit s.turn.noShift) 0 un) s6).goOnAll fun o => !s.turn.noShift && owners.contains o

/-- RESUME. A circuit that is no permutation, or that lacks an accepted transfer route, cancels the turn (R290). -/
def execResume (s : State) : Out :=
  if s.turn.phase != .shift || s.turn.rounds < s.shiftRounds then .next s
  else if !s.turn.noShift && s.badCircuit then .next (s.cancelTurn 2)
  else .next s.resumeModule
/-- TURN_CANCEL: the drain overran (cause 1), or a chunk cannot be delivered (cause 2). -/
def execTurnCancel (cause : Nat) (s : State) : Out :=
  if cause = 1 && s.turn.phase == .quiesce && s.overrun then .next (s.cancelTurn 1)
  else if cause = 2 && s.turn.phase == .shift && !s.turn.noShift then .next (s.cancelTurn 2)
  else .next s

end Sys2Proof.Machine
end

