-- ==== Sys2Proof/Machine/Trees.lean ====
section
/-! DEFINITION. The release of a tree barrier (R156 to R159, R364), the close of a superstep (R110, R121, R132, R158), the
taking of a proof (R373), and the release of g61 that ends boot mode (R354). -/

namespace Sys2Proof.Machine

/-! ### Whether a tree releases (R156) -/

/-- The tiles of boot mode that take part: every site that is not skipped (R349). -/
def bootTiles : List Nat :=
  ((List.range 64).map fun d => (List.range 1056).filterMap fun i => if siteSkips d i then none else some (bootBase + d * 1056 + i)).flatten
/-- The tiles that a tree asks. -/
def State.treeTiles (s : State) (g : Nat) : List Nat :=
  if s.boot then (if g = 61 then bootTiles else (s.tiles.map (·.1)).filter fun k => decide (bootBase ≤ k))
  else (s.tiles.map (·.1)).filter fun k => ownerOf k == s.treeOwner g && decide (k < bootBase)
/-- Every context of a tile's set has arrived; an empty set counts as arrived. -/
def State.arrived (s : State) (k g : Nat) : Bool := s.partSet k g &&& ~~~((s.tile k).arrivals.get .reset g).ctxs == 0
/-- The tiles that arrived in this generation: time, tile. -/
def State.arrivalsOf (s : State) (l : List Nat) (g : Nat) : List (Nat × Nat) :=
  l.filterMap fun k => ((s.tile k).arrivals.find? fun e => e.1 == g).map fun e => (e.2.time.toNat, k)
/-- Every arrival of contexts in this generation used `.ss`, and there was one (R158). -/
def State.allSs (s : State) (l : List Nat) (g : Nat) : Bool :=
  let as := l.map fun k => (s.tile k).arrivals.get .reset g
  as.any (fun a => a.ctxs != 0) && as.all fun a => a.ctxs == a.ss

/-! ### The imbalance record (R158, Table 8) -/

/-- Earliest and latest arrival, the sum of the lags, and the lowest of the last tiles. -/
def imbalance (sstep : BitVec 64) (l : List (Nat × Nat)) : Nat :=
  let times := l.map (·.1)
  let first := times.foldl (fun a t => if t < a then t else a) (times.headD 0)
  let last := times.foldl (fun a t => if a < t then t else a) 0
  let skew := (times.map (· - first)).sum
  let lates := (l.filter fun e => e.1 == last).map fun e => ltileOf e.2 % 65536
  let lastt := lates.foldl (fun a t => if t < a then t else a) (lates.headD 0)
  sstep.toNat % 2 ^ 32 + l.length * 2 ^ 32 + first * 2 ^ 64 + last * 2 ^ 128 + (if skew < 2 ^ 48 then skew else 2 ^ 48 - 1) * 2 ^ 192 + lastt * 2 ^ 240

/-! ### The release at a tile (R110, R121, R158) -/

/-- A context waits for a tree with the given form. -/
def Ctx.waitsTree (x : Ctx) (g : Nat) (ss : Bool) : Bool := x.c.phase == .armed (treeWait g ss)
/-- A waiting context is answered with the gtime at which the release reached its tile. -/
def Ctx.treeReleased (x : Ctx) (g : Nat) (v : BitVec 128) : Ctx :=
  if x.waitsTree g false || x.waitsTree g true then { x with c := { x.c with phase := .granted v } } else x
/-- After a release that mixed both forms, a context that used `.ss` stops. -/
def Ctx.treeMixed (x : Ctx) (g : Nat) : Ctx :=
  if x.waitsTree g true then { x with c := { x.c with phase := .refused 0x16 0 2 } } else x
/-- What a close sets to 0 in every context of the owner. -/
def Ctx.closed (x : Ctx) : Ctx :=
  { x with r := { x.r with seq := 0 }, y := { x.y with region := 0, twinCtr := 0, eord := 0, evicted := [] } }
/-- The next generation of a tree at a tile begins: arrivals are over and pending sets apply (R364). -/
def Tile.nextGeneration (t : Tile) (g : Nat) : Tile :=
  { t with arrivals := t.arrivals.erase g, recOff := t.recOff.filter (fun e => e.1 / 1024 != g),
           parts := match t.partsNext.find? fun e => e.1 == g with | some e => t.parts.set g e.2 | none => t.parts,
           partsNext := t.partsNext.erase g }
/-- The record goes to every context that waits in a `gbar.ss` with an offset. -/
def State.putRecords (g v : Nat) (s : State) (k : Nat) : State :=
  let t := s.tile k
  let to_ := t.ctxs.filterMap fun e => if e.2.waitsTree g true then t.recOff.get none (g * 1024 + e.1) else none
  to_.foldl (fun s off => s.tileWrite k 0 off 32 v) s

/-! ### Taking a proof (R373) -/

/-- The instruction at a waiting context's pc. -/
def State.wordAt (s : State) (k c : Nat) : Nat :=
  let pc := (s.ctx k c).r.pc.toNat
  match (s.tile k).icache.get none pc with
  | some w => w.toNat
  | none => (s.ctlRead (ownerOf k) pc 12).getD 0
/-- Every thread of an owner but its service cores is a context that waits in the tree's `gbar.ss` with the FIN selector. -/
def State.qualifies (s : State) (o g : Nat) : Bool :=
  s.tiles.all fun e => ownerOf e.1 != o || e.2.ctxs.all fun q =>
    let c := q.2.c
    (decide (4 ≤ q.1) && c.run == .idle) || c.run == .idle || c.level == .s ||
    (decide (q.1 < 4) && q.2.waitsTree g true && bitsAt (s.wordAt e.1 q.1) 78 3 == 7)
/-- An armed proof is taken at the close of superstep `sstep` − 1. -/
def State.takeProof (s : State) (o : Nat) : State :=
  let w := s.owner o
  let p := w.proof
  if !p.live || p.state != 0 then s
  else
    let heads := ((List.range w.formes).map fun f => ((s.forme (o * 64 + f)).galleys.map fun q => q.2.fifo.map fun e => (f, q.1, e.1, e.2)).flatten).flatten
    let mark := bitsAt w.sstep.toNat 0 24
    let fresh := (s.tiles.filter fun e => ownerOf e.1 == o && !e.2.barFresh.isEmpty).map fun e => (e.1, e.2.barFresh)
    let cells := (s.slices.map fun e => e.2.cells.filterMap fun q => match q.2 with
      | some c => if c.owner = o then some (e.1, q.1, c.kind, (c.foldWhile fun t => decide (stampStep t < mark)).base) else none
      | none => none).flatten
    let taken : Proof := { p with
      state := 1, sstep := w.sstep, copying := true, older := p.kept, saved := [], used := (p.kept.map PUnit.bytes).sum, pending := (p.dirty.map PUnit.sectors).sum, changed := p.dirty, dirty := [],
      heads := heads, cells := cells, fresh := fresh }
    -- a proof with nothing to stream is complete
    let taken := if taken.pending = 0 then taken.close else taken
    (s.updOwner o fun q => { q with proof := taken }).proofRecord o

/-! ### The close and the release (R110, R132, R158) -/

/-- A superstep closes: in one step, before any waiting context goes on. -/
def State.closeStep (s : State) (o g : Nat) (l : List Nat) (qual : Bool) : State :=
  let v := imbalance (s.owner o).sstep (s.arrivalsOf l g)
  let s := l.foldl (State.putRecords g v) s
  let w := ((s.owner o).sstep + 1).toNat % 2 ^ 24
  let s := s.updOwner o fun q => { q with sstep := q.sstep + 1, wmarks := q.wmarks ++ (List.range 144).map fun h => (h, w) }
  let s := s.mapTiles fun k t => if ownerOf k = o then t.mapCtx Ctx.closed else t
  let s : State := { s with slices := s.slices.map fun e =>
    (e.1, { e.2 with lines := e.2.lines.filter fun q => match q.2 with | some r => r.owner != o | none => true }) }
  if qual then s.takeProof o else s
/-- A tree releases: the plain effect on every tile of its owner. -/
def State.releaseTree (s : State) (g : Nat) : State :=
  let l := s.treeTiles g
  let o := s.treeOwner g
  let ss := s.allSs l g
  let mixed := !ss && l.any fun k => ((s.tile k).arrivals.get .reset g).ss != 0
  let last := (s.arrivalsOf l g).foldl (fun a e => if a < e.1 then e.1 else a) 0
  let v := timed s.gtime.toNat (BitVec.ofNat 48 last)
  let qual := ss && s.qualifies o g
  let s := if ss then s.closeStep o g l qual else s
  s.mapTiles fun k t =>
    if ownerOf k = o then
      (t.mapCtx fun x => (if mixed then x.treeMixed g else x).treeReleased g v).nextGeneration g
    else t

/-! ### The release of g61 (R354) -/

/-- The key that a boot tile has once the die has left boot mode; none of a skipped site. -/
def State.logicalKey (s : State) (k : Nat) : Option Nat :=
  if k < bootBase then some k
  else
    let die := formeOf k
    let skip := s.skipOf die (rowOf k)
    if colOf k = skip then none
    else
      let fk := s.onBed die
      some (tileKey (fk / 64) (fk % 64 * 1024 + rowOf k * 32 + (if skip < colOf k then colOf k - 1 else colOf k)))
/-- The instruction cache with the 16 KiB of the code image: the word at every multiple of 4 that lies in them. -/
def bootCache (m : Memory) : SMap (Option (BitVec 96)) :=
  (List.range 4094).map fun i => (4 * i, some (BitVec.ofNat 96 (m.readN (65536 + 4 * i) 12)))
/-- A tile starts its firmware: context 0 at M at the entry of the descriptor. -/
def Tile.startFirmware (t : Tile) : Tile :=
  let entry := t.store.readN 0x14008 8
  let x := t.ctxs.get .reset 0
  { (t.nextGeneration 61) with
    icache := bootCache t.store,
    ctxs := t.ctxs.set 0 { x with
      r := { x.r with pc := BitVec.ofNat 64 entry },
      c := { x.c with run := .ready, level := .m, phase := .fresh, waitOn := .nothing } } }
/-- Every die leaves boot mode; tiles take their logical names. -/
def State.leaveBoot (s : State) : State :=
  let name (k : Nat) : Nat := (s.logicalKey k).getD k
  let dest (d : Dest) : Dest := match d with | .tile k => .tile (name k) | d => d
  let cur := name s.cur
  { s with
    boot := false,
    tiles := s.tiles.foldl (fun m e => match s.logicalKey e.1 with
      | some k => m.set k (if bootBase ≤ e.1 then e.2.startFirmware else e.2)
      | none => m) [],
    flights := s.flights.map fun f => { f with src := name f.src, dest := dest f.dest },
    host := if s.host.phase = 0xFF then s.host else { s.host with phase := 6 },
    cur := cur }

/-- TREE_BARRIER_RELEASE: when every tile has arrived, unless the module pauses. -/
def execTreeBarrierRelease (tree : Nat) (s : State) : Out :=
  if 64 ≤ tree || s.turn.phase == .shift || !(s.treeTiles tree).all (fun k => s.arrived k tree) then .next s
  else if s.boot && tree = 61 then .next s.leaveBoot
  else .next (s.releaseTree tree)

end Sys2Proof.Machine
end

