-- ==== Sys2Proof/Machine/Rom.lean ====
section
/-! DEFINITION. The boot ROM (R350, R352): the routine of "Program: discovery and code image delivery" as words, one
line of the listing each, and its scratchpad section. It stands at byte address 0 of every tile's instruction space
while the tile boots (log 25). -/

namespace Sys2Proof.Machine

/-- Words 0 to 23 of the routine. -/
def romPart0 : List (BitVec 96) :=
  [0x50a000000500000000000010,
   0x50a0000005c000000000001a,
   0x41c0000006c5c00000000005,
   0x43e0000002400000e0e0e0e0,
   0x4400000002400000e0e0e0e0,
   0x41c000000282400000000010,
   0x416000000282800000008000,
   0x41c0000002c2400000000018,
   0x4160000002c2c00000802100,
   0x43e000000180000000000040,
   0x43e0000001c0000000000001,
   0xc800000000053fc005000000,
   0xa08440150000000007f00000,
   0x43e000000300000000000420,
   0xa04000000000030007e00000,
   0x36e000000000000000000000,
   0x50a000000380000000000016,
   0x0020000003c3814000000000,
   0xa0c000000300000007e00000,
   0xc940000000033fc00400001c,
   0x000240018000000000000000,
   0x50a000000380000000000016,
   0xc8c00000000383c00c000000,
   0x00067ffec000000000000000]

/-- Words 24 to 47 of the routine. -/
def romPart1 : List (BitVec 96) :=
  [0x43e000000300000000000400,
   0x370000000003000000000000,
   0xa08000000000000007e00000,
   0x43e000000400000000000000,
   0x43e000000440000000020000,
   0x43e000000480000000000000,
   0x43e0000004c0000000000000,
   0x504000000000000000000021,
   0x94c000000304400000000400,
   0xc940000000033fc00c000010,
   0x03c600000544800000000000,
   0x438600000583000000000011,
   0x4026000004c4c00000000001,
   0x402000000444400000000008,
   0x40217ffe8484800000000001,
   0xc82000000004ffc010000001,
   0x43e000000300000000000300,
   0x370800000003000000000000,
   0x41c000000585800000000006,
   0x016000000685458000000000,
   0x002000000606c40000000000,
   0x402000000606000000063000,
   0x34e000000646068000000000,
   0x950000000004054007d00000]

/-- Words 48 to 71 of the routine. -/
def romPart2 : List (BitVec 96) :=
  [0x402000000404000000000001,
   0xc8c0000000043fc00c000020,
   0x00067ffac000000000000000,
   0x41c000000685c00000000006,
   0x416000000686800000001000,
   0x402000000605c00000060000,
   0x34e000000646068000000000,
   0x402000000606c00000064000,
   0x504000000000000000000020,
   0x34e000000646000000000000,
   0x40217fffc606000000000001,
   0xc800000000013fc00c000000,
   0x000640058000000000000000,
   0x43e000000400000000000080,
   0x104000000001000000000000,
   0x94c000000304000000000000,
   0x4380000003430000000003c0,
   0x40e000000543400000000021,
   0x406000000585400000000021,
   0x004000000583458000000000,
   0x942000000485400007d00000,
   0xc9000000000584800c000000,
   0x404600000585800000000001,
   0x41c000000685400000000005]

/-- Words 72 to 95 of the routine. -/
def romPart3 : List (BitVec 96) :=
  [0x002000000686858000000000,
   0x41c000000686800000000006,
   0x01600000068685c000000000,
   0x4380000003830000000000a0,
   0x41c000000383800000000010,
   0x016000000686838000000000,
   0x4380000006030000000003d0,
   0x402000000606000000060000,
   0x34e000000646068000000000,
   0x40217ffb8404000000000008,
   0x0000c00b0000000000000000,
   0x956000000000074014000400,
   0x43e000000400000000000001,
   0x942000000544000007d00000,
   0xc800000000057fc018000000,
   0xca8000000202c28018000000,
   0x416000000304000000000040,
   0x016000000202030000000000,
   0x34800000000201c000000000,
   0x304000000001800000000000,
   0x402000000404000000000001,
   0xc8c0000000043fc00c000020,
   0x00067ffdc000000000000000,
   0x000040018000000000000000]

/-- Words 96 to 119 of the routine. -/
def romPart4 : List (BitVec 96) :=
  [0x0000c0078000000000000000,
   0x94c000000780000014000400,
   0xc82000000007478010000000,
   0x43e000000300000000000500,
   0x370800000003000000000000,
   0x40e000000545000000000021,
   0x406000000585400000000021,
   0x004000000585058000000000,
   0x002000000606c54000000000,
   0x402000000606000000003000,
   0x34e000000686000000000000,
   0x41400000054680000000003f,
   0xc800000000057fc014000000,
   0x43e000000340000000000000,
   0x43ea00000340000000000001,
   0xc82000000005834018000000,
   0x000c40034000000000000000,
   0x43e000000400000000000001,
   0x50400000000000000000001f,
   0xc9200000000405400c000000,
   0x03c000000384000000000000,
   0x402600000383800000000001,
   0x004000000383834000000000,
   0x41400000038380000000001f]

/-- Words 120 to 132 of the routine. -/
def romPart5 : List (BitVec 96) :=
  [0x416000000383800000000020,
   0x016000000202838000000000,
   0x34800000000201c000000000,
   0x304000000001800000000000,
   0x40217ffdc404000000000001,
   0x6121c000000000000000003d,
   0x43e000000700000000010000,
   0x43e000000740000000000000,
   0x504000000000000000000800,
   0x94c000000307000000000400,
   0x002000000747430000000000,
   0x40217fff8707000000000008,
   0x000100000000000000000000]

/-- The whole routine, 133 instructions. -/
def romWords : List (BitVec 96) := romPart0 ++ romPart1 ++ romPart2 ++ romPart3 ++ romPart4 ++ romPart5
/-- The ROM as an instruction cache holds it: a word every 12 bytes from 0. -/
def romCache : SMap (Option (BitVec 96)) := ((List.range romWords.length).zip romWords).map fun e => (12 * e.1, some e.2)

/-- The port list of die 0: Benez and Zeltin 0 to 7 (R352). -/
def portsDie0 : List (BitVec 64) :=
  [0x600001C1, 0x60010002, 0x6002000A, 0x60030015, 0x6004001D, 0x60050063, 0x6006014A, 0x600702B5, 0x6008037B]
/-- The port list that the ROM of a die holds; the spec prints die 0's alone. -/
def portsOf (die : Nat) : List (BitVec 64) := if die = 0 then portsDie0 else Config.portList die
/-- The section `.pad` of the corner: discovery payload, copy record and port list (R350, R352). -/
def romPad (die : Nat) : Memory :=
  let m : Memory := Memory.writeN [] 0x30 8 0x00007E0000020000
  let m := m.writeN 0x40 1 1
  let m := m.writeN 0x4C 8 0x4000000000010000
  let m := m.writeN 0x58 8 0xC200000000010000
  let m := m.writeN 0x64 4 0x4100
  let m := m.writeN 0x68 4 1
  let m := m.writeN 0x74 4 0xFF00
  ((List.range (portsOf die).length).zip (portsOf die)).foldl (fun m e => m.writeN (0x80 + 8 * e.1) 8 e.2.toNat) m

end Sys2Proof.Machine
end

