-- ==== Sys2Proof/Machine/Boot.lean ====
section
/-! DEFINITION. Power-up and boot (R340 to R343, R349 to R353): module reset, clusters that start, the firmware image,
its relay to the dies, and the answers of discovery. -/

namespace Sys2Proof.Machine

/-! ### Reset and power-up (R340) -/

/-- MODULE_RESET_RELEASE: every part is as `State.reset` says; module, host and remote memory keep their bytes (log 3). -/
def execModuleResetRelease (s : State) : Out :=
  .next { State.reset with mem := s.mem, memPoison := s.memPoison, lineKeys := s.lineKeys, nextId := s.nextId, free := s.free, agenda := s.agenda }

/-- Key of a physical site in boot mode. -/
def bootKey (die site : Nat) : Nat := bootBase + die * 1056 + site
/-- The physical sites of a cluster: four rows of four, and the 33rd column with the eighth (log 18). -/
def clusterSites (cluster : Nat) : List Nat :=
  let cols := (List.range 4).map (cluster % 8 * 4 + ·) ++ (if cluster % 8 = 7 then [32] else [])
  ((List.range 4).map fun r => cols.map fun c => (cluster / 8 * 4 + r) * 33 + c).flatten
/-- Context 0 runs the boot routine at M, with scalar window 32 and vector window 0 (R352). -/
def Tile.startRom (t : Tile) : Tile :=
  { t with icache := romCache,
           ctxs := t.ctxs.set 0 { Ctx.reset with r := { Regs.reset with win := 1 }, c := { Sched.reset with run := .ready, level := .m } } }
/-- One site starts: its tile is cleared, and every tile but the corner's starts the routine (R340, R352). A skipped site's
core does not start. -/
def State.startSite (die : Nat) (s : State) (site : Nat) : State :=
  if siteSkips die site then s
  else s.setTile (bootKey die site) (if site = 0 then Tile.reset else Tile.reset.startRom)
/-- Every cluster of every die has started. -/
def State.poweredUp (s : State) : Bool := (List.range 64).all fun d => (s.die d).powered == BitVec.allOnes 64

/-! ### The image (R341, R342) -/

/-- Physical address of host memory. -/
def hostBase : Nat := 2 ^ 47
/-- The firmware image's header, as the corner reads it, and where it lies. -/
structure ImageHeader where
  magic : Nat
  version : Nat
  len : Nat
  toff : Nat
  tlen : Nat
  entry : Nat
  zeros : Bool
deriving DecidableEq, Repr
def State.imageHeader (s : State) (pa : Nat) : ImageHeader :=
  { magic := s.mem.readN pa 8, version := s.mem.readN (pa + 8) 4, len := s.mem.readN (pa + 0xC) 4, toff := s.mem.readN (pa + 0x10) 4,
    tlen := s.mem.readN (pa + 0x14) 4, entry := s.mem.readN (pa + 0x18) 8, zeros := s.mem.readN (pa + 0x20) 32 == 0 }
/-- ASCII "DRVZ64FW", little-endian. -/
def imageMagic : Nat := 0x574634365A565244
/-- Table 1 holds. -/
def ImageHeader.formed (h : ImageHeader) : Bool :=
  h.magic == imageMagic && h.len % 4096 == 0 && decide (8192 ≤ h.len) && decide (h.len ≤ 0x1000000) && h.tlen % 12 == 0 &&
  decide (h.tlen ≤ 16384) && decide (h.toff + h.tlen ≤ h.len) && decide (h.entry < h.tlen) && h.zeros
/-- The measurement (R341). -/
def State.measure (s : State) (pa len : Nat) : BitVec 384 :=
  Config.sha384 (s.mem.bytes pa 0x40 ++ s.mem.bytes (pa + 0xA0) (len - 0xA0))
/-- Fail code of an image at die 0's corner, 0 for one that verifies: host memory that cannot be read, header, version, signature. -/
def State.imageFault (s : State) (pa : Nat) : Nat :=
  let h := s.imageHeader pa
  let host (n : Nat) : Bool := paKind pa == .host && paKind (pa + n - 1) == .host
  if !host 0x101 then 6
  else if !h.formed then 2
  else if !host h.len || s.memPoisoned pa h.len then 6
  else if h.version < (Config.fusedVersion 0).toNat then 7
  else if Config.sha384 (s.mem.bytes (pa + 0xA0) 97) != Config.fusedDigest 0 ||
      !Config.ecdsaValid (s.measure pa h.len) (s.mem.bytes (pa + 0x40) 96) (s.mem.bytes (pa + 0xA0) 97) then 1
  else 0
/-- A corner's checks fail: it writes the code and its die halts (R342). -/
def State.cornerFails (s : State) (die code : Nat) : State :=
  let s := s.updDie die fun d => { d with dstat := BitVec.ofNat 32 (code * 256) }
  let s := s.updCtx (bootKey die 0) 0 fun x => { x with c := { x.c with run := .halted, level := .m } }
  { s with host := s.host.failed code die }
/-- The block, tlen bytes and then zeros, and the descriptor with its entry lie in a corner's tile store (R352, Table 3). -/
def Tile.putBlock (t : Tile) (code : List Byte) (entry : Nat) : Tile :=
  t.put 1 0x10000 0x4100 fun m =>
    ((m.put 0x10000 (code ++ List.replicate (16384 - code.length) 0)).put 0x14000 (List.replicate 256 0)).writeN 0x14008 8 entry
/-- `go` takes effect: phase 2 is over (R342, R343). -/
def State.takeGo (s : State) : State := { s with host := { s.host with goHeld := false, goDone := true, phase := 2 } }
/-- Phase 3: the corner of die 0 reads and verifies the image. -/
def State.fetchImage (s : State) : State :=
  let pa := hostBase + s.host.bootaddr.toNat
  let s : State := { s with host := { s.host with phase := 3 } }
  match s.imageFault pa with
  | 0 =>
    let h := s.imageHeader pa
    let s1 := s.updTile (bootKey 0 0) fun t => t.putBlock (s.mem.bytes (pa + h.toff) h.tlen) h.entry
    let s2 := s1.updDie 0 fun d => { d with imageOk := true }
    { s2 with host := { s2.host with meas := s.measure pa h.len, imgVersion := BitVec.ofNat 32 h.version,
                                     imgDigest := Config.sha384 (s.mem.bytes (pa + 0xA0) 97) } }
  | code => s.cornerFails 0 code
/-- The host writes 1 to `go` (R343): held until phase 1 ends, and discarded once it has taken effect. -/
def State.writeGo (s : State) : State :=
  if s.host.goDone then s
  else if s.host.phase = 0 then { s with host := { s.host with goHeld := true } }
  else s.takeGo
/-- GO ends phase 2; phase 3 is then IMAGE_RELAY's own step for die 0 (log 25). -/
def execGo (s : State) : Out := .next s.writeGo

/-- CLUSTER_POWER_UP: cluster k of die d at 200 d + 2 k µs. The last one ends phase 1, and a held go takes effect. -/
def execClusterPowerUp (die cluster : Nat) (s : State) : Out :=
  if !s.boot || 64 ≤ die || 64 ≤ cluster || (s.die die).powered.getLsbD cluster ||
      s.gtime.toNat < 200000 * die + 2000 * cluster then .next s
  else
    let s := (clusterSites cluster).foldl (State.startSite die) s
    let s := s.updDie die fun d => { d with powered := d.powered ||| ((1 : BitVec 64) <<< cluster) }
    if s.host.phase = 0 && s.poweredUp then
      let s : State := { s with host := { s.host with phase := 1 } }
      .next (if s.host.goHeld then s.takeGo else s)
    else .next s

/-! ### The relay to the dies (R342) and phase 5's start (R352) -/

/-- A corner starts the routine, with its die's section in the scratchpad. -/
def Tile.startCorner (t : Tile) (die : Nat) : Tile :=
  let u := t.startRom
  { u with pad := romPad die, padWritten := insRange [] 0 ((0x80 + 8 * (portsOf die).length + 255) / 256), xr := (u.xr.set 4 (BitVec.ofNat 64 (portsOf die).length)).set 5 1000000 }
def State.startCorners (s : State) : State :=
  (List.range 64).foldl (fun s d => s.updTile (bootKey d 0) (·.startCorner d)) s
/-- Fail code of the image at another die's corner: it is the image that die 0 verified, and the fuses are that die's (R341, R342). -/
def State.relayFault (s : State) (die : Nat) : Nat :=
  if s.host.imgVersion.toNat < (Config.fusedVersion die).toNat then 7 else if s.host.imgDigest != Config.fusedDigest die then 1 else 0
/-- IMAGE_RELAY: after `go` die 0's corner reads the image and verifies it; then it passes it to another die's corner, which verifies it
again. Once every corner holds it, phase 4 ends; where one has failed, the others still take part in phase 4 and stop at its end (R342). -/
def execImageRelay (die : Nat) (s : State) : Out :=
  if s.boot && s.host.phase == 2 && die == 0 then .next s.fetchImage
  else if !s.boot || !(s.host.phase == 3 || s.host.phase == 0xFF) || die = 0 || 64 ≤ die || (s.die die).imageOk || !(s.die 0).imageOk then .next s
  else if s.relayFault die ≠ 0 then .next (s.cornerFails die (s.relayFault die))
  else
    let t := s.tile (bootKey 0 0)
    let s := s.updTile (bootKey die 0) fun q => q.putBlock (t.store.bytes 0x10000 16384) (t.store.readN 0x14008 8)
    let s := s.updDie die fun d => { d with imageOk := true }
    if (List.range 64).all fun d => (s.die d).imageOk then
      .next ({ s with host := { s.host with phase := 4 } } : State).startCorners
    else .next s

/-! ### Discovery (R351) -/

/-- The answer word of a site (Table 2). -/
def answerWord (die site : Nat) : Nat :=
  2 ^ 63 + bit (siteIsFused die site) * 2 ^ 17 + bit (siteSkips die site) * 2 ^ 16 + site
/-- The route of a site's answer: W c, N r, EJECT-CORE, a count of 0 left out; its return segment is a core's (R265, R351). -/
def answerRoute (site : Nat) : BitVec 128 :=
  let r := site / 33
  let c := site % 33
  withReturn (mkRoute ((if c = 0 then [] else [0x60 + c % 32]) ++ (if r = 0 then [] else [r]) ++ [0x80])) 0x80
/-- The tile at which a site's answer ends, unless its interface refuses what arrives (R81). -/
def State.answerTile (s : State) (die site : Nat) : Option Nat :=
  let k := bootKey die site
  (s.tileAt k (s.routeEnd k (s.posOf k) (answerRoute site))).filter fun t => !(s.tile t).fenced
/-- The first packet of a site's answer: the answer word is stored. What falls outside the tile store is refused and changes
nothing. -/
def State.answerStore (s : State) (die site : Nat) (q : Flood) : State :=
  let off := q.dtab + 8 * site
  match s.answerTile die site with
  | some t => if off % 8 = 0 ∧ off + 8 ≤ spaceLimit 1 then s.tileWrite t 1 off 8 (answerWord die site) else s
  | none => s
/-- The second one: the barrier object takes an arrival. -/
def State.answerArrive (s : State) (die site : Nat) (q : Flood) : State :=
  match s.answerTile die site with
  | some t => if q.dbar % 16 = 0 ∧ q.dbar + 16 ≤ spaceLimit 0 then (s.barArrive t q.dbar).2.1 else s
  | none => s
/-- The first discovery packet that meets a test, and the list with a change of it; one to which nothing more is to be answered is
gone. -/
def floodFirst (p : Flood → Bool) (u : Flood → Flood) : List Flood → List Flood × Option Flood
  | [] => ([], none)
  | q :: r =>
    if p q then (if (u q).answered.length < 1056 || !(u q).arriving.isEmpty then u q :: r else r, some q)
    else let (l, a) := floodFirst p u r; (q :: l, a)
/-- DISCOVERY_ANSWER: a site's network interface answers without its core, a fused-off site's too: first the word, then, on the same
route and so behind it, the arrival (R351). -/
def execDiscoveryAnswer (die site : Nat) (s : State) : Out :=
  if !s.boot || 64 ≤ die || 1056 ≤ site then .next s
  else match floodFirst (fun q => q.arriving.contains site) (fun q => { q with arriving := q.arriving.erase site }) (s.die die).floods with
    | (l, some q) => .next ((s.updDie die fun d => { d with floods := l }).answerArrive die site q)
    | (_, none) =>
      match floodFirst (fun q => !q.answered.contains site)
          (fun q => { q with answered := insNat q.answered site, arriving := site :: q.arriving }) (s.die die).floods with
      | (l, some q) => .next ((s.updDie die fun d => { d with floods := l }).answerStore die site q)
      | (_, none) => .next s

end Sys2Proof.Machine
end

