-- ==== Sys2Proof/Machine/Debug.lean ====
section
/-! DEFINITION. The control block that the host reaches through csel and cdata (R379, R380): the debug module of a tile
(R382, R383), the budgets, thresholds and monitors of a cluster (R381). -/

namespace Sys2Proof.Machine

/-! ### The selection (R379) -/

/-- Register number that csel holds, and the tile it names: none when a bit outside its fields is set, before phase 6, or
when the owner or the ltile does not exist. -/
def State.selected (s : State) : Option Nat :=
  let v := s.host.csel.toNat
  let o := bitsAt v 16 6
  let w := s.owner o
  if s.host.phase != 6 || bitsAt v 22 10 != 0 || bitsAt v 40 24 != 0 || !w.live || 1024 * w.formes ≤ bitsAt v 0 16 then none
  else some (tileKey o (bitsAt v 0 16))
def State.selRegister (s : State) : Nat := bitsAt s.host.csel.toNat 32 8

/-! ### Stop, step and go (R379, R383) -/

def maskList (m : BitVec 4) : List Nat := (List.range 4).filter fun c => m.getLsbD c
def State.requestStop (s : State) (k : Nat) (m : BitVec 4) : State :=
  (maskList m).foldl (fun s c => s.debugStopAt k c 1 (s.stopPoint k c)) s
/-- The 64 bytes of a packet in a stop area: an event message's header, a message's body, a reply's target word and address. -/
def State.stopBytes (s : State) (p : StopPacket) : List Byte :=
  natBytes 64 (match p with
    | .event id => ((s.flight id).map fun f => (s.header f).toNat).getD 0
    | .mail _ body => body.toNat
    | .reply _ _ a b => a.toNat + b.toNat * 2 ^ 64)
/-- What waits in a tile's stop area is taken in order of arrival, once none of its contexts is stopped (R383). The packets lie from
tile-store offset 0x5_0000 on, 64 bytes each; the store shows them from then on, which no program that keeps out of the area while the
debug module may stop the tile can tell from an earlier time (log 78). -/
def State.drainStop (s : State) (k : Nat) : State :=
  let l := (s.tile k).stopArea
  if (s.tile k).hasStop || l.isEmpty then s
  else
    let bs := (l.map s.stopBytes).flatten
    l.foldl State.takeStop (s.updTile k fun t =>
      { (t.put 1 0x50000 bs.length fun m => m.put 0x50000 bs) with stopArea := [] })
/-- A stopped context may issue again; the event that stopped it is passed over once (R382). One without a thread takes threads again,
but not for a step, which has no instruction to issue (log 78). -/
def State.wakeStopped (s : State) (step : Bool) (x : Ctx) : Ctx :=
  if x.c.barred && !step then { x with c := { x.c with barred := false, why := 0 } }
  else if x.c.run != .debugStop then x
  else
    { x with c := { x.c with
        run := .ready, why := 0, stepping := step, runFrom := if x.c.slug.isSome then s.clock else none,
        passDebug := if 2 ≤ x.c.why.toNat ∧ x.c.why.toNat ≤ 4 then x.c.passDebug ||| (1 <<< x.c.why.toNat) else x.c.passDebug } }
def State.wakeAll (s : State) (k : Nat) (m : BitVec 4) (step : Bool) : State :=
  let s := (maskList m).foldl (fun s c => (s.debugTiles k).foldl (fun s t => s.updCtx t c (s.wakeStopped step)) s) s
  let s := (s.debugTiles k).foldl State.drainStop s
  -- a report that a stopped service core held up is made as it goes on (R181)
  s.closeDue (ownerOf k)
def execDebugStopRequest (mask : BitVec 4) (s : State) : Out :=
  match s.selected with
  | some k => .next (s.requestStop k mask)
  | none => .next s
def execDebugStep (mask : BitVec 4) (s : State) : Out :=
  match s.selected with
  | some k => .next (s.wakeAll k mask true)
  | none => .next s
def execDebugGo (mask : BitVec 4) (s : State) : Out :=
  match s.selected with
  | some k => .next (s.wakeAll k mask false)
  | none => .next s

/-! ### Budgets (R380) -/

/-- Budgets of a cluster as register 0x20 holds them: what was written, from the write on. -/
def Cluster.budgets (q : Cluster) : Nat × Nat := (q.ebudNext.getD q.ebud, q.ibudNext.getD q.ibud)
/-- Sums over the 64 clusters of a forme, but one. -/
def State.budgetSums (s : State) (ck : Nat) : Nat × Nat :=
  (List.range 64).foldl (fun a i =>
    let k := ck / 64 * 64 + i
    if k = ck then a else (a.1 + (s.cluster k).budgets.1, a.2 + (s.cluster k).budgets.2)) (0, 0)
/-- A write of register 0x20 takes effect at the next interval, unless the forme's sums would pass 206,250 or 8,800 units. -/
def State.writeBudget (s : State) (ck : Nat) (v : Word) : State :=
  let e := bitsAt v.toNat 0 16
  let i := bitsAt v.toNat 16 8
  let (es, is) := s.budgetSums ck
  if 206250 < es + e ∨ 8800 < is + i then s
  else s.updCluster ck fun q => { q with ebudNext := some e, ibudNext := some i }
def execBudgetWrite (value : BitVec 64) (s : State) : Out :=
  match s.selected with
  | some k => .next (s.writeBudget (clusterKey k) value)
  | none => .next s

/-! ### Monitors (R381) -/

/-- The throttle threshold of a level. -/
def Cluster.threshold (q : Cluster) (level : Nat) : Nat :=
  match level with
  | 1 => q.t1.toNat
  | 2 => q.t2.toNat
  | _ => q.t3.toNat
/-- Highest level whose threshold the temperature reaches, else 0. -/
def Cluster.reached (q : Cluster) (temp : Nat) : Nat :=
  if q.threshold 3 ≤ temp then 3 else if q.threshold 2 ≤ temp then 2 else if q.threshold 1 ≤ temp then 1 else 0
/-- The level after a sample. -/
def Cluster.nextLevel (q : Cluster) (temp dwell : Nat) : Nat :=
  let up := q.reached temp
  if q.lev < up ∧ (100000 ≤ dwell ∨ up = 3) then up
  else if up < q.lev ∧ temp + q.hyst.toNat ≤ q.threshold q.lev ∧ 100000 ≤ dwell then q.lev - 1
  else q.lev
/-- MONITOR_SAMPLE: every 10 µs the monitors are read, and the level follows. -/
def execMonitorSample (cluster : Nat) (temp : BitVec 10) (volt : BitVec 14) (osc : BitVec 16) (s : State) : Out :=
  if s.gtime.toNat % 10000 ≠ 0 then .next s
  else
    let q := s.cluster cluster
    let lev := q.nextLevel temp.toNat (s.gtime - q.levFrom).toNat
    let s1 := s.updCluster cluster fun q => { q with temp := temp, volt := volt, osc := osc }
    if lev = q.lev then .next s1
    else .next ((s1.updCluster cluster fun q => { q with lev := lev, levFrom := s.gtime }).countCluster cluster 0x0103)

/-! ### cdata (R379) -/

/-- Fields that a breakpoint, or a watchpoint, register holds; its other bits read 0. -/
def bpMask : BitVec 64 := 0x79FFFFFFFFFFFFFD
def wpMask : BitVec 64 := 0x7FFFFFFFFFFFFFFF
/-- The register that csel selects; all ones where it selects none (Table 1). -/
def State.cdata (s : State) : Word :=
  match s.selected with
  | none => ones
  | some k =>
    let t := s.tile k
    let q := s.cluster (clusterKey k)
    let stopped (c : Nat) : Bool := (t.ctxs.get .reset c).stopped
    match s.selRegister with
    | 0x00 => BitVec.ofNat 64 ((List.range 4).foldl (fun a c => a + bit (stopped c) * 2 ^ c) 0 + bit t.sdbg * 16 + bit t.stile * 32)
    | 0x01 => 0
    | 0x02 => BitVec.ofNat 64 ((List.range 4).foldl (fun a c => a + (if stopped c then (t.ctxs.get .reset c).c.why.toNat else 0) * 2 ^ (4 * c)) 0)
    | 0x20 => BitVec.ofNat 64 (q.budgets.1 + q.budgets.2 * 2 ^ 16)
    | 0x21 => BitVec.ofNat 64 (q.t1.toNat + q.t2.toNat * 2 ^ 10 + q.t3.toNat * 2 ^ 20 + q.hyst.toNat * 2 ^ 30)
    | 0x22 => BitVec.ofNat 64 (q.temp.toNat + q.volt.toNat * 2 ^ 12 + q.osc.toNat * 2 ^ 32 + q.lev * 2 ^ 48)
    | n => if 0x08 ≤ n ∧ n < 0x0C then t.bps.get 0 (n - 8) else if 0x0C ≤ n ∧ n < 0x10 then t.wps.get 0 (n - 12) else ones
/-- A write of the selected register; it is discarded where csel selects none. -/
def State.writeCdata (s : State) (v : Word) : State :=
  match s.selected with
  | none => s
  | some k =>
    match s.selRegister with
    | 0x00 =>
      (s.updTile k fun q => { q with sdbg := v.getLsbD 4, stile := v.getLsbD 5 }).requestStop k (v.setWidth 4)
    | 0x01 => (s.wakeAll k ((v >>> 4).setWidth 4) true).wakeAll k (v.setWidth 4) false
    | 0x20 => s.writeBudget (clusterKey k) v
    | 0x21 =>
      s.updCluster (clusterKey k) fun q =>
        { q with t1 := v.setWidth 10, t2 := (v >>> 10).setWidth 10, t3 := (v >>> 20).setWidth 10, hyst := (v >>> 30).setWidth 8 }
    | n =>
      if 0x08 ≤ n ∧ n < 0x0C then s.updTile k fun t => { t with bps := t.bps.set (n - 8) (v &&& bpMask) }
      else if 0x0C ≤ n ∧ n < 0x10 then s.updTile k fun t => { t with wps := t.wps.set (n - 12) (v &&& wpMask) }
      else s

end Sys2Proof.Machine
end

