-- ==== Sys2Proof/Machine/HostLink.lean ====
section
/-! DEFINITION. The host's side of the Benez link (R343 to R348): the register window, the memory window, doorbells, and
the attestation report. -/

namespace Sys2Proof.Machine

/-! ### Registers (R344, Tables 3 and 4) -/

/-- The boot phase reached: phase 5 is over once every corner has arrived at g61, the last act of its routine (R342, R352). -/
def State.phaseReached (s : State) : BitVec 8 :=
  if s.boot && s.host.phase == 4 && (List.range 64).all (fun d => ((s.tile (bootKey d 0)).arrivals.get .reset 61).ctxs != 0) then 5
  else s.host.phase
/-- bstat (Table 4), with the phase reached. -/
def HostPort.bstat (h : HostPort) (phase : BitVec 8) : Word :=
  BitVec.ofNat 64 (phase.toNat + h.fcode.toNat * 2 ^ 8 + h.fdie.toNat * 2 ^ 16 + bit h.hovf * 2 ^ 24 + bit h.werr * 2 ^ 25)
/-- What the host reads at an offset of the register window; go, hdoor and the holes between fields read 0. -/
def State.hostRegister (s : State) (offset : Nat) : Word :=
  let h := s.host
  let part (v : BitVec 512) (base : Nat) : Word := BitVec.ofNat 64 (recField v (offset - base) 8)
  match offset with
  | 0x000 => 0x00000000D2A70064
  | 0x008 => h.bstat s.phaseReached
  | 0x010 => h.bootaddr
  | 0x020 => h.winbase
  | 0x028 => h.winkey
  | 0x030 => s.gtime
  | 0x088 => BitVec.ofNat 64 h.hqueue.length
  | 0x100 => BitVec.ofNat 64 (bit h.ddoor)
  | 0x200 => h.csel
  | 0x208 => s.cdata
  | n => if 0x040 ≤ n ∧ n < 0x080 then part h.hmsg 0x040 else if 0x0C0 ≤ n ∧ n < 0x100 then part h.dmsg 0x0C0 else 0

/-- Bits 24 and 25 of bstat are cleared by writing 1. -/
def HostPort.clearBstat (h : HostPort) (v : Word) : HostPort :=
  { h with hovf := h.hovf && !v.getLsbD 24, werr := h.werr && !v.getLsbD 25 }
def execBstatClear (value : BitVec 64) (s : State) : Out := .next { s with host := s.host.clearBstat value }
/-- hdoor: hmsg is queued, or discarded when 16 are queued. -/
def HostPort.ring (h : HostPort) : HostPort :=
  if h.hqueue.length < 16 then { h with hqueue := h.hqueue ++ [h.hmsg] } else { h with hovf := true }
def execHdoor (s : State) : Out := .next { s with host := s.host.ring }
/-- The host writes 0 to ddoor: a post that waits goes out (R346). -/
def HostPort.freeDmsg (h : HostPort) : HostPort :=
  match h.dwait with
  | [] => { h with ddoor := false }
  | m :: r => { h with dmsg := m, dwait := r, ddoor := true }
def execDdoorClear (s : State) : Out := .next { s with host := s.host.freeDmsg }

/-- A window access is on its way. -/
def State.windowBusy (s : State) : Bool := s.flights.any fun f => f.src == gateBase
/-- A write of an 8-byte register by the host; one to a field that is read-only to it changes nothing (R344). -/
def State.writeRegister (s : State) (offset : Nat) (v : Word) : State :=
  match offset with
  | 0x008 => { s with host := s.host.clearBstat v }
  | 0x010 => if s.host.goDone then s else { s with host := { s.host with bootaddr := v } }
  | 0x018 => if v = 1 then s.writeGo else s
  | 0x080 => { s with host := s.host.ring }
  | 0x100 => if v = 0 then { s with host := s.host.freeDmsg } else s
  | 0x200 => { s with host := { s.host with csel := v } }
  | 0x208 => s.writeCdata v
  | n =>
    if 0x040 ≤ n ∧ n < 0x080 ∧ n % 8 = 0 then
      { s with host := { s.host with hmsg := BitVec.ofNat 512 (setBits s.host.hmsg.toNat (8 * (n - 0x040)) 64 v.toNat) } }
    else s
def execRegisterWrite (offset : Nat) (value : BitVec 64) (s : State) : Out := .next (s.writeRegister offset value)

/-! ### The memory window (R345, R346) -/

/-- Naturally aligned pieces of [o, o + n), each at most `big` bytes: first byte and size. -/
def windowPieces (big : Nat) : Nat → Nat → Nat → List (Nat × Nat)
  | 0, _, _ => []
  | fuel + 1, o, n =>
    if n = 0 then []
    else
      let p := ([16, 8, 4, 2].find? fun p => decide (p ≤ big) && decide (p ≤ n) && o % p == 0).getD 1
      (o, p) :: windowPieces big fuel (o + p) (n - p)
/-- An access of the window is refused before phase 6, while winkey names a slot never loaded, and outside module memory. -/
def State.windowRefused (s : State) (offset size : Nat) : Bool :=
  s.host.phase != 6 || !(s.keys.get .reset s.host.winkey.toNat).loaded ||
  paKind (s.host.winbase.toNat + offset) != .module || paKind (s.host.winbase.toNat + offset + size - 1) != .module
/-- One piece enters the gateway, for the owner of the slot that winkey names: of the read named `part`, or of a write, whose part is not 0
where it does not store one aligned doubleword, which is what a push is (R311). -/
def State.windowSend (s : State) (part pa : Nat) (va : Word) (op : MemOp) (ret : Ret) : State :=
  let slot := s.host.winkey.toNat
  let f := s.gateFlight 0 (s.keys.get .reset slot).owner slot (.slice (homeSlice pa)) pa va op ret
  { s with flights := s.flights ++ [{ f with part := part }], nextId := s.nextId + 1 }
/-- A read: its answer comes into `rdata` once all its bytes are back; a refused one reads all ones. -/
def execWindowRead (offset size : Nat) (s : State) : Out :=
  if size = 0 || 64 < size || 2 ^ 36 < offset + size then .next s
  else if s.windowRefused offset size then .next { s with host := { s.host with werr := true, rdata := BitVec.allOnes 512 } }
  else
    let pa := s.host.winbase.toNat + offset
    let l := windowPieces 8 64 pa size
    let name := s.nextId
    let s1 : State := { s with host := { s.host with reads := s.host.reads ++ [{ name := name, left := l.length, data := 0 }] } }
    .next (l.foldl (fun s e => s.windowSend name e.1 (BitVec.ofNat 64 (e.1 - pa)) (.load e.2) .gate) s1)
/-- A write, in order of arrival; a refused one is discarded. -/
def execWindowWrite (offset size : Nat) (data : BitVec 512) (s : State) : Out :=
  if size = 0 || 64 < size || 2 ^ 36 < offset + size then .next s
  else if s.windowRefused offset size then .next { s with host := { s.host with werr := true } }
  else
    let pa := s.host.winbase.toNat + offset
    .next ((windowPieces 16 64 pa size).foldl (fun s e =>
      s.windowSend (if size = 8 ∧ offset % 8 = 0 then 0 else 1) e.1 (BitVec.ofNat 64 e.1) (.store e.2 (BitVec.ofNat 128 (bitsAt data.toNat (8 * (e.1 - pa)) (8 * e.2)))) .none) s)

/-! ### Attestation (R348) -/

/-- The report of Table 5 up to its signature, for the module or for an owner. -/
def State.reportBody (s : State) (nonce : Nat) (owner : Option Nat) : List Byte :=
  let ocfg : Nat := match owner with | some o => (Config.sha384 (Config.ownerConfig o s.gtime)).toNat | none => 0
  natBytes 8 1 ++ natBytes 48 s.host.meas.toNat ++ natBytes 48 ocfg ++ natBytes 48 nonce ++ natBytes 8 s.gtime.toNat ++ natBytes 8 s.turns.toNat
/-- Bytes as messages of 64, the last one filled with zeros. -/
def messages : Nat → List Byte → List (BitVec 512)
  | 0, _ => []
  | n + 1, l => if l.isEmpty then [] else BitVec.ofNat 512 (bytesNat (l.take 64)) :: messages n (l.drop 64)
/-- The oldest host message, with the rest, when it is of a kind that a test picks. -/
def HostPort.take (h : HostPort) (kind : Nat → Bool) : Option (BitVec 512 × HostPort) :=
  match h.hqueue with
  | m :: r => if kind (recField m 0 1) then some (m, { h with hqueue := r }) else none
  | [] => none
/-- M sets the window, in answer to the oldest host message, whose form is the firmware's and whose kind is one that neither an attestation
nor an owner request has, while no window access is in flight: a base that is a multiple of 64 GiB, and a key slot (R344, R345, log 60). -/
def State.setWindow (s : State) (base key : Word) : State :=
  if s.host.phase != 6 || s.sinceTurn || s.windowBusy || base.toNat % 2 ^ 36 ≠ 0 then s
  else match s.host.take fun k => decide (7 ≤ k) with
    | some (_, h) => { s with host := { h with winbase := base, winkey := BitVec.ofNat 64 (key.toNat % 4096) } }
    | none => s
/-- The owner that an attestation request asks about: byte 0x02 is 1 for the owner of byte 0x01, and 0 for the module (log 59). -/
def reportOwner (m : BitVec 512) : Option Nat := if recField m 2 1 = 1 then some (recField m 1 1 % 64) else none
/-- ATTESTATION_REQUEST: M answers a nonce with the module's report, or an owner's, signed, and the certificate. -/
def execAttestationRequest (s : State) : Out :=
  if s.host.phase != 6 || s.sinceTurn then .next s
  else match s.host.take (· == 0) with
    | none => .next s
    | some (m, h) =>
      let body := s.reportBody (recField m 0x10 48) (reportOwner m)
      let all := body ++ natBytes 96 (Config.identitySign (Config.sha384 body)).toNat ++ Config.certificate
      .next { s with host := (messages all.length all).foldl HostPort.tell h }

end Sys2Proof.Machine
end

