-- ==== Sys2Proof/Machine/Owners.lean ====
section
/-! DEFINITION. The owner requests that M takes from the host (R356 to R363), and the scrubs they wait for (R338, R358). -/

namespace Sys2Proof.Machine

/-! ### Requests (R356, Table 1) -/

def reqKind (r : BitVec 512) : Nat := recField r 0 1
def reqOwner (r : BitVec 512) : Nat := recField r 1 1
def reqCount (r : BitVec 512) : Nat := recField r 2 1
/-- The record has the form of Table 1. -/
def reqFormed (r : BitVec 512) : Bool :=
  let k := reqKind r
  decide (1 ≤ k ∧ k ≤ 6) && decide (reqOwner r < 64) && decide (recField r 3 1 ≤ 1) && recField r 0x18 40 == 0 &&
  (if k ≤ 3 then decide (1 ≤ reqCount r ∧ reqCount r ≤ 64) else reqCount r == 0) &&
  (if 5 ≤ k then decide (1 ≤ recField r 6 2) && decide (recField r 4 2 + recField r 6 2 ≤ 4096) else true) &&
  (if k = 1 then decide (recField r 0x10 8 < 2 ^ 56) else true)
/-- M answers a request at once. -/
def State.answerRequest (s : State) (r : BitVec 512) (status : Nat) : State := { s with host := s.host.tell (ownerReply r status 0 0) }
/-- A request of the same owner is on its way. -/
def State.ownerBusy (s : State) (o : Nat) : Bool := s.host.pending.any fun p => reqOwner p.req == o
/-- The oldest message, when it is a request of a kind that a test picks and none of its owner's is on its way;
M takes none while it stands still in a pause. -/
def State.takeRequest (s : State) (kind : Nat → Bool) : Option (BitVec 512 × State) :=
  if s.host.phase != 6 || s.sinceTurn then none
  else match s.host.take kind with
    | some (r, h) => if s.ownerBusy (reqOwner r) then none else some (r, { s with host := h })
    | none => none
/-- Status of the first check that a request fails. -/
def State.reqStatus (s : State) (r : BitVec 512) : Nat :=
  let w := s.owner (reqOwner r)
  if !reqFormed r then 3
  else if (reqKind r == 1) == w.live then 1
  else if reqKind r = 3 ∧ w.formes ≤ reqCount r then 5
  else 0

/-! ### Beds and trees (R288, R356) -/

/-- Formes of the firmware owner that a request on its way has taken, or waits to scrub. -/
def State.promised (s : State) : List Nat := (s.host.pending.map (·.formes)).flatten
/-- Free beds that a mask permits. -/
def State.freeBeds (s : State) (mask : BitVec 64) : List Nat :=
  (List.range 64).filter fun b => (mask == 0 || mask.getLsbD b) && s.onBed b / 64 == firmware && !s.promised.contains (s.onBed b)
/-- A choice of n beds of a list: which ones is open. -/
def State.chooseBeds : Nat → List Nat → State → List Nat × State
  | 0, _, s => ([], s)
  | n + 1, l, s =>
    let (v, s1) := s.draw
    let b := l.getD (v.toNat % l.length) 0
    let (r, s2) := State.chooseBeds n (l.filter (· != b)) s1
    (b :: r, s2)
/-- The trees that a creation asks for are M's, and none that is on its way asks for them. -/
def State.treesFree (s : State) (mask : Nat) : Bool :=
  (List.range 56).all fun g => !bitAt mask g ||
    ((s.trees.get none g).isNone && !s.host.pending.any fun p => reqKind p.req == 1 && bitAt (recField p.req 0x10 8) g)

/-! ### Create and grow (R357, R358, R360) -/

/-- Beds for the new formes are chosen, scrubbed and held (step 1 of R358). -/
def State.startGrow (s : State) (r : BitVec 512) : State :=
  let l := s.freeBeds (BitVec.ofNat 64 (recField r 8 8))
  let n := reqCount r
  if l.length < n || 64 < (s.owner (reqOwner r)).formes + n || (reqKind r == 1 && !s.treesFree (recField r 0x10 8)) then s.answerRequest r 2
  else
    let (beds, s1) := State.chooseBeds n l s
    let fks := beds.map s1.onBed
    let s2 := fks.foldl State.scrubForme s1
    { s2 with host := { s2.host with pending := s2.host.pending ++ [{ req := r, formes := fks, beds := 0, stage := 0, tpause := 0 }] } }
def State.growRequest (s : State) (r : BitVec 512) : State :=
  match s.reqStatus r with
  | 0 => s.startGrow r
  | st => s.answerRequest r st
/-- OWNER_CREATE: kind 1. A kind that Table 1 does not have is answered here, as malformed. -/
def execOwnerCreate (s : State) : Out :=
  match s.takeRequest fun k => k == 1 || decide (7 ≤ k) with
  | some (r, s1) => .next (s1.growRequest r)
  | none => .next s
def execOwnerGrow (s : State) : Out :=
  match s.takeRequest (· == 2) with
  | some (r, s1) => .next (s1.growRequest r)
  | none => .next s

/-! ### Shrink and retire (R357 to R361) -/

/-- A shrink or a retirement waits for a pause. -/
def State.startShrink (s : State) (r : BitVec 512) : State :=
  let p : Pending := { req := r, formes := [], beds := 0, stage := 1, tpause := 0 }
  let s1 := s.mapInLead p
  { s1 with host := { s1.host with pending := s1.host.pending ++ [p] } }
def State.shrinkRequest (s : State) (r : BitVec 512) : State :=
  match s.reqStatus r with
  | 0 => s.startShrink r
  | st => s.answerRequest r st
def execOwnerShrink (s : State) : Out :=
  match s.takeRequest (· == 3) with
  | some (r, s1) => .next (s1.shrinkRequest r)
  | none => .next s
def execOwnerRetire (s : State) : Out :=
  match s.takeRequest (· == 4) with
  | some (r, s1) => .next (s1.shrinkRequest r)
  | none => .next s

/-! ### Keys (R363) -/

/-- The slots that a request names. -/
def reqSlots (r : BitVec 512) : List Nat := (List.range (recField r 6 2)).map (recField r 4 2 + ·)
/-- A slot of the range belongs to another owner: it was assigned to one, or it holds keys that were loaded for one (R362, R363). -/
def State.slotTaken (s : State) (r : BitVec 512) : Bool :=
  (reqSlots r).any fun n =>
    let q := s.keys.get .reset n
    match q.holder with
    | some o => o != reqOwner r
    | none => q.loaded && q.owner != reqOwner r
def State.keyStatus (s : State) (r : BitVec 512) : Nat :=
  match s.reqStatus r with
  | 0 => if s.slotTaken r then 4 else 0
  | st => st
def State.assignKeys (s : State) (r : BitVec 512) : State :=
  { s with keys := (reqSlots r).foldl (fun m n => m.set n { m.get .reset n with holder := some (reqOwner r) }) s.keys }
def execAssignKeys (s : State) : Out :=
  match s.takeRequest (· == 5) with
  | some (r, s1) => .next ((if s1.keyStatus r = 0 then s1.assignKeys r else s1).answerRequest r (s1.keyStatus r))
  | none => .next s
/-- Every access of an owner that a translation led to module memory has performed. -/
def State.ownerQuiet (s : State) (o : Nat) : Bool :=
  s.flights.all (fun f => f.owner != o || !f.isOpen) &&
  s.tiles.all fun e => ownerOf e.1 != o || (e.2.fills.isEmpty && e.2.cq.all (·.flying.isEmpty) && e.2.mq.all (·.asked.isNone))
/-- A request that has been carried out is answered. -/
def State.closeRequest (s : State) (p : Pending) : State :=
  let s1 : State := { s with host := { s.host with pending := s.host.pending.filter (· != p) } }
  { s1 with host := s1.host.tell (ownerReply p.req 0 p.beds p.tpause) }
/-- RELEASE_KEYS waits until the accesses have performed: for a retirement whose slots could not be released at its pause, or for a request
of kind 6. -/
def execReleaseKeys (s : State) : Out :=
  match s.host.pending.find? fun p => p.stage == 3 && s.slotsQuiet (s.heldKeys (reqOwner p.req)) with
  | some p => .next ((s.releaseKeys (reqOwner p.req) (s.heldKeys (reqOwner p.req))).closeRequest p)
  | none =>
  match s.takeRequest (· == 6) with
  | some (r, s1) =>
    let st := s1.keyStatus r
    if st ≠ 0 then .next (s1.answerRequest r st)
    else if !(s1.ownerQuiet (reqOwner r) && s1.slotsQuiet (reqSlots r)) then .next s
    else .next ((s1.releaseKeys (reqOwner r) (reqSlots r)).answerRequest r 0)
  | none => .next s

/-! ### The end of a scrub (R338, R340, R358) -/

/-- What a scrub clears of a tile: memories, registers, semaphores, tags, tables, engines, route registers, the pointer of R7. Tree sets
and the threads that the tile runs stay. -/
def Tile.scrubbed (t : Tile) : Tile :=
  { Tile.reset with
    ctxs := (t.ctxs.filter fun e => e.2.c.run != .idle).map fun e => (e.1, { e.2 with y := { e.2.y with rts := [], rtck := 0 } }),
    parts := t.parts, partsNext := t.partsNext, arrivals := t.arrivals, recOff := t.recOff, fenced := t.fenced, checked := t.checked }
/-- A scrub of some tiles of a forme, or of its whole die. The event lines of the tiles' clusters are cleared at every scrub (R152). -/
def State.scrubTiles (s : State) (fk what : Nat) : State :=
  if what < 1024 then
    let k := tileKey (fk / 64) (fk % 64 * 1024 + what)
    (s.updTile k Tile.scrubbed).updCluster (clusterKey k) fun q => { q with lines := [] }
  else
    let s := s.mapTiles fun k t => if formeOfTile k = fk ∧ k < bootBase then t.scrubbed else t
    { s with clusters := s.clusters.map fun e => if e.1 / 64 = fk then (e.1, e.2.scrubbed) else e }
/-- What waits for scrubs goes on once they are over: a grow waits for its pause, given-up beds are answered. -/
def State.afterScrub (s : State) (p : Pending) : State :=
  if p.formes.any fun fk => (s.forme fk).scrubs != [] then s
  else
    let rest (q : Pending) : Bool := q != p
    match p.stage with
    | 0 =>
      let p1 : Pending := { p with stage := 1 }
      let s1 := s.mapInLead p1
      { s1 with host := { s1.host with pending := s1.host.pending.map fun q => if rest q then q else p1 } }
    | 2 =>
      if reqKind p.req = 4 ∧ s.heldKeys (reqOwner p.req) ≠ [] then
        { s with host := { s.host with pending := s.host.pending.map fun q => if rest q then q else { p with stage := 3 } } }
      else s.closeRequest p
    | _ => s
/-- A bed that an owner is to receive is held until the pause (R358). -/
def State.promisedBed (s : State) (fk : Nat) : Bool := s.host.pending.any fun p => decide (reqKind p.req ≤ 2) && p.formes.contains fk
/-- SCRUB_COMPLETE: the scrubs of a bed's forme are over, and it may pop slugs again, unless it passes to an owner. -/
def execScrubComplete (bed : Nat) (s : State) : Out :=
  if 64 ≤ bed || s.sinceTurn then .next s
  else
    let fk := s.onBed bed
    if (s.forme fk).scrubs = [] then .next s
    else
      let s1 := (s.forme fk).scrubs.foldl (fun s what => s.scrubTiles fk what) s
      let s2 := s1.updForme fk fun w => { w with held := s1.promisedBed fk, scrubs := [] }
      .next (s2.host.pending.foldl State.afterScrub s2)

end Sys2Proof.Machine
end

