-- ==== Sys2Proof/Machine/Reliab.lean ====
section
/-! DEFINITION. Errors found in the machine's structures, the patrol scrub (R366, R367), and rollback to a proof (R376). -/

namespace Sys2Proof.Machine

/-! ### Errors (R366, R367) -/

/-- A corrected error in a tile's memories, as its counters see it (event 9 of R385). -/
def State.correctedError (s : State) (k : Nat) : State := s.updTile k fun t => t.mapCtx fun x => { x with c := x.c.count 9 1 }
/-- UNCORRECTABLE_ERROR: `place` says what an error was found in (0 scratchpad, 1 tile store, 2 and 3 scalar and vector
register files, 4 module memory, 5 instruction cache, 6 a tile's TLBs, 7 an L2 TLB), `key` of which tile or cluster, `addr`
where in it. Data is marked as poisoned by units of 8 bytes, registers or lines; a line or entry of a cache is dropped. From 16 on
it is a corrected error of the same place: it changes no result, and in a tile's memory it is counted. -/
def execUncorrectableError (place key addr : Nat) (s : State) : Out :=
  .next (match place with
  | 0 => if addr < 0x8000 then s.updTile key fun t => { t with padPoison := insNat t.padPoison (addr / 8) } else s
  | 1 => if addr < 0x60000 then s.updTile key fun t => { t with storePoison := insNat t.storePoison (addr / 8) } else s
  | 2 => if addr < 512 then s.updTile key fun t => { t with xPoison := insNat t.xPoison addr } else s
  | 3 => if addr < 256 then s.updTile key fun t => { t with vPoison := insNat t.vPoison addr } else s
  | 4 => if paKind addr == .module then { s with memPoison := insRange s.memPoison (addr / 64 * 8) 8 } else s
  | 5 => s.updTile key fun t => { t with icache := t.icache.erase addr }
  | 6 =>
    let keep (l : List TlbEntry) : List TlbEntry := l.filter fun e => !e.maps addr
    s.updTile key fun t => { t with itlb := keep t.itlb, dtlb := keep t.dtlb, mtlb := keep t.mtlb, ctlb := keep t.ctlb }
  | 7 => s.updCluster key fun q => { q with l2 := q.l2.filter fun e => !e.maps addr }
  | 16 => s.correctedError key
  | 17 => s.correctedError key
  | _ => s)
/-- PATROL_SCRUB: a line of module memory is read and what it corrects is written back: no contents change (R366). -/
def execPatrolScrub (_line : Nat) (s : State) : Out := .next s

/-! ### Rollback (R376) -/

/-- Tiles of an owner. -/
def State.tilesOf (s : State) (o : Nat) : List Nat := (s.tiles.map (·.1)).filter fun k => ownerOf k == o && decide (k < bootBase)
/-- The bytes of a saved unit, in the pool's 4 KiB pieces. -/
def State.savedBytes (s : State) (o : Nat) (u : PUnit) : List Byte :=
  ((List.range (if u.kind < 2 then 1 else 16)).map fun i => match s.poolAt o (u.pool + 4096 * i) false with
    | some (pa, slot) => s.memBytes slot pa 4096
    | none => []).flatten
/-- A saved unit is written back, like any write: its sectors are written ones, and no poison is left in it (R298, R367). -/
def State.restoreUnit (o : Nat) (s : State) (u : PUnit) : State :=
  let bs := s.savedBytes o u
  match u.kind with
  | 0 => s.updTile u.tile fun t => t.put 1 (u.unit * 4096) bs.length fun m => m.put (u.unit * 4096) bs
  | 1 => s.updTile u.tile fun t => t.put 0 (u.unit * 4096) bs.length fun m => m.put (u.unit * 4096) bs
  | _ => match s.poolAt o (u.unit * 65536) false with
    | some (pa, slot) => (s.leafUsed o (u.unit * 65536) true).putUnder slot pa bs
    | none => s
/-- The repair cells of an owner are those of the proof, their history and watermark too (step 3). -/
def State.restoreCells (s : State) (o : Nat) (p : Snap) : State :=
  let w := bitsAt p.sstep.toNat 0 24
  let one (s : State) (h : Nat) : State :=
    s.updSlice h fun q =>
      let others := q.cells.filter fun e => match e.2 with | some c => c.owner != o | none => false
      { q with wmark := q.wmark.set o w, lines := q.lines.filter (fun e => match e.2 with | some r => r.owner != o | none => true),
               cells := (p.cells.filter fun e => e.1 == h).foldl (fun m e =>
                 m.set e.2.1 (some { kind := e.2.2.1, base := e.2.2.2, owner := o, hist := [], lastfold := none })) others }
  (List.range 144).foldl one s
/-- What of a tile a proof does not hold is scrubbed (step 4). Its arrivals at trees of the present generation end with its threads,
and the barrier objects, which lie in the scratchpad, are as R138 had them at the proof (R259). -/
def Tile.rolledBack (t : Tile) (k : Nat) (p : Snap) : Tile :=
  { t.scrubbed with
    ctxs := [], arrivals := [], barFresh := ((p.fresh.find? fun e => e.1 == k).map (·.2)).getD [], pad := t.pad, store := t.store, padPoison := t.padPoison, storePoison := t.storePoison, padWritten := t.padWritten,
    storeWritten := t.storeWritten }
/-- What of a forme a proof does not hold, and the galley heads and tails that it holds. -/
def Forme.rolledBack (w : Forme) (f : Nat) (p : Snap) : Forme :=
  { w with
    anch := [], shadow := [], launches := [],
    galleys := w.galleys.map fun e => (e.1, { e.2 with
      fifo := (p.heads.filter fun h => h.1 == f && h.2.1 == e.1).foldl (fun m h => m.set h.2.2.1 h.2.2.2) [],
      pushes := [], live := 0, stuck := [] }) }
/-- The proof after a rollback: one that was taken and is not complete is abandoned, while copies for the complete one go on from here. -/
def Proof.rolledBack (p : Proof) : Proof :=
  { (if p.state = 1 then p.abandon else p) with copying := p.copying, saved := [], older := [], dirty := [], used := 0 }
/-- Steps 2 to 5: the copies made since the latest taking, then, where that proof is not complete, those made before it since the complete
one. -/
def State.rollTo (s : State) (o : Nat) (p : Snap) : State :=
  let q := (s.owner o).proof
  let s := (q.saved ++ q.older).foldl (State.restoreUnit o) s
  let s := s.restoreCells o p
  let s := s.mapTiles fun k t => if ownerOf k = o ∧ k < bootBase then t.rolledBack k p else t
  let s : State := { s with
    clusters := s.clusters.map (fun e => if e.1 / 4096 = o then (e.1, { e.2 with lines := [] }) else e),
    formes := s.formes.map fun e => if e.1 / 64 = o then (e.1, e.2.rolledBack (e.1 % 64) p) else e }
  let s := s.updOwner o fun w =>
    { w with sstep := p.sstep, wmarks := [], windows := [],
             proof := w.proof.rolledBack }
  s.proofRecord o
/-- ROLLBACK: M kills the owner's threads; once what they sent has performed, the owner stands where its latest complete
proof was taken. -/
def execRollback (owner : Nat) (s : State) : Out :=
  match (s.owner owner).proof.complete with
  | none => .next s
  | some p =>
    if s.sinceTurn then .next s else
    let s1 := (s.tilesOf owner).foldl State.clearTile s
    if s1.ownerQuiet owner then .next (s1.rollTo owner p) else .next s1

end Sys2Proof.Machine
end

