-- ==== Sys2Proof/Machine/Dispatch.lean ====
section
/-! DEFINITION. The dispatch: one arm for every constructor of `Instr`, each one direct call of its meaning. -/

namespace Sys2Proof.Machine

def exec (i : Instr) (s : State) : Host.Outcome State Fault Refusal :=
  match i with
  | .nop f => Sys2Proof.Machine.execNop f s
  | .add f => Sys2Proof.Machine.execAdd f s
  | .addImm f => Sys2Proof.Machine.execAddImm f s
  | .sub f => Sys2Proof.Machine.execSub f s
  | .subImm f => Sys2Proof.Machine.execSubImm f s
  | .mul f => Sys2Proof.Machine.execMul f s
  | .mulImm f => Sys2Proof.Machine.execMulImm f s
  | .mulh f => Sys2Proof.Machine.execMulh f s
  | .mulhImm f => Sys2Proof.Machine.execMulhImm f s
  | .mulhu f => Sys2Proof.Machine.execMulhu f s
  | .mulhuImm f => Sys2Proof.Machine.execMulhuImm f s
  | .div f => Sys2Proof.Machine.execDiv f s
  | .divImm f => Sys2Proof.Machine.execDivImm f s
  | .divu f => Sys2Proof.Machine.execDivu f s
  | .divuImm f => Sys2Proof.Machine.execDivuImm f s
  | .rem f => Sys2Proof.Machine.execRem f s
  | .remImm f => Sys2Proof.Machine.execRemImm f s
  | .remu f => Sys2Proof.Machine.execRemu f s
  | .remuImm f => Sys2Proof.Machine.execRemuImm f s
  | .and f => Sys2Proof.Machine.execAnd f s
  | .andImm f => Sys2Proof.Machine.execAndImm f s
  | .or f => Sys2Proof.Machine.execOr f s
  | .orImm f => Sys2Proof.Machine.execOrImm f s
  | .xor f => Sys2Proof.Machine.execXor f s
  | .xorImm f => Sys2Proof.Machine.execXorImm f s
  | .andn f => Sys2Proof.Machine.execAndn f s
  | .andnImm f => Sys2Proof.Machine.execAndnImm f s
  | .shl f => Sys2Proof.Machine.execShl f s
  | .shlImm f => Sys2Proof.Machine.execShlImm f s
  | .shr f => Sys2Proof.Machine.execShr f s
  | .shrImm f => Sys2Proof.Machine.execShrImm f s
  | .sra f => Sys2Proof.Machine.execSra f s
  | .sraImm f => Sys2Proof.Machine.execSraImm f s
  | .rotr f => Sys2Proof.Machine.execRotr f s
  | .rotrImm f => Sys2Proof.Machine.execRotrImm f s
  | .min f => Sys2Proof.Machine.execMin f s
  | .minImm f => Sys2Proof.Machine.execMinImm f s
  | .max f => Sys2Proof.Machine.execMax f s
  | .maxImm f => Sys2Proof.Machine.execMaxImm f s
  | .minu f => Sys2Proof.Machine.execMinu f s
  | .minuImm f => Sys2Proof.Machine.execMinuImm f s
  | .maxu f => Sys2Proof.Machine.execMaxu f s
  | .maxuImm f => Sys2Proof.Machine.execMaxuImm f s
  | .abs f => Sys2Proof.Machine.execAbs f s
  | .neg f => Sys2Proof.Machine.execNeg f s
  | .clz f => Sys2Proof.Machine.execClz f s
  | .ctz f => Sys2Proof.Machine.execCtz f s
  | .popc f => Sys2Proof.Machine.execPopc f s
  | .bfx f => Sys2Proof.Machine.execBfx f s
  | .bfxu f => Sys2Proof.Machine.execBfxu f s
  | .bfi f => Sys2Proof.Machine.execBfi f s
  | .mov f => Sys2Proof.Machine.execMov f s
  | .li f => Sys2Proof.Machine.execLi f s
  | .lih f => Sys2Proof.Machine.execLih f s
  | .lea f => Sys2Proof.Machine.execLea f s
  | .addW f => Sys2Proof.Machine.execAddW f s
  | .addWImm f => Sys2Proof.Machine.execAddWImm f s
  | .subW f => Sys2Proof.Machine.execSubW f s
  | .subWImm f => Sys2Proof.Machine.execSubWImm f s
  | .mulW f => Sys2Proof.Machine.execMulW f s
  | .mulWImm f => Sys2Proof.Machine.execMulWImm f s
  | .sext f => Sys2Proof.Machine.execSext f s
  | .zext f => Sys2Proof.Machine.execZext f s
  | .cmpEq f => Sys2Proof.Machine.execCmpEq f s
  | .cmpNe f => Sys2Proof.Machine.execCmpNe f s
  | .cmpLt f => Sys2Proof.Machine.execCmpLt f s
  | .cmpLe f => Sys2Proof.Machine.execCmpLe f s
  | .cmpGt f => Sys2Proof.Machine.execCmpGt f s
  | .cmpGe f => Sys2Proof.Machine.execCmpGe f s
  | .cmpLtu f => Sys2Proof.Machine.execCmpLtu f s
  | .cmpLeu f => Sys2Proof.Machine.execCmpLeu f s
  | .cmpGtu f => Sys2Proof.Machine.execCmpGtu f s
  | .cmpGeu f => Sys2Proof.Machine.execCmpGeu f s
  | .btest f => Sys2Proof.Machine.execBtest f s
  | .fcmpEq f => Sys2Proof.Machine.execFcmpEq f s
  | .fcmpLt f => Sys2Proof.Machine.execFcmpLt f s
  | .fcmpLe f => Sys2Proof.Machine.execFcmpLe f s
  | .fcmpUn f => Sys2Proof.Machine.execFcmpUn f s
  | .pand f => Sys2Proof.Machine.execPand f s
  | .por f => Sys2Proof.Machine.execPor f s
  | .pxor f => Sys2Proof.Machine.execPxor f s
  | .pmov f => Sys2Proof.Machine.execPmov f s
  | .pset f => Sys2Proof.Machine.execPset f s
  | .sel f => Sys2Proof.Machine.execSel f s
  | .fadd f => Sys2Proof.Machine.execFadd f s
  | .fsub f => Sys2Proof.Machine.execFsub f s
  | .fmul f => Sys2Proof.Machine.execFmul f s
  | .fma f => Sys2Proof.Machine.execFma f s
  | .fnma f => Sys2Proof.Machine.execFnma f s
  | .fdiv f => Sys2Proof.Machine.execFdiv f s
  | .fsqrt f => Sys2Proof.Machine.execFsqrt f s
  | .fmin f => Sys2Proof.Machine.execFmin f s
  | .fmax f => Sys2Proof.Machine.execFmax f s
  | .fabs f => Sys2Proof.Machine.execFabs f s
  | .fneg f => Sys2Proof.Machine.execFneg f s
  | .fclass f => Sys2Proof.Machine.execFclass f s
  | .frnd f => Sys2Proof.Machine.execFrnd f s
  | .fcvtFi f => Sys2Proof.Machine.execFcvtFi f s
  | .fcvtIf f => Sys2Proof.Machine.execFcvtIf f s
  | .fcvtBf f => Sys2Proof.Machine.execFcvtBf f s
  | .fcvtFb f => Sys2Proof.Machine.execFcvtFb f s
  | .fcvtE4 f => Sys2Proof.Machine.execFcvtE4 f s
  | .fcvtE5 f => Sys2Proof.Machine.execFcvtE5 f s
  | .fcvtF4 f => Sys2Proof.Machine.execFcvtF4 f s
  | .fcvtF5 f => Sys2Proof.Machine.execFcvtF5 f s
  | .fsplit f => Sys2Proof.Machine.execFsplit f s
  | .enter f => Sys2Proof.Machine.execEnter f s
  | .leave f => Sys2Proof.Machine.execLeave f s
  | .lcset f => Sys2Proof.Machine.execLcset f s
  | .lcsetImm f => Sys2Proof.Machine.execLcsetImm f s
  | .lcpush f => Sys2Proof.Machine.execLcpush f s
  | .lcpop f => Sys2Proof.Machine.execLcpop f s
  | .mfs f => Sys2Proof.Machine.execMfs f s
  | .mts f => Sys2Proof.Machine.execMts f s
  | .yield f => Sys2Proof.Machine.execYield f s
  | .trap f => Sys2Proof.Machine.execTrap f s
  | .brk f => Sys2Proof.Machine.execBrk f s
  | .irgn f => Sys2Proof.Machine.execIrgn f s
  | .launch f => Sys2Proof.Machine.execLaunch f s
  | .join f => Sys2Proof.Machine.execJoin f s
  | .ldB f => Sys2Proof.Machine.execLdB f s
  | .ldBu f => Sys2Proof.Machine.execLdBu f s
  | .ldH f => Sys2Proof.Machine.execLdH f s
  | .ldHu f => Sys2Proof.Machine.execLdHu f s
  | .ldW f => Sys2Proof.Machine.execLdW f s
  | .ldWu f => Sys2Proof.Machine.execLdWu f s
  | .ldD f => Sys2Proof.Machine.execLdD f s
  | .ldQ f => Sys2Proof.Machine.execLdQ f s
  | .stB f => Sys2Proof.Machine.execStB f s
  | .stH f => Sys2Proof.Machine.execStH f s
  | .stW f => Sys2Proof.Machine.execStW f s
  | .stD f => Sys2Proof.Machine.execStD f s
  | .stQ f => Sys2Proof.Machine.execStQ f s
  | .ldT f => Sys2Proof.Machine.execLdT f s
  | .ldS f => Sys2Proof.Machine.execLdS f s
  | .tlook f => Sys2Proof.Machine.execTlook f s
  | .tset f => Sys2Proof.Machine.execTset f s
  | .tinv f => Sys2Proof.Machine.execTinv f s
  | .tclr f => Sys2Proof.Machine.execTclr f s
  | .rgset f => Sys2Proof.Machine.execRgset f s
  | .rgclr f => Sys2Proof.Machine.execRgclr f s
  | .rgq f => Sys2Proof.Machine.execRgq f s
  | .ldm f => Sys2Proof.Machine.execLdm f s
  | .stm f => Sys2Proof.Machine.execStm f s
  | .amoAdd f => Sys2Proof.Machine.execAmoAdd f s
  | .amoAnd f => Sys2Proof.Machine.execAmoAnd f s
  | .amoOr f => Sys2Proof.Machine.execAmoOr f s
  | .amoXor f => Sys2Proof.Machine.execAmoXor f s
  | .amoMin f => Sys2Proof.Machine.execAmoMin f s
  | .amoMax f => Sys2Proof.Machine.execAmoMax f s
  | .amoMinu f => Sys2Proof.Machine.execAmoMinu f s
  | .amoMaxu f => Sys2Proof.Machine.execAmoMaxu f s
  | .amoXchg f => Sys2Proof.Machine.execAmoXchg f s
  | .amoCas f => Sys2Proof.Machine.execAmoCas f s
  | .amoFadd f => Sys2Proof.Machine.execAmoFadd f s
  | .amoFmin f => Sys2Proof.Machine.execAmoFmin f s
  | .amoFmax f => Sys2Proof.Machine.execAmoFmax f s
  | .amoBfadd2 f => Sys2Proof.Machine.execAmoBfadd2 f s
  | .rcell f => Sys2Proof.Machine.execRcell f s
  | .rfree f => Sys2Proof.Machine.execRfree f s
  | .ropFadd f => Sys2Proof.Machine.execRopFadd f s
  | .ropSt f => Sys2Proof.Machine.execRopSt f s
  | .ropMaxi f => Sys2Proof.Machine.execRopMaxi f s
  | .ropBfadd f => Sys2Proof.Machine.execRopBfadd f s
  | .rstat f => Sys2Proof.Machine.execRstat f s
  | .rreissue f => Sys2Proof.Machine.execRreissue f s
  | .fnc f => Sys2Proof.Machine.execFnc f s
  | .fwait f => Sys2Proof.Machine.execFwait f s
  | .barInit f => Sys2Proof.Machine.execBarInit f s
  | .barArr f => Sys2Proof.Machine.execBarArr f s
  | .barWait f => Sys2Proof.Machine.execBarWait f s
  | .barArw f => Sys2Proof.Machine.execBarArw f s
  | .barSt f => Sys2Proof.Machine.execBarSt f s
  | .gjoin f => Sys2Proof.Machine.execGjoin f s
  | .gjoinImm f => Sys2Proof.Machine.execGjoinImm f s
  | .gleave f => Sys2Proof.Machine.execGleave f s
  | .gleaveImm f => Sys2Proof.Machine.execGleaveImm f s
  | .gbar f => Sys2Proof.Machine.execGbar f s
  | .gbarSs f => Sys2Proof.Machine.execGbarSs f s
  | .evw f => Sys2Proof.Machine.execEvw f s
  | .evsig f => Sys2Proof.Machine.execEvsig f s
  | .evsigImm f => Sys2Proof.Machine.execEvsigImm f s
  | .semwt f => Sys2Proof.Machine.execSemwt f s
  | .semwtImm f => Sys2Proof.Machine.execSemwtImm f s
  | .semsg f => Sys2Proof.Machine.execSemsg f s
  | .semsgImm f => Sys2Proof.Machine.execSemsgImm f s
  | .semrd f => Sys2Proof.Machine.execSemrd f s
  | .semrdImm f => Sys2Proof.Machine.execSemrdImm f s
  | .semset f => Sys2Proof.Machine.execSemset f s
  | .semsetImm f => Sys2Proof.Machine.execSemsetImm f s
  | .tagwa f => Sys2Proof.Machine.execTagwa f s
  | .tagwaImm f => Sys2Proof.Machine.execTagwaImm f s
  | .tagwl f => Sys2Proof.Machine.execTagwl f s
  | .tagwlImm f => Sys2Proof.Machine.execTagwlImm f s
  | .tagff f => Sys2Proof.Machine.execTagff f s
  | .tagffImm f => Sys2Proof.Machine.execTagffImm f s
  | .tagclr f => Sys2Proof.Machine.execTagclr f s
  | .tagclrImm f => Sys2Proof.Machine.execTagclrImm f s
  | .settle f => Sys2Proof.Machine.execSettle f s
  | .vld f => Sys2Proof.Machine.execVld f s
  | .vlds f => Sys2Proof.Machine.execVlds f s
  | .vldx f => Sys2Proof.Machine.execVldx f s
  | .vst f => Sys2Proof.Machine.execVst f s
  | .vsts f => Sys2Proof.Machine.execVsts f s
  | .vstx f => Sys2Proof.Machine.execVstx f s
  | .vaddI f => Sys2Proof.Machine.execVaddI f s
  | .vsubI f => Sys2Proof.Machine.execVsubI f s
  | .vmulI f => Sys2Proof.Machine.execVmulI f s
  | .vminI f => Sys2Proof.Machine.execVminI f s
  | .vmaxI f => Sys2Proof.Machine.execVmaxI f s
  | .vand f => Sys2Proof.Machine.execVand f s
  | .vor f => Sys2Proof.Machine.execVor f s
  | .vxor f => Sys2Proof.Machine.execVxor f s
  | .vshl f => Sys2Proof.Machine.execVshl f s
  | .vshlImm f => Sys2Proof.Machine.execVshlImm f s
  | .vshr f => Sys2Proof.Machine.execVshr f s
  | .vshrImm f => Sys2Proof.Machine.execVshrImm f s
  | .vsra f => Sys2Proof.Machine.execVsra f s
  | .vsraImm f => Sys2Proof.Machine.execVsraImm f s
  | .vaddF f => Sys2Proof.Machine.execVaddF f s
  | .vsubF f => Sys2Proof.Machine.execVsubF f s
  | .vmulF f => Sys2Proof.Machine.execVmulF f s
  | .vfmaF f => Sys2Proof.Machine.execVfmaF f s
  | .vfnmaF f => Sys2Proof.Machine.execVfnmaF f s
  | .vminF f => Sys2Proof.Machine.execVminF f s
  | .vmaxF f => Sys2Proof.Machine.execVmaxF f s
  | .vabsF f => Sys2Proof.Machine.execVabsF f s
  | .vnegF f => Sys2Proof.Machine.execVnegF f s
  | .vdivF f => Sys2Proof.Machine.execVdivF f s
  | .vsqrtF f => Sys2Proof.Machine.execVsqrtF f s
  | .vrcpF f => Sys2Proof.Machine.execVrcpF f s
  | .vrsqF f => Sys2Proof.Machine.execVrsqF f s
  | .vexp2F f => Sys2Proof.Machine.execVexp2F f s
  | .vlog2F f => Sys2Proof.Machine.execVlog2F f s
  | .vfmaBf f => Sys2Proof.Machine.execVfmaBf f s
  | .vcvt f => Sys2Proof.Machine.execVcvt f s
  | .vsplit f => Sys2Proof.Machine.execVsplit f s
  | .vquant f => Sys2Proof.Machine.execVquant f s
  | .vdequant f => Sys2Proof.Machine.execVdequant f s
  | .vrnsTo f => Sys2Proof.Machine.execVrnsTo f s
  | .vrnsFrom f => Sys2Proof.Machine.execVrnsFrom f s
  | .vcmpEq f => Sys2Proof.Machine.execVcmpEq f s
  | .vcmpLt f => Sys2Proof.Machine.execVcmpLt f s
  | .vcmpLe f => Sys2Proof.Machine.execVcmpLe f s
  | .vcmpFlt f => Sys2Proof.Machine.execVcmpFlt f s
  | .vcmpFle f => Sys2Proof.Machine.execVcmpFle f s
  | .vcmpFun f => Sys2Proof.Machine.execVcmpFun f s
  | .vsel f => Sys2Proof.Machine.execVsel f s
  | .vmand f => Sys2Proof.Machine.execVmand f s
  | .vmor f => Sys2Proof.Machine.execVmor f s
  | .vmxor f => Sys2Proof.Machine.execVmxor f s
  | .vmnot f => Sys2Proof.Machine.execVmnot f s
  | .vmpop f => Sys2Proof.Machine.execVmpop f s
  | .vbcast f => Sys2Proof.Machine.execVbcast f s
  | .vbcastImm f => Sys2Proof.Machine.execVbcastImm f s
  | .vmovx f => Sys2Proof.Machine.execVmovx f s
  | .vmovxImm f => Sys2Proof.Machine.execVmovxImm f s
  | .vmovv f => Sys2Proof.Machine.execVmovv f s
  | .vmovvImm f => Sys2Proof.Machine.execVmovvImm f s
  | .viota f => Sys2Proof.Machine.execViota f s
  | .vperm f => Sys2Proof.Machine.execVperm f s
  | .vrot f => Sys2Proof.Machine.execVrot f s
  | .vrotImm f => Sys2Proof.Machine.execVrotImm f s
  | .vzip f => Sys2Proof.Machine.execVzip f s
  | .vunzip f => Sys2Proof.Machine.execVunzip f s
  | .vmov f => Sys2Proof.Machine.execVmov f s
  | .vredAddF f => Sys2Proof.Machine.execVredAddF f s
  | .vredAddI f => Sys2Proof.Machine.execVredAddI f s
  | .vredMinF f => Sys2Proof.Machine.execVredMinF f s
  | .vredMaxF f => Sys2Proof.Machine.execVredMaxF f s
  | .vredMinI f => Sys2Proof.Machine.execVredMinI f s
  | .vredMaxI f => Sys2Proof.Machine.execVredMaxI f s
  | .vscanAddI f => Sys2Proof.Machine.execVscanAddI f s
  | .vscanAddF f => Sys2Proof.Machine.execVscanAddF f s
  | .vsetvl f => Sys2Proof.Machine.execVsetvl f s
  | .vsetvlImm f => Sys2Proof.Machine.execVsetvlImm f s
  | .vcmul f => Sys2Proof.Machine.execVcmul f s
  | .mxq f => Sys2Proof.Machine.execMxq f s
  | .mxqr f => Sys2Proof.Machine.execMxqr f s
  | .cpq f => Sys2Proof.Machine.execCpq f s
  | .cpqr f => Sys2Proof.Machine.execCpqr f s
  | .eqst f => Sys2Proof.Machine.execEqst f s
  | .mxwm f => Sys2Proof.Machine.execMxwm f s
  | .mxrd f => Sys2Proof.Machine.execMxrd f s
  | .mxrdImm f => Sys2Proof.Machine.execMxrdImm f s
  | .mxwr f => Sys2Proof.Machine.execMxwr f s
  | .mxwrImm f => Sys2Proof.Machine.execMxwrImm f s
  | .mxcap f => Sys2Proof.Machine.execMxcap f s
  | .mxgate f => Sys2Proof.Machine.execMxgate f s
  | .mxgateImm f => Sys2Proof.Machine.execMxgateImm f s
  | .cpkill f => Sys2Proof.Machine.execCpkill f s
  | .cpkillImm f => Sys2Proof.Machine.execCpkillImm f s
  | .svc f => Sys2Proof.Machine.execSvc f s
  | .mbxw f => Sys2Proof.Machine.execMbxw f s
  | .mbxr f => Sys2Proof.Machine.execMbxr f s
  | .tlbi f => Sys2Proof.Machine.execTlbi f s
  | .rtld f => Sys2Proof.Machine.execRtld f s
  | .rtchk f => Sys2Proof.Machine.execRtchk f s
  | .artw f => Sys2Proof.Machine.execArtw f s
  | .imap f => Sys2Proof.Machine.execImap f s
  | .ctxsv f => Sys2Proof.Machine.execCtxsv f s
  | .ctxld f => Sys2Proof.Machine.execCtxld f s
  | .prmt f => Sys2Proof.Machine.execPrmt f s
  | .kill f => Sys2Proof.Machine.execKill f s
  | .gpart f => Sys2Proof.Machine.execGpart f s
  | .wdog f => Sys2Proof.Machine.execWdog f s
  | .wdogImm f => Sys2Proof.Machine.execWdogImm f s
  | .proof f => Sys2Proof.Machine.execProof f s
  | .cntc f => Sys2Proof.Machine.execCntc f s
  | .cntcImm f => Sys2Proof.Machine.execCntcImm f s
  | .cntr f => Sys2Proof.Machine.execCntr f s
  | .trc f => Sys2Proof.Machine.execTrc f s
  | .trcImm f => Sys2Proof.Machine.execTrcImm f s
  | .scrub f => Sys2Proof.Machine.execScrub f s
  | .keyld f => Sys2Proof.Machine.execKeyld f s
  | .turnack f => Sys2Proof.Machine.execTurnack f s
  | .rflush f => Sys2Proof.Machine.execRflush f s
  | .fencecore f => Sys2Proof.Machine.execFencecore f s
  | .flood f => Sys2Proof.Machine.execFlood f s
  | .halt f => Sys2Proof.Machine.execHalt f s
  | .vectorInstructionExecute tile => Sys2Proof.Machine.execVectorInstructionExecute tile s
  | .loadw tile => Sys2Proof.Machine.execLoadw tile s
  | .stream tile => Sys2Proof.Machine.execStream tile s
  | .mma tile => Sys2Proof.Machine.execMma tile s
  | .zero tile => Sys2Proof.Machine.execZero tile s
  | .store tile => Sys2Proof.Machine.execStore tile s
  | .loadacc tile => Sys2Proof.Machine.execLoadacc tile s
  | .rnsmode tile => Sys2Proof.Machine.execRnsmode tile s
  | .arrayPowerGate tile => Sys2Proof.Machine.execArrayPowerGate tile s
  | .matrixQueueWindowWrite tile rec => Sys2Proof.Machine.execMatrixQueueWindowWrite tile rec s
  | .copy tile => Sys2Proof.Machine.execCopy tile s
  | .gather tile => Sys2Proof.Machine.execGather tile s
  | .scatter tile => Sys2Proof.Machine.execScatter tile s
  | .fill tile => Sys2Proof.Machine.execFill tile s
  | .quant tile => Sys2Proof.Machine.execQuant tile s
  | .proofstream tile => Sys2Proof.Machine.execProofstream tile s
  | .copySectorIssue tile => Sys2Proof.Machine.execCopySectorIssue tile s
  | .copySectorPerformed tile cmd sector => Sys2Proof.Machine.execCopySectorPerformed tile cmd sector s
  | .fillCompletion tile sector => Sys2Proof.Machine.execFillCompletion tile sector s
  | .routineEnd tile ctx => Sys2Proof.Machine.execRoutineEnd tile ctx s
  | .postingQueueSend id => Sys2Proof.Machine.execPostingQueueSend id s
  | .packetDeliver id => Sys2Proof.Machine.execPacketDeliver id s
  | .homeSliceApply id => Sys2Proof.Machine.execHomeSliceApply id s
  | .stampedOperationApply id => Sys2Proof.Machine.execStampedOperationApply id s
  | .remoteAccessApply id => Sys2Proof.Machine.execRemoteAccessApply id s
  | .remoteBarrierUpdate id => Sys2Proof.Machine.execRemoteBarrierUpdate id s
  | .eventUnitMessage id => Sys2Proof.Machine.execEventUnitMessage id s
  | .reply id => Sys2Proof.Machine.execReply id s
  | .postedRefusal id => Sys2Proof.Machine.execPostedRefusal id s
  | .pageTableWalk tile va write fetch => Sys2Proof.Machine.execPageTableWalk tile va write fetch s
  | .observe tile ctx => Sys2Proof.Machine.execObserve tile ctx s
  | .treeBarrierRelease tree => Sys2Proof.Machine.execTreeBarrierRelease tree s
  | .settlingWatermarkAdvance owner slice => Sys2Proof.Machine.execSettlingWatermarkAdvance owner slice s
  | .collectionWindowClose owner => Sys2Proof.Machine.execCollectionWindowClose owner s
  | .slugPop cluster => Sys2Proof.Machine.execSlugPop cluster s
  | .galleyPush forme galley => Sys2Proof.Machine.execGalleyPush forme galley s
  | .heldPushApply forme galley => Sys2Proof.Machine.execHeldPushApply forme galley s
  | .budgetIntervalReload cluster => Sys2Proof.Machine.execBudgetIntervalReload cluster s
  | .sliceExpiry tile ctx => Sys2Proof.Machine.execSliceExpiry tile ctx s
  | .watchdogT1 tile ctx => Sys2Proof.Machine.execWatchdogT1 tile ctx s
  | .watchdogT2 tile ctx => Sys2Proof.Machine.execWatchdogT2 tile ctx s
  | .watchdogT3 tile ctx => Sys2Proof.Machine.execWatchdogT3 tile ctx s
  | .indexedLaunchRead forme galley => Sys2Proof.Machine.execIndexedLaunchRead forme galley s
  | .chunkRequest forme galley => Sys2Proof.Machine.execChunkRequest forme galley s
  | .chunkReport forme galley chunk => Sys2Proof.Machine.execChunkReport forme galley chunk s
  | .masterFailover owner galley => Sys2Proof.Machine.execMasterFailover owner galley s
  | .turnNotice => Sys2Proof.Machine.execTurnNotice s
  | .quiesce => Sys2Proof.Machine.execQuiesce s
  | .drainComplete => Sys2Proof.Machine.execDrainComplete s
  | .shiftRound => Sys2Proof.Machine.execShiftRound s
  | .resume => Sys2Proof.Machine.execResume s
  | .turnCancel cause => Sys2Proof.Machine.execTurnCancel cause s
  | .ucieFlitReceive link seqno crcOk => Sys2Proof.Machine.execUcieFlitReceive link seqno crcOk s
  | .linkRetrain link => Sys2Proof.Machine.execLinkRetrain link s
  | .linkRetrainComplete link => Sys2Proof.Machine.execLinkRetrainComplete link s
  | .twinCopyArrival id => Sys2Proof.Machine.execTwinCopyArrival id s
  | .twinTimeout id => Sys2Proof.Machine.execTwinTimeout id s
  | .gatewayIngress id => Sys2Proof.Machine.execGatewayIngress id s
  | .moduleResetRelease => Sys2Proof.Machine.execModuleResetRelease s
  | .clusterPowerUp die cluster => Sys2Proof.Machine.execClusterPowerUp die cluster s
  | .go => Sys2Proof.Machine.execGo s
  | .imageRelay die => Sys2Proof.Machine.execImageRelay die s
  | .discoveryAnswer die site => Sys2Proof.Machine.execDiscoveryAnswer die site s
  | .bstatClear value => Sys2Proof.Machine.execBstatClear value s
  | .hdoor => Sys2Proof.Machine.execHdoor s
  | .ddoorClear => Sys2Proof.Machine.execDdoorClear s
  | .windowRead offset size => Sys2Proof.Machine.execWindowRead offset size s
  | .windowWrite offset size data => Sys2Proof.Machine.execWindowWrite offset size data s
  | .debugStopRequest mask => Sys2Proof.Machine.execDebugStopRequest mask s
  | .debugStep mask => Sys2Proof.Machine.execDebugStep mask s
  | .debugGo mask => Sys2Proof.Machine.execDebugGo mask s
  | .budgetWrite value => Sys2Proof.Machine.execBudgetWrite value s
  | .registerWrite offset value => Sys2Proof.Machine.execRegisterWrite offset value s
  | .ownerCreate => Sys2Proof.Machine.execOwnerCreate s
  | .ownerGrow => Sys2Proof.Machine.execOwnerGrow s
  | .ownerShrink => Sys2Proof.Machine.execOwnerShrink s
  | .ownerRetire => Sys2Proof.Machine.execOwnerRetire s
  | .assignKeys => Sys2Proof.Machine.execAssignKeys s
  | .releaseKeys => Sys2Proof.Machine.execReleaseKeys s
  | .attestationRequest => Sys2Proof.Machine.execAttestationRequest s
  | .scrubComplete bed => Sys2Proof.Machine.execScrubComplete bed s
  | .rollback owner => Sys2Proof.Machine.execRollback owner s
  | .patrolScrub line => Sys2Proof.Machine.execPatrolScrub line s
  | .monitorSample cluster temp volt osc => Sys2Proof.Machine.execMonitorSample cluster temp volt osc s
  | .traceCycRecord tile ctx => Sys2Proof.Machine.execTraceCycRecord tile ctx s
  | .gatewayApplied id => Sys2Proof.Machine.execGatewayApplied id s
  | .linkLevelRetry link => Sys2Proof.Machine.execLinkLevelRetry link s
  | .uncorrectableError place key addr => Sys2Proof.Machine.execUncorrectableError place key addr s

end Sys2Proof.Machine
end

