-- ==== Sys2Proof/Machine/Issue.lean ====
section
/-! DEFINITION. The issue step of one context (R7, R38, R100): what holds it back, instruction fetch, the debug events
at an instruction (R382), the decode checks, and the dispatch. -/

namespace Sys2Proof.Machine

/-! ### Fetch (R6, R19, R326) -/

/-- How a fetch ends. -/
inductive Fetched where
  | word (w : IWord) (s : State)
  | trap (a : FaultArg) (fx : State → State)
  | hold (s : State)

/-- Words a 16 KiB instruction cache holds (R6). -/
def icacheWords : Nat := 1365

/-- Keeps a fetched word; in a full cache it replaces a free choice (log 13). -/
def Tile.cacheWord (t : Tile) (choice : BitVec 64) (pc : Nat) (w : IWord) : Tile :=
  let l := if t.icache.length < icacheWords then t.icache else dropAt t.icache (choice.toNat % icacheWords)
  { t with icache := l.set pc (some w) }

/-- One byte range of an instruction that lies in one page. -/
def State.fetchPart (s : State) (va n : Nat) : State × Option (List Byte) × Option (FaultArg × (State → State)) :=
  match s.xlate s.cur .fetch s.me.c.level va false true with
  | .ok pa _ slot s1 =>
    (match s.poisonIn pa n with
     | some u =>
       (s, none, some ({ cause := 0x11, address := BitVec.ofNat 64 (va + 8 * u - pa), detail := 6, allow := allowRetryRestartKill }, s1.walked s.cur))
     | none => (s1, some (s1.memBytes slot pa n), none))
  | .fault c d fx => (s, none, some ({ cause := c, address := BitVec.ofNat 64 va, detail := d }, fx))
  | .mig s1 => (s1, none, none)

/-- Bytes of the 12 at `va` that lie in its 64 KiB page. -/
def fetchSplit (va : Nat) : Nat := if va % 65536 ≤ 65524 then 12 else 65536 - va % 65536

/-- Fetches the word at pc: from the instruction cache, or through translation with the execute right (R83, R332). -/
def State.fetch (s : State) : Fetched :=
  let pc := s.me.r.pc.toNat
  match s.myTile.icache.get none pc with
  | some w => .word w s
  | none =>
    if 2 ^ 57 < pc + 12 then .trap { cause := 0x14, address := s.me.r.pc } id
    else
      let n := fetchSplit pc
      match s.fetchPart pc n with
      | (_, _, some (a, fx)) => .trap a fx
      | (s1, none, none) => .hold s1
      | (s1, some bs, none) =>
        let done (s2 : State) (bs : List Byte) : Fetched :=
          let w := BitVec.ofNat 96 (bytesNat bs)
          let s3 := { s2 with free := s2.free + 1 }
          .word w (s3.updMyTile (·.cacheWord (Config.freeWord s2.free) pc w))
        if n = 12 then done s1 bs
        else match s1.fetchPart (pc + n) (12 - n) with
          | (_, _, some (a, fx)) => .trap a fun q => fx (s1.walked s.cur q)
          | (s2, none, none) => .hold s2
          | (s2, some bs2, none) => done s2 (bs ++ bs2)

/-! ### Breakpoints (R379, R382) -/

/-- The number of an enabled instruction breakpoint of context `c` at `pc`. -/
def Tile.breakAt (t : Tile) (c pc : Nat) : Option Nat :=
  findFrom (fun n => let b := (t.bps.get 0 n).toNat
    bitAt b 0 && bitAt (bitsAt b 59 4) c && bitsAt b 2 55 == bitsAt pc 2 55) 4 0

/-! ### The issue step -/

/-- The module or the tile lets no context issue: a turn's pause (R15), a fenced tile. An instruction that has issued completes
in the drain (R15). -/
def State.frozen (s : State) (k : Nat) : Bool := s.turn.phase == .shift || (s.tile k).fenced
def State.paused (s : State) (k : Nat) : Bool := s.frozen k || s.stopping

/-- In a gang, a context issues when it is its turn (R322). -/
def State.gangTurn (s : State) : Bool := s.onTurn s.cur s.curCtx

/-- Runs the word of the moving context: decode checks, then the instruction's meaning (R36, R38). -/
noncomputable def State.runWord (s : State) (w : IWord) : Out :=
  let s := { s with iword := w }
  match decode w with
  | .error _ => .next (s.takeFault { cause := 0x01 })
  | .ok i => exec i s

/-- The word at the boundary: a breakpoint is reported before the instruction executes, once (R382). -/
noncomputable def State.runFetched (s : State) (w : IWord) : Out :=
  match s.myTile.breakAt s.curCtx s.me.r.pc.toNat with
  | some n =>
    if s.me.c.passDebug.getLsbD 3 || s.me.c.phase != .fresh then s.runWord w
    else .next (({ s with iword := w } : State).debugEvent 3 { cause := 0x13, detail := BitVec.ofNat 64 (n + 3 * 16), once := true })
  | none => s.runWord w

/-- The instruction at pc is fetched and runs. -/
noncomputable def State.fetchAndRun (s : State) : Out :=
  match s.fetch with
  | .word w s1 => s1.runFetched w
  | .trap a fx => .next ((fx s).takeEarly a)
  | .hold s1 => .next s1

/-- The instruction at pc of the moving context; a gang's member executes its leader's word (R322). -/
noncomputable def State.runNext (s : State) : Out :=
  match s.me.c.gang with
  | some g =>
    if g.member = 0 then s.fetchAndRun
    else match (s.ctx g.leader s.curCtx).c.gang with
      | some l => (s.updR fun r => { r with pc := l.pc }).runFetched l.word
      | none => .next s
  | none => s.fetchAndRun

/-- A head whose selector is JIND through X(r). -/
def jindHead (r : Nat) : Head := { ginv := false, gpred := 0, nas := 6, next := BitVec.ofNat 16 r, dist := 0, yld := false, last := false }
/-- The reply to its pair's fault has come before the context stopped for it: it goes on at its own `ire` (R371). -/
def State.twinRestart (s : State) : State :=
  (s.updC fun c => { c with twinIre := false }).resumeAt s.cur s.curCtx (some (s.ctx (s.leadTile s.cur s.curCtx) s.curCtx).r.ire)
/-- What the moving context does before its next instruction: it ends the join of its slug, takes a held fault, a next address that
waited for a register, a stop for its twin or for the debug module, or begins the join (R31, R134, R147, R371, R383). -/
def State.boundary (s : State) : Option State :=
  let x := s.me
  if x.c.preJoin.isSome && x.c.phase.answered then x.c.preJoin.map s.startJoin
  else match x.c.held, x.c.phase with
  | _, .armed _ => none
  | _, .granted _ => none
  | _, .refused _ _ _ => none
  | f :: rest, _ => some ((s.updC fun c => { c with held := rest }).takeRec s.cur s.curCtx { f with pc := x.r.pc })
  | [], .leaving r w => some (if s.busy r then s else ({ s with iword := w } : State).leave (jindHead r) true)
  | [], _ =>
    if x.c.twinIre then some s.twinRestart
    else if x.c.twinStop then some (s.upd s.block)
    else if x.c.stopReq && decide (x.c.stopAt ≤ x.c.issued) then some (s.upd (·.debugStop s.gtime x.c.why x.c.stopAt))
    else x.c.preJoin.map s.startJoin

/-- The moving context can go on: it is not stopped, held back or out of its gang's turn. -/
def State.canMove (s : State) : Bool :=
  let x := s.me
  x.c.run == .ready && !x.c.saving && !(if x.c.phase.inside then s.frozen s.cur else s.paused s.cur || x.c.fpStop) && s.gangTurn

/-! ### The clock of a tile (R7, R30, R65) -/

/-- An attempt of a context was the issue of an instruction: not a wait, a stall, or the rest of one that issued before. -/
def Ctx.hasIssued (a b : Ctx) : Bool :=
  !a.c.phase.inside && (b.c.phase.inside || b.c.issued != a.c.issued || !(b.c.run == .ready || b.c.run == .waiting))
/-- Context c of tile k is ready: an attempt now would issue its next instruction. -/
noncomputable def State.issues (s : State) (k c : Nat) : Bool :=
  let s1 := { s with cur := k, curCtx := c }
  s1.canMove && s1.boundary.isNone && !s1.me.c.phase.inside &&
    (match s1.runNext with
     | .next t => s1.me.hasIssued (t.ctx k c)
     | _ => false)
/-- Contexts that yield in a clock at this gtime: time that has passed since was clocks in which none issued (R65). -/
def Tile.yields (t : Tile) (now : BitVec 64) : List Nat := if t.clk == now then t.avoid else []
/-- The contexts that a clock issues from: the first two ready ones in cyclic order from the tile's pointer, where c is one that is
ready; a context that yields gives way to one that does not (R7, R65). -/
noncomputable def State.clockPair (s : State) (k c : Nat) : List Nat :=
  let t := s.tile k
  let l := ((List.range 4).map fun i => (t.ptr.toNat + i) % 4).filter fun d => d == c || s.issues k d
  let r := l.filter fun d => !(t.yields s.gtime).contains d
  (if r.isEmpty then l else r).take 2
/-- The tile after a clock in which the contexts of p issued, in cyclic order: the pointer is at the context after the last, and a
`yield` of this clock holds in the next (R7, R65). -/
def Tile.issued (t : Tile) (now : BitVec 64) (p : List Nat) : Tile :=
  { t with ptr := BitVec.ofNat 2 (p.getLastD 0 + 1), clk := now,
           avoid := t.avoid.filterMap fun a => if 4 ≤ a then some (a - 4) else none }

/-- Where in its clock an instruction acts: its wait first; with the tags as the clock found them; among the others; with the
signals; after them (R30, R161, Table 10 of R160). -/
inductive ClockPlace where
  | wait | tags | core | signal | last
deriving DecidableEq, Repr

end Sys2Proof.Machine

namespace Sys2Proof

open Machine

/-- `semwt`; `tagwa`, `tagwl`, `tagff`, `eqst` and `mfs` of `tagbits`; `semsg`; `semrd` and `semset`. -/
def Fields.place (F : Fields) : ClockPlace :=
  match F.op.toNat with
  | 0x10C => .wait
  | 0x110 => .tags
  | 0x111 => .tags
  | 0x112 => .tags
  | 0x184 => .tags
  | 0x085 => if F.tail.toNat = 0x18 then .tags else .core
  | 0x10D => .signal
  | 0x10E => .last
  | 0x10F => .last
  | _ => .core

/-- The tail of an instruction of the S-form. -/
def Fields.sTail (F : Fields) : Option STail := if F.fmt = 0 then some (.ofBits F.tail) else none
/-- The signal that an instruction gives at its issue (R29), which its clock applies after the effects. -/
def Fields.signal (F : Fields) : Option STail := F.sTail.filter fun t => t.sen && !t.stime
/-- The instruction without that signal. -/
def Fields.bare (F : Fields) : Fields :=
  match F.signal with
  | some t => { F with tail := ({ t with sen := false } : STail).bits }
  | none => F
/-- Its effect alone: the next address is the one in sequence. -/
def Fields.still (F : Fields) : Fields := { F.bare with h := { F.h with nas := 0, next := 0 } }

/-- The engine, in the order of R30, whose step on tile k a row of the table is. -/
def Instr.engineOf (i : Instr) (k : Nat) : Option Nat :=
  match i with
  | .vectorInstructionExecute t => if t = k then some 0 else none
  | .loadw t => if t = k then some 1 else none
  | .stream t => if t = k then some 1 else none
  | .mma t => if t = k then some 1 else none
  | .zero t => if t = k then some 1 else none
  | .store t => if t = k then some 1 else none
  | .loadacc t => if t = k then some 1 else none
  | .rnsmode t => if t = k then some 1 else none
  | .copy t => if t = k then some 2 else none
  | .gather t => if t = k then some 2 else none
  | .scatter t => if t = k then some 2 else none
  | .fill t => if t = k then some 2 else none
  | .quant t => if t = k then some 2 else none
  | .proofstream t => if t = k then some 2 else none
  | .copySectorIssue t => if t = k then some 2 else none
  | .copySectorPerformed t _ _ => if t = k then some 2 else none
  | _ => none

end Sys2Proof

namespace Sys2Proof.Machine

/-- A context that issues in a clock, and its word; none where the attempt is a fault, a stop or a gang's, which acts whole, among
the others (log 14). -/
structure ClockPart where
  ctx : Nat
  word : Option Fields

/-- The state with context c of tile k as the one that moves, with the word of F. -/
def State.moves (s : State) (k c : Nat) (F : Fields) : State := { s with cur := k, curCtx := c, iword := F.toWord }
/-- Context c executes F2 for the instruction F: where it issues, and takes no fault but that of a signal. -/
noncomputable def State.runAs (s : State) (k c : Nat) (F F2 : Fields) : Option State :=
  match decodeFields F2 with
  | .error _ => none
  | .ok i => match exec i (s.moves k c F) with
    | .next t =>
      if (s.ctx k c).hasIssued (t.ctx k c) && (t.ctx k c).c.run != .debugStop && (t.ctx k c).c.fault.all (·.cause == 0x0F) then some t
      else none
    | _ => none
/-- Context c takes part in a clock with the instruction that it fetches. -/
noncomputable def State.partOf (s : State) (k c : Nat) : State × ClockPart :=
  let s1 := { s with cur := k, curCtx := c }
  match s1.fetch with
  | .word w s2 =>
    let F := Fields.ofWord w
    if s1.me.c.gang.isNone && ((s1.myTile.breakAt c s1.me.r.pc.toNat).isNone || s1.me.c.passDebug.getLsbD 3) &&
        (s2.runAs k c F F.bare).isSome then (s2, ⟨c, some F⟩)
    else (s, ⟨c, none⟩)
  | _ => (s, ⟨c, none⟩)

/-- The effect of an instruction whose signal saturates stands, and its next address is not taken (R29). -/
def State.unretired (t s : State) (k c : Nat) : State :=
  let x := s.ctx k c
  t.updCtx k c fun y =>
    { y with r := { y.r with pc := x.r.pc },
             c := { y.c.count 1 (2 ^ 64 - 1) with
                      phase := .fresh, passDebug := x.c.passDebug, issued := x.c.issued, stepping := x.c.stepping, why := x.c.why, run := .ready } }
/-- The part of an instruction that acts at a place of the clock; those in `sats` saturate with their signal. -/
noncomputable def ClockPart.act (k : Nat) (sats : List Nat) (pl : ClockPlace) (s : State) (p : ClockPart) : Option State :=
  match p.word with
  | none =>
    if pl != .core then some s
    else match ({ s with cur := k, curCtx := p.ctx } : State).runNext with
      | .next t => if (s.ctx k p.ctx).hasIssued (t.ctx k p.ctx) then some t else none
      | _ => none
  | some F =>
    if F.place != pl then some s
    else if sats.contains p.ctx then (s.runAs k p.ctx F F.still).map (·.unretired s k p.ctx)
    else s.runAs k p.ctx F F.bare
/-- Step 1 of R30 for one context: its waits pass, with what they consume. -/
noncomputable def ClockPart.pass (k : Nat) (sats : List Nat) (s : State) (p : ClockPart) : Option State :=
  match p.word with
  | none => some s
  | some F =>
    let s1 := s.moves k p.ctx F
    if s1.waitBlocked F.sTail then none else p.act k sats .wait (s1.passWait F.sTail)
/-- Step 2 of R30 for one context: its signals, and whether the one of its tail saturates. -/
noncomputable def ClockPart.signal (k : Nat) (a : State × List Nat) (p : ClockPart) : Option (State × List Nat) :=
  match p.word with
  | none => some a
  | some F =>
    if F.place = .signal then (a.1.runAs k p.ctx F F).map (·, a.2)
    else match F.signal with
      | none => some a
      | some t =>
        let s := a.1.moves k p.ctx F
        if !s.guard F.h then some a
        else
          let (s1, sat) := s.addSem k t.ssem.toNat t.inc
          if !sat then some (s1, a.2)
          else some (if F.place = .last then s1 else s1.takeFault { cause := 0x0F }, p.ctx :: a.2)
/-- What acts after the signals. -/
noncomputable def ClockPart.finish (k : Nat) (sats : List Nat) (s : State) (p : ClockPart) : Option State :=
  (p.act k sats .last s).map fun t =>
    match p.word with
    | some F => if F.place = .last && sats.contains p.ctx then (t.moves k p.ctx F).takeFault { cause := 0x0F } else t
    | none => t

/-- The steps of a tile's engines in one clock: vector, matrix, copy. -/
def State.engines (s : State) (k : Nat) (es : List Instr) : State :=
  let l := (es.filter (·.engineOf k == some 0)) ++ (es.filter (·.engineOf k == some 1)) ++ es.filter (·.engineOf k == some 2)
  l.foldl (fun s i => match exec i s with | .next t => t | _ => s) s

/-- One clock in which the contexts of `ps`, in ascending order, issue, with steps of the engines (R30, R161); and the contexts whose
signals saturate, which `sats` is to name. None where one of them cannot issue beside the others. -/
noncomputable def State.clockPass (s : State) (k : Nat) (ps : List ClockPart) (es : List Instr) (sats : List Nat) :
    Option (State × List Nat) := do
  let s ← ps.foldlM (ClockPart.pass k sats) s
  let s ← ps.foldlM (ClockPart.act k sats .tags) s
  let s ← ps.foldlM (ClockPart.act k sats .core) s
  let (s, found) ← ps.foldlM (ClockPart.signal k) (s.engines k es, [])
  let s ← ps.foldlM (ClockPart.finish k found) s
  pure (s, found)
/-- The contexts of p issue together. -/
noncomputable def State.together (s : State) (k : Nat) (p : List Nat) (es : List Instr) : Option State :=
  let a := ((List.range 4).filter p.contains).foldl (fun (a : State × List ClockPart) c =>
    let (t, q) := a.1.partOf k c
    (t, a.2 ++ [q])) (s, [])
  match a.1.clockPass k a.2 es [] with
  | some (t, []) => some t
  | some (_, found) => (a.1.clockPass k a.2 es found).map (·.1)
  | none => none
/-- A clock of the tile in which context c is ready, whose issue alone would lead to `t` (R7, R12, R30). -/
noncomputable def State.clock1 (s : State) (k c : Nat) (es : List Instr) (t : State) : State :=
  let p := s.clockPair k c
  if !p.contains c then s.engines k es
  else if p == [c] && es.isEmpty then t.updTile k (·.issued s.gtime [c])
  else match s.together k p es with
    | some t => t.updTile k (·.issued s.gtime p)
    | none =>
      -- the lower-numbered one leaves the other no place in this clock
      let a := p.foldl min 3
      match ({ s with cur := k, curCtx := a } : State).runNext with
      | .next t => (t.engines k es).updTile k (·.issued s.gtime [a])
      | _ => s
/-- What follows an attempt of context c of tile k: an issue is a clock of the tile. -/
noncomputable def State.clocked (s : State) (k c : Nat) (es : List Instr) (o : Out) : Out :=
  match o with
  | .next t => .next (if (s.ctx k c).hasIssued (t.ctx k c) then s.clock1 k c es t else t.engines k es)
  | o => o

/-- A context attempts to issue, in a clock with these steps of the engines. Nothing happens when it may not. -/
noncomputable def State.issueOf (s : State) (k c : Nat) (es : List Instr) : Out :=
  let s1 := { s with cur := k, curCtx := c }
  if !s1.canMove then .next (s.engines k es)
  else match s1.boundary with
    | some t => .next (t.engines k es)
    | none =>
      if !s1.me.c.phase.inside then s.clocked k c es s1.runNext
      else match s1.runNext with
        | .next t => .next (t.engines k es)
        | o => o

/-- A step of another agent (R100, Table 2): only rows without an encoding are such steps. -/
def State.event (s : State) (i : Instr) : Out :=
  match encodeFields i with
  | none => exec i s
  | some _ => .next s

/-- Puts a word where the current context fetches next, makes that context able to issue it, and lets it move. -/
def State.placeWord (s : State) (w : IWord) : State :=
  let s := s.updTile s.cur fun t => { t with icache := t.icache.set (s.ctx s.cur s.curCtx).r.pc.toNat (some w) }
  let s := s.updCtx s.cur s.curCtx fun x => { x with c := { x.c with run := .ready } }
  { s with agenda := [.issue s.cur s.curCtx] }

end Sys2Proof.Machine
end

