-- ==== Sys2Proof/Machine/Step.lean ====
section
/-! DEFINITION. One step of the module: the head of the agenda moves (R100, log 1). -/

namespace Sys2Proof.Machine

/-- One step. With nothing on the agenda, one nanosecond passes. -/
noncomputable def step (s : State) : Host.Outcome State Fault Refusal :=
  match s.agenda with
  | [] => .next { s with gtime := s.gtime + 1 }
  | .tick n :: rest => .next { s with gtime := s.gtime + BitVec.ofNat 64 n, agenda := rest }
  | .issue k c :: rest => State.issueOf { s with agenda := rest } k c []
  | .clock k c es :: rest => State.issueOf { s with agenda := rest } k c es
  | .op i :: rest => State.event { s with agenda := rest } i
  | .inbound g o slot d a op :: rest => .next (({ s with agenda := rest } : State).inbound g o slot d a op)
  | .window base key :: rest => .next (({ s with agenda := rest } : State).setWindow base key)
  | .stray link :: rest => .next (({ s with agenda := rest } : State).stray link)

/-- `s` with the instruction whose bits are `w` as the next one that its current context fetches (log 10). -/
def State.withFetchWord (s : State) (nbits w : Nat) : State := s.placeWord (BitVec.ofNat 96 (w % 2 ^ nbits))

end Sys2Proof.Machine
end

