-- ==== Sys2Proof/Safety.lean ====
section
/-! DEFINITION. The terms in which claims about the machine are stated: when an instruction goes through, when an access to
tile memory performs at once, and what two states have in common. -/

namespace Sys2Proof.Machine

/-! ### When an instruction goes through (R38) -/

/-- The moving context can execute an instruction now: its level suffices, its operands are legal, its tail wait passes, and
no register it names is awaited or poisoned. The guard is apart. -/
def State.runs (s : State) (h : Head) (t : Option STail) (need : Level) (ops : List Req) : Bool :=
  s.me.c.level.reaches need && opsOk s.me.r.win h ops && !s.waitBlocked t && !s.opsBusy h ops (s.guard h) && !s.opsPoisoned h ops (s.guard h)

/-- It runs and its guard holds. -/
def State.does (s : State) (h : Head) (t : Option STail) (need : Level) (ops : List Req) : Bool :=
  s.runs h t need ops && s.guard h

/-- Nothing earlier of the context holds an instruction that waits for its accesses and engine commands. -/
def State.free_ (s : State) : Bool := !s.acqHeld && s.allQuiet

/-- The instruction has not begun to wait for an answer. -/
def State.isFresh (s : State) : Bool := s.me.c.phase == .fresh || s.me.c.phase == .passed

/-! ### When an access to tile memory performs at once (R70 to R78, R94, R102, R382) -/

/-- An access to [ea, ea + n) of space 0 or 1 with an order: aligned, inside the space, held by nothing, on no watchpoint,
in no absent sector of a demand window, and on no poisoned unit that it consumes. -/
def State.localReady (s : State) (sp : Nat) (ea : Word) (align : Nat) (order : BitVec 2) (op : LocalOp) : Bool :=
  s.isFresh && !s.acqHeld && (!isRel order || s.allQuiet) && !s.myTile.vecOpen s.curCtx &&
  (spaceCheck ea op.size align (spaceLimit sp)).isNone &&
  (s.me.c.passDebug.getLsbD 4 || (s.myTile.watchAt s.curCtx sp ea.toNat op.size op.reads op.writes).isNone) &&
  (sp != 0 || (s.myTile.missing ea.toNat op.size).isEmpty) &&
  (!(op.reads || decide (op.size < 8)) || (s.tilePoison s.cur sp ea.toNat op.size).isNone)

/-! ### What two states have in common -/

/-- Every byte of module memory and of every tile's memories reads the same. -/
def State.sameMemory (s t : State) : Prop :=
  (∀ a, t.mem.read a = s.mem.read a) ∧
  ∀ k a, (t.tile k).pad.read a = (s.tile k).pad.read a ∧ (t.tile k).store.read a = (s.tile k).store.read a

/-- Every scalar register of every tile holds the same, but the places that a test picks in the moving tile. -/
def State.sameRegsBut (s t : State) (p : Nat → Prop) : Prop :=
  ∀ k n, ¬ (k = s.cur ∧ p n) → (t.tile k).xr.get 0 n = (s.tile k).xr.get 0 n

/-- Vector registers, semaphores but two, completion tags, the matrix engine and both its queues are the same in every
tile. -/
def State.sameUnitsBut (s t : State) (wsem ssem : Option Nat) : Prop :=
  ∀ k, (t.tile k).vr = (s.tile k).vr ∧ (t.tile k).tagbits = (s.tile k).tagbits ∧ (t.tile k).tagerr = (s.tile k).tagerr ∧
    (t.tile k).mx = (s.tile k).mx ∧ (t.tile k).vq = (s.tile k).vq ∧ (t.tile k).mq = (s.tile k).mq ∧ (t.tile k).cq = (s.tile k).cq ∧
    ∀ n, ¬ (k = s.cur ∧ (wsem = some n ∨ ssem = some n)) → (t.tile k).sems.get 0 n = (s.tile k).sems.get 0 n

/-- The registers of a context but pc, ln and lc, which the next address may write. -/
def Regs.noNext (r : Regs) : Regs := { r with pc := 0, ln := 0, lc := 0 }

/-- Owners, memory keys, the map and what the module's turn unit holds are the same. -/
def State.sameModule (s t : State) : Prop :=
  t.owners = s.owners ∧ t.keys = s.keys ∧ t.imap = s.imap ∧ t.imapNext = s.imapNext ∧ t.turn = s.turn ∧ t.slices = s.slices ∧
  t.gtime = s.gtime ∧ t.flights = s.flights

/-! ### The canonical form of memories -/

/-- Module memory, and every tile's scratchpad and store, are in the one canonical form of `Memory`. -/
def State.memForm (s : State) : Bool :=
  s.mem.wf && s.tiles.all fun e => e.2.pad.wf && e.2.store.wf

end Sys2Proof.Machine
end

