-- ==== Sys2Proof/Certificates/Slice0/Obligations.lean ====
section
/-! DEFINITION. The statements for the provers. Each is a proposition about `exec`, `step`, the decoder or the state after
reset. The tables of constructors, with what each computes, stand before the statements that use them. -/

namespace Sys2Proof.Claims

open Sys2Proof Sys2Proof.Machine

/-- A head with every field 0. -/
def plain : Head := { ginv := false, gpred := 0, nas := 0, next := 0, dist := 0, yld := false, last := false }
/-- An S-form tail with every field 0. -/
def noTail : STail := { wsem := 0, wthr := 0, ssem := 0, sinc := 0, wen := false, sen := false, stime := false, cons := false }

/-- Context c of tile k is at an instruction boundary with nothing that holds it there; alone or a leader, it is its turn; and the
word at its pc lies in the instruction cache with no breakpoint on it. -/
structure Ready (s : State) (k c : Nat) (w : IWord) : Prop where
  run : (s.ctx k c).c.run = .ready
  phase : (s.ctx k c).c.phase = .fresh
  saving : (s.ctx k c).c.saving = false
  window : (s.ctx k c).c.fpStop = false
  lead : ∀ g, (s.ctx k c).c.gang = some g → g.member = 0
  turn : s.onTurn k c = true
  held : (s.ctx k c).c.held = []
  stop : (s.ctx k c).c.stopReq = false
  twin : (s.ctx k c).c.twinStop = false
  ire : (s.ctx k c).c.twinIre = false
  join : (s.ctx k c).c.preJoin = none
  going : s.paused k = false
  word : (s.tile k).icache.get none (s.ctx k c).r.pc.toNat = some w
  free : (s.tile k).breakAt c (s.ctx k c).r.pc.toNat = none

/-- The state in which context c of tile k executes the word w. -/
def moving (s : State) (rest : List Sys2Proof.Machine.Action) (k c : Nat) (w : IWord) : State :=
  { s with agenda := rest, cur := k, curCtx := c, iword := w }

end Sys2Proof.Claims

open Sys2Proof Sys2Proof.Machine Sys2Proof.Claims

/-! ### Steps, decoding and encoding -/

/-- A STEP RUNS THE DECODED INSTRUCTION (R7, R38, R100): the attempt of a context that nothing holds back is `exec` of the
instruction at its pc. An attempt that does not issue (a wait, a stall) stands as it is. One that issues is a clock of the tile, whose
contexts `clockPair` names: when it is not among them, nothing happens; when it alone is, the clock is its instruction, and the pointer
moves past it, which is so when no other context of the tile is ready; when another one is too, both issue in the one step, where they
can, and the pointer moves past the second. A step of another agent is `exec` of it. -/
def Sys2Proof.Claims.DecodedWordRuns : Prop :=
  (∀ (s : State) (k c : Nat) (rest : List Sys2Proof.Machine.Action) (w : IWord) (i : Instr) (t : State),
    s.agenda = .issue k c :: rest → Ready s k c w → decode w = .ok i → exec i (moving s rest k c w) = .next t →
    let s0 : State := { s with agenda := rest }
    let issues := (s.ctx k c).hasIssued (t.ctx k c)
    (issues = false → step s = .next t) ∧
    let p := s0.clockPair k c
    (issues = true → p.contains c = false → step s = .next s0) ∧
    (issues = true → p = [c] → step s = .next (t.updTile k (·.issued s.gtime [c]))) ∧
    (issues = true → c < 4 → (∀ d, d ≠ c → s0.issues k d = false) → step s = .next (t.updTile k (·.issued s.gtime [c]))) ∧
    (issues = true → p.contains c = true → p ≠ [c] → ∀ u, s0.together k p [] = some u → step s = .next (u.updTile k (·.issued s.gtime p)))) ∧
  (∀ (s : State) (rest : List Sys2Proof.Machine.Action) (i : Instr),
    s.agenda = .op i :: rest → encodeFields i = none → step s = exec i { s with agenda := rest })

/-- R36, Table 10, order 1: a word that is no instruction raises fault 0x01 at its pc, in a clock that no other context takes. -/
def Sys2Proof.Claims.UndecodableWordFaults : Prop :=
  ∀ (s : State) (k c : Nat) (rest : List Sys2Proof.Machine.Action) (w : IWord) (e : DecErr),
    s.agenda = .issue k c :: rest → Ready s k c w → decode w = .error e → c < 4 →
    (∀ d, d ≠ c → ({ s with agenda := rest } : State).issues k d = false) → (s.ctx k c).c.gang = none →
    step s = .next (((moving s rest k c w).takeFault { cause := 0x01 }).updTile k (·.issued s.gtime [c]))

/-- A STEP RUNS THE DECODED INSTRUCTION (R36, R38, R100), and a word that is no instruction faults. -/
def Obligations.StepRunsTheDecodedInstruction : Prop := DecodedWordRuns ∧ UndecodableWordFaults

/-- Words that the chapters of the spec write out decode to the instructions that they stand for, with their operands (R19 to R21). -/
def Obligations.WordsOfTheSpecDecode : Prop :=
  decode 0x00277FFEC1C1C1880C03281D = .ok (.add
    { h := { ginv := false, gpred := 3, nas := 5, next := 0xFFFB, dist := 2, yld := false, last := false }, d := .x 7, a := .x 7, b := .x 6,
      t := { wsem := 12, wthr := 3, ssem := 40, sinc := 1, wen := true, sen := true, stime := false, cons := true } }) ∧
  decode 0x34407FFB8342C00000000000 = .ok (.mbxr
    { h := { plain with nas := 1, next := 0xFFEE }, d := .x 13, a := .x 11, b := .x 0, t := noTail }) ∧
  decode 0x36E000000000000000000000 = .ok (.flood { h := plain, d := .x 0, a := .x 0, t := noTail }) ∧
  decode 0x75C000000180000000000001 = .ok (.proof { h := plain, d := .x 6, imm := 1 }) ∧
  decode 0x34E000000646068000000000 = .ok (.imap { h := plain, d := .x 25, a := .x 24, b := .x 26, t := noTail }) ∧
  decode 0x368000000181400000000000 = .ok (.turnack { h := plain, d := .x 6, a := .x 5, t := noTail }) ∧
  decode 0x3600000001C1400000000000 = .ok (.cntr { h := plain, d := .x 7, a := .x 5, t := noTail }) ∧
  decode 0x75E000000181400000010001 = .ok (.cntcImm { h := plain, d := .x 6, a := .x 5, imm := 0x10001 }) ∧
  decode 0x348000000002028000000000 = .ok (.rtld { h := plain, a := .x 8, b := .x 10, t := noTail }) ∧
  decode 0x500000000000000000000020 = .ok (.enter { h := plain, imm := 32 }) ∧
  decode 0x114000000000000000000000 = .ok (.irgn { h := plain, t := noTail })

/-- DECODE AND ENCODE AGREE (R19 to R24, R35): every well-formed instruction that has a word is decoded from it, with every
operand at every value. -/
def Obligations.EveryEncodedInstructionDecodesBack : Prop :=
  ∀ (i : Instr) (w : IWord), i.wf = true → encode i = some w → decode w = .ok i

/-- No bit of a word is dropped: a decoded instruction is well formed, and encoding it gives the same word (R19 to R24). -/
def Obligations.DecodingDropsNoBit : Prop :=
  ∀ (w : IWord) (i : Instr), decode w = .ok i → i.wf = true ∧ encode i = some w

/-! ### What stands around every instruction -/

/-- R31, R32: the next address of `nop`, by its selector, in a context of no gang. SEQ, FLOW under its guard, JUMP against
it, CALL with `ln`, RET, LOOP with `lc`, JIND through a register, FIN. -/
def Sys2Proof.Claims.SelectorsChooseThePc : Prop :=
  ∀ (s : State) (f : S0), s.runs f.h (some f.t) .u [] = true → s.me.c.gang = none → f.t.sen = false →
    let g := s.guard f.h
    let seq := s.me.r.pc + 12
    let off := s.me.r.pc + BitVec.ofInt 64 (12 * f.h.next.toInt)
    let x := s.rx f.h.next.toNat
    ∃ t, exec (.nop f) s = .next t ∧
      (f.h.nas = 0 → t.me.r = { s.me.r with pc := seq }) ∧
      (f.h.nas = 1 → t.me.r = { s.me.r with pc := if g then off else seq }) ∧
      (f.h.nas = 2 → t.me.r = { s.me.r with pc := if g then seq else off }) ∧
      (f.h.nas = 3 → t.me.r = if g then { s.me.r with pc := off, ln := seq } else { s.me.r with pc := seq }) ∧
      (f.h.nas = 4 → s.me.r.ln.toNat % 4 = 0 → t.me.r = { s.me.r with pc := if g then s.me.r.ln else seq }) ∧
      (f.h.nas = 5 → t.me.r = { s.me.r with pc := if s.me.r.lc - 1 = 0 then seq else off, lc := s.me.r.lc - 1 }) ∧
      (f.h.nas = 6 → f.h.next.toNat < 128 → x.toNat % 4 = 0 → t.me.r = { s.me.r with pc := if g then x else seq }) ∧
      (f.h.nas = 7 → t.me.r = if g then s.me.r else { s.me.r with pc := seq }) ∧
      (f.h.nas = 7 → t.me.c.run = if g then .ending else if s.me.c.stepping then .debugStop else .ready)

/-- R31: a RET or JIND whose target is no multiple of 4 raises fault 0x04 with the target as its address. -/
def Sys2Proof.Claims.MisalignedTargetFaults : Prop :=
  ∀ (s : State) (f : S0), s.does f.h (some f.t) .u [] = true → s.me.c.gang = none → f.t.sen = false →
    (f.h.nas = 4 → s.me.r.ln.toNat % 4 ≠ 0 →
      exec (.nop f) s = .next (((s.passWait (some f.t)).updC fun c => { c with phase := .fresh }).takeFault { cause := 0x04, address := s.me.r.ln })) ∧
    (f.h.nas = 6 → f.h.next.toNat < 128 → (s.rx f.h.next.toNat).toNat % 4 ≠ 0 →
      exec (.nop f) s =
        .next (((s.passWait (some f.t)).updC fun c => { c with phase := .fresh }).takeFault { cause := 0x04, address := s.rx f.h.next.toNat }))

/-- R31, R32: the next address by its selector, and the fault of a RET or JIND whose target is no multiple of 4. -/
def Obligations.NextAddressSelectors : Prop := SelectorsChooseThePc ∧ MisalignedTargetFaults

/-- R29: the signal of an instruction that issues with its guard true adds its increment, 16 for the code 0, to its semaphore;
a sum past 0xFFFF leaves 0xFFFF and raises fault 0x0F. -/
def Sys2Proof.Claims.TailSignalAddsToItsSemaphore : Prop :=
  ∀ (s : State) (f : S0), s.does f.h (some f.t) .u [] = true → f.t.sen = true → f.t.wen = false → f.h.nas = 0 → s.me.c.gang = none →
    let n := f.t.ssem.toNat
    let inc := if f.t.sinc = 0 then 16 else f.t.sinc.toNat
    let sum := s.sem s.cur n + inc
    ∃ t, exec (.nop f) s = .next t ∧ t.sem s.cur n = (if sum ≤ 0xFFFF then sum else 0xFFFF) ∧
      (sum ≤ 0xFFFF → t.me.r = { s.me.r with pc := s.me.r.pc + 12 }) ∧
      (0xFFFF < sum → t.me.r = s.me.r ∧ t.me.c.run = .blocked ∧ t.me.c.fault.map (·.cause) = some 0x0F)

/-- R28: an instruction with a tail wait does not execute while its semaphore is below the threshold: the context waits for
it. Once it is not, a consuming wait takes the threshold off. -/
def Sys2Proof.Claims.TailWaitHoldsTheInstruction : Prop :=
  ∀ (s : State) (f : S0), s.me.c.level.reaches .u = true → opsOk s.me.r.win f.h [] = true → f.t.wen = true → f.t.sen = false →
      s.me.c.phase = .fresh →
    (s.sem s.cur f.t.wsem.toNat < f.t.wthr.toNat →
      exec (.nop f) s = .next (s.updC fun c => { c with run := .waiting, waitOn := .sem f.t.wsem.toNat f.t.wthr.toNat })) ∧
    (f.t.wthr.toNat ≤ s.sem s.cur f.t.wsem.toNat → f.h.nas = 0 →
      ∃ t, exec (.nop f) s = .next t ∧
        t.sem s.cur f.t.wsem.toNat = s.sem s.cur f.t.wsem.toNat - (if f.t.cons then f.t.wthr.toNat else 0))

/-- R28, R29: the signal and the wait of a tail, on `nop`. -/
def Obligations.TailSemaphores : Prop := TailSignalAddsToItsSemaphore ∧ TailWaitHoldsTheInstruction

/-! ### Integer, move and bit-field instructions -/

namespace Sys2Proof.Claims

/-- S-form integer instructions `op xd, xa, xb` and their results (R41 Table 1, R42 Table 2, R47). -/
def aluRows : List ((SDAB → Instr) × (Word → Word → Word)) :=
  [(.add, fun a b => a + b), (.sub, fun a b => a - b), (.mul, fun a b => a * b),
   (.mulh, fun a b => BitVec.ofInt 64 (a.toInt * b.toInt / 2 ^ 64)), (.mulhu, fun a b => BitVec.ofNat 64 (a.toNat * b.toNat / 2 ^ 64)),
   (.div, fun a b => if b = 0 then BitVec.allOnes 64 else BitVec.ofInt 64 (a.toInt.tdiv b.toInt)),
   (.divu, fun a b => if b = 0 then BitVec.allOnes 64 else a / b),
   (.rem, fun a b => if b = 0 then a else BitVec.ofInt 64 (a.toInt.tmod b.toInt)),
   (.remu, fun a b => if b = 0 then a else a % b),
   (.and, fun a b => a &&& b), (.or, fun a b => a ||| b), (.xor, fun a b => a ^^^ b), (.andn, fun a b => a &&& ~~~b),
   (.shl, fun a b => a <<< (b.toNat % 64)), (.shr, fun a b => a >>> (b.toNat % 64)), (.sra, fun a b => a.sshiftRight (b.toNat % 64)),
   (.rotr, fun a b => a.rotateRight (b.toNat % 64)),
   (.min, fun a b => if a.slt b then a else b), (.max, fun a b => if a.slt b then b else a),
   (.minu, fun a b => if a.ult b then a else b), (.maxu, fun a b => if a.ult b then b else a),
   (.addW, fun a b => (a + b).setWidth 32 |>.signExtend 64), (.subW, fun a b => (a - b).setWidth 32 |>.signExtend 64),
   (.mulW, fun a b => (a * b).setWidth 32 |>.signExtend 64)]

/-- Their I-form twins `op xd, xa, imm`, whose immediate is sign-extended (R21, R41). -/
def aluImmRows : List ((IDA → Instr) × (Word → Word → Word)) :=
  [(.addImm, fun a b => a + b), (.subImm, fun a b => a - b), (.mulImm, fun a b => a * b),
   (.mulhImm, fun a b => BitVec.ofInt 64 (a.toInt * b.toInt / 2 ^ 64)), (.mulhuImm, fun a b => BitVec.ofNat 64 (a.toNat * b.toNat / 2 ^ 64)),
   (.divImm, fun a b => if b = 0 then BitVec.allOnes 64 else BitVec.ofInt 64 (a.toInt.tdiv b.toInt)),
   (.divuImm, fun a b => if b = 0 then BitVec.allOnes 64 else a / b),
   (.remImm, fun a b => if b = 0 then a else BitVec.ofInt 64 (a.toInt.tmod b.toInt)),
   (.remuImm, fun a b => if b = 0 then a else a % b),
   (.andImm, fun a b => a &&& b), (.orImm, fun a b => a ||| b), (.xorImm, fun a b => a ^^^ b), (.andnImm, fun a b => a &&& ~~~b),
   (.shlImm, fun a b => a <<< (b.toNat % 64)), (.shrImm, fun a b => a >>> (b.toNat % 64)), (.sraImm, fun a b => a.sshiftRight (b.toNat % 64)),
   (.rotrImm, fun a b => a.rotateRight (b.toNat % 64)),
   (.minImm, fun a b => if a.slt b then a else b), (.maxImm, fun a b => if a.slt b then b else a),
   (.minuImm, fun a b => if a.ult b then a else b), (.maxuImm, fun a b => if a.ult b then b else a),
   (.addWImm, fun a b => (a + b).setWidth 32 |>.signExtend 64), (.subWImm, fun a b => (a - b).setWidth 32 |>.signExtend 64),
   (.mulWImm, fun a b => (a * b).setWidth 32 |>.signExtend 64)]

/-- One-operand instructions `op xd, xa` (R43, R45). -/
def unaryRows : List ((SDA → Instr) × (Word → Word)) :=
  [(.mov, fun a => a), (.neg, fun a => 0 - a), (.abs, fun a => if a.msb then 0 - a else a),
   (.clz, fun a => BitVec.ofNat 64 (((List.range 64).find? fun i => a.getLsbD (63 - i)).getD 64)),
   (.ctz, fun a => BitVec.ofNat 64 (((List.range 64).find? fun i => a.getLsbD i).getD 64)),
   (.popc, fun a => BitVec.ofNat 64 ((List.range 64).countP fun i => a.getLsbD i))]

/-- I-form instructions `op xd, xa, imm` on the old xd, a and the immediate (R44, R47). The position is in imm[5:0], the width
less 1 in imm[11:6]; for extensions the width is the immediate. -/
def fieldRows : List ((IDA → Instr) × Cls × (Word → Word → BitVec 32 → Word)) :=
  [(.bfx, .wx, fun _ a i => let w := i.toNat / 64 % 64 + 1; ((a >>> (i.toNat % 64)) <<< (64 - w)).sshiftRight (64 - w)),
   (.bfxu, .wx, fun _ a i => let w := i.toNat / 64 % 64 + 1; ((a >>> (i.toNat % 64)) <<< (64 - w)) >>> (64 - w)),
   (.bfi, .rx, fun d a i =>
      let p := i.toNat % 64
      let m : Word := (BitVec.allOnes 64 >>> (63 - i.toNat / 64 % 64)) <<< p
      (d &&& ~~~m) ||| ((a <<< p) &&& m)),
   (.sext, .wx, fun _ a i => let n := i.toNat % 128; (a <<< (64 - n)).sshiftRight (64 - n)),
   (.zext, .wx, fun _ a i => let n := i.toNat % 128; (a <<< (64 - n)) >>> (64 - n))]

end Sys2Proof.Claims

/-- R41, R42, R47: every S-form integer instruction completes with its result in xd (nothing is written for x0, R24), then its
signal and the next address. -/
def Sys2Proof.Claims.IntegerRegisterResults : Prop :=
  ∀ (s : State) (f : SDAB), s.does f.h (some f.t) .u [(f.d, .wx), (f.a, .rx), (f.b, .rx)] = true →
    ∀ row ∈ aluRows, exec (row.1 f) s =
      .next (((s.passWait (some f.t)).wx f.d.num (row.2 (s.rx f.a.num) (s.rx f.b.num))).finish f.h (some f.t) true false)

/-- R41, R42, R47: the same with a sign-extended immediate. -/
def Sys2Proof.Claims.IntegerImmediateResults : Prop :=
  ∀ (s : State) (f : IDA), s.does f.h none .u [(f.d, .wx), (f.a, .rx)] = true →
    ∀ row ∈ aluImmRows, exec (row.1 f) s =
      .next ((s.wx f.d.num (row.2 (s.rx f.a.num) (f.imm.signExtend 64))).finish f.h none true false)

/-- R41, R42, R47: the integer instructions, with a register and with an immediate. -/
def Obligations.IntegerResults : Prop := IntegerRegisterResults ∧ IntegerImmediateResults

/-- R43, R45: one-operand instructions, and `nop`, which does nothing of its own. -/
def Sys2Proof.Claims.UnaryAndMoveResults : Prop :=
  (∀ (s : State) (f : SDA), s.does f.h (some f.t) .u [(f.d, .wx), (f.a, .rx)] = true →
    ∀ row ∈ unaryRows, exec (row.1 f) s =
      .next (((s.passWait (some f.t)).wx f.d.num (row.2 (s.rx f.a.num))).finish f.h (some f.t) true false)) ∧
  (∀ (s : State) (f : S0), s.does f.h (some f.t) .u [] = true →
    exec (.nop f) s = .next ((s.passWait (some f.t)).finish f.h (some f.t) true false))

/-- R44, R45, R46, R47: bit fields and extensions for the immediates that the decoder admits, constants, and `lea`, which
computes an address and checks none. -/
def Sys2Proof.Claims.FieldConstantAndAddressResults : Prop :=
  (∀ (s : State) (f : IDA), ∀ row ∈ fieldRows, (row.1 f).wf = true → s.does f.h none .u [(f.d, row.2.1), (f.a, .rx)] = true →
    exec (row.1 f) s = .next ((s.wx f.d.num (row.2.2 (s.rx f.d.num) (s.rx f.a.num) f.imm)).finish f.h none true false)) ∧
  (∀ (s : State) (f : ID), s.does f.h none .u [(f.d, .wx)] = true →
    exec (.li f) s = .next ((s.wx f.d.num (f.imm.signExtend 64)).finish f.h none true false)) ∧
  (∀ (s : State) (f : ID), s.does f.h none .u [(f.d, .rx)] = true →
    exec (.lih f) s = .next ((s.wx f.d.num (f.imm ++ (s.rx f.d.num).setWidth 32)).finish f.h none true false)) ∧
  (∀ (s : State) (f : MDA), s.does f.h none .u [(f.d, .wx), (f.a, .rx)] = true →
    exec (.lea f) s = .next ((s.wx f.d.num (s.rx f.a.num + f.m.disp.signExtend 64)).finish f.h none true false))

/-- R43 to R47: one-operand instructions, moves, bit fields, constants and `lea`. -/
def Obligations.MoveFieldAndAddressResults : Prop := UnaryAndMoveResults ∧ FieldConstantAndAddressResults

/-! ### Compares, predicates and selection -/

namespace Sys2Proof.Claims

/-- Compares and their conditions (R48, Table 3). -/
def compareRows : List ((XAB → Instr) × (Word → Word → Bool)) :=
  [(.cmpEq, fun a b => a == b), (.cmpNe, fun a b => a != b), (.cmpLt, fun a b => a.slt b), (.cmpLe, fun a b => a.sle b),
   (.cmpGt, fun a b => b.slt a), (.cmpGe, fun a b => b.sle a), (.cmpLtu, fun a b => a.ult b), (.cmpLeu, fun a b => a.ule b),
   (.cmpGtu, fun a b => b.ult a), (.cmpGeu, fun a b => b.ule a), (.btest, fun a b => a.getLsbD (b.toNat % 64))]
/-- Predicate instructions (R50). -/
def predicateRows : List ((XAB → Instr) × (Bool → Bool → Bool)) :=
  [(.pand, fun a b => a && b), (.por, fun a b => a || b), (.pxor, fun a b => a != b)]
/-- The pair of modes of a combining type, each with its test value (R34, Table 8): what pA and pB become. -/
def combined (ctype : BitVec 3) (g c pa pb : Bool) : Bool × Bool :=
  match ctype.toNat with
  | 0 => (if g then c else pa, if g then !c else pb)
  | 1 => (g && c, g && !c)
  | 2 => (pa && (!g || c), pb && (!g || c))
  | 3 => (pa || (g && c), pb || (g && c))
  | 4 => (pa && (!g || !c), pb && (!g || !c))
  | 5 => (pa || (g && !c), pb || (g && !c))
  | 6 => (pa && (!g || c), pb || (g && c))
  | _ => (pa || (g && c), pb && (!g || !c))

end Sys2Proof.Claims

/-- R27, R34, R48, R50: a compare or predicate instruction always executes. Its two targets, when they are different predicates
other than p0, take the values of the combining type; every other predicate keeps its value, and p0 reads 1. -/
def Sys2Proof.Claims.CompareAndPredicateResults : Prop :=
  (∀ (s : State) (f : XAB), s.runs f.h none .u ((f.a, .rx) :: xReqB f.b) = true → ∀ row ∈ compareRows,
    ∃ r : Regs, exec (row.1 f) s = .next ((s.updR fun _ => r).finish f.h none (s.guard f.h) false) ∧ { r with preds := s.me.r.preds } = s.me.r ∧
      (∀ p, p < 8 → p ≠ f.x.pA.toNat → p ≠ f.x.pB.toNat → r.p p = s.me.r.p p) ∧ r.p 0 = true ∧
      (f.x.pA ≠ f.x.pB →
        let v := combined f.x.ctype (s.guard f.h) (row.2 (s.rx f.a.num) (xOperand s f.b f.x)) (s.rp f.x.pA.toNat) (s.rp f.x.pB.toNat)
        (f.x.pA ≠ 0 → r.p f.x.pA.toNat = v.1) ∧ (f.x.pB ≠ 0 → r.p f.x.pB.toNat = v.2))) ∧
  (∀ (s : State) (f : XAB), s.runs f.h none .u [(f.a, .p), (f.b, .p)] = true → ∀ row ∈ predicateRows,
    ∃ r : Regs, exec (row.1 f) s = .next ((s.updR fun _ => r).finish f.h none (s.guard f.h) false) ∧ { r with preds := s.me.r.preds } = s.me.r ∧
      (∀ p, p < 8 → p ≠ f.x.pA.toNat → p ≠ f.x.pB.toNat → r.p p = s.me.r.p p) ∧ r.p 0 = true ∧
      (f.x.pA ≠ f.x.pB →
        let v := combined f.x.ctype (s.guard f.h) (row.2 (s.rp f.a.num) (s.rp f.b.num)) (s.rp f.x.pA.toNat) (s.rp f.x.pB.toNat)
        (f.x.pA ≠ 0 → r.p f.x.pA.toNat = v.1) ∧ (f.x.pB ≠ 0 → r.p f.x.pB.toNat = v.2)))

/-- R51, R52: `pmov` packs the predicates with bit 0 as 1, `pset` writes them from the low byte, and `sel` picks a source by the
predicate pA. -/
def Sys2Proof.Claims.PredicateMovesAndSelect : Prop :=
  (∀ (s : State) (f : SD), s.does f.h (some f.t) .u [(f.d, .wx)] = true →
    exec (.pmov f) s = .next (((s.passWait (some f.t)).wx f.d.num ((s.me.r.preds ||| 1).setWidth 64)).finish f.h (some f.t) true false)) ∧
  (∀ (s : State) (f : SA), s.does f.h (some f.t) .u [(f.a, .rx)] = true →
    exec (.pset f) s = .next (((s.passWait (some f.t)).updR fun r => { r with preds := (s.rx f.a.num).setWidth 8 }).finish f.h (some f.t) true false)) ∧
  (∀ (s : State) (f : XDAB), s.does f.h none .u ((f.d, .wx) :: (f.a, .rx) :: xReqB f.b) = true →
    exec (.sel f) s =
      .next ((s.wx f.d.num (if s.rp f.x.pA.toNat then s.rx f.a.num else xOperand s f.b f.x)).finish f.h none true false))

/-- R27, R34, R48, R50 to R52: compares, predicate instructions, `pmov`, `pset` and `sel`. -/
def Obligations.PredicateResults : Prop := CompareAndPredicateResults ∧ PredicateMovesAndSelect

/-! ### Scalar floating point -/

namespace Sys2Proof.Claims

/-- S-form floating-point instructions of two sources: code and flags (R54, R55, R57). -/
def fpBinRows : List ((SDAB → Instr) × (RM → Nat → Nat → FRes)) :=
  [(.fadd, fpAdd), (.fsub, fpSub), (.fmul, fpMul), (.fdiv, fpDiv), (.fmin, fun _ => fpMinMax false), (.fmax, fun _ => fpMinMax true)]
/-- Those that also read xd: the product of a and b, negated for `fnma`, plus d (R56). -/
def fpTerRows : List ((SDAB → Instr) × (RM → Nat → Nat → Nat → FRes)) :=
  [(.fma, fun m => fpFma m false), (.fnma, fun m => fpFma m true)]
/-- Those of one source, on `rmode` and all of xa (R55, R58, R59, R61). -/
def fpUnRows : List ((SDA → Instr) × (BitVec 16 → Word → FRes)) :=
  [(.fsqrt, fun m a => fpSqrt (arnd m) a.toNat), (.fabs, fun _ a => (a.toNat % 2 ^ 31, 0)),
   (.fneg, fun _ a => ((a.setWidth 32 ^^^ 0x80000000#32).toNat, 0)), (.fclass, fun _ a => (2 ^ fpClass a.toNat, 0)),
   (.frnd, fun m a => fpRound (crnd m) a.toNat), (.fcvtFi, fun m a => round32 (crnd m) (ofInt a.toInt)),
   (.fcvtIf, fun m a => fpToI64 (crnd m) a.toNat), (.fcvtFb, fun _ a => widen .bf16 (a.toNat % 65536)),
   (.fcvtF4, fun _ a => widen .e4m3 (a.toNat % 256)), (.fcvtF5, fun _ a => widen .e5m2 (a.toNat % 256)),
   (.fsplit, fun _ a => fpSplit (a.toNat % 2 ^ 32))]
/-- Narrowing conversions (R60). -/
def fpNarrowRows : List ((SDA → Instr) × Fmt) := [(.fcvtBf, .bf16), (.fcvtE4, .e4m3), (.fcvtE5, .e5m2)]
/-- Compares: quiet or not, and the condition (R49). -/
def fpCompareRows : List ((XAB → Instr) × Bool × (FVal → FVal → Bool)) :=
  [(.fcmpEq, true, FVal.eqv), (.fcmpLt, false, FVal.lt), (.fcmpLe, false, fun a b => a.lt b || a.eqv b),
   (.fcmpUn, true, fun a b => a.isNaN || b.isNaN)]
/-- Flags that a compare raises with a true guard (R49). -/
def compareFlags (quiet : Bool) (a b : FVal) : Flags := if quiet then sigAny [a, b] else nvIf (a.isNaN || b.isNaN)

/-- No flag of a result is enabled, so the instruction completes (R54). -/
def noTrap (s : State) (fl : Flags) : Prop := fl &&& s.me.r.fenable = 0
/-- Flags are sticky (R172). -/
def withFlags (fl : Flags) (r : Regs) : Regs := { r with fflags := r.fflags ||| fl }

end Sys2Proof.Claims

/-- R54 to R61, R172: a scalar floating-point instruction none of whose flags is enabled writes its result and ORs its flags
into `fflags`. A conversion to a narrow format also steps the generator under SR. -/
def Sys2Proof.Claims.FloatingPointValues : Prop :=
  (∀ (s : State) (f : SDAB), s.does f.h (some f.t) .u [(f.d, .wx), (f.a, .rx), (f.b, .rx)] = true → ∀ row ∈ fpBinRows,
    let r := row.2 (arnd s.me.r.rmode) (s.rf f.a) (s.rf f.b)
    noTrap s r.2 → exec (row.1 f) s =
      .next ((((s.passWait (some f.t)).wx f.d.num (BitVec.ofNat 64 r.1)).updR (withFlags r.2)).finish f.h (some f.t) true false)) ∧
  (∀ (s : State) (f : SDAB), s.does f.h (some f.t) .u [(f.d, .rx), (f.a, .rx), (f.b, .rx)] = true → ∀ row ∈ fpTerRows,
    let r := row.2 (arnd s.me.r.rmode) (s.rf f.a) (s.rf f.b) (s.rf f.d)
    noTrap s r.2 → exec (row.1 f) s =
      .next ((((s.passWait (some f.t)).wx f.d.num (BitVec.ofNat 64 r.1)).updR (withFlags r.2)).finish f.h (some f.t) true false)) ∧
  (∀ (s : State) (f : SDA), s.does f.h (some f.t) .u [(f.d, .wx), (f.a, .rx)] = true → ∀ row ∈ fpUnRows,
    let r := row.2 s.me.r.rmode (s.rx f.a.num)
    noTrap s r.2 → exec (row.1 f) s =
      .next ((((s.passWait (some f.t)).wx f.d.num (BitVec.ofNat 64 r.1)).updR (withFlags r.2)).finish f.h (some f.t) true false)) ∧
  (∀ (s : State) (f : SDA), s.does f.h (some f.t) .u [(f.d, .wx), (f.a, .rx)] = true → s.myTile.vecOpen s.curCtx = false → ∀ row ∈ fpNarrowRows,
    let r := cvtSR row.2 s.me.r.rmode (satOf s.me.r.rmode) (read32 (s.rf f.a)) s.me.r.srstate
    noTrap s r.2.2 → exec (row.1 f) s =
      .next (((((s.passWait (some f.t)).wx f.d.num (BitVec.ofNat 64 r.2.1)).updR
        (fun q => { q with srstate := r.1 })).updR (withFlags r.2.2)).finish f.h (some f.t) true false)) ∧
  (∀ (s : State) (f : XAB), s.runs f.h none .u [(f.a, .rx), (f.b, .rx)] = true → ∀ row ∈ fpCompareRows,
    let a := read32 (s.rf f.a)
    let b := read32 (s.rf f.b)
    let fl := if s.guard f.h then compareFlags row.2.1 a b else 0
    noTrap s fl → exec (row.1 f) s =
      .next (((s.combine f.x (s.guard f.h) (row.2.2 a b)).updR (withFlags fl)).finish f.h none (s.guard f.h) false))

/-- R54: with a raised flag enabled, the instruction takes the precise fault 0x0D whose detail is the raised flags: they stand in
`fflags`, and nothing else of the instruction does. -/
def Sys2Proof.Claims.FloatingPointTrap : Prop :=
  (∀ (s : State) (f : SDAB), s.does f.h (some f.t) .u [(f.d, .wx), (f.a, .rx), (f.b, .rx)] = true → ∀ row ∈ fpBinRows,
    let r := row.2 (arnd s.me.r.rmode) (s.rf f.a) (s.rf f.b)
    ¬ noTrap s r.2 → exec (row.1 f) s = .next ((s.updR (withFlags r.2)).takeFault { cause := 0x0D, detail := r.2.setWidth 64 })) ∧
  (∀ (s : State) (f : SDA), s.does f.h (some f.t) .u [(f.d, .wx), (f.a, .rx)] = true → ∀ row ∈ fpUnRows,
    let r := row.2 s.me.r.rmode (s.rx f.a.num)
    ¬ noTrap s r.2 → exec (row.1 f) s = .next ((s.updR (withFlags r.2)).takeFault { cause := 0x0D, detail := r.2.setWidth 64 })) ∧
  (∀ (s : State) (f : SDAB), s.does f.h (some f.t) .u [(f.d, .rx), (f.a, .rx), (f.b, .rx)] = true → ∀ row ∈ fpTerRows,
    let r := row.2 (arnd s.me.r.rmode) (s.rf f.a) (s.rf f.b) (s.rf f.d)
    ¬ noTrap s r.2 → exec (row.1 f) s = .next ((s.updR (withFlags r.2)).takeFault { cause := 0x0D, detail := r.2.setWidth 64 })) ∧
  (∀ (s : State) (f : XAB), s.runs f.h none .u [(f.a, .rx), (f.b, .rx)] = true → ∀ row ∈ fpCompareRows,
    let fl := if s.guard f.h then compareFlags row.2.1 (read32 (s.rf f.a)) (read32 (s.rf f.b)) else 0
    ¬ noTrap s fl → exec (row.1 f) s = .next ((s.updR (withFlags fl)).takeFault { cause := 0x0D, detail := fl.setWidth 64 }))

/-- R54 to R57: scalar floating point, and its trap. -/
def Obligations.FloatingPointResults : Prop := FloatingPointValues ∧ FloatingPointTrap

/-! ### Control instructions, special registers, faults -/

/-- R62, R63, R65, R67: `enter` with room above `slim`, `leave`, the loop-counter instructions with room on the loop-count stack or
an entry on it, `yield` and `irgn`. -/
def Sys2Proof.Claims.ControlValues : Prop :=
  (∀ (s : State) (f : I0), s.does f.h none .u [(.x 1, .rx)] = true → f.imm.toNat + s.me.r.slim.toNat ≤ (s.rx 1).toNat →
    exec (.enter f) s = .next ((s.wx 1 (s.rx 1 - f.imm.setWidth 64)).finish f.h none true false)) ∧
  (∀ (s : State) (f : I0), s.does f.h none .u [(.x 1, .rx)] = true →
    exec (.leave f) s = .next ((s.wx 1 (s.rx 1 + f.imm.setWidth 64)).finish f.h none true false)) ∧
  (∀ (s : State) (f : SA), s.does f.h (some f.t) .u [(f.a, .rx)] = true →
    exec (.lcset f) s = .next (((s.passWait (some f.t)).updR fun r => { r with lc := (s.rx f.a.num).setWidth 32 }).finish f.h (some f.t) true false)) ∧
  (∀ (s : State) (f : I0), s.does f.h none .u [] = true →
    exec (.lcsetImm f) s = .next ((s.updR fun r => { r with lc := f.imm }).finish f.h none true false)) ∧
  (∀ (s : State) (f : S0), s.does f.h (some f.t) .u [] = true → s.me.r.lcstk.length < 4 →
    exec (.lcpush f) s =
      .next (((s.passWait (some f.t)).updR fun r => { r with lcstk := s.me.r.lc :: s.me.r.lcstk }).finish f.h (some f.t) true false)) ∧
  (∀ (s : State) (f : S0) (v : BitVec 32) (l : List (BitVec 32)), s.does f.h (some f.t) .u [] = true → s.me.r.lcstk = v :: l →
    exec (.lcpop f) s = .next (((s.passWait (some f.t)).updR fun r => { r with lc := v, lcstk := l }).finish f.h (some f.t) true false)) ∧
  (∀ (s : State) (f : S0), s.does f.h (some f.t) .u [] = true →
    exec (.yield f) s = .next (((s.passWait (some f.t)).updMyTile fun t => { t with avoid := t.avoid ++ [s.curCtx + 4] }).finish f.h (some f.t) true false)) ∧
  (∀ (s : State) (f : S0), s.does f.h (some f.t) .u [] = true →
    exec (.irgn f) s = .next (((s.passWait (some f.t)).updR fun r => { r with ire := s.me.r.pc + 12 }).finish f.h (some f.t) true false))

/-- R62, R33: `enter` below `slim` raises the stack-limit fault with the byte count in the high half of its detail; a push onto four
loop counts or a pop from none raises it with detail 1. Nothing of the instruction takes effect. -/
def Sys2Proof.Claims.StackLimitFaults : Prop :=
  (∀ (s : State) (f : I0), s.does f.h none .u [(.x 1, .rx)] = true → (s.rx 1).toNat < f.imm.toNat + s.me.r.slim.toNat →
    exec (.enter f) s = .next (s.takeFault { cause := 0x07, detail := f.imm.setWidth 64 <<< 32, allow := 23 })) ∧
  (∀ (s : State) (f : S0), s.does f.h (some f.t) .u [] = true → 4 ≤ s.me.r.lcstk.length →
    exec (.lcpush f) s = .next (s.takeFault { cause := 0x07, detail := 1, allow := allowSkipResumeKill })) ∧
  (∀ (s : State) (f : S0), s.does f.h (some f.t) .u [] = true → s.me.r.lcstk = [] →
    exec (.lcpop f) s = .next (s.takeFault { cause := 0x07, detail := 1, allow := allowSkipResumeKill }))

/-- R33, R62, R63, R65, R67: control instructions, and the stack-limit fault. -/
def Obligations.ControlResults : Prop := ControlValues ∧ StackLimitFaults

namespace Sys2Proof.Claims

/-- The level that reading a special register needs (R64 Table 7, R337 Table 8). -/
def mfsLevel (n : Nat) : Level := if n < 0x40 ∨ n = 0x48 then .u else if n < 0x60 then .s else .m
/-- The level that writing one needs. -/
def mtsLevel (n : Nat) : Level :=
  if n = 0x02 ∨ n = 0x14 ∨ n = 0x19 then .s else if n < 0x40 then .u else if n = 0x47 ∨ n = 0x48 ∨ 0x60 ≤ n then .m else .s
/-- Special registers of a context that a context may write whole: number, field as a word (R64). -/
def ownRegisters : List (Nat × (Regs → Word)) :=
  [(0x00, (·.ln)), (0x01, fun r => r.lc.setWidth 64), (0x02, (·.slim)), (0x04, fun r => r.fflags.setWidth 64),
   (0x05, fun r => r.fenable.setWidth 64), (0x08, (·.ire)), (0x14, fun r => r.seq.setWidth 64), (0x07, fun r => r.vl.setWidth 64),
   (0x03, fun r => r.rmode.setWidth 64), (0x06, (·.srstate))]
/-- What `mts` leaves in one of them: the value truncated to its width; 0 does not change `vl`, which lies from 1 to 32 (R185),
and `srstate` takes 1 for 0. -/
def stored (n : Nat) (old v : Word) : Word :=
  match n with
  | 0x01 => v &&& 0xFFFFFFFF
  | 0x03 => v &&& 0x1FF
  | 0x04 => v &&& 0x1F
  | 0x05 => v &&& 0x1F
  | 0x06 => if v = 0 then 1 else v
  | 0x07 => if v = 0 then old else if 32 < v.toNat then 32 else v
  | 0x14 => v &&& 0xFFFFF
  | _ => v

end Sys2Proof.Claims

/-- R64, R337: `mfs` writes the special register's value, and `mts` writes the register. Below the register's level both take the
privilege fault 0x03. While vector instructions of the context are open, `fflags` and `srstate` are waited for (R189). -/
def Sys2Proof.Claims.SpecialRegisterMoves : Prop :=
  (∀ (s : State) (f : ID), s.does f.h none (mfsLevel f.imm.toNat) [(f.d, .wx)] = true → s.sregHeld f.imm.toNat = false →
    exec (.mfs f) s = .next ((s.wx f.d.num (s.sreg f.imm.toNat)).finish f.h none true false)) ∧
  (∀ (s : State) (f : IA), s.does f.h none (mtsLevel f.imm.toNat) [(f.a, .rx)] = true → s.sregHeld f.imm.toNat = false →
    exec (.mts f) s = .next ((s.setSreg f.imm.toNat (s.rx f.a.num)).finish f.h none true false)) ∧
  (∀ (s : State) (f : ID), s.me.c.level.reaches (mfsLevel f.imm.toNat) = false → exec (.mfs f) s = .next (s.takeFault { cause := 0x03 })) ∧
  (∀ (s : State) (f : IA), s.me.c.level.reaches (mtsLevel f.imm.toNat) = false → exec (.mts f) s = .next (s.takeFault { cause := 0x03 }))

/-- R64, R185: what the context's own special registers hold after a write, and that a write changes no other register of a
context. -/
def Sys2Proof.Claims.SpecialRegisterReadsBack : Prop :=
  ∀ (s : State) (v : Word), ∀ row ∈ ownRegisters,
    (s.setSreg row.1 v).sreg row.1 = stored row.1 (row.2 s.me.r) v ∧ s.sreg row.1 = row.2 s.me.r ∧
    (∀ other ∈ ownRegisters, other.1 ≠ row.1 → other.2 (s.setSreg row.1 v).me.r = other.2 s.me.r) ∧
    ∀ k c, (k, c) ≠ (s.cur, s.curCtx) → (s.setSreg row.1 v).ctx k c = s.ctx k c

/-- R64, R185, R189, R337: `mfs` and `mts`, and what the registers hold afterwards. -/
def Obligations.SpecialRegisters : Prop := SpecialRegisterMoves ∧ SpecialRegisterReadsBack

/-- R66, R338: `trap` and `svc` take the software-trap fault 0x15 with the immediate as detail, `svc` with bit 32 set and only once
every earlier access has performed; `brk` takes fault 0x13, or, with the debug module's sdbg, stops its context with why 2; after the reply or the `go` that passes
over its event it does nothing (R382). -/
def Sys2Proof.Claims.TrapsTakeTheirFaults : Prop :=
  (∀ (s : State) (f : I0), s.does f.h none .u [] = true →
    exec (.trap f) s = .next (s.takeFault { cause := 0x15, detail := f.imm.setWidth 64 })) ∧
  (∀ (s : State) (f : I0), s.does f.h none .u [] = true → s.free_ = true →
    exec (.svc f) s = .next (s.takeFault { cause := 0x15, detail := BitVec.ofNat 64 (f.imm.toNat + 2 ^ 32) })) ∧
  (∀ (s : State) (f : I0), s.does f.h none .u [] = true → s.me.c.passDebug.getLsbD 2 = false → s.myTile.sdbg = false →
    exec (.brk f) s = .next (s.takeFault { cause := 0x13, detail := f.imm.setWidth 64 })) ∧
  (∀ (s : State) (f : I0), s.does f.h none .u [] = true → s.me.c.passDebug.getLsbD 2 = false → s.myTile.sdbg = true →
    exec (.brk f) s = .next (s.debugStop s.cur s.curCtx 2)) ∧
  (∀ (s : State) (f : I0), s.does f.h none .u [] = true → s.me.c.passDebug.getLsbD 2 = true →
    exec (.brk f) s = .next (s.finish f.h none true false))

/-- TAKING A FAULT (R324, R325, R395): a context of no gang and no checked tile blocks with its pc and every register unchanged; the
message with its cause, pc and word goes to the mailbox that R324 names, behind those that are there and behind the accesses issued before,
or, where the tile of that service core is stopped, to its stop area (R383); no other context changes, and no memory. -/
def Sys2Proof.Claims.FaultIsTaken : Prop :=
  ∀ (s : State) (a : FaultArg), s.me.c.gang = none → s.myTile.checked = false → a.cause < 256 →
    let t := s.takeFault a
    let k := s.cur
    let c := s.curCtx
    t.me.r = s.me.r ∧ t.me.y = s.me.y ∧ t.me.c.run = .blocked ∧
    (∃ f : FaultRec, t.me.c.fault = some f ∧ f.cause.toNat = a.cause ∧ f.pc = s.me.r.pc ∧ f.iword = s.iword ∧ f.address = a.address ∧
      f.detail = a.detail ∧ f.allow = a.allow ∧ f.gtime = s.gtime ∧
      let box := s.faultBox k c
      let m : Msg := { body := f.message (s.ltileRead k), src := k, ctx := c, after := s.nextId }
      ((∀ q, box = .forme q → (s.tile (s.serviceTile q)).hasStop = false) →
        t.boxMsgs box = s.arrivals (s.boxMsgs box ++ [m]) ∧
        ((s.boxMsgs box).all (·.here) = true → (s.boxMsgs box).length < 256 →
          t.boxMsgs box = s.boxMsgs box ++ [{ m with here := s.msgReady m }])) ∧
      (∀ q, box = .forme q → (s.tile (s.serviceTile q)).hasStop = true → s.me.c.run ≠ .debugStop → (s.boxMsgs box).all (·.here) = true →
        (s.tile (s.serviceTile q)).stopArea.length < 1024 → s.msgReady m = true →
        t.boxMsgs box = s.boxMsgs box ∧
        (t.tile (s.serviceTile q)).stopArea = (s.tile (s.serviceTile q)).stopArea ++ [.mail q m.body])) ∧
    (∀ b, b ≠ s.faultBox k c → t.boxMsgs b = s.boxMsgs b) ∧
    (∀ j d, (j, d) ≠ (k, c) → t.ctx j d = s.ctx j d) ∧
    s.sameMemory t ∧ s.sameRegsBut t (fun _ => False) ∧ s.sameUnitsBut t none none

/-- R324: where a fault is posted. A U context's goes to its forme's service core when `svloc` is valid and names a tile that is not
fenced, else to the die's management tile; an S context's to its die's; an M context's to die 0's. -/
def Sys2Proof.Claims.FaultGoesToItsMailbox : Prop :=
  ∀ (s : State) (k c : Nat),
    let sv := (s.forme (formeKey k)).svloc
    ((s.ctx k c).c.level = .u → sv.getLsbD 31 = true → (s.tile (tileKey (ownerOf k) (sv.toNat % 65536))).fenced = false →
      s.faultBox k c = .forme (formeKey k)) ∧
    ((s.ctx k c).c.level = .u → (sv.getLsbD 31 = false ∨ (s.tile (tileKey (ownerOf k) (sv.toNat % 65536))).fenced = true) →
      s.faultBox k c = .die (s.dieOf k)) ∧
    ((s.ctx k c).c.level = .s → s.faultBox k c = .die (s.dieOf k)) ∧
    ((s.ctx k c).c.level = .m → s.faultBox k c = .die 0)

/-- R66, R324, R325, R338, R395: taking a fault, where its message goes, and the instructions whose effect it is. -/
def Obligations.FaultEntry : Prop := TrapsTakeTheirFaults ∧ FaultIsTaken ∧ FaultGoesToItsMailbox

/-- THE RETURN FROM A FAULT (R130, R327): the reply RETRY leaves a blocked context's pc, and so does SKIP after the late refusal of a `rop`
(opcodes 0x0F0 to 0x0F3) and RESUME after the late refusal of a posted operation (R82); any other SKIP goes 12 bytes on, any other
RESUME to the address of the reply, RESTART-REGION to `ire`; its registers stay otherwise, it may issue again and awaits no reply. -/
def Obligations.FaultReply : Prop :=
  ∀ (s : State) (k c r : Nat) (f : FaultRec) (addr : Word), (s.ctx k c).c.run = .blocked → (s.ctx k c).c.gang = none → (s.tile k).checked = false →
    (s.ctx k c).c.fault = some f → (s.ctx k c).c.held = [] → f.atFin = false → f.resend = none → f.cause ≠ 0x10 → r < 4 →
    let t := s.applyReply k c r f addr
    let x := s.ctx k c
    let rop := f.src.getLsbD 4 = true ∧ 0xF0 ≤ f.iword.toNat / 2 ^ 85 % 2 ^ 9 ∧ f.iword.toNat / 2 ^ 85 % 2 ^ 9 ≤ 0xF3
    let late := f.src.getLsbD 4 = true ∧ f.cause ∈ [(0x06 : BitVec 8), 0x08, 0x0B, 0x0C]
    (t.ctx k c).c.run = .ready ∧ (t.ctx k c).c.fault = none ∧
    (t.ctx k c).r = { x.r with pc := if r = 0 then x.r.pc else if r = 1 then (if rop then x.r.pc else x.r.pc + 12) else if r = 2 then (if late then x.r.pc else addr) else x.r.ire } ∧
    (∀ j d, (j, d) ≠ (k, c) → t.ctx j d = s.ctx j d) ∧ s.sameMemory t

/-! ### Loads and stores -/

namespace Sys2Proof.Claims

/-- Loads of one register: bytes and extension (R75, Table 3). -/
def loadRows : List ((MDA → Instr) × Nat × Ext) :=
  [(.ldB, 1, .sign), (.ldBu, 1, .zero), (.ldH, 2, .sign), (.ldHu, 2, .zero), (.ldW, 4, .sign), (.ldWu, 4, .zero), (.ldD, 8, .zero)]
/-- Stores of one register. -/
def storeRows : List ((MAB → Instr) × Nat) := [(.stB, 1), (.stH, 2), (.stW, 4), (.stD, 8)]
/-- First address outside a space (R70). -/
def limitOf (sp : BitVec 2) : Nat := if sp = 0 then 0x8000 else if sp = 2 then 2 ^ 57 else 0x60000
/-- Places of the registers of a run from x(f) on. -/
def places (s : State) (f n : Nat) : List (Option Nat) := (List.range n).map fun i => s.place (f + i)

/-- An access is on its way, and its instruction waits until the home has applied it. -/
def waits (s : State) (q : Req2) : State :=
  (((s.send (if q.ret = .none then { q with ret := .gate } else q)).updC fun c => { c with phase := .armed s.nextId }).updC fun c => { c with run := .waiting, waitOn := .answer })

/-- Nothing holds an access that leaves the context, its address passes R70, and no watchpoint lies on it. -/
def leaves (s : State) (sp : BitVec 2) (ea : Word) (n : Nat) (rd wr : Bool) : Prop :=
  s.isFresh = true ∧ s.acqHeld = false ∧ ea.toNat % n = 0 ∧ ea.toNat + n ≤ limitOf sp ∧ s.myTile.watchAt s.curCtx 2 ea.toNat n rd wr = none
/-- A run of accesses of space 2 is on its way: the instruction is over, or, where one lies on a watched page, waits until all of them
have been applied (R111). -/
def sentRun (h : Head) (waits : Bool) (s : State) : State :=
  if waits then (s.updC fun c => { c with phase := .granted 0 }).updC fun c => { c with run := .waiting, waitOn := .applied s.nextId }
  else s.finish h none true false

end Sys2Proof.Claims

/-- R70, R71, R75, R76, R79: a load of the scratchpad or the tile store that nothing holds back reads its bytes, little-endian, at
the effective address xa + disp, extends them and writes xd; `ld.q` writes a pair and `ldm` a run. -/
def Sys2Proof.Claims.LocalLoadResults : Prop :=
  (∀ (s : State) (f : MDA), f.m.space.toNat < 2 → s.does f.h none .u [(f.d, .wx), (f.a, .rx)] = true → ∀ row ∈ loadRows,
    let sp := f.m.space.toNat
    let ea := s.rx f.a.num + f.m.disp.signExtend 64
    let op := LocalOp.load row.2.1 row.2.2 (s.place f.d.num)
    s.localReady sp ea row.2.1 f.m.order op = true →
    exec (row.1 f) s = .next (((s.wx f.d.num (row.2.2.extend row.2.1 (s.tileRead s.cur sp ea.toNat row.2.1))).localOrder sp ea.toNat op f.m.order f.m.scope
      (s.myTile.marksAt sp ea.toNat row.2.1)).finish f.h none true false)) ∧
  (∀ (s : State) (f : MDA), f.m.space.toNat < 2 → s.does f.h none .u [(f.d, .wpair), (f.a, .rx)] = true →
    let sp := f.m.space.toNat
    let ea := s.rx f.a.num + f.m.disp.signExtend 64
    let op := LocalOp.pair (s.me.r.xbase + f.d.num)
    s.localReady sp ea 16 f.m.order op = true →
    exec (.ldQ f) s = .next ((((s.wx f.d.num (BitVec.ofNat 64 (s.tileRead s.cur sp ea.toNat 8))).wx (f.d.num + 1)
      (BitVec.ofNat 64 (s.tileRead s.cur sp (ea.toNat + 8) 8))).localOrder sp ea.toNat op f.m.order f.m.scope
      (s.myTile.marksAt sp ea.toNat 16)).finish f.h none true false)) ∧
  (∀ (s : State) (f : MDAB), f.m.space.toNat < 2 → s.does f.h none .u [(f.d, .wx), (f.a, .rx), (f.b, .wrun f.d.num)] = true →
    let sp := f.m.space.toNat
    let ea := s.rx f.a.num + f.m.disp.signExtend 64
    let l := places s f.d.num (f.b.num + 1 - f.d.num)
    s.localReady sp ea 8 0 (.runLoad l) = true →
    exec (.ldm f) s = .next (((s.loadRun s.cur sp ea.toNat l).localOrder sp ea.toNat (.runLoad l) 0 0
      (s.myTile.marksAt sp ea.toNat (8 * l.length))).finish f.h none true false))

/-- R70, R71, R75, R76, R79: a store to the scratchpad or the tile store that nothing holds back writes the low bytes of xb at the
effective address; `st.q` writes a pair and `stm` a run. -/
def Sys2Proof.Claims.LocalStoreResults : Prop :=
  (∀ (s : State) (f : MAB), f.m.space.toNat < 2 → s.does f.h none .u [(f.a, .rx), (f.b, .rx)] = true → ∀ row ∈ storeRows,
    let sp := f.m.space.toNat
    let ea := s.rx f.a.num + f.m.disp.signExtend 64
    let op := LocalOp.store row.2 ((s.rx f.b.num).setWidth 128)
    s.localReady sp ea row.2 f.m.order op = true →
    exec (row.1 f) s = .next (((s.tileWrite s.cur sp ea.toNat row.2 (s.rx f.b.num).toNat).localOrder sp ea.toNat op f.m.order f.m.scope
      (s.myTile.marksAt sp ea.toNat row.2)).finish f.h none true false)) ∧
  (∀ (s : State) (f : MAB), f.m.space.toNat < 2 → s.does f.h none .u [(f.a, .rx), (f.b, .rpair)] = true →
    let sp := f.m.space.toNat
    let ea := s.rx f.a.num + f.m.disp.signExtend 64
    let v : BitVec 128 := s.rx (f.b.num + 1) ++ s.rx f.b.num
    s.localReady sp ea 16 f.m.order (.store 16 v) = true →
    exec (.stQ f) s = .next (((s.tileWrite s.cur sp ea.toNat 16 v.toNat).localOrder sp ea.toNat (.store 16 v) f.m.order f.m.scope
      (s.myTile.marksAt sp ea.toNat 16)).finish f.h none true false)) ∧
  (∀ (s : State) (f : MDAB), f.m.space.toNat < 2 → s.does f.h none .u [(f.b, .rx), (f.a, .rx), (f.d, .rrun f.b.num)] = true →
    let sp := f.m.space.toNat
    let ea := s.rx f.a.num + f.m.disp.signExtend 64
    let l := (List.range (f.d.num + 1 - f.b.num)).map fun i => s.rx (f.b.num + i)
    s.localReady sp ea 8 0 (.runStore l) = true →
    exec (.stm f) s = .next (((s.storeRun s.cur sp ea.toNat l).localOrder sp ea.toNat (.runStore l) 0 0
      (s.myTile.marksAt sp ea.toNat (8 * l.length))).finish f.h none true false))

/-- THE FRAME OF A LOCAL STORE that finds no absent sector of a demand window (one that does begins its fill): with no taken proof
that still copies, only the stored bytes change. Every byte of the tile's two
memories outside [ea, ea + n) of the store's space, and every byte of module memory and of other tiles, reads as before; no
scalar register changes, and no predicate, flag or special register but the next address. -/
def Sys2Proof.Claims.LocalStoreFrame : Prop :=
  ∀ (s t : State) (f : MAB), f.m.space.toNat < 2 → ∀ row ∈ storeRows, exec (row.1 f) s = .next t →
    (s.owner (ownerOf s.cur)).proof.copying = false →
    let sp := f.m.space.toNat
    let ea := s.rx f.a.num + f.m.disp.signExtend 64
    (sp = 0 → s.myTile.missing ea.toNat row.2 = []) →
    (∀ a, t.mem.read a = s.mem.read a) ∧
    (∀ k a, ¬ (k = s.cur ∧ sp = 0 ∧ ea.toNat ≤ a ∧ a < ea.toNat + row.2) → (t.tile k).pad.read a = (s.tile k).pad.read a) ∧
    (∀ k a, ¬ (k = s.cur ∧ sp = 1 ∧ ea.toNat ≤ a ∧ a < ea.toNat + row.2) → (t.tile k).store.read a = (s.tile k).store.read a) ∧
    s.sameRegsBut t (fun _ => False) ∧ t.me.r.noNext = s.me.r.noNext ∧
    (∀ k, (t.tile k).vr = (s.tile k).vr ∧ (t.tile k).mx = (s.tile k).mx ∧ (t.tile k).sems = (s.tile k).sems)

/-- THE FRAME OF A LOCAL LOAD that finds no absent sector of a demand window: no byte of any memory changes, and no scalar register but xd. -/
def Sys2Proof.Claims.LocalLoadFrame : Prop :=
  ∀ (s t : State) (f : MDA), f.m.space.toNat < 2 → ∀ row ∈ loadRows, exec (row.1 f) s = .next t →
    (f.m.space = 0 → s.myTile.missing (s.rx f.a.num + f.m.disp.signExtend 64).toNat row.2.1 = []) →
    s.sameMemory t ∧ s.sameRegsBut t (fun n => f.d.num ≠ 0 ∧ n = s.me.r.xbase + f.d.num) ∧ t.me.r.noNext = s.me.r.noNext ∧
    (∀ k, (t.tile k).vr = (s.tile k).vr ∧ (t.tile k).mx = (s.tile k).mx ∧ (t.tile k).sems = (s.tile k).sems)

/-- R75, R78: what a load or a store of the tile's own memories leaves alone. -/
def Obligations.LocalAccessFrame : Prop := LocalStoreFrame ∧ LocalLoadFrame

/-- R70, R71: a load or store whose address is no multiple of its size raises the misaligned fault 0x04, and one that reaches
past its space the space fault 0x14, with the address, in all four spaces. -/
def Sys2Proof.Claims.MisalignedAndOutOfSpaceFaults : Prop :=
  (∀ (s : State) (f : MDA), s.does f.h none .u [(f.d, .wx), (f.a, .rx)] = true → s.isFresh = true → s.free_ = true →
      s.myTile.vecOpen s.curCtx = false → ∀ row ∈ loadRows,
    let ea := s.rx f.a.num + f.m.disp.signExtend 64
    (ea.toNat % row.2.1 ≠ 0 → exec (row.1 f) s = .next (s.takeFault { cause := 0x04, address := ea })) ∧
    (ea.toNat % row.2.1 = 0 → limitOf f.m.space < ea.toNat + row.2.1 →
      exec (row.1 f) s = .next (s.takeFault { cause := 0x14, address := ea }))) ∧
  (∀ (s : State) (f : MAB), s.does f.h none .u [(f.a, .rx), (f.b, .rx)] = true → s.isFresh = true → s.free_ = true →
      s.myTile.vecOpen s.curCtx = false → ∀ row ∈ storeRows,
    let ea := s.rx f.a.num + f.m.disp.signExtend 64
    (ea.toNat % row.2 ≠ 0 → exec (row.1 f) s = .next (s.takeFault { cause := 0x04, address := ea })) ∧
    (ea.toNat % row.2 = 0 → limitOf f.m.space < ea.toNat + row.2 →
      exec (row.1 f) s = .next (s.takeFault { cause := 0x14, address := ea })))

/-- R70, R71, R75, R76, R79: loads and stores of the tile's own memories, and the faults of their addresses. -/
def Obligations.LocalAccessResults : Prop := LocalLoadResults ∧ LocalStoreResults ∧ MisalignedAndOutOfSpaceFaults

/-- R72, R78, R83, R84, R85, R111: a load or store of space 2 whose address translates and whose route passes is sent to its home: a
load's destination is awaited, a store is posted. On a watched page the instruction itself waits for the answer. -/
def Obligations.GlobalAccessesAreSent : Prop :=
  (∀ (s s1 : State) (f : MDA) (pa slot : Nat) (d : Dest) (r : BitVec 128) (w : Bool), f.m.space = 2 →
      s.does f.h none .u [(f.d, .wx), (f.a, .rx)] = true → ∀ row ∈ loadRows,
    let ea := s.rx f.a.num + f.m.disp.signExtend 64
    leaves s 2 ea row.2.1 true false → s.reach ea.toNat false false = .at_ pa slot d r w s1 →
    let q : Req2 := { dest := d, addr := pa, va := ea, slot := slot, op := .load row.2.1, ret := .reg (s.place f.d.num) (8 * row.2.1) row.2.2, route := r,
                      isLoad := true, isStore := false, order := f.m.order, scope := f.m.scope, watched := w }
    exec (row.1 f) s = .next (if w then waits s1 q else (s1.send q).finish f.h none true false)) ∧
  (∀ (s s1 : State) (f : MDA) (pa slot : Nat) (d : Dest) (r : BitVec 128) (w : Bool), f.m.space = 2 →
      s.does f.h none .u [(f.d, .wpair), (f.a, .rx)] = true →
    let ea := s.rx f.a.num + f.m.disp.signExtend 64
    leaves s 2 ea 16 true false → s.reach ea.toNat false false = .at_ pa slot d r w s1 →
    let q : Req2 := { dest := d, addr := pa, va := ea, slot := slot, op := .load 16, ret := .pair (s.me.r.xbase + f.d.num), route := r,
                      isLoad := true, isStore := false, order := f.m.order, scope := f.m.scope, watched := w }
    exec (.ldQ f) s = .next (if w then waits s1 q else (s1.send q).finish f.h none true false)) ∧
  (∀ (s s1 : State) (f : MAB) (pa slot : Nat) (d : Dest) (r : BitVec 128) (w : Bool), f.m.space = 2 →
      s.does f.h none .u [(f.a, .rx), (f.b, .rx)] = true → ∀ row ∈ storeRows,
    let ea := s.rx f.a.num + f.m.disp.signExtend 64
    leaves s 2 ea row.2 false true → s.reach ea.toNat true false = .at_ pa slot d r w s1 →
    let q : Req2 := { dest := d, addr := pa, va := ea, slot := slot, op := .store row.2 ((s.rx f.b.num).setWidth 128), ret := .none, route := r,
                      isLoad := false, isStore := true, order := f.m.order, scope := f.m.scope, watched := w }
    exec (row.1 f) s = .next (if w then waits s1 q else (s1.send q).finish f.h none true false)) ∧
  (∀ (s s1 : State) (f : MAB) (pa slot : Nat) (d : Dest) (r : BitVec 128) (w : Bool), f.m.space = 2 →
      s.does f.h none .u [(f.a, .rx), (f.b, .rpair)] = true →
    let ea := s.rx f.a.num + f.m.disp.signExtend 64
    leaves s 2 ea 16 false true → s.reach ea.toNat true false = .at_ pa slot d r w s1 →
    let q : Req2 := { dest := d, addr := pa, va := ea, slot := slot, op := .store 16 (s.rx (f.b.num + 1) ++ s.rx f.b.num), ret := .none, route := r,
                      isLoad := false, isStore := true, order := f.m.order, scope := f.m.scope, watched := w }
    exec (.stQ f) s = .next (if w then waits s1 q else (s1.send q).finish f.h none true false)) ∧
  (∀ (s s1 : State) (f : MDA) (pa slot : Nat) (d : Dest) (r : BitVec 128) (w : Bool), (Instr.ldT f).wf = true →
      s.does f.h none .u [(f.d, .wpair), (f.a, .rx)] = true →
    let ea := s.rx f.a.num + f.m.disp.signExtend 64
    leaves s 2 ea 8 true false → s.reach ea.toNat false false = .at_ pa slot d r w s1 →
    exec (.ldT f) s = .next ((s1.send
        { dest := d, addr := pa, va := ea, slot := slot, op := .ldT, ret := .pair (s.me.r.xbase + f.d.num), route := r, isLoad := true,
          isStore := false, order := f.m.order, scope := f.m.scope }).finish f.h none true false)) ∧
  (∀ (s s1 : State) (f : MDAB) (pa slot : Nat) (d : Dest) (r : BitVec 128) (w : Bool), (Instr.ldS f).wf = true →
      s.does f.h none .u [(f.d, .wx), (f.a, .rx), (f.b, .rx)] = true →
    let ea := s.rx f.a.num + f.m.disp.signExtend 64
    leaves s 2 ea 8 true false → s.reach ea.toNat false false = .at_ pa slot d r w s1 →
    exec (.ldS f) s = .next ((s1.send
        { dest := d, addr := pa, va := ea, slot := slot, op := .ldS (s.rx f.b.num), ret := .reg (s.place f.d.num) 64 .zero, route := r,
          isLoad := true, isStore := false, order := f.m.order, scope := f.m.scope }).finish f.h none true false))

/-- R80, R270: a load or store of space 3 whose route register passes the injection checks is sent to the tile at the end of the
route, and one whose register does not pass raises the route fault 0x08 with the check's status. -/
def Sys2Proof.Claims.RemoteAccessesAreSent : Prop :=
  (∀ (s : State) (f : MDA), f.m.space = 3 → s.does f.h none .u [(f.d, .wx), (f.a, .rx)] = true → ∀ row ∈ loadRows,
    let ea := s.rx f.a.num + f.m.disp.signExtend 64
    s.acqHeld = false → ea.toNat % row.2.1 = 0 → ea.toNat + row.2.1 ≤ 0x60000 →
    (∀ st, s.injectReg f.m.rtn.toNat = .error st → exec (row.1 f) s = .next (s.takeFault { cause := 0x08, detail := BitVec.ofNat 64 st })) ∧
    (∀ r k s1, s.injectReg f.m.rtn.toNat = .ok (r, some k, s1) →
      exec (row.1 f) s = .next ((s1.send
        { dest := .tile k, addr := ea.toNat, va := ea, op := .load row.2.1,
          ret := .reg (s.place f.d.num) (8 * row.2.1) row.2.2, route := r, isLoad := true, isStore := false,
          order := f.m.order, scope := f.m.scope, rtn := f.m.rtn }).finish f.h none true false))) ∧
  (∀ (s : State) (f : MDA), f.m.space = 3 → s.does f.h none .u [(f.d, .wpair), (f.a, .rx)] = true →
    let ea := s.rx f.a.num + f.m.disp.signExtend 64
    s.acqHeld = false → ea.toNat % 16 = 0 → ea.toNat + 16 ≤ 0x60000 →
    (∀ r k s1, s.injectReg f.m.rtn.toNat = .ok (r, some k, s1) →
      exec (.ldQ f) s = .next ((s1.send
        { dest := .tile k, addr := ea.toNat, va := ea, op := .load 16, ret := .pair (s.me.r.xbase + f.d.num), route := r,
          isLoad := true, isStore := false, order := f.m.order, scope := f.m.scope, rtn := f.m.rtn }).finish f.h none true false))) ∧
  (∀ (s : State) (f : MAB), f.m.space = 3 → s.does f.h none .u [(f.a, .rx), (f.b, .rx)] = true → ∀ row ∈ storeRows,
    let ea := s.rx f.a.num + f.m.disp.signExtend 64
    s.acqHeld = false → ea.toNat % row.2 = 0 → ea.toNat + row.2 ≤ 0x60000 →
    (∀ st, s.injectReg f.m.rtn.toNat = .error st → exec (row.1 f) s = .next (s.takeFault { cause := 0x08, detail := BitVec.ofNat 64 st })) ∧
    (∀ r k s1, s.injectReg f.m.rtn.toNat = .ok (r, some k, s1) →
      exec (row.1 f) s = .next ((s1.send
        { dest := .tile k, addr := ea.toNat, va := ea, op := .store row.2 ((s.rx f.b.num).setWidth 128), ret := .none,
          route := r, isLoad := false, isStore := true, order := f.m.order, scope := f.m.scope, rtn := f.m.rtn }).finish f.h none true false))) ∧
  (∀ (s : State) (f : MAB), f.m.space = 3 → s.does f.h none .u [(f.a, .rx), (f.b, .rpair)] = true →
    let ea := s.rx f.a.num + f.m.disp.signExtend 64
    s.acqHeld = false → ea.toNat % 16 = 0 → ea.toNat + 16 ≤ 0x60000 →
    (∀ r k s1, s.injectReg f.m.rtn.toNat = .ok (r, some k, s1) →
      exec (.stQ f) s = .next ((s1.send
        { dest := .tile k, addr := ea.toNat, va := ea, op := .store 16 (s.rx (f.b.num + 1) ++ s.rx f.b.num), ret := .none,
          route := r, isLoad := false, isStore := true, order := f.m.order, scope := f.m.scope, rtn := f.m.rtn }).finish f.h none true false)))

/-- R79, R111: `ldm` and `stm` of space 2 check every doubleword first, races on watched pages among the checks, and then send one
access for each, which its home checks again; those of space 3 send one for each along the route. -/
def Sys2Proof.Claims.RunsAreSentByDoublewords : Prop :=
  (∀ (s s1 : State) (f : MDAB) (l : List RunWord), f.m.space = 2 →
      s.does f.h none .u [(f.d, .wx), (f.a, .rx), (f.b, .wrun f.d.num)] = true →
    let ea := s.rx f.a.num + f.m.disp.signExtend 64
    let n := f.b.num + 1 - f.d.num
    s.isFresh = true → s.acqHeld = false → ea.toNat % 8 = 0 → ea.toNat + 8 * n ≤ 2 ^ 57 →
    s.reachRun false ((List.range n).map fun i => ea.toNat + 8 * i) [] = .all l s1 → s1.raceRun false l = none →
    s.myTile.watchAt s.curCtx 2 ea.toNat (8 * n) true false = none →
    exec (.ldm f) s = .next (sentRun f.h (l.any (·.watched)) (s1.sendAll (fun i => match l[i]? with
      | some w => { dest := w.dest, addr := w.pa, va := BitVec.ofNat 64 w.va, slot := w.slot, op := .load 8,
                    ret := .reg (s.place (f.d.num + i)) 64 .zero, route := w.route, isLoad := true, isStore := false,
                    watched := w.watched }
      | none => { dest := .slice 0, addr := 0, op := .load 8, ret := .reg (s.place (f.d.num + i)) 64 .zero, route := 0, isLoad := true,
                  isStore := false }) n 0))) ∧
  (∀ (s s1 : State) (f : MDAB) (l : List RunWord), f.m.space = 2 →
      s.does f.h none .u [(f.b, .rx), (f.a, .rx), (f.d, .rrun f.b.num)] = true →
    let ea := s.rx f.a.num + f.m.disp.signExtend 64
    let n := f.d.num + 1 - f.b.num
    s.isFresh = true → s.acqHeld = false → ea.toNat % 8 = 0 → ea.toNat + 8 * n ≤ 2 ^ 57 →
    s.reachRun true ((List.range n).map fun i => ea.toNat + 8 * i) [] = .all l s1 → s1.raceRun true l = none →
    s.myTile.watchAt s.curCtx 2 ea.toNat (8 * n) false true = none →
    exec (.stm f) s = .next (sentRun f.h (l.any (·.watched)) (s1.sendAll (fun i => match l[i]? with
      | some w => { dest := w.dest, addr := w.pa, va := BitVec.ofNat 64 w.va, slot := w.slot, op := .store 8 ((s.rx (f.b.num + i)).setWidth 128),
                    ret := .none, route := w.route, isLoad := false, isStore := true,
                    watched := w.watched }
      | none => { dest := .slice 0, addr := 0, op := .store 8 ((s.rx (f.b.num + i)).setWidth 128), ret := .none, route := 0, isLoad := false,
                  isStore := true }) n 0))) ∧
  (∀ (s s1 : State) (f : MDAB) (r : BitVec 128) (k : Nat), f.m.space = 3 →
      s.does f.h none .u [(f.d, .wx), (f.a, .rx), (f.b, .wrun f.d.num)] = true →
    let ea := s.rx f.a.num + f.m.disp.signExtend 64
    let n := f.b.num + 1 - f.d.num
    s.acqHeld = false → ea.toNat % 8 = 0 → ea.toNat + 8 * n ≤ 0x60000 → s.injectReg f.m.rtn.toNat = .ok (r, some k, s1) →
    exec (.ldm f) s = .next ((s1.sendAll (fun i =>
      { dest := .tile k, addr := ea.toNat + 8 * i, va := ea + BitVec.ofNat 64 (8 * i), op := .load 8, ret := .reg (s.place (f.d.num + i)) 64 .zero,
        route := r, isLoad := true, isStore := false, rtn := f.m.rtn }) n 0).finish f.h none true false)) ∧
  (∀ (s s1 : State) (f : MDAB) (r : BitVec 128) (k : Nat), f.m.space = 3 →
      s.does f.h none .u [(f.b, .rx), (f.a, .rx), (f.d, .rrun f.b.num)] = true →
    let ea := s.rx f.a.num + f.m.disp.signExtend 64
    let n := f.d.num + 1 - f.b.num
    s.acqHeld = false → ea.toNat % 8 = 0 → ea.toNat + 8 * n ≤ 0x60000 → s.injectReg f.m.rtn.toNat = .ok (r, some k, s1) →
    exec (.stm f) s = .next ((s1.sendAll (fun i =>
      { dest := .tile k, addr := ea.toNat + 8 * i, va := ea + BitVec.ofNat 64 (8 * i), op := .store 8 ((s.rx (f.b.num + i)).setWidth 128), ret := .none,
        route := r, isLoad := false, isStore := true, rtn := f.m.rtn }) n 0).finish f.h none true false))

/-- R76, R80, R100: accesses of another tile, and `ldm` and `stm`, leave their context. -/
def Obligations.RemoteAccessesAndRunsAreSent : Prop := RemoteAccessesAreSent ∧ RunsAreSentByDoublewords

/-! ### The tag table and the region table -/

/-- R86 to R89: the tag of an address is its bits 56:8. `tlook` answers the index of the valid entry that holds it, all ones for
none; `tset` of index 0 to 63 installs it there and answers the previous occupant; `tinv` invalidates the entry it finds; `tclr`
invalidates the entries whose bits are set. -/
def Sys2Proof.Claims.TagTableResults : Prop :=
  (∀ (s : State) (f : SDA), s.does f.h (some f.t) .u [(f.d, .wx), (f.a, .rx)] = true →
    exec (.tlook f) s =
      .next (((s.passWait (some f.t)).wx f.d.num (foundOr (s.myTile.tagEntry (BitVec.ofNat 49 ((s.rx f.a.num).toNat / 256 % 2 ^ 49))))).finish f.h (some f.t) true false)) ∧
  (∀ (s : State) (f : SDAB), s.does f.h (some f.t) .u [(f.d, .wx), (f.a, .rx), (f.b, .rx)] = true → (s.rx f.b.num).toNat < 64 →
    let e := s.myTile.tagTab.get .reset (s.rx f.b.num).toNat
    exec (.tset f) s = .next ((((s.passWait (some f.t)).updMyTile fun t =>
        t.setTag (s.rx f.b.num).toNat (BitVec.ofNat 49 ((s.rx f.a.num).toNat / 256 % 2 ^ 49))).wx f.d.num
      (if e.valid then BitVec.ofNat 64 (e.tag.toNat * 256 + 1) else 0)).finish f.h (some f.t) true false)) ∧
  (∀ (s : State) (f : SDAB), s.does f.h (some f.t) .u [(f.d, .wx), (f.a, .rx), (f.b, .rx)] = true → 64 ≤ (s.rx f.b.num).toNat →
    exec (.tset f) s = .next (s.takeFault { cause := 0x02 })) ∧
  (∀ (s : State) (f : SDA), s.does f.h (some f.t) .u [(f.d, .wx), (f.a, .rx)] = true →
    let r := s.myTile.tagEntry (BitVec.ofNat 49 ((s.rx f.a.num).toNat / 256 % 2 ^ 49))
    exec (.tinv f) s = .next (((match r with
      | some n => (s.passWait (some f.t)).updMyTile fun t => t.dropTag n
      | none => s.passWait (some f.t)).wx f.d.num (foundOr r)).finish f.h (some f.t) true false)) ∧
  (∀ (s : State) (f : SA), s.does f.h (some f.t) .u [(f.a, .rx)] = true →
    ∃ t : Tile, exec (.tclr f) s = .next (((s.passWait (some f.t)).setTile s.cur t).finish f.h (some f.t) true false) ∧
      ∀ n, n < 64 → (t.tagTab.get .reset n).valid = ((s.myTile.tagTab.get .reset n).valid && !(s.rx f.a.num).getLsbD n))

/-- R91, R92, R93: `rgset` with a legal word, room and an aligned source binds a demand window with every sector absent, once no
sector of the entry fills; `rgclr` invalidates the entries it names once none of them fills; `rgq` answers Table 8 for a sector. -/
def Sys2Proof.Claims.RegionTableResults : Prop :=
  (∀ (s : State) (f : SAB), s.does f.h (some f.t) .u [(f.a, .rx), (f.b, .rx)] = true →
    let a := (s.rx f.a.num).toNat
    let n := a % 16
    let start := a / 2 ^ 8 % 128
    let len := a / 2 ^ 16 % 128 + 1
    a < 2 ^ 23 → a / 16 % 16 = 0 → a / 2 ^ 15 % 2 = 0 → start + len ≤ 128 →
    (∀ i, i < 16 → i ≠ n → (s.myTile.regTab.get .reset i).valid = true →
      start + len ≤ (s.myTile.regTab.get .reset i).start ∨
        (s.myTile.regTab.get .reset i).start + (s.myTile.regTab.get .reset i).len ≤ start) →
    (s.rx f.b.num).toNat % 256 = 0 → (s.rx f.b.num).toNat < 2 ^ 57 → (s.myTile.regTab.get .reset n).filling = false →
    exec (.rgset f) s = .next (((s.passWait (some f.t)).updMyTile fun t => 
      { t with regTab := t.regTab.set n { valid := true, start := start, len := len, src := s.rx f.b.num, states := [] } }).finish f.h (some f.t) true false)) ∧
  (∀ (s : State) (f : SA), s.does f.h (some f.t) .u [(f.a, .rx)] = true → (s.rx f.a.num).toNat < 65536 →
    s.myTile.regTab.any (fun e => (s.rx f.a.num).getLsbD e.1 && e.2.filling) = false →
    exec (.rgclr f) s = .next (((s.passWait (some f.t)).updMyTile fun t => { t with regTab := t.regTab.map fun (n, e) =>
      (n, if (s.rx f.a.num).getLsbD n then { e with valid := false } else e) }).finish f.h (some f.t) true false)) ∧
  (∀ (s : State) (f : SDA), s.does f.h (some f.t) .u [(f.d, .wx), (f.a, .rx)] = true → (s.rx f.a.num).toNat < 0x8000 →
    exec (.rgq f) s = .next (((s.passWait (some f.t)).wx f.d.num (match s.myTile.windowOf ((s.rx f.a.num).toNat / 256) with
      | some (i, j) => BitVec.ofNat 64 (256 + i * 16 + (s.myTile.regTab.get .reset i).states.get 0 j)
      | none => 0)).finish f.h (some f.t) true false))

/-- R86 to R93: the tag table and the region table. -/
def Obligations.TableResults : Prop := TagTableResults ∧ RegionTableResults

/-! ### Atomics and repair cells -/

namespace Sys2Proof.Claims

/-- The instruction completes from `s`: its signal is given and the next address taken. -/
def completes (s : State) (h : Head) (t : Option STail) (late : Bool := false) : Out := .next (s.finish h t true late)
/-- Effective address (R70). -/
def eaOf (s : State) (a : Opnd) (m : MTail) : Word := s.rx a.num + m.disp.signExtend 64
/-- Atomics with their operation, and how they use xd: `cas` also reads it (R116, R118). -/
def amoRows : List ((MDAB → Instr) × AmoKind × Cls) :=
  [(.amoAdd, .add, .wx), (.amoAnd, .and, .wx), (.amoOr, .or, .wx), (.amoXor, .xor, .wx), (.amoMin, .min, .wx), (.amoMax, .max, .wx),
   (.amoMinu, .minu, .wx), (.amoMaxu, .maxu, .wx), (.amoXchg, .xchg, .wx), (.amoCas, .cas, .rx), (.amoFadd, .fadd, .wx),
   (.amoFmin, .fmin, .wx), (.amoFmax, .fmax, .wx), (.amoBfadd2, .bfadd2, .wx)]
/-- The integer atomics' functions of old, b and, for `cas`, the expected value (R116, Table 2). -/
def amoFunctions (w : Nat) : List (AmoKind × (BitVec w → BitVec w → BitVec w → BitVec w)) :=
  [(.add, fun o b _ => o + b), (.and, fun o b _ => o &&& b), (.or, fun o b _ => o ||| b), (.xor, fun o b _ => o ^^^ b),
   (.min, fun o b _ => if b.slt o then b else o), (.max, fun o b _ => if o.slt b then b else o),
   (.minu, fun o b _ => if b.ult o then b else o), (.maxu, fun o b _ => if o.ult b then b else o),
   (.xchg, fun _ b _ => b), (.cas, fun o b x => if o = x then b else o)]
/-- Width of an atomic in bytes. -/
def amoBytes (m : MTail) : Nat := if m.size = 0 then 4 else 8
/-- The access that an atomic sends. With destination x0 it is posted. -/
def amoReq (s : State) (k : AmoKind) (f : MDAB) (d : Dest) (addr slot : Nat) (r : BitVec 128) (w : Bool) : Req2 :=
  { dest := d, addr := addr, va := eaOf s f.a f.m, slot := slot, op := .amo k (amoBytes f.m) (s.rx f.b.num) (s.rx f.d.num),
    ret := if f.d.num == 0 then .none else .reg (s.place f.d.num) 64 .zero, route := r, isLoad := f.d.num != 0, isStore := true,
    order := f.m.order, scope := f.m.scope, rtn := f.m.rtn, watched := w }
/-- Owner scope is performed at a home slice, system scope at a gateway (R113). -/
def scopeFits (scope : BitVec 2) : Dest → Bool
  | .slice _ => scope == 2
  | .gate _ => scope == 3
  | _ => false

end Sys2Proof.Claims

/-- R116, Table 2: the new contents of a 4-byte or 8-byte location under each integer operation, min and max signed, minu and maxu
unsigned, `cas` writing b only when the old value is the expected one; and `fadd` rounds to nearest even. -/
def Sys2Proof.Claims.AtomicFunctions : Prop :=
  (∀ (old b x : BitVec 64), ∀ row ∈ amoFunctions 64, row.1.newValue 8 old.toNat b.toNat x.toNat = (row.2 old b x).toNat) ∧
  (∀ (old b x : BitVec 32), ∀ row ∈ amoFunctions 32, row.1.newValue 4 old.toNat b.toNat x.toNat = (row.2 old b x).toNat) ∧
  (∀ (old b x : BitVec 32), AmoKind.fadd.newValue 4 old.toNat b.toNat x.toNat = (fpAdd .rne old.toNat b.toNat).1)

/-- R113, R114, R115: a context-scope atomic updates tile memory at once and writes the old value to xd. One of another scope is
sent to where it is performed: cluster scope to the own tile or to the tile of the same cluster that the route reaches, owner
scope to a home slice, system scope to a gateway. -/
def Sys2Proof.Claims.AtomicAccesses : Prop :=
  (∀ (s : State) (f : MDAB), ∀ row ∈ amoRows, s.does f.h none .u [(f.d, row.2.2), (f.a, .rx), (f.b, .rx)] = true →
      f.m.scope = 0 → f.m.space.toNat < 2 →
    let sp := f.m.space.toNat
    let ea := eaOf s f.a f.m
    let n := amoBytes f.m
    let op := LocalOp.amo row.2.1 n (s.rx f.b.num) (s.rx f.d.num) (s.place f.d.num)
    s.localReady sp ea n f.m.order op = true →
    let old := s.tileRead s.cur sp ea.toNat n
    exec (row.1 f) s = completes ((((s.tileWrite s.cur sp ea.toNat n (row.2.1.newValue n old (s.rx f.b.num).toNat (s.rx f.d.num).toNat)).wphys
      s.cur (s.place f.d.num) (row.2.1.extend n old))).localOrder sp ea.toNat op f.m.order f.m.scope (s.myTile.marksAt sp ea.toNat n)) f.h none) ∧
  (∀ (s : State) (f : MDAB), ∀ row ∈ amoRows, s.does f.h none .u [(f.d, row.2.2), (f.a, .rx), (f.b, .rx)] = true →
      f.m.scope = 1 → f.m.space = 1 → s.isFresh = true → s.acqHeld = false → s.myTile.vecOpen s.curCtx = false →
    let ea := eaOf s f.a f.m
    let n := amoBytes f.m
    ea.toNat % n = 0 → ea.toNat + n ≤ 0x60000 → s.myTile.watchAt s.curCtx 1 ea.toNat n true true = none →
    exec (row.1 f) s = completes (s.send (amoReq s row.2.1 f (.tile s.ownTarget) ea.toNat 0 (mkRoute [0x80]) false)) f.h none) ∧
  (∀ (s s1 : State) (f : MDAB) (r : BitVec 128) (k : Nat), ∀ row ∈ amoRows,
      s.does f.h none .u [(f.d, row.2.2), (f.a, .rx), (f.b, .rx)] = true → f.m.scope = 1 → f.m.space = 3 → s.isFresh = true → s.acqHeld = false →
    let ea := eaOf s f.a f.m
    let n := amoBytes f.m
    ea.toNat % n = 0 → ea.toNat + n ≤ 0x60000 → s.injectReg f.m.rtn.toNat = .ok (r, some k, s1) →
    exec (row.1 f) s = if clusterKey k = clusterKey s.cur then completes (s1.send (amoReq s row.2.1 f (.tile k) ea.toNat 0 r false)) f.h none
      else .next (s.takeFault { cause := 0x0E, address := ea })) ∧
  (∀ (s s1 : State) (f : MDAB) (pa slot : Nat) (d : Dest) (r : BitVec 128) (w : Bool), ∀ row ∈ amoRows,
      s.does f.h none .u [(f.d, row.2.2), (f.a, .rx), (f.b, .rx)] = true → 2 ≤ f.m.scope.toNat → f.m.space = 2 →
    let ea := eaOf s f.a f.m
    leaves s 2 ea (amoBytes f.m) true true → s.reach ea.toNat true true (scopeFits f.m.scope) = .at_ pa slot d r w s1 →
    exec (row.1 f) s = if w then .next (waits s1 (amoReq s row.2.1 f d pa slot r true))
      else completes (s1.send (amoReq s row.2.1 f d pa slot r false)) f.h none)

/-- R113 to R117: the atomic functions, and the accesses that apply them. -/
def Obligations.AtomicResults : Prop := AtomicFunctions ∧ AtomicAccesses

namespace Sys2Proof.Claims

/-- `rop` instructions with their cell kinds (R123, Table 4). -/
def ropRows : List ((MDAB → Instr) × BitVec 2) := [(.ropFadd, 0), (.ropBfadd, 1), (.ropSt, 2), (.ropMaxi, 3)]
/-- The stamp of a context (R121, Table 3): superstep, ltile, context, twin bit and sequence number. -/
def stampWord (s : State) : BitVec 64 :=
  (s.owner (ownerOf s.cur)).sstep.setWidth 24 ++ BitVec.ofNat 16 (s.ltileRead s.cur) ++ BitVec.ofNat 2 s.curCtx ++
    BitVec.ofBool (s.myTile.checked && decide (16 ≤ rowOf s.cur)) ++ (0 : BitVec 1) ++ s.me.r.seq

end Sys2Proof.Claims

/-- R120, R121, R125, R126, R127, R129, R131, R135: the cell instructions and stamped operations whose address translates for reading
and writing are sent to the home slice. A `rop` takes the stamp and steps `seq`; at 0xF_FFFF it raises fault 0x16 instead. -/
def Sys2Proof.Claims.CellOperationsAreSent : Prop :=
  (∀ (s s1 : State) (f : MDAB) (pa slot : Nat) (d : Dest) (r : BitVec 128) (w : Bool),
      s.does f.h none .u [(f.d, .wx), (f.a, .rx), (f.b, .rx)] = true → (s.rx f.b.num).toNat < 4 →
    let ea := eaOf s f.a f.m
    leaves s 2 ea 8 true true → s.reach ea.toNat true true = .at_ pa slot d r w s1 →
    exec (.rcell f) s = completes (s1.send
      { dest := d, addr := pa, va := ea, slot := slot, op := .rcell ((s.rx f.b.num).setWidth 2), ret := .reg (s.place f.d.num) 64 .zero, route := r,
        isLoad := true, isStore := true }) f.h none) ∧
  (∀ (s s1 : State) (f : MDA) (pa slot : Nat) (d : Dest) (r : BitVec 128) (w : Bool), s.does f.h none .u [(f.d, .wx), (f.a, .rx)] = true →
    let ea := eaOf s f.a f.m
    leaves s 2 ea 8 true true → s.reach ea.toNat true true = .at_ pa slot d r w s1 →
    exec (.rfree f) s = completes (s1.send
      { dest := d, addr := pa, va := ea, slot := slot, op := .rfree, ret := .reg (s.place f.d.num) 64 .zero, route := r, isLoad := true,
        isStore := true }) f.h none) ∧
  (∀ (s s1 : State) (f : MDA) (pa slot : Nat) (d : Dest) (r : BitVec 128) (w : Bool), s.does f.h none .u [(f.d, .wpair), (f.a, .rx)] = true →
    let ea := eaOf s f.a f.m
    leaves s 2 ea 8 true false → s.reach ea.toNat true true = .at_ pa slot d r w s1 →
    exec (.rstat f) s = completes (s1.send
      { dest := d, addr := pa, va := ea, slot := slot, op := .rstat, ret := .pair (s.me.r.xbase + f.d.num), route := r, isLoad := true,
        isStore := false }) f.h none) ∧
  (∀ (s s1 : State) (f : MDAB) (pa slot : Nat) (d : Dest) (r : BitVec 128) (w : Bool), ∀ row ∈ ropRows,
      s.does f.h none .u [(f.d, .wx), (f.a, .rx), (f.b, .rx)] = true → s.curCtx < 4 →
    let ea := eaOf s f.a f.m
    leaves s 2 ea 8 true true → s.reach ea.toNat true true = .at_ pa slot d r w s1 →
    (s.me.r.seq ≠ 0xFFFFF → exec (row.1 f) s = completes (((s1.send
      { dest := d, addr := pa, va := ea, slot := slot, op := .rop row.2 (s.rx f.b.num),
        ret := if f.d.num == 0 then .none else .reg (s.place f.d.num) 64 .zero, route := r, isLoad := f.d.num != 0, isStore := true,
        order := f.m.order, scope := f.m.scope, stamped := true, stamp := stampWord s }).updR fun q => { q with seq := q.seq + 1 }).traceRec s.cur s.curCtx 1
          (stampWord s)) f.h none) ∧
    (s.me.r.seq = 0xFFFFF → exec (row.1 f) s = .next (s.takeFault { cause := 0x16, detail := 1, allow := allowData }))) ∧
  (∀ (s s1 : State) (f : MDAB) (pa slot : Nat) (d : Dest) (r : BitVec 128) (w : Bool),
      s.does f.h none .s [(f.d, .wx), (f.a, .rx), (f.b, .rpair)] = true →
    let ea := eaOf s f.a f.m
    leaves s 2 ea 8 true true → s.reach ea.toNat true true = .at_ pa slot d r w s1 →
    exec (.rreissue f) s = if (s.rx f.b.num).getLsbD 20 then completes (s.wx f.d.num 5) f.h none
      else completes (s1.send
        { dest := d, addr := pa, va := ea, slot := slot, op := .rreissue (s.rx (f.b.num + 1)), ret := .reg (s.place f.d.num) 64 .zero, route := r,
          isLoad := true, isStore := true, stamped := true, stamp := s.rx f.b.num }) f.h none)

/-- R123, R124, R129: a stamped operation applied at its home slice, on a cell of its owner and kind. A stamp that the history holds, or
that was folded last, counts as a duplicate; one below the watermark is late; a full history counts an overflow; another is
inserted, so that the history holds it and the cell's value is the chain over it in stamp order. -/
def Sys2Proof.Claims.StampedOperationsAtTheirCell : Prop :=
  ∀ (s : State) (f : Flight) (c : Cell) (kind : BitVec 2) (b : BitVec 64), f.op = .rop kind b → s.cellAt f.addr = some c →
      c.owner = f.owner → c.kind = kind →
    let h := homeSlice f.addr
    let known := (∃ e ∈ c.hist, e.1 = f.stamp) ∨ c.lastfold = some f.stamp
    let old := f.stamp.toNat / 2 ^ 40 < (s.slice h).wmark.get 0 f.owner
    let full := c.hist.length = 15 ∨ (s.slice h).poolFree = 0
    (known → s.applyStamped f =
      .done (s.updSlice h fun q => { q with dups := q.dups.set f.owner (q.dups.get 0 f.owner + 1) }) (c.chain.setWidth 128) []) ∧
    (¬ known → old → s.applyStamped f = .refuse s 0x0C b) ∧
    (¬ known → ¬ old → full →
      s.applyStamped f = .refuse (s.updSlice h fun q => { q with ovf := q.ovf.set f.owner (q.ovf.get 0 f.owner + 1) }) 0x0B b) ∧
    (¬ known → ¬ old → ¬ full → ∃ (t : State) (c1 : Cell) (l r : List (BitVec 64 × BitVec 64)),
      s.applyStamped f = .done t (c1.chain.setWidth 128) [] ∧ t.cellAt f.addr = some c1 ∧ { c1 with hist := c.hist } = c ∧
      c.hist = l ++ r ∧ c1.hist = l ++ (f.stamp, b) :: r ∧ (∀ e ∈ l, e.1.toNat ≤ f.stamp.toNat) ∧
      (r.head?.map (fun e => decide (f.stamp.toNat < e.1.toNat))).getD true = true)

/-- R120 to R135: cell instructions and stamped operations as they leave their context, and at their cell. -/
def Obligations.CellOperations : Prop := CellOperationsAreSent ∧ StampedOperationsAtTheirCell

/-! ### Barrier objects, groups, events and trees -/

/-- R137, R138, R143, R148: the updates of a barrier object in tile memory. An arrival takes one off `pend`; the one that leaves nothing
pending completes the phase: the generation rises, `pend` is `expect` again, and the held waiters receive word 0. One that finds
`pend` 0 sets err with code 1. A join adds one to `expect` and `pend`. -/
def Obligations.BarrierObjectUpdates : Prop :=
  ∀ (s : State) (k off : Nat), (s.tile k).barFresh.contains off = false → (s.tile k).pad.wf = true →
    let b := s.barObj k off
    let arrived := (s.barArrive k off).2.1
    let joined := s.barJoin k off
    (b.pend ≠ 0 → (b.pend ≠ 1 ∨ b.insec ≠ 0 ∨ b.outsec ≠ 0) → arrived.barObj k off = { b with pend := b.pend - 1 }) ∧
    (b.pend = 1 → b.insec = 0 → b.outsec = 0 →
      arrived.barObj k off = { b with gen := (b.gen + 1) % 16, pend := b.expect } ∧
      (∀ w ∈ (s.tile k).barWait, w.off = off → ∀ p, w.ctx = some p →
        ∃ v, (arrived.ctx (p / 1024) (p % 1024)).c.phase = .granted v ∧ v.toNat % 2 ^ 32 = ({ b with pend := 0 } : BarObj).word0) ∧
      ∀ w ∈ (arrived.tile k).barWait, w.off ≠ off) ∧
    (b.pend = 0 → b.err = false → arrived.barObj k off = { b with err := true, ecode := 1 }) ∧
    (b.expect < 4095 → joined.2 = true ∧ joined.1.barObj k off = { b with expect := b.expect + 1, pend := min 4095 (b.pend + 1) }) ∧
    (b.expect = 4095 → b.err = false → joined.2 = false ∧ joined.1.barObj k off = { b with err := true, ecode := 5 })

namespace Sys2Proof.Claims

/-- The address of a barrier object passes (R141), no earlier acquire or vector instruction holds the instruction, and no watchpoint
stops it (R382). -/
def barReady (s : State) (ea : Word) (writes : Bool) : Prop :=
  s.isFresh = true ∧ s.acqHeld = false ∧ s.myTile.vecOpen s.curCtx = false ∧ ea.toNat % 16 = 0 ∧ ea.toNat ≤ 0x7FF0 ∧
  s.myTile.watchAt s.curCtx 0 ea.toNat 16 true writes = none
/-- A waiting instruction: the context waits for the answer. -/
def armed (s : State) (n : Nat) : State := s.updC fun c => { c with phase := .armed n, run := .waiting, waitOn := .answer }

end Sys2Proof.Claims

/-- R141 to R145: barrier instructions on an object of the own scratchpad. `bar.init` writes a new object with the expected count
pending; `bar.arr` reports word 0 before its arrival; `bar.wait` passes when the generation has moved on and else is held;
`bar.arw` arrives and is held, and passes when its arrival completes the phase; a held one passes with the word it is answered with;
`bar.st` reads the 16 bytes. -/
def Obligations.BarrierInstructionResults : Prop :=
  (∀ (s : State) (f : MAB), s.does f.h none .u [(f.a, .rx), (f.b, .rx)] = true →
    let ea := eaOf s f.a f.m
    let b := (s.rx f.b.num).toNat
    barReady s ea true → s.myTile.pad.wf = true → b < 2 ^ 32 → b / 2 ^ 12 % 16 = 0 → (s.barObj s.cur ea.toNat).insec = 0 → (s.barObj s.cur ea.toNat).outsec = 0 →
      (∀ w ∈ s.myTile.barWait, w.off ≠ ea.toNat) →
    ∃ t, exec (.barInit f) s = completes t f.h none ∧ t.tileRead s.cur 0 ea.toNat 16 = b % 4096 * 4097 + b / 65536 * 2 ^ 112 ∧ t.me = s.me ∧
      s.sameRegsBut t (fun _ => False)) ∧
  (∀ (s : State) (f : MDA), s.does f.h none .u [(f.d, .wx), (f.a, .rx)] = true → f.m.space ≠ 3 →
    let ea := eaOf s f.a f.m
    let w := (s.barObj s.cur ea.toNat).word0
    barReady s ea true → s.quietBut s.cur ea.toNat = true →
    exec (.barArr f) s = completes ((((s.barArrive s.cur ea.toNat).2.1).noteArrival s.cur s.curCtx false 0 ea.toNat w).wx f.d.num
      (BitVec.ofNat 64 w)) f.h none) ∧
  (∀ (s : State) (f : MDAB), s.does f.h none .u [(f.d, .wx), (f.a, .rx), (f.b, .rx)] = true → f.m.space ≠ 3 → (s.rx f.b.num).toNat < 16 →
    let ea := eaOf s f.a f.m
    let b := s.barObj s.cur ea.toNat
    barReady s ea false →
    exec (.barWait f) s =
      if b.gen ≠ (s.rx f.b.num).toNat then completes ((s.updY (·.passed (s.myTile.barTime.get 0 ea.toNat))).wx f.d.num (BitVec.ofNat 64 b.word0)) f.h none
      else .next (armed (s.holdOn ea.toNat) 0)) ∧
  (∀ (s : State) (f : MDA), s.does f.h none .u [(f.d, .wx), (f.a, .rx)] = true → f.m.space ≠ 3 →
    let ea := eaOf s f.a f.m
    let s1 := ((s.holdOn ea.toNat).barArrive s.cur ea.toNat).2.1.noteArrival s.cur s.curCtx false 0 ea.toNat (s.barObj s.cur ea.toNat).word0
    barReady s ea true → s.quietBut s.cur ea.toNat = true → (s.barObj s.cur ea.toNat).pend ≠ 0 →
    (∀ v, s1.me.c.phase = .granted v → exec (.barArw f) s = completes ((s1.passedAt v).wx f.d.num (v.setWidth 64)) f.h none) ∧
    (s1.me.c.phase = .fresh → exec (.barArw f) s = .next (armed s1 0))) ∧
  (∀ (s : State) (v : BitVec 128), s.me.c.phase = .granted v →
    (∀ f : MDA, s.does f.h none .u [(f.d, .wx), (f.a, .rx)] = true →
      exec (.barArr f) s = completes (s.wx f.d.num (v.setWidth 64)) f.h none ∧
      exec (.barArw f) s = completes ((s.passedAt v).wx f.d.num (v.setWidth 64)) f.h none) ∧
    (∀ f : MDAB, s.does f.h none .u [(f.d, .wx), (f.a, .rx), (f.b, .rx)] = true →
      exec (.barWait f) s = completes ((s.passedAt v).wx f.d.num (v.setWidth 64)) f.h none)) ∧
  (∀ (s : State) (f : MDA), s.does f.h none .u [(f.d, .wpair), (f.a, .rx)] = true → f.m.space ≠ 3 →
    let ea := eaOf s f.a f.m
    barReady s ea false →
    exec (.barSt f) s = completes ((s.wx f.d.num (BitVec.ofNat 64 (s.tileRead s.cur 0 ea.toNat 8))).wx (f.d.num + 1)
      (BitVec.ofNat 64 (s.tileRead s.cur 0 (ea.toNat + 8) 8))) f.h none)

/-- R147 to R151, where no watchpoint stops the access to the object (R382): `gjoin` reports 1 for a membership that the thread holds, 2 for a full table of eight, and else joins the object and
reports 0, or 3 when its count overflows. `gleave` reports 1 without a membership, and else withdraws it and reports 0. -/
def Obligations.GroupMembership : Prop :=
  ∀ (s : State) (op : BitVec 16), s.isFresh = true → s.acqHeld = false → s.myTile.vecOpen s.curCtx = false →
    s.myTile.watchAt s.curCtx 0 (op.toNat % 2048 * 16) 16 true true = none →
    let joined (d : Nat) (t : State) : Prop :=
      let has := ∃ m ∈ s.me.y.members, m.op = op
      (has → t = s.wx d 1) ∧ (¬ has → 8 ≤ s.me.y.members.length → t = s.wx d 2) ∧
      (¬ has → s.me.y.members.length < 8 → op.getLsbD 11 = false →
        let j := s.barJoin s.cur (op.toNat % 2048 * 16)
        t = if j.2 then (j.1.updY fun y => { y with members := y.members ++ [{ op := op, route := 0, gen := 0, arrived := false }] }).wx d 0
          else j.1.wx d 3)
    let left (d : Nat) (t : State) : Prop :=
      ((∀ m ∈ s.me.y.members, m.op ≠ op) → t = s.wx d 1) ∧
      ∀ m, s.me.y.members.find? (fun q => q.op == op) = some m → op.getLsbD 11 = false →
        t = ((s.updY fun y => { y with members := y.members.filter fun q => q.op != op }).barWithdraw s.cur (op.toNat % 2048 * 16) m.gen m.arrived).wx d 0
    let plainOp := (op.getLsbD 11 = false ∨ (∃ m ∈ s.me.y.members, m.op = op) ∨ 8 ≤ s.me.y.members.length)
    let leaveOp := s.allQuiet = true ∧ (op.getLsbD 11 = false ∨ ∀ m ∈ s.me.y.members, m.op ≠ op)
    (∀ f : SDA, s.does f.h (some f.t) .u [(f.d, .wx), (f.a, .rx)] = true → f.t.wen = false → s.rx f.a.num = op.setWidth 64 →
      (op.getLsbD 11 = true ∨ op.toNat < 4096) →
      (plainOp → ∃ t, exec (.gjoin f) s = completes t f.h (some f.t) ∧ joined f.d.num t) ∧
      (leaveOp → ∃ t, exec (.gleave f) s = completes t f.h (some f.t) ∧ left f.d.num t)) ∧
    (∀ f : ID, s.does f.h none .u [(f.d, .wx)] = true → f.imm = op.setWidth 32 →
      (plainOp → ∃ t, exec (.gjoinImm f) s = completes t f.h none ∧ joined f.d.num t) ∧
      (leaveOp → ∃ t, exec (.gleaveImm f) s = completes t f.h none ∧ left f.d.num t))

/-- R152 to R154: the lines of a cluster's event unit. A local `evsig` arrives at a barrier line, sets its expected count, signals an
event line or releases a mutex line of its holder; releasing another's raises fault 0x06. `evw` takes a free mutex, consumes a set
latch, completes a barrier phase that it is last to reach, and else is held; a held one passes with its answer. -/
def Sys2Proof.Claims.EventUnitResults : Prop :=
  (∀ (s : State) (w : Nat), evsigWordOk w = true → w / 512 % 2 = 0 →
    let ck := clusterKey s.cur
    let n := w % 64
    let act := w / 16384 % 4
    let l := s.line ck n
    let good (t : State) : Prop :=
      (act = 2 → t = s.setLine ck n { l with expected := w / 65536 % 256, count := 0 }) ∧
      (act = 0 → n < 16 → t = (s.lineArrive ck n).1) ∧ (act = 0 → 32 ≤ n → t = s.lineSignal ck n) ∧
      (act = 1 → t = s.lineRelease ck n false)
    let bad := act = 1 ∧ l.holder ≠ some (partyOf s.cur s.curCtx)
    (∀ f : SA, s.does f.h (some f.t) .u [(f.a, .rx)] = true → f.t.wen = false → (s.rx f.a.num).toNat = w →
      (¬ bad → ∃ t, exec (.evsig f) s = completes t f.h (some f.t) ∧ good t) ∧
      (bad → exec (.evsig f) s = .next (s.takeFault { cause := 0x06 }))) ∧
    (∀ f : I0, s.does f.h none .u [] = true → f.imm.toNat = w →
      (¬ bad → ∃ t, exec (.evsigImm f) s = completes t f.h none ∧ good t) ∧
      (bad → exec (.evsigImm f) s = .next (s.takeFault { cause := 0x06 })))) ∧
  (∀ (s : State) (f : MDA), s.does f.h none .u [(f.d, .wx), (f.a, .rx)] = true →
    let n := (eaOf s f.a f.m).toNat
    let ck := clusterKey s.cur
    let l := s.line ck n
    let pass (t : State) (v : Nat) (time : BitVec 48) : Out := completes ((t.updY (·.passed time)).wx f.d.num (BitVec.ofNat 64 v)) f.h none
    let queued (t : State) : State := t.setLine ck n { t.line ck n with queue := (t.line ck n).queue ++ [partyOf s.cur s.curCtx] }
    (s.isFresh = true → 64 ≤ n → exec (.evw f) s = .next (s.takeFault { cause := 0x14, address := eaOf s f.a f.m })) ∧
    (s.isFresh = true → n < 16 → l.count + 1 < l.expected → exec (.evw f) s = .next (armed (queued (s.lineArrive ck n).1) 0)) ∧
    (s.isFresh = true → n < 16 → l.expected ≤ l.count + 1 → exec (.evw f) s = pass (s.lineArrive ck n).1 (bit (!l.gen)) (s.gtime.setWidth 48)) ∧
    (s.isFresh = true → 16 ≤ n → n < 32 → exec (.evw f) s =
      if l.holder = none then pass (s.setLine ck n { l with holder := some (partyOf s.cur s.curCtx), abandoned := false }) (bit l.abandoned * 2 + 1) l.time
      else .next (armed (queued s) 0)) ∧
    (s.isFresh = true → 32 ≤ n → n < 64 → exec (.evw f) s =
      if l.latch then pass (s.setLine ck n { l with latch := false }) 1 l.time else .next (armed (queued s) 0)) ∧
    (∀ v, s.me.c.phase = .granted v → exec (.evw f) s = completes ((s.passedAt v).wx f.d.num (v.setWidth 64)) f.h none))

/-- R156, R157: `gbar` of a tree in which the context takes part arrives and waits, once everything earlier has performed; the tree's
release answers it. Of a tree in which it does not take part it raises fault 0x06, and of g56 to g63 below M fault 0x03. -/
def Sys2Proof.Claims.TreeBarrierResults : Prop :=
  (∀ (s : State) (f : ID), s.does f.h none .u [(f.d, .wx)] = true → f.imm.toNat < 64 →
    let g := f.imm.toNat
    (∀ v, s.me.c.phase = .granted v → exec (.gbar f) s = completes ((s.passedAt v).wx f.d.num (v.setWidth 64)) f.h none) ∧
    (s.isFresh = true → 56 ≤ g → s.me.c.level ≠ .m → exec (.gbar f) s = .next (s.takeFault { cause := 0x03 })) ∧
    (s.isFresh = true → g < 56 → (s.treeOwner g ≠ ownerOf s.cur ∨ (s.partSet s.cur g).getLsbD s.curCtx = false) →
      exec (.gbar f) s = .next (s.takeFault { cause := 0x06 })) ∧
    (s.isFresh = true → g < 56 → s.treeOwner g = ownerOf s.cur → (s.partSet s.cur g).getLsbD s.curCtx = true → s.free_ = true →
      exec (.gbar f) s = .next (armed (s.updMyTile fun t => t.arrive g s.curCtx false none s.gtime) (treeWait g false)))) ∧
  (∀ (s : State) (f : IDA), s.does f.h none .u [(f.d, .wx), (f.a, .rx)] = true → f.imm.toNat % 64 < 56 →
    let g := f.imm.toNat % 64
    let r := s.rx f.a.num
    (∀ v, s.me.c.phase = .granted v → exec (.gbarSs f) s = completes ((s.passedAt v).wx f.d.num (v.setWidth 64)) f.h none) ∧
    (s.isFresh = true → s.treeOwner g = ownerOf s.cur → (s.partSet s.cur g).getLsbD s.curCtx = true → s.free_ = true →
        s.stampedOpen s.cur s.curCtx = false → (f.a.num = 0 ∨ (r.toNat % 32 = 0 ∧ r.toNat ≤ 0x7FE0)) →
      exec (.gbarSs f) s =
        .next (armed (s.updMyTile fun t => t.arrive g s.curCtx true (if f.a.num = 0 then none else some r.toNat) s.gtime) (treeWait g true))))

/-- R152 to R158: event lines and tree barriers. -/
def Obligations.EventAndTreeResults : Prop := EventUnitResults ∧ TreeBarrierResults

/-! ### Semaphores, tags, fences -/

namespace Sys2Proof.Claims

/-- Instructions of one operand word and a destination: S-form, I-form, whether they act after the signals of their clock, whether the
word is legal, whether it passes at once, and what it does (R160, R162). -/
def wordRows : List ((SDA → Instr) × (ID → Instr) × Bool × (Word → Prop) × (State → Word → Prop) × (State → Nat → Word → State)) :=
  let n (w : Word) : Nat := w.toNat % 256
  let v (w : Word) : Nat := w.toNat / 256 % 65536
  [(.semwt, .semwtImm, false, fun w => w.toNat < 2 ^ 25, fun s w => v w ≤ s.sem s.cur (n w), fun s d w =>
      let s1 := (s.passedSem (n w)).wx d (BitVec.ofNat 64 (s.sem s.cur (n w)))
      if w.getLsbD 24 then s1.setSem s.cur (n w) (s.sem s.cur (n w) - v w) else s1),
   (.semrd, .semrdImm, true, fun w => w.toNat < 256, fun _ _ => True, fun s d w => s.wx d (BitVec.ofNat 64 (s.sem s.cur (n w)))),
   (.semset, .semsetImm, true, fun w => w.toNat < 2 ^ 24, fun _ _ => True, fun s d w =>
      (s.setSem s.cur (n w) (v w)).wx d (BitVec.ofNat 64 (s.sem s.cur (n w)))),
   (.tagwa, .tagwaImm, false, fun _ => True, fun s w => s.myTile.tagbits &&& w ≠ 0 ∨ w = 0, fun s d w =>
      (if w = 0 then s else s.updY (·.passed (s.myTile.tagsTime (s.myTile.tagbits &&& w)))).wx d (s.myTile.tagbits &&& w)),
   (.tagwl, .tagwlImm, false, fun _ => True, fun s w => s.myTile.tagbits &&& w = w, fun s d w =>
      (if w = 0 then s else s.updY (·.passed (s.myTile.tagsTime (s.myTile.tagbits &&& w)))).wx d (s.myTile.tagbits &&& w)),
   (.tagff, .tagffImm, false, fun _ => True, fun _ _ => True, fun s d w =>
      s.wx d (match (List.range 64).find? fun i => (s.myTile.tagbits &&& w).getLsbD i with
        | some i => BitVec.ofNat 64 i
        | none => BitVec.allOnes 64))]
/-- The state after a signal of `inc` to semaphore n of the tile (R29). -/
def signalled (s : State) (n inc : Nat) : State :=
  (s.updMyTile fun t => { t with semTime := t.semTime.set n (s.gtime.setWidth 48) }).setSem s.cur n (min (s.sem s.cur n + inc) 0xFFFF)

end Sys2Proof.Claims

/-- R160, R162: semaphore and tag instructions in both forms. A wait passes on its condition, and else the context waits for it; an
illegal operand word raises fault 0x02. `semrd` and `semset` act after the signal of their own tail. A `semsg`, or that signal, past
0xFFFF saturates and raises fault 0x0F. -/
def Obligations.SemaphoreAndTagResults : Prop :=
  (∀ row ∈ wordRows,
    (∀ (s : State) (f : SDA), s.does f.h (some f.t) .u [(f.d, .wx), (f.a, .rx)] = true → f.t.wen = false →
      let w := s.rx f.a.num
      let legal := row.2.2.2.1 w
      let passes := row.2.2.2.2.1 s w
      let effect (s : State) : State := row.2.2.2.2.2 s f.d.num w
      (legal → passes → row.2.2.1 = false ∨ f.t.sen = false → exec (row.1 f) s = completes (effect s) f.h (some f.t)) ∧
      (legal → passes → row.2.2.1 = true → f.t.sen = true →
        let t := effect (signalled s f.t.ssem.toNat f.t.inc)
        exec (row.1 f) s =
          if s.sem s.cur f.t.ssem.toNat + f.t.inc ≤ 0xFFFF then completes t f.h none else .next (t.takeFault { cause := 0x0F })) ∧
      (legal → ¬ passes → ∃ w, exec (row.1 f) s = .next (s.updC fun c => { c with run := .waiting, waitOn := w }) ∧ s.holds s.cur s.curCtx w = false) ∧
      (¬ legal → exec (row.1 f) s = .next (s.takeFault { cause := 0x02 }))) ∧
    (∀ (s : State) (f : ID), s.does f.h none .u [(f.d, .wx)] = true → row.2.2.2.2.1 s (f.imm.setWidth 64) →
      exec (row.2.1 f) s = completes (row.2.2.2.2.2 s f.d.num (f.imm.setWidth 64)) f.h none)) ∧
  (∀ (s : State) (w : Word),
    let n := w.toNat % 256
    let sum := s.sem s.cur n + w.toNat / 256 % 65536
    let t := signalled s n (w.toNat / 256 % 65536)
    (∀ f : SA, s.does f.h (some f.t) .u [(f.a, .rx)] = true → f.t.wen = false → s.rx f.a.num = w → w.toNat < 2 ^ 24 →
      exec (.semsg f) s = if sum ≤ 0xFFFF then completes t f.h (some f.t) else .next (t.takeFault { cause := 0x0F })) ∧
    (∀ f : I0, s.does f.h none .u [] = true → f.imm.setWidth 64 = w →
      exec (.semsgImm f) s = if sum ≤ 0xFFFF then completes t f.h none else .next (t.takeFault { cause := 0x0F }))) ∧
  (∀ (s : State) (w : Word),
    let clear (s : State) : State := s.updMyTile fun t => { t with tagbits := t.tagbits &&& ~~~w, tagerr := t.tagerr &&& ~~~w }
    (∀ f : SA, s.does f.h (some f.t) .u [(f.a, .rx)] = true → s.rx f.a.num = w →
      exec (.tagclr f) s = completes (clear (s.passWait (some f.t))) f.h (some f.t)) ∧
    (∀ f : I0, s.does f.h none .u [] = true → f.imm.setWidth 64 = w → exec (.tagclrImm f) s = completes (clear s) f.h none))

/-- R107, R163 to R165: `fnc` takes the free slot with the lowest number for the accesses issued so far, which the number that it takes
for itself parts from later ones, and reports slot and serial;
`fwait` passes once the accesses that its fence covers have performed, and else waits for the slot; `settle` waits for the stamped
operations to the address's home slice. -/
def Obligations.FenceResults : Prop :=
  (∀ (s : State) (f : ID) (n : Nat), s.does f.h none .u [(f.d, .wx)] = true → n < 4 →
    let free (i : Nat) : Prop := s.fenceFree s.cur s.curCtx (s.me.y.fences.get .reset i) = true
    free n → (∀ i, i < n → ¬ free i) →
    ∃ e : Fence, exec (.fnc f) s = completes ((({ s with nextId := s.nextId + 1 } : State).updY fun y => { y with fences := y.fences.set n e, fserial := y.fserial + 1 }).wx f.d.num
        (BitVec.ofNat 64 (s.me.y.fserial.toNat * 4 + n))) f.h none ∧
      e.used = true ∧ e.serial = s.me.y.fserial ∧ e.upto = s.nextId + 1 ∧ e.ld = f.imm.getLsbD 2 ∧ e.st = f.imm.getLsbD 3 ∧ e.eng = f.imm.getLsbD 4 ∧
      e.scope = f.imm.setWidth 2) ∧
  (∀ (s : State) (f : SA), s.does f.h (some f.t) .u [(f.a, .rx)] = true → f.t.wen = false → (s.rx f.a.num).toNat < 2 ^ 32 →
    let n := (s.rx f.a.num).toNat % 4
    let e := s.me.y.fences.get .reset n
    let mine := e.used = true ∧ e.serial.toNat = (s.rx f.a.num).toNat / 4
    (¬ mine → exec (.fwait f) s = completes (s.updY fun y => { y with region := y.region + 1 }) f.h (some f.t)) ∧
    (mine → s.fenceFree s.cur s.curCtx e = true → exec (.fwait f) s = completes (s.updY fun y => y.fencePass e (s.taken s.cur e.scope true)) f.h (some f.t)) ∧
    (mine → s.fenceFree s.cur s.curCtx e = false →
      exec (.fwait f) s = .next (s.updC fun c => { c with run := .waiting, waitOn := .fence n e.serial }))) ∧
  (∀ (s s1 : State) (f : MA) (pa slot h row : Nat) (w : Bool), s.does f.h none .u [(f.a, .rx)] = true →
    let ea := eaOf s f.a f.m
    ea.toNat < 2 ^ 57 → s.xlate s.cur .data s.me.c.level ea.toNat false false = .ok pa w slot s1 → destOf pa = some (.slice h, row) →
    exec (.settle f) s = if s.stampedTo h then .next s else completes s1 f.h none)

/-! ### Vector instructions -/

namespace Sys2Proof.Claims

/-- The command that an instruction queues, with what it captures at its issue (R13, R182, R188). -/
def vcmd (s : State) (op : VOp) (d a b : Nat) (va vb : Word) (space : BitVec 2) (sig : Option (BitVec 8 × Nat)) : VCmd :=
  { cap := s.capture.1, op := op, d := BitVec.ofNat 8 d, a := BitVec.ofNat 8 a, b := BitVec.ofNat 8 b, va := va, vb := vb, space := space,
    vl := s.me.r.vl, msel := s.me.r.msel, win := s.me.r.win, xbase := s.me.r.xbase, vbase := s.me.r.vbase, sig := sig }
/-- The state with a command behind those of the front queue. -/
def vqueued (s : State) (q : VCmd) : State := s.capture.2.updMyTile fun t => { t with vq := t.vq ++ [q] }
/-- How an instruction with a tail ends that queues a command: at once, or it waits while the queue holds two (R12, R188). -/
def queues (s : State) (h : Head) (t : Option STail) (op : VOp) (d a b : Nat) (va vb : Word) (space : BitVec 2) : Out :=
  if 2 ≤ s.myTile.vq.length then .next s
  else completes (vqueued (s.passWait t) (vcmd (s.passWait t) op d a b va vb space (match t with | some t => t.doneSig | none => none))) h t true

/-- `op dst, srcA, srcB` with the classes of the three (R193 to R207). -/
noncomputable def vThreeRows : List ((SDAB → Instr) × VOp × Cls × Cls) :=
  [(.vaddI, .vaddI, .v 0, .v 0), (.vsubI, .vsubI, .v 0, .v 0), (.vmulI, .vmulI, .v 0, .v 0), (.vminI, .vminI, .v 0, .v 0),
   (.vmaxI, .vmaxI, .v 0, .v 0), (.vand, .vand, .v 0, .v 0), (.vor, .vor, .v 0, .v 0), (.vxor, .vxor, .v 0, .v 0),
   (.vshl, .vshl, .v 0, .v 0), (.vshr, .vshr, .v 0, .v 0), (.vsra, .vsra, .v 0, .v 0), (.vaddF, .vaddF, .v 0, .v 0),
   (.vsubF, .vsubF, .v 0, .v 0), (.vmulF, .vmulF, .v 0, .v 0), (.vfmaF, .vfmaF, .v 0, .v 0), (.vfnmaF, .vfnmaF, .v 0, .v 0),
   (.vminF, .vminF, .v 0, .v 0), (.vmaxF, .vmaxF, .v 0, .v 0), (.vdivF, .vdivF, .v 0, .v 0), (.vfmaBf, .vfmaBf, .v 0, .v 0),
   (.vsel, .vsel, .v 0, .v 0), (.vperm, .vperm, .v 0, .v 0), (.vcmul, .vcmul, .v 0, .v 0), (.vzip, .vzip, .v 1, .v 0),
   (.vunzip, .vunzip, .v 1, .v 0), (.vsplit, .vsplit, .v 2, .v 0), (.vcmpEq, .vcmpEq, .vm, .v 0), (.vcmpLt, .vcmpLt, .vm, .v 0),
   (.vcmpLe, .vcmpLe, .vm, .v 0), (.vcmpFlt, .vcmpFlt, .vm, .v 0), (.vcmpFle, .vcmpFle, .vm, .v 0), (.vcmpFun, .vcmpFun, .vm, .v 0),
   (.vmand, .vmand, .vm, .vm), (.vmor, .vmor, .vm, .vm), (.vmxor, .vmxor, .vm, .vm)]
/-- `op dst, srcA`. -/
noncomputable def vTwoRows : List ((SDA → Instr) × VOp × Cls × Cls) :=
  [(.vabsF, .vabsF, .v 0, .v 0), (.vnegF, .vnegF, .v 0, .v 0), (.vsqrtF, .vsqrtF, .v 0, .v 0), (.vrcpF, .vrcpF, .v 0, .v 0),
   (.vrsqF, .vrsqF, .v 0, .v 0), (.vexp2F, .vexp2F, .v 0, .v 0), (.vlog2F, .vlog2F, .v 0, .v 0), (.vrnsTo, .vrnsTo, .v 0, .v 0),
   (.vrnsFrom, .vrnsFrom, .v 0, .v 0), (.vmov, .vmov, .v 0, .v 0), (.vscanAddI, .vscanAddI, .v 0, .v 0),
   (.vscanAddF, .vscanAddF, .v 0, .v 0), (.vredAddF, .vredAddF, .wx, .v 0), (.vredAddI, .vredAddI, .wx, .v 0),
   (.vredMinF, .vredMinF, .wx, .v 0), (.vredMaxF, .vredMaxF, .wx, .v 0), (.vredMinI, .vredMinI, .wx, .v 0),
   (.vredMaxI, .vredMaxI, .wx, .v 0), (.vmnot, .vmnot, .vm, .vm), (.vmpop, .vmpop, .wx, .vm)]
/-- `op vd, va, imm`. -/
noncomputable def vImmRows : List ((IDA → Instr) × VOp) :=
  [(.vshlImm, .vshlImm), (.vshrImm, .vshrImm), (.vsraImm, .vsraImm), (.vrotImm, .vrot)]
/-- `op vd, va, xb` with a control word below a bound (R198, R200). -/
noncomputable def vControlRows : List ((SDAB → Instr) × VOp × Nat) :=
  [(.vrot, .vrot, 2 ^ 64), (.vcvt, .vcvt, 0x0B), (.vquant, .vquant, 3), (.vdequant, .vdequant, 3)]

end Sys2Proof.Claims

/-- R12, R186, R188, R193 to R207: a lane instruction is queued with its register numbers and the scalar values that it captures, or
waits while two are queued. A control word out of range raises fault 0x02. -/
def Sys2Proof.Claims.VectorCommandsAreQueued : Prop :=
  (∀ (s : State) (f : SDAB), ∀ row ∈ vThreeRows,
    s.does f.h (some f.t) .u [(f.d, row.2.2.1), (f.a, row.2.2.2), (f.b, row.2.2.2)] = true →
    exec (row.1 f) s = queues s f.h (some f.t) row.2.1 f.d.num f.a.num f.b.num 0 0 0) ∧
  (∀ (s : State) (f : SDA), ∀ row ∈ vTwoRows, s.does f.h (some f.t) .u [(f.d, row.2.2.1), (f.a, row.2.2.2)] = true →
    exec (row.1 f) s = queues s f.h (some f.t) row.2.1 f.d.num f.a.num 0 0 0 0) ∧
  (∀ (s : State) (f : IDA), ∀ row ∈ vImmRows, s.does f.h none .u [(f.d, .v 0), (f.a, .v 0)] = true →
    exec (row.1 f) s = queues s f.h none row.2 f.d.num f.a.num 0 0 (f.imm.setWidth 64) 0) ∧
  (∀ (s : State) (f : SDAB), ∀ row ∈ vControlRows, s.does f.h (some f.t) .u [(f.d, .v 0), (f.a, .v 0), (f.b, .rx)] = true →
    exec (row.1 f) s = if (s.rx f.b.num).toNat < row.2.2 then queues s f.h (some f.t) row.2.1 f.d.num f.a.num 0 0 (s.rx f.b.num) 0
      else .next (s.takeFault { cause := 0x02 }))

/-- R185, R205, R224: the vector instructions with a scalar operand. A lane number above 31 in a register raises fault 0x02. `vsetvl`
executes in the core: it clamps the length to 1 to 32, keeps it for 0, and reports length, mask and whether it was 0. -/
def Sys2Proof.Claims.VectorScalarMoves : Prop :=
  (∀ (s : State) (f : SDA), s.does f.h (some f.t) .u [(f.d, .v 0), (f.a, .rx)] = true →
    exec (.vbcast f) s = queues s f.h (some f.t) .vbcast f.d.num 0 0 (s.rx f.a.num) 0 0 ∧
    exec (.viota f) s = queues s f.h (some f.t) .viota f.d.num 0 0 (s.rx f.a.num) 0 0 ∧
    exec (.mxrd f) s = if (s.rx f.a.num).toNat < 64 then queues s f.h (some f.t) .mxrd f.d.num 0 0 0 (s.rx f.a.num) 0
      else .next (s.takeFault { cause := 0x02 })) ∧
  (∀ (s : State) (f : ID), s.does f.h none .u [(f.d, .v 0)] = true →
    exec (.vbcastImm f) s = queues s f.h none .vbcast f.d.num 0 0 (f.imm.setWidth 64) 0 0 ∧
    (f.imm.toNat < 64 → exec (.mxrdImm f) s = queues s f.h none .mxrd f.d.num 0 0 0 (f.imm.setWidth 64) 0)) ∧
  (∀ (s : State) (f : SDAB), s.does f.h (some f.t) .u [(f.d, .wx), (f.a, .v 0), (f.b, .rx)] = true →
    exec (.vmovx f) s = if (s.rx f.b.num).toNat < 32 then queues s f.h (some f.t) .vmovx f.d.num f.a.num 0 0 (s.rx f.b.num) 0
      else .next (s.takeFault { cause := 0x02 })) ∧
  (∀ (s : State) (f : IDA), s.does f.h none .u [(f.d, .wx), (f.a, .v 0)] = true →
    exec (.vmovxImm f) s = queues s f.h none .vmovx f.d.num f.a.num 0 0 (f.imm.setWidth 64) 0) ∧
  (∀ (s : State) (f : SDAB), s.does f.h (some f.t) .u [(f.d, .v 0), (f.a, .rx), (f.b, .rx)] = true →
    exec (.vmovv f) s = if (s.rx f.b.num).toNat < 32 then queues s f.h (some f.t) .vmovv f.d.num 0 0 (s.rx f.a.num) (s.rx f.b.num) 0
      else .next (s.takeFault { cause := 0x02 })) ∧
  (∀ (s : State) (f : IDA), s.does f.h none .u [(f.d, .v 0), (f.a, .rx)] = true →
    exec (.vmovvImm f) s = queues s f.h none .vmovv f.d.num 0 0 (s.rx f.a.num) (f.imm.setWidth 64) 0) ∧
  (∀ (s : State) (f : SAB), s.does f.h (some f.t) .u [(f.a, .v 0), (f.b, .rx)] = true → (s.rx f.b.num).toNat < 32 →
    exec (.mxwr f) s = queues s f.h (some f.t) .mxwr 0 f.a.num 0 0 (s.rx f.b.num) 0) ∧
  (∀ (s : State) (f : IA), s.does f.h none .u [(f.a, .v 0)] = true → f.imm.toNat < 32 →
    exec (.mxwrImm f) s = queues s f.h none .mxwr 0 f.a.num 0 0 (f.imm.setWidth 64) 0) ∧
  (∀ (s : State) (n : Nat) (k : BitVec 3),
    let vl : BitVec 6 := if n = 0 then s.me.r.vl else if 32 < n then 32 else BitVec.ofNat 6 n
    let word : Word := BitVec.ofNat 64 (vl.toNat + 256 * k.toNat + (if n = 0 then 65536 else 0))
    (∀ f : SDAB, s.does f.h (some f.t) .u [(f.d, .wx), (f.a, .rx), (f.b, .vm)] = true → f.t.wen = false → (s.rx f.a.num).toNat = n →
      f.b.num = k.toNat →
      exec (.vsetvl f) s = completes ((s.updR fun r => { r with vl := vl, msel := k }).wx f.d.num word) f.h (some f.t)) ∧
    (∀ f : ID, s.does f.h none .u [(f.d, .wx)] = true → f.imm.toNat % 65536 = n → f.imm.toNat / 65536 % 8 = k.toNat →
      exec (.vsetvlImm f) s = completes ((s.updR fun r => { r with vl := vl, msel := k }).wx f.d.num word) f.h none))

namespace Sys2Proof.Claims

/-- Lane i of a vector register. -/
def laneOf (v : BitVec 1024) (i : Nat) : BitVec 32 := (v >>> (32 * i)).setWidth 32
/-- Lane i is active for the moving context (R186). -/
def activeNow (s : State) (i : Nat) : Prop := i < 32 ∧ i < s.me.r.vl.toNat ∧ (s.me.r.vm s.me.r.msel.toNat).getLsbD i = true
/-- Every active lane's address is aligned and inside its space of tile memory (R190), and nothing holds the access. -/
def lanesOk (s : State) (space : BitVec 2) (indexed : Bool) (addr : Nat → Word) : Prop :=
  s.acqHeld = false ∧ space.toNat < 2 ∧ (s.me.r.msel ≠ 0 → s.myTile.vecOpen s.curCtx = false) ∧
  (indexed = true → s.myTile.vecOpen s.curCtx = false) ∧
  ∀ i, activeNow s i → (addr i).toNat % 4 = 0 ∧ (addr i).toNat + 4 ≤ limitOf space
/-- The address of lane i of an indexed form. -/
def indexAt (s : State) (ea : Word) (n i : Nat) : Word := ea + (laneOf (s.rv n) i).signExtend 64

end Sys2Proof.Claims

/-- R190 to R192: a vector load or store checks the address of every active lane, base + 4 · lane, base + stride · lane or base +
index, and is queued; a misaligned active lane raises fault 0x04 that names the lowest such lane. -/
def Sys2Proof.Claims.VectorAccessesAreQueued : Prop :=
  (∀ (s : State) (f : MDA), s.does f.h none .u [(f.d, .v 0), (f.a, .rx)] = true →
    let ea := eaOf s f.a f.m
    let addr (i : Nat) : Word := ea + BitVec.ofNat 64 (4 * i)
    (lanesOk s f.m.space false addr → exec (.vld f) s = queues s f.h none .vld f.d.num 0 0 ea 4 f.m.space) ∧
    (s.acqHeld = false → s.me.r.msel = 0 → ∀ i, activeNow s i → (addr i).toNat % 4 ≠ 0 → (∀ j, j < i → activeNow s j → (addr j).toNat % 4 = 0) →
      exec (.vld f) s = .next (s.takeFault { cause := 0x04, address := addr i, detail := BitVec.ofNat 64 i }))) ∧
  (∀ (s : State) (f : MDAB), s.does f.h none .u [(f.d, .v 0), (f.a, .rx), (f.b, .rx)] = true →
    let ea := eaOf s f.a f.m
    lanesOk s f.m.space false (fun i => ea + BitVec.ofNat 64 i * s.rx f.b.num) →
    exec (.vlds f) s = queues s f.h none .vlds f.d.num 0 0 ea (s.rx f.b.num) f.m.space) ∧
  (∀ (s : State) (f : MDAB), s.does f.h none .u [(f.d, .v 0), (f.a, .rx), (f.b, .v 0)] = true →
    let ea := eaOf s f.a f.m
    (lanesOk s f.m.space true (indexAt s ea f.b.num) → exec (.vldx f) s = queues s f.h none .vldx f.d.num 0 f.b.num ea 0 f.m.space) ∧
    (lanesOk s f.m.space true (indexAt s ea f.d.num) → exec (.vstx f) s = queues s f.h none .vstx f.d.num 0 f.b.num ea 0 f.m.space)) ∧
  (∀ (s : State) (f : MAB), s.does f.h none .u [(f.a, .rx), (f.b, .v 0)] = true →
    let ea := eaOf s f.a f.m
    lanesOk s f.m.space false (fun i => ea + BitVec.ofNat 64 (4 * i)) → exec (.vst f) s = queues s f.h none .vst 0 0 f.b.num ea 4 f.m.space) ∧
  (∀ (s : State) (f : MDAB), s.does f.h none .u [(f.d, .rx), (f.a, .rx), (f.b, .v 0)] = true →
    let ea := eaOf s f.a f.m
    lanesOk s f.m.space false (fun i => ea + BitVec.ofNat 64 i * s.rx f.d.num) →
    exec (.vsts f) s = queues s f.h none .vsts 0 0 f.b.num ea (s.rx f.d.num) f.m.space)

/-- R12, R185 to R207, R224: vector instructions and accesses join the queue of the engine; the moves between its registers and scalars. -/
def Obligations.VectorInstructionsAreQueued : Prop := VectorCommandsAreQueued ∧ VectorScalarMoves ∧ VectorAccessesAreQueued

namespace Sys2Proof.Claims

/-- Lane operations: the value of lane i from the lanes of the sources, the captured values and i (R193, R203 to R205). -/
def laneRows : List (VOp × (VCmd → (Nat → BitVec 32) → (Nat → BitVec 32) → Nat → BitVec 32)) :=
  [(.vaddI, fun _ a b i => a i + b i), (.vsubI, fun _ a b i => a i - b i), (.vmulI, fun _ a b i => a i * b i),
   (.vminI, fun _ a b i => if (b i).slt (a i) then b i else a i), (.vmaxI, fun _ a b i => if (a i).slt (b i) then b i else a i),
   (.vand, fun _ a b i => a i &&& b i), (.vor, fun _ a b i => a i ||| b i), (.vxor, fun _ a b i => a i ^^^ b i),
   (.vshl, fun _ a b i => a i <<< ((b i).toNat % 32)), (.vshr, fun _ a b i => a i >>> ((b i).toNat % 32)),
   (.vsra, fun _ a b i => (a i).sshiftRight ((b i).toNat % 32)), (.vshlImm, fun q a _ i => a i <<< (q.vb.toNat % 32)),
   (.vshrImm, fun q a _ i => a i >>> (q.vb.toNat % 32)), (.vsraImm, fun q a _ i => (a i).sshiftRight (q.vb.toNat % 32)),
   (.vbcast, fun q _ _ _ => q.va.setWidth 32), (.viota, fun q _ _ i => q.va.setWidth 32 + BitVec.ofNat 32 i),
   (.vmov, fun _ a _ i => a i), (.vperm, fun _ a b i => a ((b i).toNat % 32)), (.vrot, fun q a _ i => a ((i + q.vb.toNat) % 32))]
/-- FP32 lane operations without the flush modes (R194). -/
def laneFpRows : List (VOp × (RM → Nat → Nat → FRes)) :=
  [(.vaddF, fpAdd), (.vsubF, fpSub), (.vmulF, fpMul), (.vdivF, fpDiv), (.vminF, fun _ => fpMinMax false), (.vmaxF, fun _ => fpMinMax true)]
/-- The head of the vector queue of tile k can execute: no shift of a turn, no fence, no image being saved, no poison it reads. -/
def vecReady (s : State) (k : Nat) (q : VCmd) (rest : List VCmd) : Prop :=
  (s.tile k).vq = q :: rest ∧ s.turn.phase ≠ .shift ∧ (s.tile k).fenced = false ∧ (s.ctx k q.cap.ctx).c.saving = false ∧
  ∀ n ∈ q.reads, (s.tile k).vPoison.contains (q.vbase + n) = false
/-- The lanes that a command acts on (R186). -/
def actsOn (s : State) (k : Nat) (q : VCmd) (i : Nat) : Bool :=
  decide (i < q.vl.toNat) && ((s.ctx k q.cap.ctx).r.vm q.msel.toNat).getLsbD i
/-- A source register's lanes. -/
def srcLanes (s : State) (k : Nat) (q : VCmd) (n : BitVec 8) (i : Nat) : BitVec 32 := laneOf ((s.tile k).vr.get 0 (q.vbase + n.toNat)) i

end Sys2Proof.Claims

/-- R186, R188, R193, R194, R203 to R205: the vector engine executes the head of its queue whole: each active lane of the destination
takes the operation's value of the lanes, every other lane and register keeps its own, and the command leaves the queue. An empty
queue leaves everything as it is. -/
def Sys2Proof.Claims.VectorLanesAreWritten : Prop :=
  (∀ (s : State) (k : Nat), (s.tile k).vq = [] → exec (.vectorInstructionExecute k) s = .next s) ∧
  (∀ (s : State) (k : Nat) (q : VCmd) (rest : List VCmd), vecReady s k q rest → ∀ row ∈ laneRows, q.op = row.1 →
    ∃ t, exec (.vectorInstructionExecute k) s = .next t ∧ (t.tile k).vq = rest ∧
      (∀ i, i < 32 → srcLanes t k q q.d i = if actsOn s k q i then row.2 q (srcLanes s k q q.a) (srcLanes s k q q.b) i else srcLanes s k q q.d i) ∧
      ∀ n, n ≠ q.vbase + q.d.toNat → (t.tile k).vr.get 0 n = (s.tile k).vr.get 0 n) ∧
  (∀ (s : State) (k : Nat) (q : VCmd) (rest : List VCmd), vecReady s k q rest → q.cap.rmode &&& 0x180 = 0 → ∀ row ∈ laneFpRows, q.op = row.1 →
    ∃ t, exec (.vectorInstructionExecute k) s = .next t ∧ (t.tile k).vq = rest ∧
      ∀ i, i < 32 → srcLanes t k q q.d i = if actsOn s k q i then
        BitVec.ofNat 32 (row.2 (arnd q.cap.rmode) (srcLanes s k q q.a i).toNat (srcLanes s k q q.b i).toNat).1 else srcLanes s k q q.d i)

/-- R188, R191, R192: an executing unit-stride load of the tile store, with no poison under its active lanes, writes each from its
address; a store writes each active lane's word to its address and no other byte of the tile store. -/
def Sys2Proof.Claims.VectorEngineAccesses : Prop :=
  (∀ (s : State) (k : Nat) (q : VCmd) (rest : List VCmd), vecReady s k q rest → q.op = .vld → q.space = 1 →
    (∀ i, i < 32 → actsOn s k q i = true → s.tilePoison k 1 (q.va + BitVec.ofNat 64 i * q.vb).toNat 4 = none) →
    ∃ t, exec (.vectorInstructionExecute k) s = .next t ∧ (t.tile k).vq = rest ∧
      ∀ i, i < 32 → srcLanes t k q q.d i = if actsOn s k q i then BitVec.ofNat 32 (s.tileRead k 1 (q.va + BitVec.ofNat 64 i * q.vb).toNat 4)
        else srcLanes s k q q.d i) ∧
  (∀ (s : State) (k : Nat) (q : VCmd) (rest : List VCmd), vecReady s k q rest → q.op = .vst → q.space = 1 → (s.tile k).store.wf = true →
    q.vb = 4 → q.va.toNat + 128 ≤ 0x60000 →
    (∀ i, i < 32 → actsOn s k q i = true → s.tilePoison k 1 (q.va.toNat + 4 * i) 4 = none) →
    ∃ t, exec (.vectorInstructionExecute k) s = .next t ∧ (t.tile k).vq = rest ∧
      (∀ i, i < 32 → actsOn s k q i = true → t.tileRead k 1 (q.va.toNat + 4 * i) 4 = (srcLanes s k q q.b i).toNat) ∧
      ∀ a, (∀ i, i < 32 → actsOn s k q i = true → a < q.va.toNat + 4 * i ∨ q.va.toNat + 4 * i + 4 ≤ a) →
        (t.tile k).store.read a = (s.tile k).store.read a)

/-- R186, R190 to R205: what the vector engine does with the head of its queue. -/
def Obligations.VectorEngineExecutes : Prop := VectorLanesAreWritten ∧ VectorEngineAccesses

/-! ### The matrix and copy engines -/

namespace Sys2Proof.Claims

/-- The record at offset a of the own scratchpad can be read at once (R72, R94, R223): aligned, inside, present, not poisoned. -/
def recordAt (s : State) (a : Word) : Prop :=
  s.isFresh = true ∧ a.toNat % 64 = 0 ∧ a.toNat ≤ 0x7FC0 ∧ s.myTile.missing a.toNat 64 = [] ∧ s.tilePoison s.cur 0 a.toNat 64 = none
/-- The 64 bytes there. -/
def recordBits (s : State) (a : Word) : BitVec 512 := BitVec.ofNat 512 (s.tileRead s.cur 0 a.toNat 64)
/-- The record in eight registers, x(n) lowest. -/
def registerBits (s : State) (n : Nat) : BitVec 512 :=
  s.rx (n + 7) ++ s.rx (n + 6) ++ s.rx (n + 5) ++ s.rx (n + 4) ++ s.rx (n + 3) ++ s.rx (n + 2) ++ s.rx (n + 1) ++ s.rx n
/-- Nothing holds a push (R103, R223). -/
def pushFree (s : State) : Prop := s.acqHeld = false ∧ s.myTile.vecOpen s.curCtx = false
/-- The state after a push of `b` to the matrix queue: the command stands last in the queue with what it captured, its tag is clear, and
no scalar register has changed. -/
def mxPushed (s t : State) (b : BitVec 512) (sig : Option (BitVec 8 × Nat)) : Prop :=
  (∃ q : MCmd, t.myTile.mq = s.myTile.mq ++ [q] ∧ q.bits = b ∧ q.cap = s.capture.1 ∧ q.sig = sig ∧ q.started = false ∧ q.stopped = false) ∧
  (∀ n, recTag b = some n → t.myTile.tagbits.getLsbD n = false) ∧ s.sameRegsBut t fun _ => False
/-- The same for the copy queue; a record that breaks no rule is not ended, and, but for PROOFSTREAM, moves a sector for every 256 bytes
of each row (R230). -/
def cpPushed (s t : State) (b : BitVec 512) (sig : Option (BitVec 8 × Nat)) : Prop :=
  (∃ q : CCmd, t.myTile.cq = s.myTile.cq ++ [q] ∧ q.bits = b ∧ q.cap = s.capture.1 ∧ q.sig = sig ∧ q.started = false ∧
    (cpBad b s.me.c.level false = 0 → cpKind b ≠ 6 → q.ended = none ∧ q.total = cpRows b * ((cpLen b + 255) / 256)) ∧
    (cpBad b s.me.c.level false ≠ 0 → ∃ c, q.ended = some (c, 0) ∧ c ≠ 0)) ∧
  (∀ n, recTag b = some n → t.myTile.tagbits.getLsbD n = false) ∧ s.sameRegsBut t fun _ => False

end Sys2Proof.Claims

/-- R12, R13, R211, R223, R235: `mxq` and `cpq` push the 64-byte record at an offset of the scratchpad, `mxqr` and `cpqr` one in eight
registers, when their queue has room. The command captures what it needs, and its tag is cleared. A misaligned offset raises fault 0x04,
one past the end fault 0x14. -/
def Obligations.EngineCommandsAreQueued : Prop :=
  (∀ (s : State) (f : SA), s.does f.h (some f.t) .u [(f.a, .rx)] = true → pushFree s → f.t.wen = false → s.myTile.mxFull = false →
    let a := s.rx f.a.num
    (recordAt s a → ∃ t, exec (.mxq f) s = completes t f.h (some f.t) true ∧ mxPushed s t (recordBits s a) f.t.doneSig) ∧
    (a.toNat % 64 ≠ 0 → exec (.mxq f) s = .next (s.takeFault { cause := 0x04, address := a })) ∧
    (a.toNat % 64 = 0 → 0x7FC0 < a.toNat → exec (.mxq f) s = .next (s.takeFault { cause := 0x14, address := a }))) ∧
  (∀ (s : State) (f : SA), s.does f.h (some f.t) .u [(f.a, .roct)] = true → pushFree s → f.t.wen = false → s.myTile.mxFull = false →
    ∃ t, exec (.mxqr f) s = completes t f.h (some f.t) true ∧ mxPushed s t (registerBits s f.a.num) f.t.doneSig) ∧
  (∀ (s : State) (f : SA), s.does f.h (some f.t) .u [(f.a, .rx)] = true → pushFree s → f.t.wen = false → s.myTile.cpFull = false →
      s.isFresh = true →
    let a := s.rx f.a.num
    (recordAt s a → recBarOk (recordBits s a) 0x34 = none →
      ∃ t, exec (.cpq f) s = completes t f.h (some f.t) true ∧ cpPushed s t (recordBits s a) f.t.doneSig) ∧
    (a.toNat % 64 ≠ 0 → exec (.cpq f) s = .next (s.takeFault { cause := 0x04, address := a })) ∧
    (a.toNat % 64 = 0 → 0x7FC0 < a.toNat → exec (.cpq f) s = .next (s.takeFault { cause := 0x14, address := a }))) ∧
  (∀ (s : State) (f : SA), s.does f.h (some f.t) .u [(f.a, .roct)] = true → pushFree s → f.t.wen = false → s.myTile.cpFull = false →
      s.isFresh = true → recBarOk (registerBits s f.a.num) 0x34 = none →
    ∃ t, exec (.cpqr f) s = completes t f.h (some f.t) true ∧ cpPushed s t (registerBits s f.a.num) f.t.doneSig)

/-- R225, R226, R236, R237: `eqst` reports a tag's error mark, bit and status, 0 while a command names it; `mxwm` the watermark, mode and
row count of an accumulator; `mxcap` the capabilities; `mxgate` sets the gate time that the next idle period takes; `cpkill` ends the
context's copy commands that its operand names. Operands out of range raise fault 0x02. -/
def Obligations.EngineStatusInstructions : Prop :=
  (∀ (s : State) (f : SDA), s.does f.h (some f.t) .u [(f.d, .wx), (f.a, .rx)] = true → f.t.wen = false →
    let n := (s.rx f.a.num).toNat
    (n < 64 → exec (.eqst f) s = completes (s.wx f.d.num (if s.myTile.tagOut.get 0 n ≠ 0 then 0
      else (0 : BitVec 30) ++ BitVec.ofBool (s.myTile.tagerr.getLsbD n) ++ BitVec.ofBool (s.myTile.tagbits.getLsbD n) ++ s.myTile.tagst.get 0 n))
        f.h (some f.t)) ∧
    (64 ≤ n → exec (.eqst f) s = .next (s.takeFault { cause := 0x02 })) ∧
    (n < 4 → exec (.mxwm f) s = completes (s.wx f.d.num (BitVec.ofNat 64 (s.myTile.watermark n +
      (if s.myTile.mx.rns.getLsbD n then 256 else 0) + s.myTile.mx.topCount n * 65536))) f.h (some f.t)) ∧
    (4 ≤ n → exec (.mxwm f) s = .next (s.takeFault { cause := 0x02 }))) ∧
  (∀ (s : State) (f : SD), s.does f.h (some f.t) .u [(f.d, .wx)] = true → f.t.wen = false →
    exec (.mxcap f) s = completes (s.wx f.d.num (s.myTile.mx.gate ++ (96 : BitVec 16) ++ (16 : BitVec 8) ++ (16 : BitVec 8) ++
      (if s.myTile.mx.gated then 11 else 3 : BitVec 8))) f.h (some f.t)) ∧
  (∀ (s : State) (a : Word),
    let gate (s : State) : State := s.updMyTile fun t => { t with mx := { t.mx with gateNext := a.setWidth 24 } }
    let cut (s : State) : State := s.cpKill s.cur s.curCtx fun q => a.getLsbD 6 || recTag q.bits == some (a.toNat % 64)
    (∀ f : SA, s.does f.h (some f.t) .u [(f.a, .rx)] = true → f.t.wen = false → s.rx f.a.num = a →
      exec (.mxgate f) s = (if a.toNat < 2 ^ 24 then completes (gate s) f.h (some f.t) else .next (s.takeFault { cause := 0x02 })) ∧
      exec (.cpkill f) s = (if a.toNat < 128 then completes (cut s) f.h (some f.t) else .next (s.takeFault { cause := 0x02 }))) ∧
    (∀ f : I0, s.does f.h none .u [] = true → f.imm.setWidth 64 = a →
      (a.toNat < 2 ^ 24 → exec (.mxgateImm f) s = completes (gate s) f.h none) ∧
      (a.toNat < 128 → exec (.cpkillImm f) s = completes (cut s) f.h none)))

namespace Sys2Proof.Claims

/-- The command q at the head of the matrix queue of tile k moves now: nothing pauses, stops, delays or saves it, and nothing of it is on
its way. It has done rows before, or it starts, with a legal record and mode, and waits for no semaphore. -/
def mxReady (s : State) (k : Nat) (q : MCmd) (rest : List MCmd) (kind : Nat) : Prop :=
  (s.tile k).mq = q :: rest ∧ mxKind q.bits = kind ∧ s.turn.phase ≠ .shift ∧ s.stopping = false ∧ (s.tile k).fenced = false ∧
  q.stopped = false ∧ q.asked = none ∧ q.failed = none ∧ s.engFlying k q.cap.id = false ∧ s.ownQueue k q.cap = false ∧
  (s.ctx k q.cap.ctx).c.saving = false ∧
  ((q.started = true ∧ q.fresh = false) ∨
   (q.started = false ∧ mxBad q.bits false = false ∧ mxModeBad (s.tile k).mx q.bits = false ∧ recWait q.bits = none ∧
    (s.tile k).moveOpen (recAcc q.bits) q.cap.id = false ∧ (s.tile k).parkedOpen (recAcc q.bits) q.cap.id = false))
/-- The command has completed with status 0: it has left the queue and its tag is set. -/
def mxDone (t : State) (k : Nat) (q : MCmd) (rest : List MCmd) : Prop :=
  (t.tile k).mq = rest ∧ ∀ n, recTag q.bits = some n → n < 64 → (t.tile k).tagbits.getLsbD n = true ∧ ((t.tile k).tagst.get 0 n).toNat % 256 = 0
/-- The command has ended at row m with an error code (R218 to R220): it has left the queue, and its tag is set, with the error mark, the
code and the row; accumulators and latch are as they were. -/
def mxStopped (s t : State) (k : Nat) (q : MCmd) (rest : List MCmd) (code m : Nat) : Prop :=
  (t.tile k).mq = rest ∧ (t.tile k).mx.acc = (s.tile k).mx.acc ∧ (t.tile k).mx.latch = (s.tile k).mx.latch ∧
  ∀ n, recTag q.bits = some n → n < 64 → (t.tile k).tagbits.getLsbD n = true ∧ (t.tile k).tagerr.getLsbD n = true ∧
    ((t.tile k).tagst.get 0 n).toNat % 256 = code ∧ ((t.tile k).tagst.get 0 n).toNat / 2 ^ 16 = m % 256
/-- The command has done a row: it stands at the head with its progress advanced, or, after its last row, has completed. -/
def mxRowDone (t : State) (k : Nat) (q : MCmd) (rest : List MCmd) : Prop :=
  if q.advance.rowsLeft = 0 then mxDone t k q rest
  else ∃ p, (t.tile k).mq = p :: rest ∧ p.bits = q.advance.bits ∧ p.cap = q.cap ∧ p.started = true ∧ p.stopped = false
/-- Byte address of row m of an address and stride field, `skip` bytes in (R220). -/
def rowAt (b : BitVec 512) (addr stride m skip : Nat) : Int := (recField b addr 8 % 2 ^ 57 : Nat) + (recStride b stride * m + skip)
/-- That row, of a format, lies in the tile store, aligned. -/
def rowInside (b : BitVec 512) (f addr stride m skip : Nat) : Prop :=
  recField b addr 8 / 2 ^ 62 = 1 ∧ 0 ≤ rowAt b addr stride m skip ∧ rowAt b addr stride m skip + mxRowBytes f ≤ 0x60000 ∧
    (rowAt b addr stride m skip).toNat % mxAlign f = 0
/-- And no byte of it is poisoned: it can be read. -/
def rowFine (s : State) (k : Nat) (b : BitVec 512) (f addr stride m skip : Nat) : Prop :=
  rowInside b f addr stride m skip ∧ s.tilePoison k 1 (rowAt b addr stride m skip).toNat (mxRowBytes f) = none
/-- What stops that row of the tile store at its checks: its alignment, the end of the space, poison (R72, R220). -/
def rowStops (s : State) (k : Nat) (b : BitVec 512) (f addr stride m code : Nat) : Prop :=
  let a := rowAt b addr stride m 0
  recField b addr 8 / 2 ^ 62 = 1 ∧ 0 ≤ a ∧
    ((a.toNat % mxAlign f ≠ 0 ∧ code = 0x23) ∨ (a.toNat % mxAlign f = 0 ∧ 0x60000 < a + mxRowBytes f ∧ code = 0x24) ∨
     (rowInside b f addr stride m 0 ∧ s.tilePoison k 1 a.toNat (mxRowBytes f) ≠ none ∧ code = 0x25))
/-- Element n of that row. -/
def elementAt (s : State) (k : Nat) (b : BitVec 512) (f addr stride m skip n : Nat) : Nat :=
  mxElem f (s.tileRead k 1 (rowAt b addr stride m skip).toNat (mxRowBytes f)) n
/-- Where the A operand of the row in progress starts within its row: at its k-block (R212). -/
def blockAt (b : BitVec 512) : Nat := mxBlock b * mxRowBytes (mxFa b)
/-- What a row of products adds to (R214): nothing where the command clears its accumulator first, before its first row. -/
def addendAt (s : State) (k : Nat) (q : MCmd) (m n : Nat) : Nat :=
  if mxClr q.bits = true ∧ mxBlock q.bits = 0 ∧ mxRow q.bits = 0 then 0 else (s.tile k).mx.el (mxAcc q.bits) m n
/-- Element n of the row in progress once its products with the weights w, of format lf, are added (R214, R217): in RNS mode exactly, as
residues; in FP32 with one rounding. -/
def productAt (s : State) (k : Nat) (q : MCmd) (lf : Nat) (w : Nat → Nat → Nat) (n : Nat) : Nat :=
  let b := q.bits
  let a (j : Nat) : Nat := elementAt s k b (mxFa b) 0x0C 0x14 (mxRow b) (blockAt b) j
  let rm := if (recField b 3 1).testBit 7 then rmOf (recField b 3 1 % 8) else RM.rne
  let c := addendAt s k q (mxRow b) n
  if (s.tile k).mx.rns.getLsbD (mxAcc b) then
    rnsOf (crt3 (rnsRead c) + ((List.range 16).map fun j => mxIntOf (mxFa b) (a j) * mxIntOf lf (w j n)).sum)
  else (mxAdd rm c ((List.range 16).map fun j => mulF (readFlushed (mxFmt (mxFa b)) (a j)) (readFlushed (mxFmt lf) (w j n)))).1 % 2 ^ 32

end Sys2Proof.Claims

/-- R209, R212, R213: ZERO clears its accumulator and its row counts, RNSMODE sets its mode and clears it. Every other accumulator and the
latch keep their contents. With no command, or one of another kind, at its head the engine does nothing for a kind. -/
def Sys2Proof.Claims.MatrixZeroAndMode : Prop :=
  (∀ (s : State) (k : Nat) (q : MCmd) (rest : List MCmd), mxReady s k q rest 4 → q.started = false →
    ∃ t, exec (.zero k) s = .next t ∧ mxDone t k q rest ∧ (t.tile k).mx.rns = (s.tile k).mx.rns ∧ (t.tile k).mx.latch = (s.tile k).mx.latch ∧
      (∀ r, r < 16 → (t.tile k).mx.pcount.get 0 (mxAcc q.bits * 16 + r) = 0) ∧
      (∀ a r, a ≠ mxAcc q.bits → r < 16 → (t.tile k).mx.pcount.get 0 (a * 16 + r) = (s.tile k).mx.pcount.get 0 (a * 16 + r)) ∧
      ∀ a r c, r < 16 → c < 16 → (t.tile k).mx.el a r c = if a = mxAcc q.bits then 0 else (s.tile k).mx.el a r c) ∧
  (∀ (s : State) (k : Nat) (q : MCmd) (rest : List MCmd), mxReady s k q rest 7 → q.started = false →
    ∃ t, exec (.rnsmode k) s = .next t ∧ mxDone t k q rest ∧ (t.tile k).mx.latch = (s.tile k).mx.latch ∧
      (∀ a, a < 4 → (t.tile k).mx.rns.getLsbD a = if a = mxAcc q.bits then (recField q.bits 2 1).testBit 3 else (s.tile k).mx.rns.getLsbD a) ∧
      ∀ a r c, r < 16 → c < 16 → (t.tile k).mx.el a r c = if a = mxAcc q.bits then 0 else (s.tile k).mx.el a r c) ∧
  (∀ (s : State) (k : Nat), (s.tile k).mq = [] → exec (.zero k) s = .next s ∧ exec (.loadw k) s = .next s ∧ exec (.stream k) s = .next s ∧
    exec (.mma k) s = .next s ∧ exec (.store k) s = .next s ∧ exec (.loadacc k) s = .next s ∧ exec (.rnsmode k) s = .next s) ∧
  (∀ (s : State) (k : Nat) (q : MCmd) (rest : List MCmd), mxReady s k q rest 4 → exec (.loadw k) s = .next s ∧ exec (.store k) s = .next s)

/-- R209, R213, R220: a row of LOADW takes its weights from the B operand into that row of the latch, and a row of LOADACC writes that row of
its accumulator: of FP32 words each as it stands, a subnormal one as zero of its sign; of INT32 words and containers their residues. A row
whose address is misaligned, lies past the tile store's end or meets poison stops its command at it, with code 0x23, 0x24 or 0x25. -/
def Sys2Proof.Claims.MatrixLoads : Prop :=
  (∀ (s : State) (k : Nat) (q : MCmd) (rest : List MCmd), mxReady s k q rest 1 → mxRow q.bits < 16 → mxFb q.bits ≤ 4 →
      rowFine s k q.bits (mxFb q.bits) 0x18 0x20 (mxRow q.bits) 0 →
    ∃ t, exec (.loadw k) s = .next t ∧ mxRowDone t k q rest ∧ (t.tile k).mx.latchFmt.toNat = mxFb q.bits ∧ (t.tile k).mx.acc = (s.tile k).mx.acc ∧
      ∀ j n, j < 16 → n < 16 → (t.tile k).mx.w j n =
        if j = mxRow q.bits then elementAt s k q.bits (mxFb q.bits) 0x18 0x20 j 0 n else (s.tile k).mx.w j n) ∧
  (∀ (s : State) (k : Nat) (q : MCmd) (rest : List MCmd), mxReady s k q rest 6 → mxRow q.bits < mxM q.bits → mxM q.bits ≤ 16 →
      5 ≤ mxFa q.bits → mxFa q.bits ≤ 7 → rowFine s k q.bits (mxFa q.bits) 0x0C 0x14 (mxRow q.bits) 0 →
    ∃ t, exec (.loadacc k) s = .next t ∧ mxRowDone t k q rest ∧ (t.tile k).mx.latch = (s.tile k).mx.latch ∧
      ∀ a m n, m < 16 → n < 16 → (t.tile k).mx.el a m n =
        if a = mxAcc q.bits ∧ m = mxRow q.bits then
          let x := elementAt s k q.bits (mxFa q.bits) 0x0C 0x14 m 0 n
          if mxFa q.bits = 5 then (if x / 2 ^ 23 % 256 = 0 then x / 2 ^ 31 * 2 ^ 31 else x)
          else if mxFa q.bits = 6 then rnsOf (signedOf 32 x) else rnsCanon x
        else (s.tile k).mx.el a m n) ∧
  (∀ (s : State) (k : Nat) (q : MCmd) (rest : List MCmd) (code : Nat), mxReady s k q rest 1 → mxRow q.bits < 16 → mxFb q.bits ≤ 4 →
      rowStops s k q.bits (mxFb q.bits) 0x18 0x20 (mxRow q.bits) code →
    ∃ t, exec (.loadw k) s = .next t ∧ mxStopped s t k q rest code (mxRow q.bits)) ∧
  (∀ (s : State) (k : Nat) (q : MCmd) (rest : List MCmd) (code : Nat), mxReady s k q rest 6 → mxRow q.bits < mxM q.bits → mxM q.bits ≤ 16 →
      5 ≤ mxFa q.bits → mxFa q.bits ≤ 7 → rowStops s k q.bits (mxFa q.bits) 0x0C 0x14 (mxRow q.bits) code →
    ∃ t, exec (.loadacc k) s = .next t ∧ mxStopped s t k q rest code (mxRow q.bits))

/-- R208 to R216: ZERO, RNSMODE, LOADW, LOADACC and their stops. -/
def Obligations.MatrixLoadsAndModes : Prop := MatrixZeroAndMode ∧ MatrixLoads

/-- R209, R212, R214, R217: a row of STREAM adds to that row of its accumulator the products of the row of activations with the latched
weights, and a row of MMA those with the weights of its own B operand's k-block, which it latches at the block's first row and whenever it
begins anew. The command has then done its row, and after the last has completed. -/
def Sys2Proof.Claims.MatrixRowProducts : Prop :=
  (∀ (s : State) (k : Nat) (q : MCmd) (rest : List MCmd), mxReady s k q rest 2 → mxRow q.bits < mxM q.bits → mxM q.bits ≤ 16 →
      rowFine s k q.bits (mxFa q.bits) 0x0C 0x14 (mxRow q.bits) (blockAt q.bits) →
    ∃ t, exec (.stream k) s = .next t ∧ mxRowDone t k q rest ∧ (t.tile k).mx.latch = (s.tile k).mx.latch ∧
      ∀ a m n, m < 16 → n < 16 → (t.tile k).mx.el a m n =
        if a = mxAcc q.bits ∧ m = mxRow q.bits then productAt s k q (s.tile k).mx.latchFmt.toNat (s.tile k).mx.w n
        else if a = mxAcc q.bits then addendAt s k q m n else (s.tile k).mx.el a m n) ∧
  (∀ (s : State) (k : Nat) (q : MCmd) (rest : List MCmd), mxReady s k q rest 3 → mxRow q.bits < mxM q.bits → mxM q.bits ≤ 16 →
      mxBlock q.bits < mxK q.bits → mxFb q.bits ≤ 4 →
      rowFine s k q.bits (mxFa q.bits) 0x0C 0x14 (mxRow q.bits) (blockAt q.bits) →
    let begins := mxRow q.bits = 0 ∨ q.fresh = true
    let w (j n : Nat) : Nat := if begins then elementAt s k q.bits (mxFb q.bits) 0x18 0x20 (16 * mxBlock q.bits + j) 0 n else (s.tile k).mx.w j n
    let lf := if begins then mxFb q.bits else (s.tile k).mx.latchFmt.toNat
    (begins → ∀ j, j < 16 → rowFine s k q.bits (mxFb q.bits) 0x18 0x20 (16 * mxBlock q.bits + j) 0) →
    ∃ t, exec (.mma k) s = .next t ∧ mxRowDone t k q rest ∧ (t.tile k).mx.latchFmt.toNat = lf ∧
      (∀ j n, j < 16 → n < 16 → (t.tile k).mx.w j n = w j n) ∧
      ∀ a m n, m < 16 → n < 16 → (t.tile k).mx.el a m n =
        if a = mxAcc q.bits ∧ m = mxRow q.bits then productAt s k q lf w n
        else if a = mxAcc q.bits then addendAt s k q m n else (s.tile k).mx.el a m n)

/-- R209, R216, R220: a row of STORE writes that row of its accumulator to the O operand, containers and unscaled INT32 words of residues as
they stand; it changes neither accumulators nor latch, and no byte of the tile store besides. -/
def Sys2Proof.Claims.MatrixStores : Prop :=
  ∀ (s : State) (k : Nat) (q : MCmd) (rest : List MCmd), mxReady s k q rest 5 → mxRow q.bits < mxM q.bits → mxM q.bits ≤ 16 →
      rowInside q.bits (mxFb q.bits) 0x2C 0x34 (mxRow q.bits) 0 →
    ∃ t, exec (.store k) s = .next t ∧ mxRowDone t k q rest ∧ (t.tile k).mx.acc = (s.tile k).mx.acc ∧ (t.tile k).mx.latch = (s.tile k).mx.latch ∧
      (∀ a : Nat, ((a : Int) < rowAt q.bits 0x2C 0x34 (mxRow q.bits) 0 ∨
          rowAt q.bits 0x2C 0x34 (mxRow q.bits) 0 + mxRowBytes (mxFb q.bits) ≤ a) → (t.tile k).store.read a = (s.tile k).store.read a) ∧
      ((s.tile k).store.wf = true → ∀ n, n < 16 →
        let x := (s.tile k).mx.el (mxAcc q.bits) (mxRow q.bits) n
        let y := elementAt t k q.bits (mxFb q.bits) 0x2C 0x34 (mxRow q.bits) 0 n
        (mxFb q.bits = 7 → y = rnsCanon x) ∧
        (mxFb q.bits = 6 → (s.tile k).mx.rns.getLsbD (mxAcc q.bits) = true → mxScl q.bits = false → y = unsignedOf 32 (crt3 (rnsRead x))))

/-- R209, R212 to R217, R220: rows of STREAM, MMA and STORE. -/
def Obligations.MatrixProducts : Prop := MatrixRowProducts ∧ MatrixStores

namespace Sys2Proof.Claims

/-- The copy engine's rows by kind (R228). -/
noncomputable def copyRows : List ((Nat → Instr) × Nat) :=
  [(.copy, 1), (.gather, 2), (.scatter, 3), (.fill, 4), (.quant, 5), (.proofstream, 6)]
/-- The copy engine of tile k may move (R15). -/
def cpFree (s : State) (k : Nat) : Prop := s.sinceTurn = false ∧ (s.tile k).fenced = false

end Sys2Proof.Claims

/-- R211, R228, R230, R231, R233: the copy engine. A command of its kind at the head that waits for nothing starts; a started one issues its
next sector when its addresses pass; a sector of a COPY within the tile store performs by copying its bytes there (of a source byte that
earlier sectors of the command have overwritten, one of those that stood there), and no byte of the tile store besides changes. -/
def Obligations.CopyEngineSteps : Prop :=
  (∀ (s : State) (k : Nat) (q : CCmd) (rest : List CCmd), ∀ row ∈ copyRows, cpFree s k → (s.tile k).cq = q :: rest → cpKind q.bits = row.2 →
      q.started = false → q.rwait = false → q.ended = none → q.done = 0 → 0 < q.total → (s.ctx k q.cap.ctx).c.saving = false →
      recWait q.bits = none →
    exec (row.1 k) s = .next (s.updTile k fun t => { t with cq := { q with waited := true, started := true } :: rest })) ∧
  (∀ (s : State) (k : Nat) (q : CCmd) (rest : List CCmd) (b : BitVec 512), b = q.bits → cpFree s k → (s.tile k).cq = q :: rest → cpKind b = 1 →
      q.started = true → q.stopped = false → q.ended = none → q.next < q.total → (s.ctx k q.cap.ctx).c.saving = false →
      (s.tile k).cpFlying < 16 → s.ownQueue k q.cap = false → cpSrc b / 2 ^ 62 = 1 → cpDst b / 2 ^ 62 = 1 → cpLen b ≠ 0 →
    let r := q.next / ((cpLen b + 255) / 256)
    let o := q.next % ((cpLen b + 255) / 256) * 256
    let n := min 256 (cpLen b - o)
    let src : Int := (cpSrc b % 2 ^ 57 : Nat) + r * recStride b 0x14 + o
    let dst : Int := (cpDst b % 2 ^ 57 : Nat) + r * recStride b 0x20 + o
    0 ≤ src → src + n ≤ 0x60000 → 0 ≤ dst → dst + n ≤ 0x60000 →
    let x : Sect := { n := q.next, src := [.here 1 src.toNat n], dst := [.here 1 dst.toNat n], aux := [], got := [], sent := false }
    ∃ t, exec (.copySectorIssue k) s = .next t ∧
      (t.tile k).cq = { q with flying := q.flying ++ [x], next := q.next + 1, index := none } :: rest ∧ t.flights = s.flights ∧ s.sameMemory t) ∧
  (∀ (s : State) (k c m a d n : Nat) (q : CCmd) (rest : List CCmd) (x : Sect), (s.tile k).cq = q :: rest → q.cap.id = c → cpKind q.bits = 1 →
      q.flying.find? (fun y => y.n == m) = some x → x.sent = false → s.engPart k c m = false → x.src = [.here 1 a n] → x.dst = [.here 1 d n] → x.aux = [] →
      (s.tile k).cpBehind k c m x = false → s.tilePoison k 1 a n = none → recBarOk q.bits 0x0A = none → q.radd = false →
      (s.tile k).store.wf = true →
    ∃ t, exec (.copySectorPerformed k c m) s = .next t ∧
      (∀ i, i < n → (t.tile k).store.read (d + i) = (s.tile k).store.read (a + i) ∨
        ∃ v, ((2 * k + 2, a + i), v) ∈ q.olds ∧ (t.tile k).store.read (d + i) = v) ∧
      ∀ e, (e < d ∨ d + n ≤ e) → (t.tile k).store.read e = (s.tile k).store.read e)

/-- R90, R94, R223, R226: the fill of a demand-window sector whose reply is there writes its 256 bytes and makes the sector present; the idle array
is gated at its time; and a record written to the matrix queue window is queued as context 0's, held while the queue is full. -/
def Obligations.FillGateAndQueueWindow : Prop :=
  (∀ (s : State) (k n : Nat) (f : Fill) (g : Flight) (c : BitVec 8) (d : BitVec 64) (v : BitVec 128),
      (s.tile k).fills.find? (fun g => g.sector == n) = some f → s.flights.find? (fun g => g.id == f.flight) = some g →
      g.stage = .replying true c d v → g.data.length = 256 → (s.tile k).waiters = [] → (s.tile k).pad.wf = true →
    ∃ t, exec (.fillCompletion k n) s = .next t ∧ (t.tile k).sectorState n = 2 ∧
      (∀ i, i < 256 → some ((t.tile k).pad.read (256 * n + i)) = g.data[i]?) ∧
      ∀ a, (a < 256 * n ∨ 256 * n + 256 ≤ a) → (t.tile k).pad.read a = (s.tile k).pad.read a) ∧
  (∀ (s : State) (k : Nat),
    let m := (s.tile k).mx
    let idle := m.gate ≠ 0 ∧ (∀ q ∈ (s.tile k).mq, q.started = false ∨ (q.fresh = true ∧ q.asked = none)) ∧ m.idleFrom.toNat + m.gate.toNat ≤ s.gtime.toNat
    (idle → exec (.arrayPowerGate k) s = .next (s.updTile k fun t => { t with mx := { t.mx with gated := true } })) ∧
    (¬ idle → exec (.arrayPowerGate k) s = .next s)) ∧
  (∀ (s : State) (k : Nat) (b : BitVec 512),
    ((s.tile k).mxFull = true → exec (.matrixQueueWindowWrite k b) s = .next s) ∧
    ((s.tile k).mxFull = false → ∃ (t : State) (q : MCmd), exec (.matrixQueueWindowWrite k b) s = .next t ∧ (t.tile k).mq = (s.tile k).mq ++ [q] ∧
      q.bits = b ∧ q.cap.ctx = 0 ∧ q.cap.rmode = (s.ctx k 0).r.rmode ∧ q.cap.fenable = (s.ctx k 0).r.fenable ∧ q.started = false))

/-! ### Slugs, galleys, threads and time -/

namespace Sys2Proof.Claims

/-- A push of a slug by the moving context (R68). -/
def pushOf (s : State) (a : Word) (waits : Bool) : Push :=
  { addr := a, src := s.cur, ctx := s.curCtx, after := 0, launcher := waits, flight := none,
    mark := some (s.markOf s.cur s.curCtx (s.me.y.region, 2) false) }
/-- The access f of a context on an unchecked tile stands at its endpoint, and no earlier one of its queue and route waits there (R100). -/
def atHome (s : State) (n : Nat) (f : Flight) : Prop := s.delivered? n = some f ∧ f.id = n ∧ (s.tile f.src).checked = false ∧ f.src < gateBase
/-- The state with the answer of an access on its way back, behind the answers formed before it (R100); messages that waited for it
arrive (R325). -/
def answered (s : State) (n : Nat) (ok : Bool) (c : BitVec 8) (v : BitVec 128) (seen : List Mark) : State :=
  (s.replies n fun g => { g with stage := .replying ok c 0 v, seen := seen, data := [] }).settleMail

end Sys2Proof.Claims

/-- R68, R69, R311: `launch` pushes its slug to a shared galley of its forme once everything earlier has performed, and waits for room in a full
one; a galley that is not configured raises fault 0x06 (the order of its checks is the model's choice, log 72). `join` sends its step to the home
slice of the slug's count and waits for it. The step takes one off the count, and reports the count that it found; the one that takes the last
pushes the slug to its galley, and a galley that is not configured is the join's fault 0x06. -/
def Obligations.LaunchAndJoin : Prop :=
  (∀ (s s1 : State) (f : SAB) (pa slot : Nat) (d : Dest) (r : BitVec 128) (w : Bool), s.does f.h (some f.t) .u [(f.a, .rx), (f.b, .rx)] = true →
      f.t.wen = false →
    let a := s.rx f.a.num
    let g := (s.rx f.b.num).toNat
    let q := s.readGalley (ownerOf s.cur) (formeOf s.cur) g
    let pushed (waits : Bool) : State := (s1.pushTo (ownerOf s.cur) (formeOf s.cur) g (pushOf s a waits)).updY Sync.ordered
    (∀ v, s.me.c.phase = .granted v → exec (.launch f) s = completes s f.h (some f.t)) ∧
    (s.isFresh = true → a.toNat % 64 = 0 → a.toNat + 64 ≤ 2 ^ 57 → s.reach a.toNat true true = .at_ pa slot d r w s1 →
      (g < 256 → q.kind ≠ 0 → s.free_ = true →
        (s.silent s.cur = false → q.full = false → exec (.launch f) s = completes (pushed false) f.h (some f.t)) ∧
        (s.silent s.cur = false → q.full = true → exec (.launch f) s = .next (armed (pushed true) 0)) ∧
        (s.silent s.cur = true → exec (.launch f) s = completes (s1.updY Sync.ordered) f.h (some f.t))) ∧
      ((256 ≤ g ∨ q.kind = 0) → exec (.launch f) s = .next ((s1.walked s.cur s).takeFault { cause := 0x06, detail := BitVec.ofNat 64 g })))) ∧
  (∀ (s s1 : State) (f : SDA) (pa slot : Nat) (d : Dest) (r : BitVec 128) (w : Bool), s.does f.h (some f.t) .u [(f.d, .wx), (f.a, .rx)] = true →
      f.t.wen = false →
    let va := s.rx f.a.num
    (s.isFresh = true → s.acqHeld = false → va.toNat % 64 = 0 → va.toNat + 64 ≤ 2 ^ 57 → s.reach va.toNat true true = .at_ pa slot d r w s1 →
      s.myTile.watchAt s.curCtx 2 (va + 0x18).toNat 4 true true = none →
      let q : Req2 := { dest := d, addr := pa + 0x18, va := va, slot := slot, op := .join, ret := .gate, route := r, isLoad := true, isStore := true,
                        order := 2, scope := 2, watched := w }
      exec (.join f) s = .next (waits s1 q)) ∧
    (∀ v, s.me.c.phase = .granted v → v.getLsbD 32 = false →
      exec (.join f) s = completes (s.wx f.d.num (BitVec.ofNat 64 (v.toNat % 2 ^ 32))) f.h (some f.t)) ∧
    (∀ v, s.me.c.phase = .granted v → v.getLsbD 32 = true →
      exec (.join f) s = .next (s.takeFault { cause := 0x06, detail := BitVec.ofNat 64 (v.toNat / 2 ^ 33 % 2 ^ 16) }))) ∧
  (∀ (s : State) (n h : Nat) (f : Flight), atHome s n f → f.dest = .slice h → f.op = .join → f.ret = .gate → f.watched = false →
      s.pushAt f.owner f.addr = none → s.cellAt f.addr = none → s.memPoisoned f.addr 4 = false →
    let c := s.memReadN f.slot f.addr 4
    let seen := (s.slice (homeSlice f.addr)).marksAt f.addr 4
    let u := (s.flightWrite f 4 (c - 1)).homeMark f seen
    let g := u.memReadN f.slot (f.addr + 4) 2
    (c = 0 → exec (.homeSliceApply n) s = .next (answered s n true 0 0 seen)) ∧
    (1 < c → exec (.homeSliceApply n) s = .next (answered u n true 0 (BitVec.ofNat 128 c) seen)) ∧
    (c = 1 → u.pushable f.owner (formeOf f.src) g = true →
      exec (.homeSliceApply n) s = .next (answered (u.pushTo f.owner (formeOf f.src) g f.joinPush) n true 0 1 seen)) ∧
    (c = 1 → u.pushable f.owner (formeOf f.src) g = false → ∃ v : BitVec 128, exec (.homeSliceApply n) s = .next (answered u n true 0 v seen) ∧
      v.toNat % 2 ^ 32 = 1 ∧ v.getLsbD 32 = true ∧ v.toNat / 2 ^ 33 % 2 ^ 16 = g))

/-- R308, R311 to R315: a push is applied behind its priority's entries once the ring has room, in the lowest free place of the ring (the model's
choice, log 74), under FIFO 0 in a galley of kind 2 (read so from R318, log 35); the `launch` that waited for it, if one did, is answered, and a
full ring holds it. An admissible head starts a thread with the registers of Table 7 and takes its charges. A FIN without memberships and successor ends the
thread: its context is idle, its current released and its galley's count lowered. -/
def Obligations.ThreadsStartAndEnd : Prop :=
  (∀ (s : State) (o f g : Nat) (p : Push) (rest : List Push), f < 64 → (s.galley o f g).pushes = p :: rest → (s.galley o f g).stuck = [] →
      p.flight = none →
    let q := s.galley o f g
    let e : Entry := { addr := p.addr, resume := false, slot := q.place, mark := p.mark }
    let told (u : State) : State := if p.launcher then u.updCtx p.src p.ctx fun x => { x with c := { x.c with phase := .granted 0 } } else u
    let put (u : State) (prio : Nat) : Out := .next (told ((u.updGalley o f g fun w =>
      { w with pushes := rest, fifo := w.fifo.set prio (w.fifo.get [] prio ++ [e]) }).ringWrite o q e))
    (q.capacity ≤ q.waiting → exec (.galleyPush (o * 64 + f) g) s = .next s ∧ exec (.heldPushApply (o * 64 + f) g) s = .next s) ∧
    (q.waiting < q.capacity → q.kind = 2 → exec (.galleyPush (o * 64 + f) g) s = put s 0 ∧ exec (.heldPushApply (o * 64 + f) g) s = put s 0) ∧
    (∀ b, q.waiting < q.capacity → q.kind ≠ 2 → s.ctlRead o (p.addr.toNat + 0x2A) 1 = some b →
      let u := s.leafUsed o (p.addr.toNat + 0x2A) false
      exec (.galleyPush (o * 64 + f) g) s = put u (b % 4) ∧ exec (.heldPushApply (o * 64 + f) g) s = put u (b % 4))) ∧
  (∀ (s : State) (ck k c p g en i : Nat) (r : List (Nat × Nat × Nat × Nat)) (e : Entry) (l : List Entry) (sl : Slug) (x : Seat),
      s.boot = false → s.sinceTurn = false → (s.forme (ck / 64)).held = false → (s.cluster ck).lev ≠ 3 →
      (s.owner (ck / 4096)).live = true → ((clusterCtxs ck).map (s.considers ck)).flatten = (k, c, p, g) :: r →
      (s.galley (ownerOf k) (formeOf k) g).stuck.contains p = false → (s.galley (ownerOf k) (formeOf k) g).fifo.get [] p = e :: l →
      e.resume = false → s.headFor k c g (s.galley (ownerOf k) (formeOf k) g) e = .fits sl en i [x] → x.tile = k → x.slot = none →
      sl.isGang = false →
    ∃ t, exec (.slugPop ck) s = .next t ∧ (t.ctx k c).c.run = .ready ∧ (t.ctx k c).c.level = s.startLevel k c ∧
      (t.ctx k c).c.slug.map (·.addr) = some e.addr ∧ (t.ctx k c).r.pc = sl.code ∧ (t.ctx k c).r.ire = sl.code ∧ (t.ctx k c).r.vl = 32 ∧
      (t.ctx k c).r.fflags = 0 ∧ (t.ctx k c).r.xbase = x.xb ∧
      (t.tile k).xr.get 0 (x.xb + 1) = BitVec.ofNat 64 ((s.owner (ownerOf k)).stkcfg.toNat % 2 ^ 20 +
        (s.owner (ownerOf k)).stkcfg.toNat / 2 ^ 20 % 2 ^ 20 * c) ∧
      (t.tile k).xr.get 0 (x.xb + 2) = sl.frame ∧ (t.tile k).xr.get 0 (x.xb + 3) = e.addr ∧ (t.tile k).xr.get 0 (x.xb + 4) = sl.arg0 ∧
      (t.tile k).xr.get 0 (x.xb + 5) = sl.arg1 ∧ (t.galley (ownerOf k) (formeOf k) g).fifo.get [] p = l ∧
      (t.cluster (clusterKey k)).iUsed = (s.cluster (clusterKey k)).iUsed + i ∧
      (t.cluster (clusterKey k)).eRem = (s.cluster (clusterKey k)).eRem - en) ∧
  (∀ (s : State) (k c : Nat) (g : SlugInfo), c < 4 → (s.ctx k c).c.gang = none → (s.tile k).checked = false → (s.ctx k c).c.slug = some g →
      (s.ctx k c).c.phase = .fresh → (s.ctx k c).c.dying = none →
    ((s.ctx k c).c.run = .ending → (s.ctx k c).y.members = [] → g.succ = 0 → (s.tile k).vecOpen c = false →
      ∃ t, exec (.routineEnd k c) s = .next t ∧ (t.ctx k c).c.run = .idle ∧
        (t.cluster (clusterKey k)).iUsed = (s.cluster (clusterKey k)).iUsed - g.current ∧
        (t.galley (ownerOf k) g.forme g.galley).live = (s.galley (ownerOf k) g.forme g.galley).live - 1) ∧
    ((s.ctx k c).c.run ≠ .ending ∨ (s.tile k).vecOpen c = true → exec (.routineEnd k c) s = .next s))

namespace Sys2Proof.Claims

/-- A thread of one tile with slug g on context c of tile k. -/
def soloThread (s : State) (k c : Nat) (g : SlugInfo) : Prop :=
  c < 4 ∧ (s.ctx k c).c.gang = none ∧ (s.tile k).checked = false ∧ (s.ctx k c).c.slug = some g
/-- Watchdog time n of the galley of a thread, in ns (R317). -/
def watchdogNs (s : State) (k : Nat) (g : SlugInfo) (n : Nat) : Nat :=
  1000 * ((s.forme (ownerOf k * 64 + g.forme)).wdog.get (if n = 2 then 100000 else 1000) ((if 256 ≤ g.galley then 0 else g.galley) * 4 + n)).toNat

end Sys2Proof.Claims

/-- R315 to R317: a budget interval reloads the cluster's energy, a debt carried in. A thread past its slice for which a slug of equal or higher
priority waits is stopped to be saved. Watchdog step 1 acts once at T1, step 2 at T1 + T2 stops a running thread at an instruction boundary with
fault 0x10 and kills one that is blocked on a fault, step 3 kills one stopped for T3, and a kill that has not ended its context T3 later fences
the tile, of which M hears by the event (2, tile). A killed thread ends. That T3 is counted in blocked time after the stop and in watchdog time
after a kill, and that event, are the model's reading (log 46). -/
def Obligations.BudgetsSlicesAndWatchdog : Prop :=
  (∀ (s : State) (ck : Nat),
    let q := s.cluster ck
    (s.gtime.toNat / 10000 ≤ q.reloaded.toNat / 10000 → exec (.budgetIntervalReload ck) s = .next s) ∧
    (q.reloaded.toNat / 10000 < s.gtime.toNat / 10000 → ∃ t, exec (.budgetIntervalReload ck) s = .next t ∧
      (t.cluster ck).ebud = q.ebudNext.getD q.ebud ∧ (t.cluster ck).ibud = q.ibudNext.getD q.ibud ∧ (t.cluster ck).reloaded = s.gtime ∧
      (q.lev ≠ 2 → (t.cluster ck).eRem = (q.ebudNext.getD q.ebud : Int) + min q.eRem 0))) ∧
  (∀ (s : State) (k c : Nat) (g : SlugInfo), soloThread s k c g → (s.ctx k c).c.saving = false → s.sinceTurn = false →
      (s.ctx k c).c.run.isRunning = true →
    let due := 0 < g.slice ∧ g.slice * 1000 < (s.runTime (s.ctx k c)).toNat ∧ s.waitsFor k c g.prio = true
    (¬ due → exec (.sliceExpiry k c) s = .next s) ∧
    (due → ∃ t, exec (.sliceExpiry k c) s = .next t ∧ (t.ctx k c).c.run = .held ∧ (t.ctx k c).c.saving = true ∧ (t.ctx k c).r = (s.ctx k c).r)) ∧
  (∀ (s : State) (k c : Nat) (g : SlugInfo), soloThread s k c g →
    let x := s.ctx k c
    let t1 := watchdogNs s k g 1
    let t2 := watchdogNs s k g 2
    let run := (x.c.prior + s.runTime x).toNat
    let wd := (x.c.prior + s.wdTime x).toNat
    let due := (x.c.wdNext.map (·.toNat)).getD (t1 + t2)
    (x.c.run.isRunning = true → x.c.wd1 = false → t1 ≠ 0 → x.c.prior.toNat < t1 → t1 ≤ run → ∃ t, exec (.watchdogT1 k c) s = .next t ∧
      (t.ctx k c).c.wd1 = true ∧ (t.ctx k c).c.run = if s.waitsFor k c g.prio then .held else x.c.run) ∧
    (run < t1 → exec (.watchdogT1 k c) s = .next s) ∧
    (t2 ≠ 0 → due ≤ wd → x.c.run.isRunning = true → x.c.fault = none → x.c.dying = none → s.atBoundary k c = true → ∃ t, exec (.watchdogT2 k c) s = .next t ∧
      (t.ctx k c).c.run = .blocked ∧ (t.ctx k c).c.fault.map (·.cause) = some 0x10 ∧ (t.ctx k c).r = x.r) ∧
    (t2 ≠ 0 → due ≤ wd → x.c.run = .blocked → x.c.fault.map (·.cause) ≠ some 0x10 → x.c.dying = none → ∃ t, exec (.watchdogT2 k c) s = .next t ∧
      (t.ctx k c).c.run = .ending ∧ (t.ctx k c).c.dying = some (s.wdTime x)) ∧
    (wd < due → exec (.watchdogT2 k c) s = .next s) ∧
    (∀ v, x.c.run = .blocked → x.c.wdStop = some v → x.c.dying = none → watchdogNs s k g 3 ≠ 0 →
      (v.toNat + watchdogNs s k g 3 ≤ (s.blkTime x).toNat → ∃ t, exec (.watchdogT3 k c) s = .next t ∧
        (t.ctx k c).c.run = .ending ∧ (t.ctx k c).c.dying = some (s.wdTime x)) ∧
      ((s.blkTime x).toNat < v.toNat + watchdogNs s k g 3 → exec (.watchdogT3 k c) s = .next s)) ∧
    (∀ v, x.c.dying = some v →
      (∃ t, exec (.routineEnd k c) s = .next t ∧ (t.ctx k c).c.run = .idle) ∧
      (watchdogNs s k g 3 ≠ 0 → v.toNat + watchdogNs s k g 3 ≤ (s.wdTime x).toNat → ∃ t, exec (.watchdogT3 k c) s = .next t ∧
        (t.tile k).fenced = true ∧ (2, k) ∈ t.mEvents) ∧
      ((s.wdTime x).toNat < v.toNat + watchdogNs s k g 3 → exec (.watchdogT3 k c) s = .next s)))

namespace Sys2Proof.Claims

/-- The launch of record r, which galley g has handed over as e, as its distributors begin it (R318). -/
def newLaunch (s : State) (o g : Nat) (e : Entry) (r : LaunchRec) : Launch :=
  { record := e.addr, galley := g, next := 0, written := 0, finished := [], chunks := [], handed := 0, reported := [], redo := [],
    lost := !r.dynamic && r.formes.any (fun h => (s.forme (o * 64 + h)).lost), abandoned := false, stuck := false }

end Sys2Proof.Claims

/-- R318 to R320: a legal record at the head of a galley of kind 2 starts its launch on every live forme that it names, and an illegal one ends
with status 3; a distributor writes and pushes its next instance; the master hands out the next chunk on request, to the lowest forme first of
those that ask and to each once in a gtime (the cycle of R320 is a gtime here, log 35), and records the one reported; after a loss no lost forme
holds the launch any more. -/
def Obligations.IndexedLaunchSteps : Prop :=
  (∀ (s : State) (o f g : Nat) (e : Entry) (l : List Entry) (r : LaunchRec), f < 64 → s.sinceTurn = false → (s.forme (o * 64 + f)).held = false →
      (s.forme (o * 64 + f)).lost = false →
    (s.launchWork o f g = none → (s.galley o f g).kind = 2 → (s.galley o f g).fifo.get [] 0 = e :: l → s.readLaunch o e.addr.toNat = some r →
      let shared := r.formes.all fun h => (s.readGalley o h r.galley).kind != 2
      (∀ t0 : Slug, s.readSlug o r.tmpl = some t0 → r.ok (s.owner o).formes (t0.flags.getLsbD 4) shared = true → (∀ h ∈ r.formes, (s.forme (o * 64 + h)).lost = false) →
        ∃ t, exec (.indexedLaunchRead (o * 64 + f) g) s = .next t ∧ (t.galley o f g).fifo.get [] 0 = l ∧
          ∀ h ∈ r.formes, (t.forme (o * 64 + h)).launches = (s.forme (o * 64 + h)).launches ++ [newLaunch s o g e r]) ∧
      (∀ t0 : Slug, s.readSlug o r.tmpl = some t0 → r.ok (s.owner o).formes (t0.flags.getLsbD 4) shared = false →
        exec (.indexedLaunchRead (o * 64 + f) g) s =
          .next (((s.updGalley o f g (·.dropHead 0)).leafUsed o e.addr.toNat false).closeLaunch o (newLaunch s o g e r) r 3))) ∧
    (∀ (q : Launch) (s1 : State), s.launchWork o f g = some (q, r) → r.dynamic = false →
      let i := r.nextOf (r.formes.filter fun h => decide (h < f)).length q.next
      i < r.count → s.writeInstance o f (r.privateOf i) r i = .ok s1 →
      exec (.indexedLaunchRead (o * 64 + f) g) s =
        .next ((s1.updLaunch o f q.record fun l => { l with next := i + 1, written := l.written + 1 }).settleLaunch o q.record)) ∧
    (∀ (q : Launch) (s1 : State) (i : Nat), s.launchWork o f g = some (q, r) → r.dynamic = true → q.nextInstance r = some i →
      s.writeInstance o f r.galley r i = .ok s1 →
      exec (.indexedLaunchRead (o * 64 + f) g) s =
        .next ((s1.updLaunch o f q.record fun l => { l with next := q.next + 1, written := l.written + 1 }).settleLaunch o q.record)) ∧
    let asks (l : Launch) (r : LaunchRec) : Bool := s.wantsChunk o f l r && !s.lowerAsks o f l.record r
    (∀ (q m : Launch), s.dynOf o f g asks = some (q, r) → s.launchOf o (s.masterOf o r) q.record = some m →
      (m.redo = [] → exec (.chunkRequest (o * 64 + f) g) s = .next
        ((s.updLaunch o (s.masterOf o r) q.record fun l => { l with handed := l.handed + 1 }).updLaunch o f q.record fun l =>
          { l with chunks := l.chunks ++ [m.handed], asked := s.gtime.toNat + 1 })) ∧
      (∀ c cs, m.redo = c :: cs → exec (.chunkRequest (o * 64 + f) g) s = .next
        ((s.updLaunch o (s.masterOf o r) q.record fun l => { l with redo := cs }).updLaunch o f q.record fun l =>
          { l with chunks := l.chunks ++ [c], asked := s.gtime.toNat + 1 }))) ∧
    (s.dynOf o f g asks = none → exec (.chunkRequest (o * 64 + f) g) s = .next s) ∧
    (∀ n, s.dynOf o f g (fun l r => l.through r n) = none → exec (.chunkReport (o * 64 + f) g n) s = .next s) ∧
    (∀ (q : Launch) (n : Nat), s.dynOf o f g (fun l r => l.through r n) = some (q, r) →
      exec (.chunkReport (o * 64 + f) g n) s = .next (((s.updLaunch o f q.record fun l =>
        { l with chunks := l.chunks.erase n, next := l.next - (r.chunkOf n).length, written := l.written - (r.chunkOf n).length,
                 finished := (r.chunkOf n).foldl List.erase l.finished }).updLaunch o (s.masterOf o r) q.record fun l =>
        { l with reported := insNat l.reported n }).settleLaunch o q.record))) ∧
  (∀ (s : State) (o g : Nat),
    let lost (f : Nat) : Prop := (s.forme (o * 64 + f)).lost = true
    ((∀ f, f < 64 → lost f → ∀ l ∈ (s.forme (o * 64 + f)).launches, l.galley ≠ g) → exec (.masterFailover o g) s = .next s) ∧
    (∀ f l, f < 64 → lost f → (s.forme (o * 64 + f)).launches = [l] → l.galley = g → l.joining = none → (∀ h, h < f → ¬ lost h) →
      ∀ r, s.readLaunch o l.record.toNat = some r → f ∈ r.formes →
      ∃ t, exec (.masterFailover o g) s = .next t ∧ t.launchOf o f l.record = none))

/-! ### Accesses on their way -/

/-- R98 to R103, R106, R112, R263, R394: the head of a posting queue is sent, a release, and an access sent again, only once everything earlier has
performed, and an engine thread's only once what its context's queue for the place held has; one sent again waits while its page migrates. A packet
is delivered behind earlier ones of its route; a reply writes the destination, answers the instruction that waits, or stops its context with the
imprecise fault of a refusal, not in the gtime of its issue (R306); the refusal of a posted access stops its context likewise. -/
def Sys2Proof.Claims.AccessesAreSentAndAnswered : Prop :=
  (∀ (s : State) (n : Nat) (f : Flight), s.flight n = some f →
    let first := ∀ g ∈ s.flights, g.src = f.src → g.ctx < 8 → g.ctx % 4 = f.ctx % 4 → g.dest = f.dest → g.eng = f.eng → g.id < f.id → g.stage ≠ .queued
    let free := f.release = true → s.quiet f.src (f.ctx % 4) f.id = true ∧ s.quiet f.src (f.ctx % 4 + 4) f.id = true
    let again := f.resent ≠ none → s.accOpen f.src f.ctx f.id = false
    let behind := ∀ m, f.eng = some m → ∀ g ∈ s.flights, g.src = f.src → g.eng = none → g.ctx < 8 → g.ctx % 4 = f.ctx % 4 → g.dest = f.dest → g.id < m →
      g.isOpen = false
    (f.stage = .queued → f.ctx < 8 → f.src < gateBase → first → free → again → behind →
      ((f.resent = none ∨ (∃ k, f.dest = .tile k) ∨ ∃ k, f.dest = .cluster k) → ∃ t, exec (.postingQueueSend n) s = .next t ∧
        t.flight n = some { f with stage := .net s.nextId } ∧ t.nextId = s.nextId + 1 ∧ ∀ m, m ≠ n → t.flight m = s.flight m) ∧
      (∀ h s1, f.resent ≠ none → f.dest = .slice h → s.xlate f.src .data f.level f.va.toNat f.op.writes false = .mig s1 →
        exec (.postingQueueSend n) s = .next s1)) ∧
    ((f.stage ≠ .queued ∨ 8 ≤ f.ctx ∨ gateBase ≤ f.src ∨ ¬ first ∨ ¬ free ∨ ¬ again ∨ ¬ behind) → exec (.postingQueueSend n) s = .next s) ∧
    (∀ m, f.stage = .net m → (s.tile f.src).checked = false → (∀ k, f.dest = .tile k → (s.tile k).hasStop = false) → s.astray f = false →
      (∀ g ∈ s.flights, ∀ j, g.stage = .net j → g.src = f.src → g.dest = f.dest → g.route = f.route → m ≤ j) → f.id = n →
      exec (.packetDeliver n) s = .next { (s.setStage n (.home s.nextId)) with nextId := s.nextId + 1 }) ∧
    (∀ m, f.stage ≠ .net m) → exec (.packetDeliver n) s = .next s) ∧
  (∀ (s : State) (n : Nat) (f : Flight) (v : BitVec 128), s.flight n = some f → f.id = n → f.stage = .replying true 0 0 v → f.src < gateBase →
      f.ctx < 4 → f.eng = none → s.replyFirst f = true → f.born ≠ s.gtime →
    (∀ r bits e, f.ret = .reg (some r) bits e → ∃ t, exec (.reply n) s = .next t ∧
      (t.tile f.src).xr.get 0 r = e.extend (bits / 8) (v.toNat % 2 ^ bits) ∧ t.flight n = none) ∧
    (∀ r, f.ret = .pair r → ∃ t, exec (.reply n) s = .next t ∧ (t.tile f.src).xr.get 0 r = v.setWidth 64 ∧
      (t.tile f.src).xr.get 0 (r + 1) = (v >>> 64).setWidth 64 ∧ t.flight n = none) ∧
    (f.ret = .gate → (s.ctx f.src f.ctx).c.phase = .armed n → ∃ t, exec (.reply n) s = .next t ∧
      (t.ctx f.src f.ctx).c.phase = .granted v ∧ t.flight n = none)) ∧
  (∀ (s : State) (n : Nat) (f : Flight) (c : BitVec 8) (d : BitVec 64) (v : BitVec 128), s.flight n = some f → f.id = n →
      f.stage = .replying false c d v → f.src < gateBase → f.ctx < 4 → f.eng = none → f.watched = false → s.replyFirst f = true → (s.ctx f.src f.ctx).c.run = .ready → (s.ctx f.src f.ctx).c.fault = none →
      (s.ctx f.src f.ctx).c.phase = .fresh → (s.ctx f.src f.ctx).c.gang = none → (s.tile f.src).checked = false → s.sinceTurn = false →
    let stopped (t : State) (va : BitVec 64) : Prop := (t.ctx f.src f.ctx).c.run = .blocked ∧ (t.ctx f.src f.ctx).c.fault.map (·.cause) = some c ∧
      (t.ctx f.src f.ctx).c.fault.map (·.address) = some va ∧ (t.ctx f.src f.ctx).c.fault.map (fun q => q.src.getLsbD 4) = some true ∧
      (t.ctx f.src f.ctx).r = (s.ctx f.src f.ctx).r
    (∀ r bits e, f.ret = .reg r bits e → f.born ≠ s.gtime → ∃ t, exec (.reply n) s = .next t ∧ stopped t f.va) ∧
    (f.ret = .none → ∃ t, exec (.postedRefusal n) s = .next t ∧ stopped t (if c = 0x11 then f.va &&& ~~~7 else f.va)))

namespace Sys2Proof.Claims

/-- No push word, cell, poison or watch stands on the bytes of an access to module memory, and they are read with the keys that they were
written with (R362). -/
def plainPlace (s : State) (f : Flight) (size : Nat) : Prop :=
  s.pushIn f.owner f.addr size = none ∧ s.coversCell f.addr size = false ∧ s.memPoisoned f.addr size = false ∧ f.watched = false ∧
    s.rangeClear f.slot f.addr size = true

end Sys2Proof.Claims

/-- R80, R81, R98 to R101, R113, R116, R129, R143, R153: the units that perform. A home slice reads, writes or updates module memory; a target tile its
tile store, and refuses another owner's access with 0x08; an arrival updates the barrier object; an event message acts on its line; a gateway reports
what it has applied. A stamped operation is answered as its cell says. -/
def Obligations.AccessesArePerformed : Prop :=
  (∀ (s : State) (n h m : Nat) (f : Flight), atHome s n f → f.dest = .slice h → f.op = .load m → plainPlace s f m → m ∈ [1, 2, 4, 8] →
      f.addr % m = 0 → f.ret ≠ .none →
    ∃ (v : BitVec 128) (seen : List Mark), exec (.homeSliceApply n) s = .next (answered s n true 0 v seen) ∧ v.toNat = s.mem.readN f.addr m) ∧
  (∀ (s : State) (n h m : Nat) (f : Flight) (d : BitVec 128), atHome s n f → f.dest = .slice h → f.op = .store m d → plainPlace s f m →
      (s.owner f.owner).proof.copying = false → s.mem.wf = true → f.ret = .none →
    ∃ t, exec (.homeSliceApply n) s = .next t ∧ t.mem.readN f.addr m = d.toNat % 2 ^ (8 * m) ∧ t.flight n = none ∧
      ∀ a, (a < f.addr ∨ f.addr + m ≤ a) → t.mem.read a = s.mem.read a) ∧
  (∀ (s : State) (n h m : Nat) (f : Flight) (k : AmoKind) (b x : BitVec 64), atHome s n f → f.dest = .slice h → f.op = .amo k m b x →
      plainPlace s f m → (s.owner f.owner).proof.copying = false → s.mem.wf = true → f.ret ≠ .none →
    let old := s.mem.readN f.addr m
    ∃ (t : State) (seen : List Mark), exec (.homeSliceApply n) s = .next (answered t n true 0 ((k.extend m old).setWidth 128) seen) ∧
      t.mem.readN f.addr m = k.newValue m old b.toNat x.toNat % 2 ^ (8 * m) ∧ (∀ a, (a < f.addr ∨ f.addr + m ≤ a) → t.mem.read a = s.mem.read a)) ∧
  (∀ (s : State) (n h : Nat) (f : Flight) (kind : BitVec 2) (b : BitVec 64), atHome s n f → f.dest = .slice h → f.op = .rop kind b →
    exec (.stampedOperationApply n) s = .next (State.answer f (s.applyStamped f)) ∧ exec (.homeSliceApply n) s = .next s) ∧
  (∀ (s : State) (n k m : Nat) (f : Flight), atHome s n f → f.dest = .tile k → ownerOf k = f.owner → k < gateBase → (s.tile k).fenced = false →
      (s.tile k).checked = false →
    (f.op = .load m → f.ret ≠ .none → s.tilePoison k 1 f.addr m = none → ∃ seen, exec (.remoteAccessApply n) s =
      .next (answered s n true 0 (BitVec.ofNat 128 (s.tileRead k 1 f.addr m)) seen)) ∧
    (∀ d, f.op = .store m d → f.ret = .none → s.tilePoison k 1 f.addr m = none → (s.tile k).store.wf = true →
      ∃ t, exec (.remoteAccessApply n) s = .next t ∧ t.tileRead k 1 f.addr m = d.toNat % 2 ^ (8 * m) ∧ t.flight n = none ∧
        ∀ a, (a < f.addr ∨ f.addr + m ≤ a) → (t.tile k).store.read a = (s.tile k).store.read a) ∧
    (f.op = .bar .arrive → f.ret = .gate → ∃ seen,
      let u := s.barArrive k f.addr
      exec (.remoteBarrierUpdate n) s =
        .next (answered (u.2.1.noteArrival f.src f.ctx true f.rtn f.addr u.1) n true 0 (BitVec.ofNat 128 u.1) seen)) ∧
    (∀ line act arg, f.op = .ev line act arg → f.ret = .none → (s.tile k).stopArea.contains (.event n) = false →
      exec (.eventUnitMessage n) s = .next ((s.lineAct (clusterKey k) line act arg).dropFlight n).settleMail)) ∧
  (∀ (s : State) (n k m : Nat) (f : Flight), atHome s n f → f.dest = .tile k → ownerOf k ≠ f.owner → f.op = .load m →
    exec (.remoteAccessApply n) s = .next (answered s n false 0x08 0 [])) ∧
  (∀ (s : State) (n g m : Nat) (f : Flight), atHome s n f → f.dest = .gate g →
    (f.op = .load m → f.ret ≠ .none → ∃ seen, exec (.gatewayApplied n) s = .next (answered s n true 0 (BitVec.ofNat 128 (s.mem.readN f.addr m)) seen)) ∧
    (∀ d, f.op = .store m d → f.ret = .none → (s.owner f.owner).proof.copying = false → s.mem.wf = true → paKind f.addr ≠ .module →
      ∃ t, exec (.gatewayApplied n) s = .next t ∧ t.mem.readN f.addr m = d.toNat % 2 ^ (8 * m) ∧ t.flight n = none))

/-- R279 to R281: of a checked pair's two copies the first to arrive is held; when the second's hash agrees the first tile's goes on, and when it does
not both are discarded. A copy whose partner has not come after 50 µs is discarded. -/
def Sys2Proof.Claims.TwinCopies : Prop :=
  (∀ (s : State) (n m : Nat) (f : Flight), s.flight n = some f → f.id = n → f.stage = .net m → (s.tile f.src).checked = true → s.canDeliver f m = true →
      s.stopFull f = false →
    (s.partner f = none → s.portHeld f.dest < 32 → exec (.twinCopyArrival n) s = .next (s.setStage n (.twin s.gtime))) ∧
    (∀ g since, s.partner f = some g → g.stage = .twin since → s.hash f = s.hash g → f.twin = false → f.op.isStamped = true → s.astray f = false →
      exec (.twinCopyArrival n) s = .next { (s.setStage n (.home s.nextId)) with nextId := s.nextId + 1 }) ∧
    (∀ g since, s.partner f = some g → g.stage = .twin since → s.hash f ≠ s.hash g → g.id ≠ n →
      ∃ t, exec (.twinCopyArrival n) s = .next t ∧ t.flight n = none ∧ t.flight g.id = none)) ∧
  (∀ (s : State) (n : Nat) (f : Flight) (since : BitVec 64), s.flight n = some f → f.id = n → f.stage = .twin since → s.partner f = none →
      s.sinceTurn = false →
    (since.toNat + 50000 ≤ s.gtime.toNat → ∃ t, exec (.twinTimeout n) s = .next t ∧ t.flight n = none) ∧
    (s.gtime.toNat < since.toNat + 50000 → exec (.twinTimeout n) s = .next s))

/-- R98 to R103, R263, R279 to R281, R394: an access on its way, and the two copies of a checked pair. -/
def Obligations.AccessesTravel : Prop := AccessesAreSentAndAnswered ∧ TwinCopies

/-! ### Mailboxes and system instructions -/

namespace Sys2Proof.Claims

/-- A system instruction without a tail wait acts now (R338). -/
def acts (s : State) (h : Head) (t : Option STail) (need : Level) (ops : List Req) : Prop :=
  s.does h t need ops = true ∧ s.free_ = true ∧ ∀ u, t = some u → u.wen = false
/-- A thread of one tile, other than the moving context. -/
def alone (s : State) (k c : Nat) : Prop :=
  (s.ctx k c).c.gang = none ∧ (s.tile k).checked = false ∧ (k, c) ≠ (s.cur, s.curCtx)
/-- Where an instruction that killed the thread it runs in does not go on. -/
def survives (s : State) (d : Nat) (v : Word) (h : Head) (t : STail) : Out :=
  if s.me.c.run = .ready then completes (s.wx d v) h (some t) else .next s
/-- The operand fields of system instructions. -/
def opsDAB (f : SDAB) : List Req := [(f.d, .wx), (f.a, .rx), (f.b, .rx)]
def opsDA (f : SDA) : List Req := [(f.d, .wx), (f.a, .rx)]

/-- System instructions of level S and M: form by form, with the level and the operand words that are legal (R336, R338). -/
noncomputable def levelDAB : List ((SDAB → Instr) × Level × (Word → Word → Prop)) :=
  [(.mbxr, .s, fun a _ => a.toNat < 2 ^ 24 ∧ a.toNat / 2 ^ 20 ≤ 4), (.tlbi, .s, fun _ b => b.toNat < 16 ∧ b.toNat % 8 < 4),
   (.ctxsv, .s, fun a _ => a.toNat < 2 ^ 20), (.ctxld, .s, fun a _ => a.toNat < 2 ^ 20),
   (.gpart, .s, fun a b => a.toNat < 2 ^ 22 ∧ b.toNat < 16), (.wdog, .s, fun a _ => a.toNat < 2 ^ 10 ∧ 256 ≤ a.toNat),
   (.cntc, .s, fun a b => a.toNat < 64 ∧ b.toNat < 2 ^ 18), (.trc, .s, fun a b => a.toNat / 16 % 256 = 0 ∧ b.toNat < 16),
   (.keyld, .m, fun a _ => a.toNat < 4096)]
noncomputable def levelDA : List ((SDA → Instr) × Level × (Word → Prop)) :=
  [(.prmt, .s, fun a => a.toNat < 2 ^ 25 ∧ a.toNat / 2 ^ 20 % 16 = 0), (.kill, .s, fun a => a.toNat < 2 ^ 20),
   (.turnack, .s, fun a => a.toNat < 2 ^ 32), (.scrub, .m, fun a => a.toNat < 2 ^ 17), (.fencecore, .m, fun a => a.toNat < 2 ^ 17)]

end Sys2Proof.Claims

/-- R36, R338: below its level a system instruction raises the privilege fault 0x03, before anything else of it is looked at; an operand
code that it cannot take, or an operand word with a bit set that must be 0, raises fault 0x02. -/
def Obligations.SystemInstructionsAreGuarded : Prop :=
  (∀ row ∈ levelDAB, ∀ (s : State) (f : SDAB),
    (s.me.c.level.reaches row.2.1 = false → exec (row.1 f) s = .next (s.takeFault { cause := 0x03 })) ∧
    (s.me.c.level.reaches row.2.1 = true → opsOk s.me.r.win f.h (opsDAB f) = false → exec (row.1 f) s = .next (s.takeFault { cause := 0x02 })) ∧
    (s.does f.h (some f.t) row.2.1 (opsDAB f) = true → f.t.wen = false → ¬ row.2.2 (s.rx f.a.num) (s.rx f.b.num) →
      exec (row.1 f) s = .next (s.takeFault { cause := 0x02 }))) ∧
  (∀ row ∈ levelDA, ∀ (s : State) (f : SDA),
    (s.me.c.level.reaches row.2.1 = false → exec (row.1 f) s = .next (s.takeFault { cause := 0x03 })) ∧
    (s.me.c.level.reaches row.2.1 = true → opsOk s.me.r.win f.h (opsDA f) = false → exec (row.1 f) s = .next (s.takeFault { cause := 0x02 })) ∧
    (s.does f.h (some f.t) row.2.1 (opsDA f) = true → f.t.wen = false → ¬ row.2.2 (s.rx f.a.num) →
      exec (row.1 f) s = .next (s.takeFault { cause := 0x02 }))) ∧
  (∀ (s : State), s.me.c.level = .u →
    (∀ f, exec (.mbxw f) s = .next (s.takeFault { cause := 0x03 })) ∧ (∀ f, exec (.artw f) s = .next (s.takeFault { cause := 0x03 })) ∧
    (∀ f, exec (.proof f) s = .next (s.takeFault { cause := 0x03 })) ∧ (∀ f, exec (.rflush f) s = .next (s.takeFault { cause := 0x03 })) ∧
    (∀ f, exec (.rreissue f) s = .next (s.takeFault { cause := 0x03 })) ∧ (∀ f, exec (.wdogImm f) s = .next (s.takeFault { cause := 0x03 })) ∧
    (∀ f, exec (.cntcImm f) s = .next (s.takeFault { cause := 0x03 })) ∧ ∀ f, exec (.trcImm f) s = .next (s.takeFault { cause := 0x03 })) ∧
  (∀ (s : State), s.me.c.level ≠ .m →
    (∀ f, exec (.flood f) s = .next (s.takeFault { cause := 0x03 })) ∧ ∀ f, exec (.halt f) s = .next (s.takeFault { cause := 0x03 }))

/-- R325, R327, R329: `mbxw` moves the oldest delivered message to the scratchpad and reports how many remain, and waits when there is none.
`mbxr` applies a reply to the fault, the engine stop or the hold that its target word names: 0 when it was applied, 1 when nothing awaits a
reply, 2 when that reply is not allowed there. That RETRY alone ends the hold of a `prmt` (else 2), and that a context which awaits no fault's reply, one
that the debug module stopped among them, gives 1, is read from the rules (log 44). A reply that would act on a context of a tile with a stopped
context is queued there, and the instruction waits for what becomes of it (log 78). -/
def Obligations.MailboxInstructions : Prop :=
  (∀ (s : State) (f : SDA), s.does f.h (some f.t) .s (opsDA f) = true → f.t.wen = false → s.isFresh = true → s.acqHeld = false →
      s.myTile.vecOpen s.curCtx = false →
    let a := s.rx f.a.num
    (a.toNat % 64 ≠ 0 → exec (.mbxw f) s = .next (s.takeFault { cause := 0x04, address := a })) ∧
    (a.toNat % 64 = 0 → 0x7FC0 < a.toNat → exec (.mbxw f) s = .next (s.takeFault { cause := 0x14, address := a })) ∧
    (a.toNat % 64 = 0 → a.toNat ≤ 0x7FC0 →
      (s.delivered s.ownBox = [] → exec (.mbxw f) s = .next (s.updC fun c => { c with run := .waiting, waitOn := .mail })) ∧
      ∀ m rest, s.delivered s.ownBox = m :: rest → s.myTile.missing a.toNat 64 = [] → s.watched 0 a.toNat 64 false true = none →
        ∃ t, exec (.mbxw f) s =
          completes ((((s.dropMsg s.ownBox m).tileWrite s.cur 0 a.toNat 64 m.body.toNat).updY (·.passed t)).wx f.d.num
            (BitVec.ofNat 64 rest.length)) f.h (some f.t))) ∧
  (∀ (s : State) (f : SDAB), acts s f.h (some f.t) .s (opsDAB f) → s.me.c.run = .ready → s.isFresh = true →
    let a := s.rx f.a.num
    let b := s.rx f.b.num
    let k := s.targetTile a
    let c := targetCtx a
    let r := bitsAt a.toNat 20 4
    let answers (n : Nat) (t : State) : Prop := exec (.mbxr f) s = completes (t.wx f.d.num (BitVec.ofNat 64 n)) f.h (some f.t)
    let applied (n : Nat) (t : State) : Prop := ((s.tile k).hasStop = false → answers n t) ∧
      ((s.tile k).hasStop = true → (s.tile k).stopArea.length < 1024 →
        exec (.mbxr f) s = .next (armed (s.toStop k (.reply s.cur s.curCtx a b)) 0))
    targetOk false true a = true →
    (targetSrc a = 0 → alone s k c → s.windowOf (ownerOf k) [k] c 0 = none →
      (∀ q, (s.ctx k c).c.fault = some q →
        let ok := s.allows k c q r = true ∧ (r = 2 → b.toNat % 4 = 0)
        (ok → r < 4 → q.atFin = false → applied 0 (s.applyReply k c r q b)) ∧
        (ok → r = 4 → (s.tile k).hasStop = false → exec (.mbxr f) s = survives (s.killThread k c) f.d.num 0 f.h f.t) ∧ (¬ ok → answers 2 s)) ∧
      ((s.ctx k c).c.fault = none → (s.ctx k c).c.run ≠ .held → answers 1 s) ∧
      ((s.ctx k c).c.fault = none → (s.ctx k c).c.run = .held → (s.ctx k c).c.saving = false →
        (r = 0 → applied 0 (s.carryOn k c)) ∧ (r ≠ 0 → answers 2 s))) ∧
    (targetSrc a = 1 → (s.tile k).checked = false → ∀ q l, (s.tile k).mq = q :: l → q.stopped = true → q.cap.ctx % 4 = c →
      (r = 0 → answers 0 (s.setHeadM k { q with stopped := false })) ∧ (0 < r → r < 4 → answers 2 s)) ∧
    (targetSrc a = 2 → (s.tile k).checked = false → ∀ q, current (s.tile k).cq = some q → q.stopped = true → q.cap.ctx % 4 = c →
      (r = 0 → answers 0 (s.updCp k fun q => { q with stopped := false })) ∧ (0 < r → r < 4 → answers 2 s)))

/-- R316, R336, R338: `prmt` holds a running thread in place, or, with mode 1, stops it and puts it back at the head of its FIFO once its
images can be saved; `kill` ends a thread; `ctxsv` saves the image of a stopped context and `ctxld` loads one that fits. Status 1: no such
thread, or one that is not stopped. Status 1 for a source other than 0 is read from the rules (log 44), as are status 0 of a thread that is
ending and status 3 of every thread that cannot be saved (log 53). A save or a load takes part in race detection on watched pages (log 46). -/
def Obligations.ThreadControlInstructions : Prop :=
  (∀ (s : State) (f : SDA), acts s f.h (some f.t) .s (opsDA f) →
    let a := s.rx f.a.num
    let k := s.targetTile a
    let c := targetCtx a
    let x := s.ctx k c
    let answers (n : Nat) (t : State) : Prop := exec (.prmt f) s = completes (t.wx f.d.num (BitVec.ofNat 64 n)) f.h (some f.t)
    targetOk true false a = true →
    ((∀ v, s.me.c.phase ≠ .granted v) →
      (targetSrc a ≠ 0 ∨ x.c.run = .idle → answers 1 s) ∧
      (targetSrc a = 0 → x.c.run ≠ .idle → a.getLsbD 24 = false →
        (x.isStopped = true ∨ x.c.run = .ending → answers 0 s) ∧
        (alone s k c → x.c.run = .ready ∨ x.c.run = .waiting → x.c.fpStop = false →
          answers 0 (s.updCtx k c fun x => { x with c := { x.c.stopRun s.gtime with run := .held, waitOn := .nothing } }))) ∧
      (targetSrc a = 0 → x.c.run ≠ .idle → a.getLsbD 24 = true →
        (s.unsavable k c = true → answers 3 s) ∧
        (alone s k c → x.c.run = .ready ∨ x.c.run = .waiting → s.unsavable k c = false → x.c.slug ≠ none →
          exec (.prmt f) s = .next (((s.updCtx k c (·.stopForSave s.gtime)).updC fun q => { q with phase := .granted 0 }).updC fun q =>
            { q with run := .waiting, waitOn := .nothing })))) ∧
    (∀ v, s.me.c.phase = .granted v → s.unsavable k c = false → x.c.saving = true → s.allSaveReady k c = true →
      (((s.requeue k c).ctx k c).c.saving = false → answers 0 (s.requeue k c)) ∧
      (((s.requeue k c).ctx k c).c.saving = true → exec (.prmt f) s = .next (s.requeue k c)))) ∧
  (∀ (s : State) (f : SDA), acts s f.h (some f.t) .s (opsDA f) →
    let a := s.rx f.a.num
    let k := s.targetTile a
    let c := targetCtx a
    targetOk false false a = true →
    (targetSrc a ≠ 0 ∨ (s.ctx k c).c.run = .idle → exec (.kill f) s = completes (s.wx f.d.num 1) f.h (some f.t)) ∧
    (targetSrc a = 0 → (s.ctx k c).c.run ≠ .idle → exec (.kill f) s = survives (s.killThread k c) f.d.num 0 f.h f.t ∧
      (alone s k c → ((s.killThread k c).ctx k c).c.run = .idle))) ∧
  (∀ (s : State) (f : SDAB), acts s f.h (some f.t) .s (opsDAB f) →
    let a := s.rx f.a.num
    let b := s.rx f.b.num
    let k := s.targetTile a
    let c := targetCtx a
    let answers (i : Instr) (n : Nat) (t : State) : Prop := exec i s = completes (t.wx f.d.num (BitVec.ofNat 64 n)) f.h (some f.t)
    targetOk false false a = true →
    (b.toNat % 64 ≠ 0 → exec (.ctxsv f) s = .next (s.takeFault { cause := 0x04, address := b }) ∧
      exec (.ctxld f) s = .next (s.takeFault { cause := 0x04, address := b })) ∧
    (b.toNat % 64 = 0 → b.toNat + 12288 ≤ 2 ^ 57 →
      (targetSrc a ≠ 0 ∨ (s.ctx k c).isStopped = false → answers (.ctxsv f) 1 s ∧ answers (.ctxld f) 1 s) ∧
      (targetSrc a = 0 → (s.ctx k c).isStopped = true → s.imageReady k c = true →
        (∀ l s1 s2, s.watched 2 b.toNat 12288 false true = none → State.spanPieces s.cur s.me.c.level true 2 b.toNat 12288 s = .ok (l, s1) →
          s1.raceSpans true l = .ok s2 → answers (.ctxsv f) 0 (s2.saveAt k c l)) ∧
        (∀ l s1 s2, s.watched 2 b.toNat 12288 true false = none → State.spanPieces s.cur s.me.c.level false 2 b.toNat 12288 s = .ok (l, s1) →
          s1.raceSpans false l = .ok s2 → (∀ bad ∈ s2.badPieces l, bad = false) →
          (imageFits (s2.getPieces l) (s2.ctx k c).r.win = true → answers (.ctxld f) 0 (s2.loadInto k c (s2.getPieces l))) ∧
          (imageFits (s2.getPieces l) (s2.ctx k c).r.win = false → answers (.ctxld f) 2 s2)))))

namespace Sys2Proof.Claims

/-- What `cntc` answers and does: a counter that M has claimed is not S's to take; bit 17 releases it; an event that its bank does not
count is refused; otherwise the counter is claimed (R385), and counts from 0 (which R385 does not say: log 50). -/
def claims (s : State) (d : Nat) (a b : Word) : State :=
  let q := s.counterOf a
  let e := b.toNat % 65536
  let counted : Bool := if a.getLsbD 5 then decide (0x100 ≤ e ∧ e ≤ 0x103) || (onEdge s.cur && decide (e = 0x104 ∨ e = 0x105))
    else decide (1 ≤ e ∧ e ≤ 9)
  if q.claimed = true ∧ q.byM = true ∧ s.me.c.level ≠ .m then s.wx d 1
  else if b.getLsbD 17 then (s.setCounter a { q with claimed := false, enabled := false }).wx d 0
  else if !counted then s.wx d 2
  else (s.setCounter a { claimed := true, byM := s.me.c.level == .m, event := b.setWidth 16, enabled := b.getLsbD 16, value := 0, since := s.gtime }).wx d 0
/-- What `trc` answers and does (R384). -/
def traces (s : State) (d : Nat) (a b : Word) : State :=
  let tr := s.myTile.trace
  if tr.on = true ∧ tr.byM = true ∧ s.me.c.level ≠ .m then s.wx d 1
  else (s.updMyTile fun t => { t with trace := { tr with
    on := b.getLsbD 0, byM := s.me.c.level == .m, kinds := (b >>> 1).setWidth 3, base := BitVec.ofNat 64 (a.toNat / 4096 * 4096),
    lg := a.toNat % 16, pos := 0 } }).wx d 0

end Sys2Proof.Claims

/-- R156, R317, R334, R372, R384, R385: `tlbi` drops the entries of its scope; `gpart` sets a tile's participants in a tree that its owner
has; `wdog` sets a watchdog time and reports the old one; `proof` arms a proof and reports its number; `cntc`, `cntr` and `trc` claim, read
and set counters and the trace unit. What a counter of cycles or lost choices has counted since its claim is open (log 50). -/
def Obligations.TreesTimesAndCounters : Prop :=
  (∀ (s : State) (f : SDAB), acts s f.h (some f.t) .s (opsDAB f) →
    let a := s.rx f.a.num
    let b := s.rx f.b.num
    (b.toNat < 16 → b.toNat % 8 < 4 →
      let t := s.dropTlb (s.inScope (b.getLsbD 3)) (tlbDrops (b.toNat % 8) a.toNat) (tlbGone (b.toNat % 8) a.toNat)
      let freed (u : State) : State := (u.freeHeld (s.inScope (b.getLsbD 3)) (migFrees (b.toNat % 8) a.toNat)).updY Sync.ordered
      ((∀ v, s.me.c.phase ≠ .granted v) → b.toNat % 8 ≠ 3 → exec (.tlbi f) s = completes ((freed t).wx f.d.num 0) f.h (some f.t)) ∧
      (∀ v, s.me.c.phase = .granted v → s.translatedOpen (b.getLsbD 3) v.toNat = false →
        exec (.tlbi f) s = completes ((freed s).wx f.d.num (if s.pageHasCell a.toNat then 1 else 0)) f.h (some f.t)) ∧
      (∀ k, (t.tile k).dtlb = if s.inScope (b.getLsbD 3) k then (s.tile k).dtlb.filter fun e => !tlbDrops (b.toNat % 8) a.toNat e else (s.tile k).dtlb) ∧
      t.mem = s.mem ∧ t.flights = s.flights) ∧
    (a.toNat < 2 ^ 22 → b.toNat < 16 →
      let k := s.named (a.toNat % 65536)
      let g := a.toNat / 65536
      let t := s.setParts k g (b.setWidth 4)
      (g < 56 ∨ s.me.c.level = .m → s.treeOwner g = ownerOf s.cur → exec (.gpart f) s = completes (t.wx f.d.num ((s.partSet k g).setWidth 64)) f.h (some f.t)) ∧
      (56 ≤ g → s.me.c.level ≠ .m → exec (.gpart f) s = .next (s.takeFault { cause := 0x03 })) ∧
      (g < 56 → s.treeOwner g ≠ ownerOf s.cur → exec (.gpart f) s = .next (s.takeFault { cause := 0x06 })) ∧
      (s.partSet k g ≠ 0 → t.partSet k g = b.setWidth 4) ∧
      (s.partSet k g = 0 → t.partSet k g = 0 ∧ (b.setWidth 4 ≠ (0 : BitVec 4) → (t.tile k).partsNext.get 0 g = b.setWidth 4))) ∧
    (a.toNat < 64 → b.toNat < 2 ^ 18 → exec (.cntc f) s = completes (claims s f.d.num a b) f.h (some f.t)) ∧
    (a.toNat / 16 % 256 = 0 → b.toNat < 16 → exec (.trc f) s = completes (traces s f.d.num a b) f.h (some f.t))) ∧
  (∀ (s : State) (a v : Word), a.toNat < 2 ^ 10 → 256 ≤ a.toNat →
    let n := a.toNat % 256 * 4 + a.toNat / 256
    let old := (s.forme (formeKey s.cur)).wdog.get (if a.toNat / 256 = 2 then 100000 else 1000) n
    let t (d : Nat) : State := (s.updForme (formeKey s.cur) fun w => { w with wdog := w.wdog.set n v }).wx d old
    (∀ f : SDAB, acts s f.h (some f.t) .s (opsDAB f) → s.rx f.a.num = a → s.rx f.b.num = v → exec (.wdog f) s = completes (t f.d.num) f.h (some f.t)) ∧
    (∀ f : IDA, acts s f.h none .s [(f.d, .wx), (f.a, .rx)] → s.rx f.a.num = a → f.imm.signExtend 64 = v →
      exec (.wdogImm f) s = completes (t f.d.num) f.h none)) ∧
  (∀ (s : State) (f : ID), acts s f.h none .s [(f.d, .wx)] →
    let p := (s.owner (ownerOf s.cur)).proof
    let n : BitVec 32 := if p.live = false then 1 else if p.state = 0 then p.number else p.number + 1
    ∃ q : Proof, exec (.proof f) s = completes (((s.updOwner (ownerOf s.cur) fun w => { w with proof := q }).proofRecord (ownerOf s.cur)).wx f.d.num
        (n.setWidth 64)) f.h none ∧
      q.live = true ∧ (p.live = false ∨ p.state = 0 ∨ (p.state ≠ 1 ∧ p.queued = false) → q.number = n ∧ q.state = 0) ∧
      (p.live = true → p.state = 1 → q.queued = true)) ∧
  (∀ (s : State) (f : IDA), acts s f.h none .s [(f.d, .wx), (f.a, .rx)] →
    ((s.rx f.a.num).toNat < 64 → exec (.cntcImm f) s = completes (claims s f.d.num (s.rx f.a.num) (f.imm.signExtend 64)) f.h none) ∧
    ((s.rx f.a.num).toNat / 16 % 256 = 0 → exec (.trcImm f) s = completes (traces s f.d.num (s.rx f.a.num) (f.imm.signExtend 64)) f.h none)) ∧
  (∀ (s : State) (f : SDA), acts s f.h (some f.t) .u (opsDA f) → (s.rx f.a.num).toNat < 64 →
    let a := s.rx f.a.num
    let q := s.counterOf a
    let e := q.event.toNat
    let reads (v : BitVec 64) : Prop := exec (.cntr f) s = completes (s.wx f.d.num v) f.h (some f.t)
    (q.claimed = false → reads (BitVec.allOnes 64)) ∧
    (q.claimed = true → a.getLsbD 5 = false → 1 ≤ e → e ≤ 9 →
      ((e < 2 ∨ 4 < e ∨ q.enabled = false) → reads q.value) ∧
      (2 ≤ e → e ≤ 4 → q.enabled = true →
        reads (q.value + Config.eventCycles e s.cur (s.counterCtx (a.toNat % 32 % 8)) q.since s.gtime))) ∧
    (q.claimed = true → a.getLsbD 5 = true → 0x100 ≤ e → e ≤ 0x103 →
      ((e ≠ 0x100 ∨ q.enabled = false) → reads q.value) ∧
      (e = 0x100 → q.enabled = true →
        reads (q.value + (s.cyc s.cur - Config.cycles (s.dieOf s.cur) (clusterIn s.cur) q.since)))))

/-- R132, R338, R347, R349, R350, R362: the instructions of level M, and `rflush`. `scrub` asks for a scrub and holds the forme's launches;
`keyld` loads a key slot from a record: memory reads through every other slot as before, and through this one as it was written where it was
written under the same keys; `fencecore` fences a site, and the tile that stands there; `flood` starts the packet that every site
answers; `halt` stores `dstat` and stops the context. `rflush` folds the owner's cells at every slice or at one, and sets their watermark. At a
site without a tile `fencecore` marks the site alone (log 52), and at scope 3 the address of `rflush` is not looked at (log 53). -/
def Obligations.MasterInstructions : Prop :=
  (∀ (s : State) (f : SDA), acts s f.h (some f.t) .m (opsDA f) →
    let a := s.rx f.a.num
    (a.toNat < 2 ^ 17 →
      exec (.scrub f) s = completes ((s.updForme (formeKey (s.placeOf (a.toNat % 64) 0)) fun w =>
        { w with held := true, scrubs := insNat w.scrubs (if a.getLsbD 16 then 1024 else a.toNat / 64 % 1024) }).wx f.d.num 0) f.h (some f.t)) ∧
    (a.toNat < 2 ^ 17 →
      let die := a.toNat % 64
      let site := a.toNat / 64
      let s1 := s.updDie die fun q => { q with fencedSites := insNat q.fencedSites site }
      (1056 ≤ site ∨ s1.tileAtSite die site = none → exec (.fencecore f) s = completes (s1.wx f.d.num 0) f.h (some f.t)) ∧
      (∀ k, site < 1056 → s1.tileAtSite die site = some k →
        (∃ t : State, (exec (.fencecore f) s = completes (t.wx f.d.num 0) f.h (some f.t) ∨ exec (.fencecore f) s = .next t) ∧ (t.tile k).fenced = true) ∧
        (k ≠ s.cur → s.me.c.run = .ready → (∀ c, c < 4 → (s.ctx k c).c.run = .idle) →
          ∃ t : State, exec (.fencecore f) s = completes (t.wx f.d.num 0) f.h (some f.t) ∧ (t.tile k).fenced = true))) ∧
    (s.boot = false → exec (.flood f) s = .next (s.takeFault { cause := 0x03 })) ∧
    (s.boot = true → recordAt s a → ∃ (q : Flood) (t : State), exec (.flood f) s = completes (t.wx f.d.num 0) f.h (some f.t) ∧
      (t.die (formeOf s.cur)).floods = (s.die (formeOf s.cur)).floods ++ [q] ∧ q.dtab = recField (recordBits s a) 0x30 4 ∧
      q.dbar = recField (recordBits s a) 0x34 2 ∧
      (s.myTile.pad.wf = true → (t.tile s.cur).pad.read a.toNat = 0xC0 ∧ (t.tile s.cur).pad.readN (a.toNat + 0x24) 2 = 0x100E))) ∧
  (∀ (s : State) (f : SDAB), acts s f.h (some f.t) .m (opsDAB f) →
    let n := (s.rx f.a.num).toNat
    let b := s.rx f.b.num
    n < 4096 → recordAt s b →
    ∃ q : KeySlot, exec (.keyld f) s = completes ((s.takeKeys n q).wx f.d.num 0) f.h (some f.t) ∧ (s.takeKeys n q).keys = s.keys.set n q ∧ q.loaded = true ∧
      q.holder = (s.keys.get .reset n).holder ∧ q.owner = (s.die (s.dieOf s.cur)).mown.toNat ∧
      q.data = (recordBits s b).extractLsb' 0 256 ∧ q.tweak = (recordBits s b).extractLsb' 256 256 ∧
      (s.takeKeys n q).mem = s.mem ∧ (∀ l slot, slot ≠ n → (s.takeKeys n q).lineRead slot l = s.lineRead slot l) ∧
      (∀ l, s.lineKeys.get none l = some (q.tweak ++ q.data) → (s.takeKeys n q).lineRead n l = BitVec.ofNat 512 (s.mem.readN (64 * l) 64))) ∧
  (∀ (s : State) (f : SA), acts s f.h (some f.t) .m [(f.a, .rx)] →
    let v := s.rx f.a.num
    (2 ^ 32 ≤ v.toNat → exec (.halt f) s = .next (s.takeFault { cause := 0x02 })) ∧
    (v.toNat < 2 ^ 32 → f.h.nas = 0 → f.t.sen = false → s.me.c.gang = none → s.me.c.stepping = false →
      ∃ t, exec (.halt f) s = .next t ∧ t.me.c.run = .halted ∧ (t.die (s.dieOf s.cur)).dstat = v.setWidth 32 ∧ t.me.r = { s.me.r with pc := s.me.r.pc + 12 } ∧
        (s.boot = true → s.host.phase ≠ 0xFF → v.toNat / 256 % 256 ≠ 0 → t.host.phase = 0xFF ∧ t.host.fcode.toNat = v.toNat / 256 % 256))) ∧
  (∀ (s : State) (f : MDA), acts s f.h none .s [(f.d, .wx), (f.a, .rx)] →
    let o := ownerOf s.cur
    let flushed (t : State) (h : Nat) : Prop := (t.slice h).wmark.get 0 o = (s.owner o).sstep.toNat % 2 ^ 24 ∧ (t.slice h).history o = 0
    (f.m.scope = 3 → ∃ t n, exec (.rflush f) s = completes (t.wx f.d.num n) f.h none ∧ ∀ h, h < 144 → flushed t h) ∧
    (f.m.scope ≠ 3 → ∀ pa slot h r w s1, (eaOf s f.a f.m).toNat < 2 ^ 57 → s.reach (eaOf s f.a f.m).toNat false false = .at_ pa slot (.slice h) r w s1 →
      ∃ t n, exec (.rflush f) s = completes (t.wx f.d.num n) f.h none ∧ flushed t h))

/-- R271 to R273, R277, R290, R293, R294, R339: `rtld` sets a route register and clears its checked bit; `rtchk` judges it, and sets the bit when
the status is 0; `artw` writes rows and turn sets, of an ingress table at the gateway of the die that the control word names, when
R271's checks from the row's own start pass, and else reports the status of Table 11; `imap` reads an entry of the imposition map, all ones past a table's end, and at M writes the
next version, or, in boot mode, the version in force; `turnack` acknowledges the notice of its forme. A status that is not 0 changes nothing. That an
all-zero register is judged 0x07 is the model's reading (log 31), and that bit 18 of an `imap` write outside boot mode raises 0x03 (log 48). -/
def Obligations.RouteAndMapInstructions : Prop :=
  (∀ (s : State) (f : SAB), s.does f.h (some f.t) .u [(f.a, .rpair), (f.b, .rx)] = true → f.t.wen = false →
    let n := (s.rx f.b.num).toNat
    (n < 16 → exec (.rtld f) s = completes (s.updY fun y =>
      { y with rts := y.rts.set n (s.rx (f.a.num + 1) ++ s.rx f.a.num), rtck := y.rtck &&& ~~~((1 : BitVec 16) <<< n) }) f.h (some f.t)) ∧
    (16 ≤ n → exec (.rtld f) s = .next (s.takeFault { cause := 0x02 }))) ∧
  (∀ (s : State) (f : SDA), s.does f.h (some f.t) .u (opsDA f) = true → f.t.wen = false →
    let n := (s.rx f.a.num).toNat
    (n < 16 → s.checkReg n = 0 → exec (.rtchk f) s =
      completes ((s.updY fun y => { y with rtck := y.rtck ||| ((1 : BitVec 16) <<< n) }).wx f.d.num 0) f.h (some f.t)) ∧
    (n < 16 → s.checkReg n ≠ 0 → exec (.rtchk f) s = completes (s.wx f.d.num (BitVec.ofNat 64 (s.checkReg n))) f.h (some f.t)) ∧
    (16 ≤ n → exec (.rtchk f) s = .next (s.takeFault { cause := 0x02 })) ∧ (s.me.y.rts.get 0 n = 0 → s.checkReg n = 0x07)) ∧
  (∀ (s : State) (f : SDAB), s.does f.h (some f.t) .s [(f.d, .wx), (f.a, .rpair), (f.b, .rx)] = true → f.t.wen = false →
    let b := s.rx f.b.num
    let op := b.toNat % 8
    let row := b.toNat / 256 % 256
    let r : BitVec 128 := s.rx (f.a.num + 1) ++ s.rx f.a.num
    let new : Row := { route := r, tag := (b >>> 32).setWidth 32, valid := true }
    let zero := b.toNat / 8 % 32 = 0 ∧ b.toNat / 2 ^ 16 % 16 = 0 ∧ b.toNat / 2 ^ 24 % 256 = 0
    (¬ zero → exec (.artw f) s = .next (s.takeFault { cause := 0x02 })) ∧
    (zero → op = 6 → s.me.c.level ≠ .m → exec (.artw f) s = .next (s.takeFault { cause := 0x03 })) ∧
    let o := ownerOf s.cur
    let fk := formeKey s.cur
    let gw := b.toNat / 2 ^ 20 % 16
    let set8 : BitVec 8 := r.setWidth 8
    let bed := (s.bedOf o (formeOf s.cur)).getD 0
    let judged (p : Pos) (q : BitVec 128) : Nat := s.checkRoute s.cur p q (s.owner o).turnSet.toNat false false % 256
    let answers (n : Nat) (t : State) : Prop := exec (.artw f) s = completes (t.wx f.d.num (BitVec.ofNat 64 n)) f.h (some f.t)
    let writes (n : Nat) (t : State) : Prop := (n = 0 → answers 0 t) ∧ (n ≠ 0 → answers (0x100 + n) s)
    let off (m : SMap Row) : SMap Row := m.set row { m.get .reset row with valid := false }
    (zero → (op = 6 → s.me.c.level = .m) →
      (op = 0 → writes (judged (bedOrigin bed) r) (s.updForme fk fun w => { w with anch := w.anch.set row new })) ∧
      (op = 1 → writes (judged (bedOrigin (s.nextBed bed)) r) (s.updForme fk fun w => { w with shadow := w.shadow.set row new })) ∧
      (op = 2 ∨ op = 3 →
        (s.gatewayOn (s.dieOf s.cur) gw = none → answers 4 s) ∧
        (∀ g, s.gatewayOn (s.dieOf s.cur) gw = some g →
          (207 < row → answers 3 s) ∧
          (row ≤ 207 → writes (judged (entrySite (s.map 6 g).toNat) (ingressRoute row r 1 1)) (s.updOwner o fun q =>
            if op = 2 then { q with ingress := q.ingress.set (g * 208 + row) new }
            else { q with ingressShadow := q.ingressShadow.set (g * 208 + row) new })))) ∧
      (op = 4 → answers 0 (s.updForme fk fun w => { w with anch := off w.anch, shadow := off w.shadow })) ∧
      (op = 5 → (set8 &&& ~~~s.modSet = 0 → answers 0 ((s.updOwner o fun q => { q with turnSet := set8 }).clearChecked o)) ∧
        (set8 &&& ~~~s.modSet ≠ 0 → answers 2 s)) ∧
      (op = 6 → (turnSetOk set8.toNat = true → answers 0 { s with modSet := set8 }) ∧ (turnSetOk set8.toNat = false → answers 2 s)) ∧
      (op = 7 → answers 4 s))) ∧
  (∀ (s : State) (f : SDAB), acts s f.h (some f.t) .u (opsDAB f) →
    let a := s.rx f.a.num
    let index := a.toNat % 4096
    let table := a.toNat / 4096 % 16
    (2 ^ 19 ≤ a.toNat → exec (.imap f) s = .next (s.takeFault { cause := 0x02 })) ∧
    (a.toNat < 2 ^ 19 → a.getLsbD 17 = false → exec (.imap f) s = completes (s.wx f.d.num
      (if imapSize table ≤ index then BitVec.allOnes 64 else s.mapAt (a.getLsbD 16 && !a.getLsbD 18) table index)) f.h (some f.t)) ∧
    (a.toNat < 2 ^ 19 → a.getLsbD 17 = true → (s.me.c.level ≠ .m ∨ (a.getLsbD 18 = true ∧ s.boot = false)) →
      exec (.imap f) s = .next (s.takeFault { cause := 0x03 })) ∧
    (a.toNat < 2 ^ 19 → a.getLsbD 17 = true → s.me.c.level = .m → (a.getLsbD 18 = true → s.boot = true) →
      ∃ (st : Nat) (t : State), exec (.imap f) s = completes (t.wx f.d.num (BitVec.ofNat 64 st)) f.h (some f.t) ∧ (st ≠ 0 → t = s) ∧
        (st = 0 → t.mapAt (!a.getLsbD 18) table index = s.rx f.b.num) ∧ (imapSize table ≤ index → st = 1) ∧
        (index < imapSize table → table ≠ 2 → st = 0))) ∧
  (∀ (s : State) (f : SDA), s.does f.h (some f.t) .s (opsDA f) = true → f.t.wen = false → (s.rx f.a.num).toNat < 2 ^ 32 →
    let answers (n : Nat) (t : State) : Prop := exec (.turnack f) s = completes (t.wx f.d.num (BitVec.ofNat 64 n)) f.h (some f.t)
    ((s.forme (formeKey s.cur)).notice = none → answers 1 s) ∧
    (∀ n, (s.forme (formeKey s.cur)).notice = some n →
      (n.tturn.toNat ≤ s.gtime.toNat → answers 1 s) ∧
      (s.gtime.toNat < n.tturn.toNat → (s.rx f.a.num).setWidth 32 ≠ n.tnext.setWidth 32 → answers 2 s) ∧
      (s.gtime.toNat < n.tturn.toNat → (s.rx f.a.num).setWidth 32 = n.tnext.setWidth 32 → n.ack = true → answers 3 s) ∧
      (s.gtime.toNat < n.tturn.toNat → (s.rx f.a.num).setWidth 32 = n.tnext.setWidth 32 → n.ack = false →
        answers 0 (s.updForme (formeKey s.cur) fun w => { w with notice := some { n with ack := true } }))))

/-! ### Units beside the cores -/

namespace Sys2Proof.Claims

/-- What is left of a wait that holds: a semaphore wait stands until its instruction takes it (R211). -/
def leftOfWait : WaitOn → WaitOn
  | .sem n thr => .sem n thr
  | _ => .nothing

end Sys2Proof.Claims

/-- R100, R132, R181, R182, R278, R282 to R284, R330 to R332, R335, R366: a context whose wait holds may issue again; a walk sets A, and D for a
write, in a valid leaf, and a page fault is noted by the tracker; a watermark only rises; a closed collection window is reported once, where no
context of the service core's tile is stopped (one that is gets it into its stop area, R383); an inbound
packet takes the route of a valid ingress row of this turn, and is held and reported once on any other; a flit is accepted when its number is the
expected one, and by no module that retrains; a module past its threshold retrains to 32 lanes, in a pause one at a time and at most two; a
link-level retry changes nothing. -/
def Obligations.UnitSteps : Prop :=
  (∀ (s : State) (k c : Nat),
    ((s.ctx k c).c.run = .waiting → s.holds k c (s.ctx k c).c.waitOn = true →
      exec (.observe k c) s = .next (s.updCtx k c fun x =>
        { x with c := { x.c with run := .ready, waitOn := leftOfWait x.c.waitOn } })) ∧
    ((s.ctx k c).c.run ≠ .waiting ∨ s.holds k c (s.ctx k c).c.waitOn = false → exec (.observe k c) s = .next s)) ∧
  (∀ (s : State) (k : Nat) (va : BitVec 64) (wr fe : Bool),
    let w := walk s.mem (s.owner (ownerOf k)).ptbase va.toNat
    (2 ^ 57 ≤ va.toNat → exec (.pageTableWalk k va wr fe) s = .next s) ∧
    (∀ l bad, va.toNat < 2 ^ 57 → w = .stop l bad → exec (.pageTableWalk k va wr fe) s = .next (s.trackFault k va.toNat)) ∧
    (∀ at_ e l u, va.toNat < 2 ^ 57 → w = .leaf at_ e l u → e < 2 ^ 64 → s.mem.wf = true → e.testBit (if fe then 3 else if wr then 2 else 1) = true →
      e.testBit 9 = false → paKind (pteFrame e + va.toNat % 2 ^ leafLg l) = .module → s.keyOk (ownerOf k) (e / 2 ^ 48 % 4096) = true →
      ∃ t, exec (.pageTableWalk k va wr fe) s = .next t ∧ t.mem.readN at_ 8 = e ||| 64 ||| (if wr then 128 else 0) ∧
        ∀ a, (a < at_ ∨ at_ + 8 ≤ a) → t.mem.read a = s.mem.read a)) ∧
  (∀ (s : State) (o h : Nat),
    ((s.owner o).wmarks.find? (fun e => e.1 == h) = none → exec (.settlingWatermarkAdvance o h) s = .next s) ∧
    (∀ e, (s.owner o).wmarks.find? (fun e => e.1 == h) = some e → ∃ t, exec (.settlingWatermarkAdvance o h) s = .next t ∧
      t.watermark h o = max (s.watermark h o) e.2 ∧ ∀ o', o' ≠ o → t.watermark h o' = s.watermark h o')) ∧
  (∀ (s : State) (o : Nat) (w : FpWindow) (e : FpExc), (s.owner o).windows = [w] → leastKey w.excs = some e →
    (w.reported.isSome = true ∨ s.gtime.toNat < w.opened.toNat + 4096 ∨ s.canReport e.tile = false → exec (.collectionWindowClose o) s = .next s) ∧
    (w.reported = none → w.opened.toNat + 4096 ≤ s.gtime.toNat → s.canReport e.tile = true → ∃ t, exec (.collectionWindowClose o) s = .next t ∧
      ((∀ q, s.serviceBox e.tile = .forme q → (s.tile (s.serviceTile q)).hasStop = false) →
        t.boxMsgs (s.serviceBox e.tile) = s.arrivals (s.boxMsgs (s.serviceBox e.tile) ++
          [{ body := (w.report e).message (s.ltileRead e.tile), src := e.tile, ctx := e.ctx, after := 0 }])) ∧
      (t.owner o).windows = [{ w with reported := some (e.tile, e.ctx % 4, e.engine) }])) ∧
  (∀ (s : State) (n g row south east : Nat) (f : Flight), s.flight n = some f → f.src = gateBase + g → f.stage = .queued → s.hostOrder f = true →
      s.sinceTurn = false → f.dest.ingressRow = some (row, south, east) →
    let v := (s.owner f.owner).ingress.get .reset (g * 208 + row)
    let good := v.valid = true ∧ v.tag = s.turns.setWidth 32
    (good → ∃ r, exec (.gatewayIngress n) s =
      .next (({ s with nextId := s.nextId + 1 } : State).updFlight n fun f => { f with route := r, stamp := 0, stage := .net s.nextId })) ∧
    (¬ good → f.stamp = 1 → exec (.gatewayIngress n) s = .next s) ∧
    (¬ good → f.stamp ≠ 1 → exec (.gatewayIngress n) s =
      .next ((s.updFlight n fun f => { f with stamp := 1 }).gatewayFault f.owner g row))) ∧
  (∀ (s : State) (l q : Nat),
    (∀ ok, (s.link l).retraining = true → exec (.ucieFlitReceive l q ok) s = .next s) ∧
    ((s.link l).retraining = false → ∃ t, exec (.ucieFlitReceive l q false) s = .next t ∧ (t.link l).corrected = (s.link l).corrected + 1 ∧
      (t.link l).expect = (s.link l).expect) ∧
    ((s.link l).retraining = false → ∃ t, exec (.ucieFlitReceive l q true) s = .next t ∧
      (t.link l).expect = if q = (s.link l).expect then (s.link l).expect + 1 else (s.link l).expect) ∧
    (s.sinceTurn = true → 0 < s.retraining ∨ 2 ≤ s.turn.retrains → exec (.linkRetrain l) s = .next s) ∧
    ((s.link l).retraining = false → (s.link l).narrow = false → (s.die (linkDie l)).linkthr.toNat < (s.link l).corrected → s.sinceTurn = false →
      ∃ t, exec (.linkRetrain l) s = .next t ∧ (t.link l).retraining = true) ∧
    ((s.link l).corrected ≤ (s.die (linkDie l)).linkthr.toNat → exec (.linkRetrain l) s = .next s) ∧
    ((s.link l).retraining = true → exec (.linkRetrainComplete l) s = .next (s.updLink l fun x =>
      { x with retraining := false, narrow := true, early := false })) ∧
    ((s.link l).retraining = false → exec (.linkRetrainComplete l) s = .next s) ∧ exec (.linkLevelRetry l) s = .next s)

/-! ### Turns and trees -/

/-- R289 to R301: the notice goes to every bed's forme when a turn is due; at T_turn the module quiesces; when every interface has drained the
shift begins, one round at a time; RESUME moves every forme to its next bed, counts the turn, empties instruction caches and TLBs, and ends the
pause; a bad circuit, an overrun drain or a chunk that cannot be delivered cancels the turn, and nothing moves. -/
def Obligations.TurnSteps : Prop :=
  (∀ s : State,
    let now := s.gtime.toNat + s.turn.lead.toNat * 1000
    let due := max (s.turn.last.toNat + s.turn.interval.toNat * 1000) (s.turn.changed.toNat + s.turn.lead.toNat * 1000)
    (s.boot = true ∨ s.turn.phase ≠ .none → exec .turnNotice s = .next s) ∧
    (now < due → (∀ p ∈ s.host.pending, p.asksPause = false) → exec .turnNotice s = .next s) ∧
    (s.boot = false → s.turn.phase = .none → due ≤ now → ∃ t, exec .turnNotice s = .next t ∧ t.turn.phase = .notice ∧ t.turn.noShift = false ∧
      t.turn.tturn = BitVec.ofNat 64 due ∧
      ∀ b, b < 64 → ∃ sp, (t.forme (s.onBed b)).notice = some { tnext := s.turns + 1, tturn := t.turn.tturn, ack := false, split := sp } ∧
        (s.host.pending = [] → s.turn.noShift = false → sp = s.split (s.onBed b / 64)))) ∧
  (∀ s : State,
    (s.turn.phase = .notice → s.turn.tturn.toNat ≤ s.gtime.toNat → ∃ t, exec .quiesce s = .next t ∧ t.turn.phase = .quiesce ∧ t.turn.rounds = 0 ∧
      t.turn.tstop = s.gtime ∧ t.turn.overlaps = 0 ∧ t.turn.retrains = s.turn.retrains) ∧
    (s.turn.phase ≠ .notice ∨ s.gtime.toNat < s.turn.tturn.toNat → exec .quiesce s = .next s)) ∧
  (∀ s : State,
    (s.turn.phase = .quiesce → s.overrun = false → s.drained = true →
      exec .drainComplete s = .next { s with turn := { s.turn with phase := .shift, tdrain := s.gtime, tshift := s.gtime, overlaps := if s.shiftRounds = 0 then 0 else s.retraining } }) ∧
    (s.turn.phase ≠ .quiesce ∨ s.overrun = true ∨ s.drained = false → exec .drainComplete s = .next s)) ∧
  (∀ s : State,
    (s.turn.phase = .shift → s.turn.rounds < s.shiftRounds → s.retraining = 0 →
      exec .shiftRound s = .next { s with turn := { s.turn with rounds := s.turn.rounds + 1, tshift := s.gtime } }) ∧
    (s.turn.phase ≠ .shift ∨ s.shiftRounds ≤ s.turn.rounds ∨ 0 < s.retraining → exec .shiftRound s = .next s) ∧
    (s.turn.noShift = false → s.badCircuit = false → s.isStandard = true → s.shiftRounds = if (s.turns + 1).toNat % 8 = 0 then 64 else 32) ∧
    (s.turn.noShift = true → s.shiftRounds = 0)) ∧
  (∀ s : State, s.turn.phase = .shift → s.shiftRounds ≤ s.turn.rounds → s.retraining = 0 →
    (s.turn.noShift = false → s.badCircuit = true → exec .resume s = .next (s.cancelTurn 2)) ∧
    (s.turn.noShift = true ∨ s.badCircuit = false → ∃ t, exec .resume s = .next t ∧ t.turn.phase = .none ∧
      t.turns = s.turns + (if s.turn.noShift then 0 else 1) ∧ (∀ k, (t.tile k).icache = [] ∧ (t.tile k).dtlb = [] ∧ (t.tile k).itlb = []) ∧
      (s.turn.noShift = false → s.imapNext = [] → s.host.pending = [] → ∀ b, b < 64 → t.map 0 (s.nextBed b) = s.map 0 b))) ∧
  (∀ (s : State) (cause : Nat),
    let fails := (cause = 1 ∧ s.turn.phase = .quiesce ∧ s.overrun = true) ∨ (cause = 2 ∧ s.turn.phase = .shift ∧ s.turn.noShift = false)
    (fails → exec (.turnCancel cause) s = .next (s.cancelTurn cause)) ∧ (¬ fails → exec (.turnCancel cause) s = .next s) ∧
    (s.cancelTurn cause).turn.phase = .none ∧ (s.cancelTurn cause).turns = s.turns ∧ (s.cancelTurn cause).imap = s.imap ∧
    (s.cancelTurn cause).mEvents = s.mEvents ++ [(1, cause)])

/-- R110, R156, R158, R354: a tree releases when every tile of its owner has arrived, unless a shift runs: each context that waits for it is answered
with the present time, and the next generation begins. When every arrival used `.ss` the superstep closes: the owner's `sstep` rises by one and the
sequence counters of its contexts become 0. The release of g61 ends boot mode. -/
def Obligations.TreesRelease : Prop :=
  ∀ (s : State) (g : Nat),
    let all := ∀ k ∈ s.treeTiles g, s.arrived k g = true
    (64 ≤ g ∨ s.turn.phase = .shift ∨ ¬ all → exec (.treeBarrierRelease g) s = .next s) ∧
    (g < 64 → s.turn.phase ≠ .shift → all →
      (s.boot = true → g = 61 → ∃ t, exec (.treeBarrierRelease g) s = .next t ∧ t.boot = false ∧ (s.host.phase ≠ 0xFF → t.host.phase = 6)) ∧
      (s.boot = false → (∀ k, ((s.tile k).arrivals.get .reset g).ss = 0) → ∃ (t : State) (v : BitVec 128), exec (.treeBarrierRelease g) s = .next t ∧
        v.setWidth 64 = s.gtime ∧
        ∀ k, (ownerOf k ≠ s.treeOwner g → t.tile k = s.tile k) ∧
          (ownerOf k = s.treeOwner g → (t.tile k).arrivals.get .reset g = .reset ∧
            ∀ c, (t.ctx k c).r = (s.ctx k c).r ∧ ((s.ctx k c).waitsTree g false = true → (t.ctx k c).c.phase = .granted v) ∧
              ((s.ctx k c).waitsTree g false = false → (s.ctx k c).waitsTree g true = false → t.ctx k c = s.ctx k c))) ∧
      (s.boot = false → s.allSs (s.treeTiles g) g = true → ∃ t, exec (.treeBarrierRelease g) s = .next t ∧
        (t.owner (s.treeOwner g)).sstep = (s.owner (s.treeOwner g)).sstep + 1 ∧ (∀ k c, ownerOf k = s.treeOwner g → (t.ctx k c).r.seq = 0)))

/-! ### Boot and the host -/

/-- R340 to R343, R349, R351, R352: module reset puts every part at its reset state but the memories; a cluster starts at its time, its contexts 0 at
M with pc 0; `go` is held through phase 1 and then has die 0's corner verify the image, or the boot fails; the relay gives the image to a die, whose
corner verifies it again, also when another's has failed; a site answers the packet of a flood in the corner's tile store, and then arrives at the barrier object there. That module
reset keeps memory and its poison is read from the rules (log 61), and that the boot routine starts at pc 0 is the model's choice (log 25). -/
def Obligations.BootSteps : Prop :=
  (∀ s : State, ∃ t, exec .moduleResetRelease s = .next t ∧ t.mem = s.mem ∧ t.memPoison = s.memPoison ∧ t.lineKeys = s.lineKeys ∧ t.tiles = State.reset.tiles ∧
    t.owners = State.reset.owners ∧ t.formes = State.reset.formes ∧ t.clusters = State.reset.clusters ∧ t.slices = State.reset.slices ∧
    t.dies = State.reset.dies ∧ t.keys = State.reset.keys ∧ t.imap = State.reset.imap ∧ t.flights = [] ∧ t.boot = true ∧ t.turns = 0 ∧
    t.host = State.reset.host ∧ t.gtime = State.reset.gtime) ∧
  (∀ (s : State) (d k : Nat), d < 64 → k < 64 →
    let due := s.boot = true ∧ (s.die d).powered.getLsbD k = false ∧ 200000 * d + 2000 * k ≤ s.gtime.toNat
    (¬ due → exec (.clusterPowerUp d k) s = .next s) ∧
    (due → ∃ t, exec (.clusterPowerUp d k) s = .next t ∧ (t.die d).powered.getLsbD k = true ∧
      (∀ i ∈ clusterSites k, i ≠ 0 → siteSkips d i = false → (t.ctx (bootKey d i) 0).c.run = .ready ∧ (t.ctx (bootKey d i) 0).c.level = .m ∧
        (t.ctx (bootKey d i) 0).r.pc = 0) ∧
      (s.host.phase = 0 → s.host.goHeld = false → (∀ e j, e < 64 → j < 64 → (e, j) ≠ (d, k) → (s.die e).powered.getLsbD j = true) →
        t.host.phase = 1) ∧
      (s.host.phase = 0 → s.host.goHeld = true → (∀ e j, e < 64 → j < 64 → (e, j) ≠ (d, k) → (s.die e).powered.getLsbD j = true) →
        t.host.phase = 2 ∧ t.host.goDone = true))) ∧
  (∀ s : State,
    let pa := 2 ^ 47 + s.host.bootaddr.toNat
    (s.host.goDone = true → exec .go s = .next s) ∧
    (s.host.goDone = false → s.host.phase = 0 → exec .go s = .next { s with host := { s.host with goHeld := true } }) ∧
    (s.host.goDone = false → s.host.phase ≠ 0 →
      exec .go s = .next { s with host := { s.host with goHeld := false, goDone := true, phase := 2 } }) ∧
    (s.boot = true → s.host.phase = 2 →
      (s.imageFault pa = 0 → ∃ t, exec (.imageRelay 0) s = .next t ∧ (t.die 0).imageOk = true ∧ t.host.phase = 3 ∧
        t.host.meas = s.measure pa (s.imageHeader pa).len) ∧
      (∀ c, s.imageFault pa = c → c ≠ 0 → ∃ t, exec (.imageRelay 0) s = .next t ∧ t.host.phase = 0xFF ∧ t.host.fcode = BitVec.ofNat 8 c ∧ t.host.fdie = 0 ∧
        (t.ctx (bootKey 0 0) 0).c.run = .halted))) ∧
  (∀ (s : State) (d : Nat),
    let can := s.boot = true ∧ (s.host.phase = 3 ∨ s.host.phase = 0xFF) ∧ d ≠ 0 ∧ d < 64 ∧ (s.die d).imageOk = false ∧ (s.die 0).imageOk = true
    let fetches := s.boot = true ∧ s.host.phase = 2 ∧ d = 0
    let first := s.host.phase ≠ 0xFF
    (¬ can → ¬ fetches → exec (.imageRelay d) s = .next s) ∧
    (can → s.relayFault d ≠ 0 → ∃ t, exec (.imageRelay d) s = .next t ∧ t.host.phase = 0xFF ∧
      (first → t.host.fcode = BitVec.ofNat 8 (s.relayFault d) ∧ t.host.fdie = BitVec.ofNat 6 d) ∧
      (¬ first → t.host.fcode = s.host.fcode ∧ t.host.fdie = s.host.fdie) ∧ (t.ctx (bootKey d 0) 0).c.run = .halted ∧ (t.die d).imageOk = false) ∧
    (can → s.relayFault d = 0 → ∃ t, exec (.imageRelay d) s = .next t ∧ (t.die d).imageOk = true ∧
      ((∀ e, e < 64 → e ≠ d → (s.die e).imageOk = true) → t.host.phase = 4 ∧ ∀ e, e < 64 → (t.ctx (bootKey e 0) 0).c.run = .ready))) ∧
  (∀ (s : State) (d i : Nat) (q : Flood), s.boot = true → d < 64 → i < 1056 → (s.die d).floods = [q] →
    (q.arriving.contains i = false → q.answered.contains i = true → exec (.discoveryAnswer d i) s = .next s) ∧
    (q.arriving.contains i = false → q.answered.contains i = false → ∃ t, exec (.discoveryAnswer d i) s = .next t ∧
      (t.die d).floods = [{ q with answered := insNat q.answered i, arriving := i :: q.arriving }] ∧
      ∀ k, s.answerTile d i = some k → q.dtab % 8 = 0 → q.dtab + 8 * i + 8 ≤ 0x60000 → (s.tile k).store.wf = true →
        t.tileRead k 1 (q.dtab + 8 * i) 8 = 2 ^ 63 + (if siteIsFused d i then 2 ^ 17 else 0) + (if siteSkips d i then 2 ^ 16 else 0) + i) ∧
    (q.arriving = [i] → ∃ t, exec (.discoveryAnswer d i) s = .next t ∧
      (t.die d).floods = (if q.answered.length < 1056 then [{ q with arriving := [] }] else []) ∧
      ∀ k, s.answerTile d i = some k → q.dbar % 16 = 0 → q.dbar + 16 ≤ 0x8000 → t.tiles = (s.barArrive k q.dbar).2.1.tiles))

namespace Sys2Proof.Claims

/-- The host's window can reach n bytes at an offset of it (R345). -/
def windowOpen (s : State) (o n : Nat) : Prop := o + n ≤ 2 ^ 36 ∧ s.windowRefused o n = false

end Sys2Proof.Claims

/-- R343 to R348: the host clears bits of bstat by writing 1, queues up to 16 messages, frees dmsg for the post that waits; its window's aligned
accesses enter the module for the owner of its key slot, a refused one sets werr; its registers; and M's answer to a nonce. The pieces that a
window access enters in and what `rdata` shows are the model's (log 60); kind 0 and byte 0x10 of a message that asks for a report are its choice
(log 59). -/
def Obligations.HostSteps : Prop :=
  (∀ (s : State) (v : BitVec 64),
    exec (.bstatClear v) s = .next { s with host := { s.host with hovf := s.host.hovf && !v.getLsbD 24, werr := s.host.werr && !v.getLsbD 25 } } ∧
    exec .hdoor s = .next { s with host := if s.host.hqueue.length < 16 then { s.host with hqueue := s.host.hqueue ++ [s.host.hmsg] }
      else { s.host with hovf := true } } ∧
    (s.host.dwait = [] → exec .ddoorClear s = .next { s with host := { s.host with ddoor := false } }) ∧
    (∀ m l, s.host.dwait = m :: l → exec .ddoorClear s = .next { s with host := { s.host with dmsg := m, dwait := l, ddoor := true } }) ∧
    exec (.registerWrite 0x008 v) s = exec (.bstatClear v) s ∧ exec (.registerWrite 0x080 v) s = exec .hdoor s ∧
    exec (.registerWrite 0x100 0) s = exec .ddoorClear s ∧ exec (.registerWrite 0x018 1) s = exec .go s ∧
    exec (.registerWrite 0x010 v) s = .next (if s.host.goDone then s else { s with host := { s.host with bootaddr := v } }) ∧
    exec (.registerWrite 0x200 v) s = .next { s with host := { s.host with csel := v } } ∧ exec (.registerWrite 0x208 v) s = .next (s.writeCdata v) ∧
    exec (.registerWrite 0x020 v) s = .next s ∧ exec (.registerWrite 0x028 v) s = .next s ∧
    exec (.registerWrite 0x000 v) s = .next s) ∧
  (∀ (s : State) (o n : Nat) (data : BitVec 512), 0 < n → n ≤ 64 → o + n ≤ 2 ^ 36 → s.windowRefused o n = true →
    exec (.windowWrite o n data) s = .next { s with host := { s.host with werr := true } } ∧
    exec (.windowRead o n) s = .next { s with host := { s.host with werr := true, rdata := BitVec.allOnes 512 } }) ∧
  (∀ (s : State) (o n : Nat) (data : BitVec 512), windowOpen s o n → (s.host.winbase.toNat + o) % n = 0 →
    let owner := (s.keys.get .reset s.host.winkey.toNat).owner
    let entered (f : Flight) : Prop := f.id = s.nextId ∧ f.addr = s.host.winbase.toNat + o ∧ f.owner = owner ∧ f.src = gateBase ∧ f.stage = .queued ∧
      f.slot = s.host.winkey.toNat ∧ f.dest = .slice (homeSlice f.addr)
    (n ∈ [1, 2, 4, 8, 16] → ∃ (f : Flight) (d : BitVec 128),
      exec (.windowWrite o n data) s = .next { s with flights := s.flights ++ [f], nextId := s.nextId + 1 } ∧ entered f ∧ f.op = .store n d ∧
      d.toNat = data.toNat % 2 ^ (8 * n)) ∧
    (n ∈ [1, 2, 4, 8] → ∃ f : Flight, exec (.windowRead o n) s =
        .next { s with flights := s.flights ++ [f], nextId := s.nextId + 1,
                       host := { s.host with reads := s.host.reads ++ [{ name := s.nextId, left := 1, data := 0 }] } } ∧
        entered f ∧ f.op = .load n ∧ f.part = s.nextId)) ∧
  (∀ s : State,
    (s.host.phase ≠ 6 ∨ s.sinceTurn = true ∨ s.host.hqueue = [] → exec .attestationRequest s = .next s) ∧
    (∀ m l, s.host.phase = 6 → s.sinceTurn = false → s.host.hqueue = m :: l → recField m 0 1 = 0 → s.host.ddoor = false →
      ∃ t, exec .attestationRequest s = .next t ∧ t.host.hqueue = l ∧ t.host.ddoor = true ∧
        t.host.dmsg.toNat = bytesNat ((s.reportBody (recField m 0x10 48) (reportOwner m)).take 64)))

/-! ### Debug module, monitors, errors, rollback -/

/-- R366, R367, R376, R379 to R384: the debug module stops, steps and starts the contexts of the selected tile; a budget takes effect at the next
interval unless the forme's sums would pass their bounds; the throttle level follows the monitors, at once to level 3; the trace unit empties its
buffer, with the record of a microsecond that has none yet; an uncorrectable error poisons its unit; a rollback ends the owner's threads and goes
back to the superstep of its proof. When the buffer is emptied and which context the record of a microsecond names is open (log 50); the places of
an error by number are the model's (log 63); that a rollback waits for what the owner has sent, and without a complete proof does nothing, is read
from the rules (log 58). -/
def Obligations.DebugAndErrorSteps : Prop :=
  (∀ (s : State) (m : BitVec 4) (v : BitVec 64), s.selected = none →
    exec (.debugStopRequest m) s = .next s ∧ exec (.debugStep m) s = .next s ∧ exec (.debugGo m) s = .next s ∧ exec (.budgetWrite v) s = .next s) ∧
  (∀ (s : State) (m : BitVec 4) (k : Nat), s.selected = some k → (s.tile k).checked = false → (s.tile k).stile = false → (s.tile k).stopArea = [] →
    (∃ t, exec (.debugStopRequest m) s = .next t ∧ ∀ c, c < 4 →
      (m.getLsbD c = true → (s.ctx k c).c.run = .ready → (s.ctx k c).c.phase = .fresh →
        (t.ctx k c).c.run = .debugStop ∧ (t.ctx k c).c.why = 1 ∧ (t.ctx k c).r = (s.ctx k c).r) ∧
      (m.getLsbD c = false → t.ctx k c = s.ctx k c)) ∧
    (∃ t, exec (.debugStep m) s = .next t ∧ ∀ c, c < 4 → m.getLsbD c = true → (s.ctx k c).c.run = .debugStop →
      (t.ctx k c).c.run = .ready ∧ (t.ctx k c).c.stepping = true ∧ (t.ctx k c).r = (s.ctx k c).r) ∧
    (∃ t, exec (.debugGo m) s = .next t ∧ ∀ c, c < 4 → m.getLsbD c = true → (s.ctx k c).c.run = .debugStop → (s.ctx k c).c.barred = false →
      (t.ctx k c).c.run = .ready ∧ (t.ctx k c).c.stepping = false ∧ (t.ctx k c).r = (s.ctx k c).r)) ∧
  (∀ (s : State) (v : BitVec 64) (k : Nat), s.selected = some k →
    let e := v.toNat % 65536
    let i := v.toNat / 65536 % 256
    let sum := s.budgetSums (clusterKey k)
    let fits := sum.1 + e ≤ 206250 ∧ sum.2 + i ≤ 8800
    (fits → ∃ t, exec (.budgetWrite v) s = .next t ∧ (t.cluster (clusterKey k)).ebudNext = some e ∧ (t.cluster (clusterKey k)).ibudNext = some i ∧
      (t.cluster (clusterKey k)).ebud = (s.cluster (clusterKey k)).ebud) ∧
    (¬ fits → exec (.budgetWrite v) s = .next s)) ∧
  (∀ (s : State) (k : Nat) (temp : BitVec 10) (volt : BitVec 14) (osc : BitVec 16),
    let q := s.cluster k
    let dwell := (s.gtime - q.levFrom).toNat
    (s.gtime.toNat % 10000 ≠ 0 → exec (.monitorSample k temp volt osc) s = .next s) ∧
    (s.gtime.toNat % 10000 = 0 → ∃ t, exec (.monitorSample k temp volt osc) s = .next t ∧ (t.cluster k).temp = temp ∧ (t.cluster k).volt = volt ∧
      (t.cluster k).osc = osc ∧ (q.lev ≤ 3 → q.t3.toNat ≤ temp.toNat → (t.cluster k).lev = 3) ∧
      (temp.toNat < q.t3.toNat → dwell < 100000 → (t.cluster k).lev = q.lev) ∧
      (temp.toNat < q.t1.toNat → temp.toNat < q.t2.toNat → temp.toNat < q.t3.toNat → 0 < q.lev → 100000 ≤ dwell →
        temp.toNat + q.hyst.toNat ≤ q.threshold q.lev → (t.cluster k).lev = q.lev - 1))) ∧
  (∀ (s : State) (k c : Nat),
    let tr := (s.tile k).trace
    let due := tr.last ≤ s.gtime.toNat / 1000 ∧ c < 4
    let more := if due ∧ tr.on = true ∧ tr.kinds.getLsbD 2 = true ∧ tr.buf.length < 32 then 1 else 0
    ∃ t, exec (.traceCycRecord k c) s = .next t ∧ (t.tile k).trace.buf = [] ∧ (t.tile k).trace.pos = tr.pos + tr.buf.length + more ∧
      (t.tile k).trace.last = if due then s.gtime.toNat / 1000 + 1 else tr.last) ∧
  (∀ (s : State) (p k a : Nat), 17 < p → exec (.uncorrectableError p k a) s = .next s) ∧
  (∀ (s : State) (k a : Nat),
    (a < 0x8000 → ∃ t, exec (.uncorrectableError 0 k a) s = .next t ∧ a / 8 ∈ (t.tile k).padPoison) ∧
    (a < 0x60000 → ∃ t, exec (.uncorrectableError 1 k a) s = .next t ∧ a / 8 ∈ (t.tile k).storePoison) ∧
    (a < 512 → ∃ t, exec (.uncorrectableError 2 k a) s = .next t ∧ a ∈ (t.tile k).xPoison) ∧
    (a < 256 → ∃ t, exec (.uncorrectableError 3 k a) s = .next t ∧ a ∈ (t.tile k).vPoison) ∧
    (paKind a = .module → ∃ t, exec (.uncorrectableError 4 k a) s = .next t ∧ ∀ i, i < 8 → a / 64 * 8 + i ∈ t.memPoison) ∧
    (∃ t, exec (.uncorrectableError 5 k a) s = .next t ∧ (t.tile k).icache.get none a = none) ∧ exec (.patrolScrub a) s = .next s) ∧
  (∀ (s : State) (o : Nat),
    ((s.owner o).proof.complete = none ∨ s.sinceTurn = true → exec (.rollback o) s = .next s) ∧
    (∀ p, (s.owner o).proof.complete = some p → s.sinceTurn = false → ((s.tilesOf o).foldl State.clearTile s).ownerQuiet o = true →
      ∃ t, exec (.rollback o) s = .next t ∧ (t.owner o).sstep = p.sstep ∧
        ∀ k c, ownerOf k = o → k < bootBase → (t.ctx k c).c.run = .idle))

/-! ### Owners -/

namespace Sys2Proof.Claims

/-- No retirement waits for its key slots, which RELEASE_KEYS would release first. -/
def noRetirement (s : State) : Prop := ∀ p ∈ s.host.pending, p.stage ≠ 3
/-- The oldest host message is a request r of a kind, rest the ones behind it; no request of its owner is on its way, no pause runs, and no post waits (R356). -/
def requested (s : State) (kind : Nat) (r : BitVec 512) (rest : List (BitVec 512)) : Prop :=
  s.host.phase = 6 ∧ s.sinceTurn = false ∧ s.host.hqueue = r :: rest ∧ recField r 0 1 = kind ∧ s.ownerBusy (recField r 1 1) = false ∧ s.host.ddoor = false
/-- The state in which the request is answered with a status. -/
def refusedWith (s : State) (r : BitVec 512) (rest : List (BitVec 512)) (st : Nat) : State :=
  { s with host := { s.host with hqueue := rest, ddoor := true, dmsg := ownerReply r st 0 0 } }
def requestRows : List (Nat × Instr) := [(1, .ownerCreate), (2, .ownerGrow), (3, .ownerShrink), (4, .ownerRetire), (5, .assignKeys), (6, .releaseKeys)]

end Sys2Proof.Claims

/-- R356 to R363: a request that fails a check is answered with its status: 3 malformed, 1 an owner that exists or does not, 5 a shrink to nothing. A
creation or a growth with enough free beds has them scrubbed and held, and is answered with 2 without; a shrink or a retirement waits for a pause;
key slots are assigned and released, and a release leaves every line as it reads through a slot that stays. The order of the checks is the model's
(log 59), and a release waits for every open access of the owner too (log 63). The end of a forme's scrubs lets it pop slugs again. -/
def Obligations.OwnerRequests : Prop :=
  (∀ (s : State) (kind : Nat) (i : Instr), (kind, i) ∈ requestRows →
    (s.host.phase ≠ 6 ∨ s.sinceTurn = true ∨ s.host.hqueue = [] → (kind = 6 → noRetirement s) → exec i s = .next s) ∧
    (∀ r rest, requested s kind r rest → (kind = 6 → noRetirement s) →
      let st := if reqFormed r = false then 3 else if (s.owner (recField r 1 1)).live = decide (kind = 1) then 1
        else if kind = 3 ∧ (s.owner (recField r 1 1)).formes ≤ recField r 2 1 then 5 else 0
      st ≠ 0 → exec i s = .next (refusedWith s r rest st))) ∧
  (∀ (s : State) (kind : Nat) (i : Instr) (r : BitVec 512) (rest : List (BitVec 512)), (kind, i) ∈ [(1, Instr.ownerCreate), (2, Instr.ownerGrow)] →
      requested s kind r rest → s.reqStatus r = 0 →
    let w := s.owner (recField r 1 1)
    let n := recField r 2 1
    let room := n ≤ (s.freeBeds (BitVec.ofNat 64 (recField r 8 8))).length ∧ w.formes + n ≤ 64 ∧
      (kind = 1 → s.treesFree (recField r 0x10 8) = true)
    (¬ room → exec i s = .next (refusedWith s r rest 2)) ∧
    (room → ∃ (t : State) (p : Pending), exec i s = .next t ∧ t.host.pending = s.host.pending ++ [p] ∧ t.host.hqueue = rest ∧ p.req = r ∧ p.stage = 0 ∧
      p.formes.length = n ∧ ∀ fk ∈ p.formes, (t.forme fk).held = true)) ∧
  (∀ (s : State) (kind : Nat) (i : Instr) (r : BitVec 512) (rest : List (BitVec 512)), (kind, i) ∈ [(3, Instr.ownerShrink), (4, Instr.ownerRetire)] →
      requested s kind r rest → s.reqStatus r = 0 →
    ∃ (t : State) (p : Pending), exec i s = .next t ∧ t.host.pending = s.host.pending ++ [p] ∧ t.host.hqueue = rest ∧ p.req = r ∧ p.stage = 1) ∧
  (∀ (s : State) (r : BitVec 512) (rest : List (BitVec 512)), s.reqStatus r = 0 →
    let slot (n : Nat) : Prop := recField r 4 2 ≤ n ∧ n < recField r 4 2 + recField r 6 2
    let mine := ∀ n, slot n → (∀ o, (s.keys.get .reset n).holder = some o → o = recField r 1 1) ∧
      ((s.keys.get .reset n).holder = none → (s.keys.get .reset n).loaded = true → (s.keys.get .reset n).owner = recField r 1 1)
    let quiet := s.ownerQuiet (recField r 1 1) = true ∧ s.slotsQuiet (reqSlots r) = true
    (requested s 5 r rest → (mine → ∃ t, exec .assignKeys s = .next t ∧ t.host.dmsg = ownerReply r 0 0 0 ∧
        ∀ n, (t.keys.get .reset n).holder = (if recField r 4 2 ≤ n ∧ n < recField r 4 2 + recField r 6 2 then some (recField r 1 1)
          else (s.keys.get .reset n).holder)) ∧
      (¬ mine → exec .assignKeys s = .next (refusedWith s r rest 4))) ∧
    (requested s 6 r rest → noRetirement s → (mine → quiet → ∃ t, exec .releaseKeys s = .next t ∧ t.host.dmsg = ownerReply r 0 0 0 ∧
        (∀ n, slot n → (t.keys.get .reset n).loaded = false ∧ (t.keys.get .reset n).holder = none) ∧
        t.mem = s.mem ∧ ∀ l n, ¬ slot n → t.lineRead n l = s.lineRead n l) ∧
      (mine → ¬ quiet → exec .releaseKeys s = .next s) ∧
      (¬ mine → exec .releaseKeys s = .next (refusedWith s r rest 4)))) ∧
  (∀ (s : State) (p : Pending) (rest : List Pending), s.host.pending = p :: rest → p.stage = 3 →
    let o := recField p.req 1 1
    s.slotsQuiet (s.heldKeys o) = true →
      exec .releaseKeys s = .next ((s.releaseKeys o (s.heldKeys o)).closeRequest p)) ∧
  (∀ (s : State) (b : Nat),
    let fk := s.onBed b
    (64 ≤ b ∨ s.sinceTurn = true ∨ (s.forme fk).scrubs = [] → exec (.scrubComplete b) s = .next s) ∧
    (b < 64 → s.sinceTurn = false → (s.forme fk).scrubs = [1024] → s.host.pending = [] → ∃ t, exec (.scrubComplete b) s = .next t ∧
      (t.forme fk).held = false ∧ (t.forme fk).scrubs = [] ∧
      ∀ k a, k < bootBase → formeOfTile k = fk → (t.tile k).pad.read a = 0 ∧ (t.tile k).store.read a = 0 ∧ (t.tile k).xr.get 0 a = 0))

/-! ### What holds of many instructions at once -/

namespace Sys2Proof.Claims

/-- The S-form instructions, by their operand fields (R20). -/
noncomputable def formsS0 : List (S0 → Instr) :=
  [.nop, .lcpush, .lcpop, .yield, .irgn]
noncomputable def formsSD : List (SD → Instr) :=
  [.pmov, .mxcap]
noncomputable def formsSA : List (SA → Instr) :=
  [.pset, .lcset, .tclr, .rgclr, .fwait, .evsig, .semsg, .tagclr, .mxq, .mxqr, .cpq, .cpqr, .mxgate, .cpkill, .halt]
noncomputable def formsSAB : List (SAB → Instr) :=
  [.launch, .rgset, .mxwr, .rtld]
noncomputable def formsSDA : List (SDA → Instr) :=
  [.abs, .neg, .clz, .ctz, .popc, .mov, .fsqrt, .fabs, .fneg, .fclass, .frnd, .fcvtFi, .fcvtIf, .fcvtBf, .fcvtFb, .fcvtE4, .fcvtE5, .fcvtF4,
   .fcvtF5, .fsplit, .join, .tlook, .tinv, .rgq, .gjoin, .gleave, .semwt, .semrd, .semset, .tagwa, .tagwl, .tagff, .vabsF, .vnegF, .vsqrtF,
   .vrcpF, .vrsqF, .vexp2F, .vlog2F, .vrnsTo, .vrnsFrom, .vmnot, .vmpop, .vbcast, .viota, .vmov, .vredAddF, .vredAddI, .vredMinF, .vredMaxF,
   .vredMinI, .vredMaxI, .vscanAddI, .vscanAddF, .eqst, .mxwm, .mxrd, .mbxw, .rtchk, .prmt, .kill, .cntr, .scrub, .turnack, .fencecore,
   .flood]
noncomputable def formsSDAB : List (SDAB → Instr) :=
  [.add, .sub, .mul, .mulh, .mulhu, .div, .divu, .rem, .remu, .and, .or, .xor, .andn, .shl, .shr, .sra, .rotr, .min, .max, .minu, .maxu,
   .addW, .subW, .mulW, .fadd, .fsub, .fmul, .fma, .fnma, .fdiv, .fmin, .fmax, .tset, .vaddI, .vsubI, .vmulI, .vminI, .vmaxI, .vand, .vor,
   .vxor, .vshl, .vshr, .vsra, .vaddF, .vsubF, .vmulF, .vfmaF, .vfnmaF, .vminF, .vmaxF, .vdivF, .vfmaBf, .vcvt, .vsplit, .vquant, .vdequant,
   .vcmpEq, .vcmpLt, .vcmpLe, .vcmpFlt, .vcmpFle, .vcmpFun, .vsel, .vmand, .vmor, .vmxor, .vmovx, .vmovv, .vperm, .vrot, .vzip, .vunzip,
   .vsetvl, .vcmul, .mbxr, .tlbi, .artw, .imap, .ctxsv, .ctxld, .gpart, .wdog, .cntc, .trc, .keyld]
/-- The tail t of an instruction i, which is `bare` without its wait: below its threshold it holds the instruction, unless the level or the operand
fields are refused, at s as they are without the wait; at or above it the instruction does what the form without a wait does once the wait has
passed, where that goes on and takes no fault (R28). -/
def waitGuards (s : State) (t : STail) (i bare : Instr) : Prop :=
  let s1 := s.passWait (some t)
  (s.sem s.cur t.wsem.toNat < t.wthr.toNat →
    exec i s = .next (s.updC fun c => { c with run := .waiting, waitOn := .sem t.wsem.toNat t.wthr.toNat }) ∨
    (s.me.c.level ≠ .m ∧ exec bare s = .next (s.takeFault { cause := 0x03 }) ∧ exec i s = .next (s.takeFault { cause := 0x03 })) ∨
    (exec bare s = .next (s.takeFault { cause := 0x02 }) ∧ exec i s = .next (s.takeFault { cause := 0x02 }))) ∧
  (t.wthr.toNat ≤ s.sem s.cur t.wsem.toNat → ∀ u, exec bare s1 = .next u → u ≠ s1 → (∃ v a, u = State.takeFault v a) ∨ exec i s = .next u)
/-- The tail without its wait. -/
def bareTail (t : STail) : STail := { t with wen := false }

end Sys2Proof.Claims

/-- R28, R38: EVERY S-FORM INSTRUCTION WITH A TAIL WAIT waits while its semaphore is below the threshold, unless it is refused with 0x03 or 0x02
as the same instruction without its wait is. When it is not below, the threshold is taken off if the wait consumes, and the instruction does
what the same instruction without a wait does then, wherever that goes on and takes no fault. -/
def Obligations.TailWaitsGuardEveryInstruction : Prop :=
  ∀ s : State, s.me.c.phase = .fresh → s.myTile.sdbg = false →
    (∀ mk ∈ formsS0, ∀ f : S0, f.t.wen = true → waitGuards s f.t (mk f) (mk { f with t := bareTail f.t })) ∧
    (∀ mk ∈ formsSD, ∀ f : SD, f.t.wen = true → waitGuards s f.t (mk f) (mk { f with t := bareTail f.t })) ∧
    (∀ mk ∈ formsSA, ∀ f : SA, f.t.wen = true → waitGuards s f.t (mk f) (mk { f with t := bareTail f.t })) ∧
    (∀ mk ∈ formsSAB, ∀ f : SAB, f.t.wen = true → waitGuards s f.t (mk f) (mk { f with t := bareTail f.t })) ∧
    (∀ mk ∈ formsSDA, ∀ f : SDA, f.t.wen = true → waitGuards s f.t (mk f) (mk { f with t := bareTail f.t })) ∧
    (∀ mk ∈ formsSDAB, ∀ f : SDAB, f.t.wen = true → waitGuards s f.t (mk f) (mk { f with t := bareTail f.t }))

namespace Sys2Proof.Claims

/-- WHAT AN INSTRUCTION LEAVES ALONE: memory; every scalar register but xd, which x0 does not have; vector registers, tags and the engines; every
semaphore but those of its tail; what belongs to the module; the registers and the memory order of every other context; and the moving
context's registers as far as `rest` shows them. -/
def leavesAlone (s t : State) (d : Option Opnd) (tail : Option STail) (rest : Regs → Regs) : Prop :=
  s.sameMemory t ∧ s.sameRegsBut t (fun n => ∃ o, d = some o ∧ o.num ≠ 0 ∧ n = s.me.r.xbase + o.num) ∧
  s.sameUnitsBut t (tail.bind fun q => if q.wen && q.cons then some q.wsem.toNat else none)
    (tail.bind fun q => if q.sen then some q.ssem.toNat else none) ∧
  s.sameModule t ∧ (∀ k c, (k, c) ≠ (s.cur, s.curCtx) → (t.ctx k c).r = (s.ctx k c).r ∧ (t.ctx k c).y = (s.ctx k c).y) ∧ rest t.me.r = rest s.me.r

end Sys2Proof.Claims

/-- THE FRAME OF THE SCALAR INSTRUCTIONS (R24, R28, R29, R31, R40 to R57): whenever one of them answers a next state, executed, skipped by its guard,
waiting or stopped by a fault, nothing has changed but xd, the predicates of a compare, `fflags` and `srstate` of floating point, its tail's
semaphores, and pc, `ln` and `lc` as the next address writes them. -/
def Obligations.ScalarInstructionsLeaveTheRestAlone : Prop :=
  ∀ s t : State,
    let flags (r : Regs) : Regs := { r.noNext with fflags := 0, srstate := 0 }
    let preds (r : Regs) : Regs := { r.noNext with preds := 0 }
    (∀ row ∈ aluRows, ∀ f, exec (row.1 f) s = .next t → leavesAlone s t (some f.d) (some f.t) Regs.noNext) ∧
    (∀ row ∈ aluImmRows, ∀ f, exec (row.1 f) s = .next t → leavesAlone s t (some f.d) none Regs.noNext) ∧
    (∀ row ∈ unaryRows, ∀ f, exec (row.1 f) s = .next t → leavesAlone s t (some f.d) (some f.t) Regs.noNext) ∧
    (∀ row ∈ fieldRows, ∀ f, exec (row.1 f) s = .next t → leavesAlone s t (some f.d) none Regs.noNext) ∧
    (∀ mk ∈ [Instr.li, Instr.lih], ∀ f, exec (mk f) s = .next t → leavesAlone s t (some f.d) none Regs.noNext) ∧
    (∀ f, exec (.lea f) s = .next t → leavesAlone s t (some f.d) none Regs.noNext) ∧
    (∀ f, exec (.sel f) s = .next t → leavesAlone s t (some f.d) none Regs.noNext) ∧
    (∀ f, exec (.nop f) s = .next t → leavesAlone s t none (some f.t) Regs.noNext) ∧
    (∀ f, exec (.pmov f) s = .next t → leavesAlone s t (some f.d) (some f.t) Regs.noNext) ∧
    (∀ f, exec (.pset f) s = .next t → leavesAlone s t none (some f.t) preds) ∧
    (∀ row ∈ compareRows, ∀ f, exec (row.1 f) s = .next t → leavesAlone s t none none preds) ∧
    (∀ row ∈ predicateRows, ∀ f, exec (row.1 f) s = .next t → leavesAlone s t none none preds) ∧
    (∀ row ∈ fpBinRows, ∀ f, exec (row.1 f) s = .next t → leavesAlone s t (some f.d) (some f.t) flags) ∧
    (∀ row ∈ fpTerRows, ∀ f, exec (row.1 f) s = .next t → leavesAlone s t (some f.d) (some f.t) flags) ∧
    (∀ row ∈ fpUnRows, ∀ f, exec (row.1 f) s = .next t → leavesAlone s t (some f.d) (some f.t) flags)

/-! ### The machine as a whole -/

/-- The machine after module reset (R15, R16, R25, R288, R340, R349): time, turns and memory order numbers at 0, boot mode in phase 0, no context runs,
tile memories, registers and semaphores read 0, the cores' tables hold nothing, the firmware owner alone exists, nothing is in flight. That `turns` starts at 0 is the model's choice (log
entry 4). -/
def Obligations.ResetState : Prop :=
  let s := State.reset
  s.gtime = 0 ∧ s.turns = 0 ∧ s.boot = true ∧ s.host.phase = 0 ∧ s.turn.phase = .none ∧ s.flights = [] ∧ s.keys = [] ∧
  s.modSet = 0xEB ∧
  (∀ k c, (s.ctx k c).c.run = .idle ∧ (s.ctx k c).c.fault = none ∧ (s.ctx k c).r.seq = 0) ∧
  (∀ k n, (s.tile k).xr.get 0 n = 0 ∧ s.sem k n = 0 ∧ (s.tile k).pad.read n = 0 ∧ (s.tile k).store.read n = 0 ∧ (s.tile k).tagTab = [] ∧
    (s.tile k).icache = [] ∧ (s.tile k).mq = [] ∧ (s.tile k).cq = [] ∧ (s.tile k).vq = []) ∧
  (∀ o, (s.owner o).live = decide (o = firmware) ∧ (s.owner o).turnSet = 0xEB ∧ (s.owner o).sstep = 0) ∧
  (∀ n, (s.slice n).cells = [] ∧ (s.keys.get .reset n).loaded = false) ∧ ∀ g, s.trees.get none g = none

/-- At reset module memory and every tile's memories are in the canonical form: addresses strictly rising, no entry equal to what an
unlisted address reads as, which is the model's choice (R70 lays the memories out; log entry 3). -/
def Obligations.MemoryFormHoldsAtReset : Prop := State.reset.memForm = true

/-- AN INVARIANT THAT EVERY STEP KEEPS, whatever the state: module memory and every tile's memories stay in the one canonical form, so that equal
memories are equal data (R70 lays the memories out; the form is the model's). -/
def Obligations.MemoryFormKeptByEveryStep : Prop :=
  ∀ s t : State, s.memForm = true → step s = .next t → t.memForm = true

/-- EVERY STEP ANSWERS A NEXT STATE: no word, no event and no state ends the machine in a fault or a refusal of the model (R38, R100, R395). An
instruction that cannot go on leaves its context waiting or stopped, as a next state. -/
def Obligations.EveryStepAnswersANextState : Prop := ∀ s : State, ∃ t, step s = .next t
end

