-- ==== Sys2Proof/Laws/Issue.lean ====
section
/-! SUPPORT. What the issue of one instruction can do (R36, R38): the check that fails first decides, a false guard skips the
Execute part, and otherwise the end of that part decides. -/

namespace Sys2Proof.Machine

variable {s : State} {h : Head} {t : Option STail} {need : Level} {ops : List Req} {always late : Bool} {body : State → Bool → Res}

/-- Below its level an instruction takes the privilege fault. -/
theorem issue_below (hl : s.me.c.level.reaches need = false) :
    s.issue h t need ops always late body = .next (s.takeFault { cause := 0x03 }) := by simp [State.issue, hl]

/-- An operand code that the instruction cannot take raises the illegal-operand fault. -/
theorem issue_badOps (hl : s.me.c.level.reaches need = true) (ho : opsOk s.me.r.win h ops = false) :
    s.issue h t need ops always late body = .next (s.takeFault { cause := 0x02 }) := by simp [State.issue, hl, ho]

/-- A tail wait that does not pass holds the instruction. -/
theorem issue_waits (hl : s.me.c.level.reaches need = true) (ho : opsOk s.me.r.win h ops = true) (hw : s.waitBlocked t = true) :
    s.issue h t need ops always late body = .next (s.waitTail t) := by simp [State.issue, hl, ho, hw]

/-- With its guard false an instruction that is no compare only passes its wait and goes on. -/
theorem issue_skips (hl : s.me.c.level.reaches need = true) (ho : opsOk s.me.r.win h ops = true) (hw : s.waitBlocked t = false)
    (hg : s.guard h = false) : s.issue h t need ops false late body = .next ((s.passWait t).finish h t false late) := by
  simp [State.issue, hl, ho, hw, hg]

/-- An instruction that runs is decided by its Execute part. -/
theorem issue_runs (hr : s.runs h t need ops = true) (hg : (s.guard h || always) = true) :
    s.issue h t need ops always late body = s.conclude h t (s.guard h) late (body (s.passWait t) (s.guard h)) := by
  simp only [State.runs, Bool.and_eq_true, Bool.not_eq_true'] at hr
  obtain ⟨⟨⟨⟨hl, ho⟩, hw⟩, hb⟩, hp⟩ := hr
  simp only [State.issue, hl, ho, hw, hg, hb, hp, Bool.not_true, Bool.false_eq_true, if_false]

/-- The same for one whose guard holds. -/
theorem issue_does (hd : s.does h t need ops = true) :
    s.issue h t need ops always late body = s.conclude h t true late (body (s.passWait t) true) := by
  simp only [State.does, Bool.and_eq_true] at hd
  rw [issue_runs hd.1 (by simp [hd.2]), hd.2]

/-- Every end of an Execute part is a next state. -/
theorem conclude_next (s : State) (h : Head) (t : Option STail) (g late : Bool) (r : Res) : ∃ u, s.conclude h t g late r = .next u := by
  cases r <;> exact ⟨_, rfl⟩

/-- An instruction always answers a next state. -/
theorem issue_next (s : State) (h : Head) (t : Option STail) (need : Level) (ops : List Req) (always late : Bool) (body : State → Bool → Res) :
    ∃ u, s.issue h t need ops always late body = .next u := by
  unfold State.issue
  repeat' split
  all_goals first | exact ⟨_, rfl⟩ | exact conclude_next ..

/-- Without a tail, or without a wait in it, there is nothing to pass. -/
@[simp] theorem waitOf_none (s : State) : s.waitOf none = none := rfl
theorem waitOf_bare {q : STail} (hq : q.wen = false) : s.waitOf (some q) = none := by simp [State.waitOf, hq]
@[simp] theorem passWait_none (s : State) : s.passWait none = s := rfl
theorem passWait_bare {q : STail} (hq : q.wen = false) : s.passWait (some q) = s := by simp [State.passWait, waitOf_bare hq]
/-- A wait that has passed does not pass again. -/
theorem passWait_begun {q : STail} (hp : s.me.c.phase ≠ .fresh) : s.passWait (some q) = s := by simp [State.passWait, State.waitOf, hp]

/-! ### Conclusions -/

@[simp] theorem conclude_ok (s s2 : State) (h : Head) (t : Option STail) (g late : Bool) :
    s.conclude h t g late (.ok s2) = .next (s2.finish h t g late) := rfl
@[simp] theorem conclude_trap (s : State) (h : Head) (t : Option STail) (g late : Bool) (a : FaultArg) :
    s.conclude h t g late (.trap a) = .next (s.takeFault a) := rfl
@[simp] theorem conclude_trapBy (s : State) (h : Head) (t : Option STail) (g late : Bool) (fx : State → State) (a : FaultArg) :
    s.conclude h t g late (.trapBy fx a) = .next ((fx s).takeFault a) := rfl
@[simp] theorem conclude_stall (s : State) (h : Head) (t : Option STail) (g late : Bool) : s.conclude h t g late .stall = .next s := rfl
@[simp] theorem conclude_wait (s s2 : State) (h : Head) (t : Option STail) (g late : Bool) (w : WaitOn) :
    s.conclude h t g late (.wait s2 w) = .next (s2.updC fun c => { c with run := .waiting, waitOn := w }) := rfl
@[simp] theorem conclude_ends (s s2 : State) (h : Head) (t : Option STail) (g late : Bool) :
    s.conclude h t g late (.ends s2) = .next s2 := rfl

/-- The end of an instruction without a tail. -/
@[simp] theorem finish_none (s : State) (h : Head) (g late : Bool) : s.finish h none g late = s.retire h g := rfl
/-- The end of an instruction whose tail signals nothing. -/
theorem finish_quiet {q : STail} {g : Bool} (hq : q.sen = false) : s.finish h (some q) g late = s.retire h g := by simp [State.finish, hq]

end Sys2Proof.Machine
end

