-- ==== Sys2Proof/Laws/SMap.lean ====
section
/-! SUPPORT. Laws of the sparse maps and of the byte memories: reading back, leaving alone, and the canonical form. -/

namespace Sys2Proof.Machine

/-! ### Maps -/

@[simp] theorem SMap.get_set_same {α : Type} (d : α) (m : SMap α) (k : Nat) (v : α) : (m.set k v).get d k = v := by
  induction m with
  | nil => simp [SMap.set, SMap.get]
  | cons e r ih =>
    obtain ⟨j, w⟩ := e
    by_cases h : k = j
    · simp [SMap.set, SMap.get, h]
    · by_cases l : k < j <;> simp [SMap.set, SMap.get, h, l, ih]

theorem SMap.get_set_other {α : Type} (d : α) (m : SMap α) {k j : Nat} (v : α) (h : j ≠ k) :
    (m.set k v).get d j = m.get d j := by
  induction m with
  | nil => simp [SMap.set, SMap.get, h]
  | cons e r ih =>
    obtain ⟨i, w⟩ := e
    by_cases hk : k = i
    · subst hk; simp [SMap.set, SMap.get, h]
    · by_cases l : k < i <;> by_cases hj : j = i <;> simp [SMap.set, SMap.get, hk, l, hj, h, ih]
      all_goals (subst hj; simp_all)

/-! ### Memories -/

@[simp] theorem Memory.read_nil (k : Nat) : Memory.read [] k = Memory.blank := rfl

/-- A canonical memory above `lo` reads as blank below it. -/
theorem Memory.read_below {m : Memory} {lo k : Nat} (h : Memory.wfFrom lo m = true) (l : k < lo) : m.read k = Memory.blank := by
  induction m generalizing lo with
  | nil => rfl
  | cons e r ih =>
    obtain ⟨j, v⟩ := e
    simp only [Memory.wfFrom, Bool.and_eq_true, decide_eq_true_eq] at h
    have hk : k ≠ j := by omega
    simpa [Memory.read, hk] using ih h.2 (by omega)

/-- A canonical memory above a bound is one above a lower bound. -/
theorem Memory.wfFrom_mono {m : Memory} {lo lo' : Nat} (h : Memory.wfFrom lo m = true) (l : lo' ≤ lo) : Memory.wfFrom lo' m = true := by
  cases m with
  | nil => rfl
  | cons e r =>
    obtain ⟨j, v⟩ := e
    simp only [Memory.wfFrom, Bool.and_eq_true, decide_eq_true_eq] at h ⊢
    exact ⟨⟨by omega, h.1.2⟩, h.2⟩

theorem Memory.wfFrom_write {m : Memory} {lo k : Nat} (v : BitVec 8) (h : Memory.wfFrom lo m = true) (l : lo ≤ k) :
    Memory.wfFrom lo (m.write k v) = true := by
  induction m generalizing lo with
  | nil =>
    simp only [Memory.write]
    split
    · rfl
    · next hv => simp [Memory.wfFrom, l, hv]
  | cons e r ih =>
    obtain ⟨j, w⟩ := e
    simp only [Memory.wfFrom, Bool.and_eq_true, decide_eq_true_eq] at h
    obtain ⟨⟨h1, h2⟩, h3⟩ := h
    simp only [Memory.write]
    by_cases hk : k = j
    · subst hk
      simp only [if_true]
      split
      · exact Memory.wfFrom_mono h3 (by omega)
      · next hv => simp [Memory.wfFrom, h1, hv, h3]
    · by_cases hl : k < j
      · simp only [hk, hl, if_false, if_true]
        split
        · simp [Memory.wfFrom, h1, h2, h3]
        · next hv =>
          have : k + 1 ≤ j := hl
          simp [Memory.wfFrom, l, hv, h2, h3, this]
      · simp only [hk, hl, if_false]
        have := ih h3 (by omega : j + 1 ≤ k)
        simp [Memory.wfFrom, h1, h2, this]

/-- A write keeps the canonical form. -/
theorem Memory.wf_write {m : Memory} (k : Nat) (v : BitVec 8) (h : m.wf = true) : (m.write k v).wf = true :=
  Memory.wfFrom_write v h (Nat.zero_le k)

/-- A byte written is read back, in a canonical memory. -/
theorem Memory.read_write_same {m : Memory} {lo : Nat} (k : Nat) (v : BitVec 8) (h : Memory.wfFrom lo m = true) :
    (m.write k v).read k = v := by
  induction m generalizing lo with
  | nil =>
    simp only [Memory.write]
    split
    · next hv => simp [Memory.read, hv]
    · simp [Memory.read]
  | cons e r ih =>
    obtain ⟨j, w⟩ := e
    simp only [Memory.wfFrom, Bool.and_eq_true, decide_eq_true_eq] at h
    obtain ⟨⟨h1, h2⟩, h3⟩ := h
    simp only [Memory.write]
    by_cases hk : k = j
    · subst hk
      simp only [if_true]
      split
      · next hv => rw [hv]; exact Memory.read_below h3 (by omega)
      · simp [Memory.read]
    · by_cases hl : k < j
      · simp only [hk, hl, if_false, if_true]
        split
        · next hv =>
          have : Memory.wfFrom (j + 1) r = true := h3
          simp [Memory.read, hk, hv, Memory.read_below h3 (by omega : k < j + 1)]
        · simp [Memory.read]
      · simp only [hk, hl, if_false]
        simpa [Memory.read, hk] using ih h3

/-- A write leaves every other byte alone. -/
theorem Memory.read_write_other (m : Memory) {k j : Nat} (v : BitVec 8) (h : j ≠ k) : (m.write k v).read j = m.read j := by
  induction m with
  | nil =>
    simp only [Memory.write]
    split <;> simp [Memory.read, h]
  | cons e r ih =>
    obtain ⟨i, w⟩ := e
    simp only [Memory.write]
    by_cases hk : k = i
    · subst hk
      simp only [if_true]
      split <;> simp [Memory.read, h]
    · by_cases hl : k < i
      · simp only [hk, hl, if_false, if_true]
        split <;> simp [Memory.read, h]
      · simp only [hk, hl, if_false]
        by_cases hj : j = i <;> simp [Memory.read, hj, ih]

theorem Memory.wf_writeN {m : Memory} (h : m.wf = true) (a n v : Nat) : (m.writeN a n v).wf = true := by
  induction n generalizing m a v with
  | zero => exact h
  | succ n ih => exact ih (Memory.wf_write a _ h) (a + 1) (v / 256)

theorem Memory.wf_put {m : Memory} (h : m.wf = true) (a : Nat) (bs : List (BitVec 8)) : (m.put a bs).wf = true := by
  induction bs generalizing m a with
  | nil => exact h
  | cons b r ih => exact ih (Memory.wf_write a b h) (a + 1)

theorem Memory.read_writeN_other (m : Memory) {a n j : Nat} (v : Nat) (h : j < a ∨ a + n ≤ j) : (m.writeN a n v).read j = m.read j := by
  induction n generalizing m a v with
  | zero => rfl
  | succ n ih =>
    simp only [Memory.writeN]
    rw [ih (m.write a (BitVec.ofNat 8 v)) (v / 256) (by omega), Memory.read_write_other m _ (by omega)]

/-- Reading back a number as wide as it was written. -/
theorem Memory.readN_writeN_same {m : Memory} (h : m.wf = true) (a n v : Nat) : (m.writeN a n v).readN a n = v % 256 ^ n := by
  induction n generalizing m a v with
  | zero => simp [Memory.readN, Nat.mod_one]
  | succ n ih =>
    simp only [Memory.writeN, Memory.readN]
    rw [ih (Memory.wf_write a _ h), Memory.read_writeN_other _ _ (by omega), Memory.read_write_same (lo := 0) a _ h]
    simp only [BitVec.toNat_ofNat]
    have := Nat.mod_mul (x := v) (a := 256) (b := 256 ^ n)
    rw [show 256 ^ (n + 1) = 256 * 256 ^ n by ring, this]

end Sys2Proof.Machine
end

