-- ==== Sys2Proof/Laws/State.lean ====
section
/-! SUPPORT. What each update of the state leaves as it is: one lemma per field and update, true by unfolding; and reading
back what was set. -/

namespace Sys2Proof.Machine

/-! ### setTile -/

@[simp] theorem State.setTile_gtime (s : State) (k : Nat) (t : Tile) : (s.setTile k t).gtime = s.gtime := rfl
@[simp] theorem State.setTile_turns (s : State) (k : Nat) (t : Tile) : (s.setTile k t).turns = s.turns := rfl
@[simp] theorem State.setTile_mem (s : State) (k : Nat) (t : Tile) : (s.setTile k t).mem = s.mem := rfl
@[simp] theorem State.setTile_memPoison (s : State) (k : Nat) (t : Tile) : (s.setTile k t).memPoison = s.memPoison := rfl
@[simp] theorem State.setTile_clusters (s : State) (k : Nat) (t : Tile) : (s.setTile k t).clusters = s.clusters := rfl
@[simp] theorem State.setTile_formes (s : State) (k : Nat) (t : Tile) : (s.setTile k t).formes = s.formes := rfl
@[simp] theorem State.setTile_owners (s : State) (k : Nat) (t : Tile) : (s.setTile k t).owners = s.owners := rfl
@[simp] theorem State.setTile_slices (s : State) (k : Nat) (t : Tile) : (s.setTile k t).slices = s.slices := rfl
@[simp] theorem State.setTile_dies (s : State) (k : Nat) (t : Tile) : (s.setTile k t).dies = s.dies := rfl
@[simp] theorem State.setTile_links (s : State) (k : Nat) (t : Tile) : (s.setTile k t).links = s.links := rfl
@[simp] theorem State.setTile_imap (s : State) (k : Nat) (t : Tile) : (s.setTile k t).imap = s.imap := rfl
@[simp] theorem State.setTile_imapNext (s : State) (k : Nat) (t : Tile) : (s.setTile k t).imapNext = s.imapNext := rfl
@[simp] theorem State.setTile_circOk (s : State) (k : Nat) (t : Tile) : (s.setTile k t).circOk = s.circOk := rfl
@[simp] theorem State.setTile_circOkNext (s : State) (k : Nat) (t : Tile) : (s.setTile k t).circOkNext = s.circOkNext := rfl
@[simp] theorem State.setTile_modSet (s : State) (k : Nat) (t : Tile) : (s.setTile k t).modSet = s.modSet := rfl
@[simp] theorem State.setTile_trees (s : State) (k : Nat) (t : Tile) : (s.setTile k t).trees = s.trees := rfl
@[simp] theorem State.setTile_keys (s : State) (k : Nat) (t : Tile) : (s.setTile k t).keys = s.keys := rfl
@[simp] theorem State.setTile_lineKeys (s : State) (k : Nat) (t : Tile) : (s.setTile k t).lineKeys = s.lineKeys := rfl
@[simp] theorem State.setTile_flights (s : State) (k : Nat) (t : Tile) : (s.setTile k t).flights = s.flights := rfl
@[simp] theorem State.setTile_turn (s : State) (k : Nat) (t : Tile) : (s.setTile k t).turn = s.turn := rfl
@[simp] theorem State.setTile_host (s : State) (k : Nat) (t : Tile) : (s.setTile k t).host = s.host := rfl
@[simp] theorem State.setTile_mEvents (s : State) (k : Nat) (t : Tile) : (s.setTile k t).mEvents = s.mEvents := rfl
@[simp] theorem State.setTile_boot (s : State) (k : Nat) (t : Tile) : (s.setTile k t).boot = s.boot := rfl
@[simp] theorem State.setTile_cur (s : State) (k : Nat) (t : Tile) : (s.setTile k t).cur = s.cur := rfl
@[simp] theorem State.setTile_curCtx (s : State) (k : Nat) (t : Tile) : (s.setTile k t).curCtx = s.curCtx := rfl
@[simp] theorem State.setTile_iword (s : State) (k : Nat) (t : Tile) : (s.setTile k t).iword = s.iword := rfl
@[simp] theorem State.setTile_nextId (s : State) (k : Nat) (t : Tile) : (s.setTile k t).nextId = s.nextId := rfl
@[simp] theorem State.setTile_free (s : State) (k : Nat) (t : Tile) : (s.setTile k t).free = s.free := rfl
@[simp] theorem State.setTile_agenda (s : State) (k : Nat) (t : Tile) : (s.setTile k t).agenda = s.agenda := rfl

/-! ### updTile -/

@[simp] theorem State.updTile_gtime (s : State) (k : Nat) (f : Tile → Tile) : (s.updTile k f).gtime = s.gtime := rfl
@[simp] theorem State.updTile_turns (s : State) (k : Nat) (f : Tile → Tile) : (s.updTile k f).turns = s.turns := rfl
@[simp] theorem State.updTile_mem (s : State) (k : Nat) (f : Tile → Tile) : (s.updTile k f).mem = s.mem := rfl
@[simp] theorem State.updTile_memPoison (s : State) (k : Nat) (f : Tile → Tile) : (s.updTile k f).memPoison = s.memPoison := rfl
@[simp] theorem State.updTile_clusters (s : State) (k : Nat) (f : Tile → Tile) : (s.updTile k f).clusters = s.clusters := rfl
@[simp] theorem State.updTile_formes (s : State) (k : Nat) (f : Tile → Tile) : (s.updTile k f).formes = s.formes := rfl
@[simp] theorem State.updTile_owners (s : State) (k : Nat) (f : Tile → Tile) : (s.updTile k f).owners = s.owners := rfl
@[simp] theorem State.updTile_slices (s : State) (k : Nat) (f : Tile → Tile) : (s.updTile k f).slices = s.slices := rfl
@[simp] theorem State.updTile_dies (s : State) (k : Nat) (f : Tile → Tile) : (s.updTile k f).dies = s.dies := rfl
@[simp] theorem State.updTile_links (s : State) (k : Nat) (f : Tile → Tile) : (s.updTile k f).links = s.links := rfl
@[simp] theorem State.updTile_imap (s : State) (k : Nat) (f : Tile → Tile) : (s.updTile k f).imap = s.imap := rfl
@[simp] theorem State.updTile_imapNext (s : State) (k : Nat) (f : Tile → Tile) : (s.updTile k f).imapNext = s.imapNext := rfl
@[simp] theorem State.updTile_circOk (s : State) (k : Nat) (f : Tile → Tile) : (s.updTile k f).circOk = s.circOk := rfl
@[simp] theorem State.updTile_circOkNext (s : State) (k : Nat) (f : Tile → Tile) : (s.updTile k f).circOkNext = s.circOkNext := rfl
@[simp] theorem State.updTile_modSet (s : State) (k : Nat) (f : Tile → Tile) : (s.updTile k f).modSet = s.modSet := rfl
@[simp] theorem State.updTile_trees (s : State) (k : Nat) (f : Tile → Tile) : (s.updTile k f).trees = s.trees := rfl
@[simp] theorem State.updTile_keys (s : State) (k : Nat) (f : Tile → Tile) : (s.updTile k f).keys = s.keys := rfl
@[simp] theorem State.updTile_lineKeys (s : State) (k : Nat) (f : Tile → Tile) : (s.updTile k f).lineKeys = s.lineKeys := rfl
@[simp] theorem State.updTile_flights (s : State) (k : Nat) (f : Tile → Tile) : (s.updTile k f).flights = s.flights := rfl
@[simp] theorem State.updTile_turn (s : State) (k : Nat) (f : Tile → Tile) : (s.updTile k f).turn = s.turn := rfl
@[simp] theorem State.updTile_host (s : State) (k : Nat) (f : Tile → Tile) : (s.updTile k f).host = s.host := rfl
@[simp] theorem State.updTile_mEvents (s : State) (k : Nat) (f : Tile → Tile) : (s.updTile k f).mEvents = s.mEvents := rfl
@[simp] theorem State.updTile_boot (s : State) (k : Nat) (f : Tile → Tile) : (s.updTile k f).boot = s.boot := rfl
@[simp] theorem State.updTile_cur (s : State) (k : Nat) (f : Tile → Tile) : (s.updTile k f).cur = s.cur := rfl
@[simp] theorem State.updTile_curCtx (s : State) (k : Nat) (f : Tile → Tile) : (s.updTile k f).curCtx = s.curCtx := rfl
@[simp] theorem State.updTile_iword (s : State) (k : Nat) (f : Tile → Tile) : (s.updTile k f).iword = s.iword := rfl
@[simp] theorem State.updTile_nextId (s : State) (k : Nat) (f : Tile → Tile) : (s.updTile k f).nextId = s.nextId := rfl
@[simp] theorem State.updTile_free (s : State) (k : Nat) (f : Tile → Tile) : (s.updTile k f).free = s.free := rfl
@[simp] theorem State.updTile_agenda (s : State) (k : Nat) (f : Tile → Tile) : (s.updTile k f).agenda = s.agenda := rfl

/-! ### setCtx -/

@[simp] theorem State.setCtx_gtime (s : State) (k c : Nat) (x : Ctx) : (s.setCtx k c x).gtime = s.gtime := rfl
@[simp] theorem State.setCtx_turns (s : State) (k c : Nat) (x : Ctx) : (s.setCtx k c x).turns = s.turns := rfl
@[simp] theorem State.setCtx_mem (s : State) (k c : Nat) (x : Ctx) : (s.setCtx k c x).mem = s.mem := rfl
@[simp] theorem State.setCtx_memPoison (s : State) (k c : Nat) (x : Ctx) : (s.setCtx k c x).memPoison = s.memPoison := rfl
@[simp] theorem State.setCtx_clusters (s : State) (k c : Nat) (x : Ctx) : (s.setCtx k c x).clusters = s.clusters := rfl
@[simp] theorem State.setCtx_formes (s : State) (k c : Nat) (x : Ctx) : (s.setCtx k c x).formes = s.formes := rfl
@[simp] theorem State.setCtx_owners (s : State) (k c : Nat) (x : Ctx) : (s.setCtx k c x).owners = s.owners := rfl
@[simp] theorem State.setCtx_slices (s : State) (k c : Nat) (x : Ctx) : (s.setCtx k c x).slices = s.slices := rfl
@[simp] theorem State.setCtx_dies (s : State) (k c : Nat) (x : Ctx) : (s.setCtx k c x).dies = s.dies := rfl
@[simp] theorem State.setCtx_links (s : State) (k c : Nat) (x : Ctx) : (s.setCtx k c x).links = s.links := rfl
@[simp] theorem State.setCtx_imap (s : State) (k c : Nat) (x : Ctx) : (s.setCtx k c x).imap = s.imap := rfl
@[simp] theorem State.setCtx_imapNext (s : State) (k c : Nat) (x : Ctx) : (s.setCtx k c x).imapNext = s.imapNext := rfl
@[simp] theorem State.setCtx_circOk (s : State) (k c : Nat) (x : Ctx) : (s.setCtx k c x).circOk = s.circOk := rfl
@[simp] theorem State.setCtx_circOkNext (s : State) (k c : Nat) (x : Ctx) : (s.setCtx k c x).circOkNext = s.circOkNext := rfl
@[simp] theorem State.setCtx_modSet (s : State) (k c : Nat) (x : Ctx) : (s.setCtx k c x).modSet = s.modSet := rfl
@[simp] theorem State.setCtx_trees (s : State) (k c : Nat) (x : Ctx) : (s.setCtx k c x).trees = s.trees := rfl
@[simp] theorem State.setCtx_keys (s : State) (k c : Nat) (x : Ctx) : (s.setCtx k c x).keys = s.keys := rfl
@[simp] theorem State.setCtx_lineKeys (s : State) (k c : Nat) (x : Ctx) : (s.setCtx k c x).lineKeys = s.lineKeys := rfl
@[simp] theorem State.setCtx_flights (s : State) (k c : Nat) (x : Ctx) : (s.setCtx k c x).flights = s.flights := rfl
@[simp] theorem State.setCtx_turn (s : State) (k c : Nat) (x : Ctx) : (s.setCtx k c x).turn = s.turn := rfl
@[simp] theorem State.setCtx_host (s : State) (k c : Nat) (x : Ctx) : (s.setCtx k c x).host = s.host := rfl
@[simp] theorem State.setCtx_mEvents (s : State) (k c : Nat) (x : Ctx) : (s.setCtx k c x).mEvents = s.mEvents := rfl
@[simp] theorem State.setCtx_boot (s : State) (k c : Nat) (x : Ctx) : (s.setCtx k c x).boot = s.boot := rfl
@[simp] theorem State.setCtx_cur (s : State) (k c : Nat) (x : Ctx) : (s.setCtx k c x).cur = s.cur := rfl
@[simp] theorem State.setCtx_curCtx (s : State) (k c : Nat) (x : Ctx) : (s.setCtx k c x).curCtx = s.curCtx := rfl
@[simp] theorem State.setCtx_iword (s : State) (k c : Nat) (x : Ctx) : (s.setCtx k c x).iword = s.iword := rfl
@[simp] theorem State.setCtx_nextId (s : State) (k c : Nat) (x : Ctx) : (s.setCtx k c x).nextId = s.nextId := rfl
@[simp] theorem State.setCtx_free (s : State) (k c : Nat) (x : Ctx) : (s.setCtx k c x).free = s.free := rfl
@[simp] theorem State.setCtx_agenda (s : State) (k c : Nat) (x : Ctx) : (s.setCtx k c x).agenda = s.agenda := rfl

/-! ### updCtx -/

@[simp] theorem State.updCtx_gtime (s : State) (k c : Nat) (f : Ctx → Ctx) : (s.updCtx k c f).gtime = s.gtime := rfl
@[simp] theorem State.updCtx_turns (s : State) (k c : Nat) (f : Ctx → Ctx) : (s.updCtx k c f).turns = s.turns := rfl
@[simp] theorem State.updCtx_mem (s : State) (k c : Nat) (f : Ctx → Ctx) : (s.updCtx k c f).mem = s.mem := rfl
@[simp] theorem State.updCtx_memPoison (s : State) (k c : Nat) (f : Ctx → Ctx) : (s.updCtx k c f).memPoison = s.memPoison := rfl
@[simp] theorem State.updCtx_clusters (s : State) (k c : Nat) (f : Ctx → Ctx) : (s.updCtx k c f).clusters = s.clusters := rfl
@[simp] theorem State.updCtx_formes (s : State) (k c : Nat) (f : Ctx → Ctx) : (s.updCtx k c f).formes = s.formes := rfl
@[simp] theorem State.updCtx_owners (s : State) (k c : Nat) (f : Ctx → Ctx) : (s.updCtx k c f).owners = s.owners := rfl
@[simp] theorem State.updCtx_slices (s : State) (k c : Nat) (f : Ctx → Ctx) : (s.updCtx k c f).slices = s.slices := rfl
@[simp] theorem State.updCtx_dies (s : State) (k c : Nat) (f : Ctx → Ctx) : (s.updCtx k c f).dies = s.dies := rfl
@[simp] theorem State.updCtx_links (s : State) (k c : Nat) (f : Ctx → Ctx) : (s.updCtx k c f).links = s.links := rfl
@[simp] theorem State.updCtx_imap (s : State) (k c : Nat) (f : Ctx → Ctx) : (s.updCtx k c f).imap = s.imap := rfl
@[simp] theorem State.updCtx_imapNext (s : State) (k c : Nat) (f : Ctx → Ctx) : (s.updCtx k c f).imapNext = s.imapNext := rfl
@[simp] theorem State.updCtx_circOk (s : State) (k c : Nat) (f : Ctx → Ctx) : (s.updCtx k c f).circOk = s.circOk := rfl
@[simp] theorem State.updCtx_circOkNext (s : State) (k c : Nat) (f : Ctx → Ctx) : (s.updCtx k c f).circOkNext = s.circOkNext := rfl
@[simp] theorem State.updCtx_modSet (s : State) (k c : Nat) (f : Ctx → Ctx) : (s.updCtx k c f).modSet = s.modSet := rfl
@[simp] theorem State.updCtx_trees (s : State) (k c : Nat) (f : Ctx → Ctx) : (s.updCtx k c f).trees = s.trees := rfl
@[simp] theorem State.updCtx_keys (s : State) (k c : Nat) (f : Ctx → Ctx) : (s.updCtx k c f).keys = s.keys := rfl
@[simp] theorem State.updCtx_lineKeys (s : State) (k c : Nat) (f : Ctx → Ctx) : (s.updCtx k c f).lineKeys = s.lineKeys := rfl
@[simp] theorem State.updCtx_flights (s : State) (k c : Nat) (f : Ctx → Ctx) : (s.updCtx k c f).flights = s.flights := rfl
@[simp] theorem State.updCtx_turn (s : State) (k c : Nat) (f : Ctx → Ctx) : (s.updCtx k c f).turn = s.turn := rfl
@[simp] theorem State.updCtx_host (s : State) (k c : Nat) (f : Ctx → Ctx) : (s.updCtx k c f).host = s.host := rfl
@[simp] theorem State.updCtx_mEvents (s : State) (k c : Nat) (f : Ctx → Ctx) : (s.updCtx k c f).mEvents = s.mEvents := rfl
@[simp] theorem State.updCtx_boot (s : State) (k c : Nat) (f : Ctx → Ctx) : (s.updCtx k c f).boot = s.boot := rfl
@[simp] theorem State.updCtx_cur (s : State) (k c : Nat) (f : Ctx → Ctx) : (s.updCtx k c f).cur = s.cur := rfl
@[simp] theorem State.updCtx_curCtx (s : State) (k c : Nat) (f : Ctx → Ctx) : (s.updCtx k c f).curCtx = s.curCtx := rfl
@[simp] theorem State.updCtx_iword (s : State) (k c : Nat) (f : Ctx → Ctx) : (s.updCtx k c f).iword = s.iword := rfl
@[simp] theorem State.updCtx_nextId (s : State) (k c : Nat) (f : Ctx → Ctx) : (s.updCtx k c f).nextId = s.nextId := rfl
@[simp] theorem State.updCtx_free (s : State) (k c : Nat) (f : Ctx → Ctx) : (s.updCtx k c f).free = s.free := rfl
@[simp] theorem State.updCtx_agenda (s : State) (k c : Nat) (f : Ctx → Ctx) : (s.updCtx k c f).agenda = s.agenda := rfl

/-! ### updMyTile -/

@[simp] theorem State.updMyTile_gtime (s : State) (f : Tile → Tile) : (s.updMyTile f).gtime = s.gtime := rfl
@[simp] theorem State.updMyTile_turns (s : State) (f : Tile → Tile) : (s.updMyTile f).turns = s.turns := rfl
@[simp] theorem State.updMyTile_mem (s : State) (f : Tile → Tile) : (s.updMyTile f).mem = s.mem := rfl
@[simp] theorem State.updMyTile_memPoison (s : State) (f : Tile → Tile) : (s.updMyTile f).memPoison = s.memPoison := rfl
@[simp] theorem State.updMyTile_clusters (s : State) (f : Tile → Tile) : (s.updMyTile f).clusters = s.clusters := rfl
@[simp] theorem State.updMyTile_formes (s : State) (f : Tile → Tile) : (s.updMyTile f).formes = s.formes := rfl
@[simp] theorem State.updMyTile_owners (s : State) (f : Tile → Tile) : (s.updMyTile f).owners = s.owners := rfl
@[simp] theorem State.updMyTile_slices (s : State) (f : Tile → Tile) : (s.updMyTile f).slices = s.slices := rfl
@[simp] theorem State.updMyTile_dies (s : State) (f : Tile → Tile) : (s.updMyTile f).dies = s.dies := rfl
@[simp] theorem State.updMyTile_links (s : State) (f : Tile → Tile) : (s.updMyTile f).links = s.links := rfl
@[simp] theorem State.updMyTile_imap (s : State) (f : Tile → Tile) : (s.updMyTile f).imap = s.imap := rfl
@[simp] theorem State.updMyTile_imapNext (s : State) (f : Tile → Tile) : (s.updMyTile f).imapNext = s.imapNext := rfl
@[simp] theorem State.updMyTile_circOk (s : State) (f : Tile → Tile) : (s.updMyTile f).circOk = s.circOk := rfl
@[simp] theorem State.updMyTile_circOkNext (s : State) (f : Tile → Tile) : (s.updMyTile f).circOkNext = s.circOkNext := rfl
@[simp] theorem State.updMyTile_modSet (s : State) (f : Tile → Tile) : (s.updMyTile f).modSet = s.modSet := rfl
@[simp] theorem State.updMyTile_trees (s : State) (f : Tile → Tile) : (s.updMyTile f).trees = s.trees := rfl
@[simp] theorem State.updMyTile_keys (s : State) (f : Tile → Tile) : (s.updMyTile f).keys = s.keys := rfl
@[simp] theorem State.updMyTile_lineKeys (s : State) (f : Tile → Tile) : (s.updMyTile f).lineKeys = s.lineKeys := rfl
@[simp] theorem State.updMyTile_flights (s : State) (f : Tile → Tile) : (s.updMyTile f).flights = s.flights := rfl
@[simp] theorem State.updMyTile_turn (s : State) (f : Tile → Tile) : (s.updMyTile f).turn = s.turn := rfl
@[simp] theorem State.updMyTile_host (s : State) (f : Tile → Tile) : (s.updMyTile f).host = s.host := rfl
@[simp] theorem State.updMyTile_mEvents (s : State) (f : Tile → Tile) : (s.updMyTile f).mEvents = s.mEvents := rfl
@[simp] theorem State.updMyTile_boot (s : State) (f : Tile → Tile) : (s.updMyTile f).boot = s.boot := rfl
@[simp] theorem State.updMyTile_cur (s : State) (f : Tile → Tile) : (s.updMyTile f).cur = s.cur := rfl
@[simp] theorem State.updMyTile_curCtx (s : State) (f : Tile → Tile) : (s.updMyTile f).curCtx = s.curCtx := rfl
@[simp] theorem State.updMyTile_iword (s : State) (f : Tile → Tile) : (s.updMyTile f).iword = s.iword := rfl
@[simp] theorem State.updMyTile_nextId (s : State) (f : Tile → Tile) : (s.updMyTile f).nextId = s.nextId := rfl
@[simp] theorem State.updMyTile_free (s : State) (f : Tile → Tile) : (s.updMyTile f).free = s.free := rfl
@[simp] theorem State.updMyTile_agenda (s : State) (f : Tile → Tile) : (s.updMyTile f).agenda = s.agenda := rfl

/-! ### upd -/

@[simp] theorem State.upd_gtime (s : State) (f : Ctx → Ctx) : (s.upd f).gtime = s.gtime := rfl
@[simp] theorem State.upd_turns (s : State) (f : Ctx → Ctx) : (s.upd f).turns = s.turns := rfl
@[simp] theorem State.upd_mem (s : State) (f : Ctx → Ctx) : (s.upd f).mem = s.mem := rfl
@[simp] theorem State.upd_memPoison (s : State) (f : Ctx → Ctx) : (s.upd f).memPoison = s.memPoison := rfl
@[simp] theorem State.upd_clusters (s : State) (f : Ctx → Ctx) : (s.upd f).clusters = s.clusters := rfl
@[simp] theorem State.upd_formes (s : State) (f : Ctx → Ctx) : (s.upd f).formes = s.formes := rfl
@[simp] theorem State.upd_owners (s : State) (f : Ctx → Ctx) : (s.upd f).owners = s.owners := rfl
@[simp] theorem State.upd_slices (s : State) (f : Ctx → Ctx) : (s.upd f).slices = s.slices := rfl
@[simp] theorem State.upd_dies (s : State) (f : Ctx → Ctx) : (s.upd f).dies = s.dies := rfl
@[simp] theorem State.upd_links (s : State) (f : Ctx → Ctx) : (s.upd f).links = s.links := rfl
@[simp] theorem State.upd_imap (s : State) (f : Ctx → Ctx) : (s.upd f).imap = s.imap := rfl
@[simp] theorem State.upd_imapNext (s : State) (f : Ctx → Ctx) : (s.upd f).imapNext = s.imapNext := rfl
@[simp] theorem State.upd_circOk (s : State) (f : Ctx → Ctx) : (s.upd f).circOk = s.circOk := rfl
@[simp] theorem State.upd_circOkNext (s : State) (f : Ctx → Ctx) : (s.upd f).circOkNext = s.circOkNext := rfl
@[simp] theorem State.upd_modSet (s : State) (f : Ctx → Ctx) : (s.upd f).modSet = s.modSet := rfl
@[simp] theorem State.upd_trees (s : State) (f : Ctx → Ctx) : (s.upd f).trees = s.trees := rfl
@[simp] theorem State.upd_keys (s : State) (f : Ctx → Ctx) : (s.upd f).keys = s.keys := rfl
@[simp] theorem State.upd_lineKeys (s : State) (f : Ctx → Ctx) : (s.upd f).lineKeys = s.lineKeys := rfl
@[simp] theorem State.upd_flights (s : State) (f : Ctx → Ctx) : (s.upd f).flights = s.flights := rfl
@[simp] theorem State.upd_turn (s : State) (f : Ctx → Ctx) : (s.upd f).turn = s.turn := rfl
@[simp] theorem State.upd_host (s : State) (f : Ctx → Ctx) : (s.upd f).host = s.host := rfl
@[simp] theorem State.upd_mEvents (s : State) (f : Ctx → Ctx) : (s.upd f).mEvents = s.mEvents := rfl
@[simp] theorem State.upd_boot (s : State) (f : Ctx → Ctx) : (s.upd f).boot = s.boot := rfl
@[simp] theorem State.upd_cur (s : State) (f : Ctx → Ctx) : (s.upd f).cur = s.cur := rfl
@[simp] theorem State.upd_curCtx (s : State) (f : Ctx → Ctx) : (s.upd f).curCtx = s.curCtx := rfl
@[simp] theorem State.upd_iword (s : State) (f : Ctx → Ctx) : (s.upd f).iword = s.iword := rfl
@[simp] theorem State.upd_nextId (s : State) (f : Ctx → Ctx) : (s.upd f).nextId = s.nextId := rfl
@[simp] theorem State.upd_free (s : State) (f : Ctx → Ctx) : (s.upd f).free = s.free := rfl
@[simp] theorem State.upd_agenda (s : State) (f : Ctx → Ctx) : (s.upd f).agenda = s.agenda := rfl

/-! ### updR -/

@[simp] theorem State.updR_gtime (s : State) (f : Regs → Regs) : (s.updR f).gtime = s.gtime := rfl
@[simp] theorem State.updR_turns (s : State) (f : Regs → Regs) : (s.updR f).turns = s.turns := rfl
@[simp] theorem State.updR_mem (s : State) (f : Regs → Regs) : (s.updR f).mem = s.mem := rfl
@[simp] theorem State.updR_memPoison (s : State) (f : Regs → Regs) : (s.updR f).memPoison = s.memPoison := rfl
@[simp] theorem State.updR_clusters (s : State) (f : Regs → Regs) : (s.updR f).clusters = s.clusters := rfl
@[simp] theorem State.updR_formes (s : State) (f : Regs → Regs) : (s.updR f).formes = s.formes := rfl
@[simp] theorem State.updR_owners (s : State) (f : Regs → Regs) : (s.updR f).owners = s.owners := rfl
@[simp] theorem State.updR_slices (s : State) (f : Regs → Regs) : (s.updR f).slices = s.slices := rfl
@[simp] theorem State.updR_dies (s : State) (f : Regs → Regs) : (s.updR f).dies = s.dies := rfl
@[simp] theorem State.updR_links (s : State) (f : Regs → Regs) : (s.updR f).links = s.links := rfl
@[simp] theorem State.updR_imap (s : State) (f : Regs → Regs) : (s.updR f).imap = s.imap := rfl
@[simp] theorem State.updR_imapNext (s : State) (f : Regs → Regs) : (s.updR f).imapNext = s.imapNext := rfl
@[simp] theorem State.updR_circOk (s : State) (f : Regs → Regs) : (s.updR f).circOk = s.circOk := rfl
@[simp] theorem State.updR_circOkNext (s : State) (f : Regs → Regs) : (s.updR f).circOkNext = s.circOkNext := rfl
@[simp] theorem State.updR_modSet (s : State) (f : Regs → Regs) : (s.updR f).modSet = s.modSet := rfl
@[simp] theorem State.updR_trees (s : State) (f : Regs → Regs) : (s.updR f).trees = s.trees := rfl
@[simp] theorem State.updR_keys (s : State) (f : Regs → Regs) : (s.updR f).keys = s.keys := rfl
@[simp] theorem State.updR_lineKeys (s : State) (f : Regs → Regs) : (s.updR f).lineKeys = s.lineKeys := rfl
@[simp] theorem State.updR_flights (s : State) (f : Regs → Regs) : (s.updR f).flights = s.flights := rfl
@[simp] theorem State.updR_turn (s : State) (f : Regs → Regs) : (s.updR f).turn = s.turn := rfl
@[simp] theorem State.updR_host (s : State) (f : Regs → Regs) : (s.updR f).host = s.host := rfl
@[simp] theorem State.updR_mEvents (s : State) (f : Regs → Regs) : (s.updR f).mEvents = s.mEvents := rfl
@[simp] theorem State.updR_boot (s : State) (f : Regs → Regs) : (s.updR f).boot = s.boot := rfl
@[simp] theorem State.updR_cur (s : State) (f : Regs → Regs) : (s.updR f).cur = s.cur := rfl
@[simp] theorem State.updR_curCtx (s : State) (f : Regs → Regs) : (s.updR f).curCtx = s.curCtx := rfl
@[simp] theorem State.updR_iword (s : State) (f : Regs → Regs) : (s.updR f).iword = s.iword := rfl
@[simp] theorem State.updR_nextId (s : State) (f : Regs → Regs) : (s.updR f).nextId = s.nextId := rfl
@[simp] theorem State.updR_free (s : State) (f : Regs → Regs) : (s.updR f).free = s.free := rfl
@[simp] theorem State.updR_agenda (s : State) (f : Regs → Regs) : (s.updR f).agenda = s.agenda := rfl

/-! ### updY -/

@[simp] theorem State.updY_gtime (s : State) (f : Sync → Sync) : (s.updY f).gtime = s.gtime := rfl
@[simp] theorem State.updY_turns (s : State) (f : Sync → Sync) : (s.updY f).turns = s.turns := rfl
@[simp] theorem State.updY_mem (s : State) (f : Sync → Sync) : (s.updY f).mem = s.mem := rfl
@[simp] theorem State.updY_memPoison (s : State) (f : Sync → Sync) : (s.updY f).memPoison = s.memPoison := rfl
@[simp] theorem State.updY_clusters (s : State) (f : Sync → Sync) : (s.updY f).clusters = s.clusters := rfl
@[simp] theorem State.updY_formes (s : State) (f : Sync → Sync) : (s.updY f).formes = s.formes := rfl
@[simp] theorem State.updY_owners (s : State) (f : Sync → Sync) : (s.updY f).owners = s.owners := rfl
@[simp] theorem State.updY_slices (s : State) (f : Sync → Sync) : (s.updY f).slices = s.slices := rfl
@[simp] theorem State.updY_dies (s : State) (f : Sync → Sync) : (s.updY f).dies = s.dies := rfl
@[simp] theorem State.updY_links (s : State) (f : Sync → Sync) : (s.updY f).links = s.links := rfl
@[simp] theorem State.updY_imap (s : State) (f : Sync → Sync) : (s.updY f).imap = s.imap := rfl
@[simp] theorem State.updY_imapNext (s : State) (f : Sync → Sync) : (s.updY f).imapNext = s.imapNext := rfl
@[simp] theorem State.updY_circOk (s : State) (f : Sync → Sync) : (s.updY f).circOk = s.circOk := rfl
@[simp] theorem State.updY_circOkNext (s : State) (f : Sync → Sync) : (s.updY f).circOkNext = s.circOkNext := rfl
@[simp] theorem State.updY_modSet (s : State) (f : Sync → Sync) : (s.updY f).modSet = s.modSet := rfl
@[simp] theorem State.updY_trees (s : State) (f : Sync → Sync) : (s.updY f).trees = s.trees := rfl
@[simp] theorem State.updY_keys (s : State) (f : Sync → Sync) : (s.updY f).keys = s.keys := rfl
@[simp] theorem State.updY_lineKeys (s : State) (f : Sync → Sync) : (s.updY f).lineKeys = s.lineKeys := rfl
@[simp] theorem State.updY_flights (s : State) (f : Sync → Sync) : (s.updY f).flights = s.flights := rfl
@[simp] theorem State.updY_turn (s : State) (f : Sync → Sync) : (s.updY f).turn = s.turn := rfl
@[simp] theorem State.updY_host (s : State) (f : Sync → Sync) : (s.updY f).host = s.host := rfl
@[simp] theorem State.updY_mEvents (s : State) (f : Sync → Sync) : (s.updY f).mEvents = s.mEvents := rfl
@[simp] theorem State.updY_boot (s : State) (f : Sync → Sync) : (s.updY f).boot = s.boot := rfl
@[simp] theorem State.updY_cur (s : State) (f : Sync → Sync) : (s.updY f).cur = s.cur := rfl
@[simp] theorem State.updY_curCtx (s : State) (f : Sync → Sync) : (s.updY f).curCtx = s.curCtx := rfl
@[simp] theorem State.updY_iword (s : State) (f : Sync → Sync) : (s.updY f).iword = s.iword := rfl
@[simp] theorem State.updY_nextId (s : State) (f : Sync → Sync) : (s.updY f).nextId = s.nextId := rfl
@[simp] theorem State.updY_free (s : State) (f : Sync → Sync) : (s.updY f).free = s.free := rfl
@[simp] theorem State.updY_agenda (s : State) (f : Sync → Sync) : (s.updY f).agenda = s.agenda := rfl

/-! ### updC -/

@[simp] theorem State.updC_gtime (s : State) (f : Sched → Sched) : (s.updC f).gtime = s.gtime := rfl
@[simp] theorem State.updC_turns (s : State) (f : Sched → Sched) : (s.updC f).turns = s.turns := rfl
@[simp] theorem State.updC_mem (s : State) (f : Sched → Sched) : (s.updC f).mem = s.mem := rfl
@[simp] theorem State.updC_memPoison (s : State) (f : Sched → Sched) : (s.updC f).memPoison = s.memPoison := rfl
@[simp] theorem State.updC_clusters (s : State) (f : Sched → Sched) : (s.updC f).clusters = s.clusters := rfl
@[simp] theorem State.updC_formes (s : State) (f : Sched → Sched) : (s.updC f).formes = s.formes := rfl
@[simp] theorem State.updC_owners (s : State) (f : Sched → Sched) : (s.updC f).owners = s.owners := rfl
@[simp] theorem State.updC_slices (s : State) (f : Sched → Sched) : (s.updC f).slices = s.slices := rfl
@[simp] theorem State.updC_dies (s : State) (f : Sched → Sched) : (s.updC f).dies = s.dies := rfl
@[simp] theorem State.updC_links (s : State) (f : Sched → Sched) : (s.updC f).links = s.links := rfl
@[simp] theorem State.updC_imap (s : State) (f : Sched → Sched) : (s.updC f).imap = s.imap := rfl
@[simp] theorem State.updC_imapNext (s : State) (f : Sched → Sched) : (s.updC f).imapNext = s.imapNext := rfl
@[simp] theorem State.updC_circOk (s : State) (f : Sched → Sched) : (s.updC f).circOk = s.circOk := rfl
@[simp] theorem State.updC_circOkNext (s : State) (f : Sched → Sched) : (s.updC f).circOkNext = s.circOkNext := rfl
@[simp] theorem State.updC_modSet (s : State) (f : Sched → Sched) : (s.updC f).modSet = s.modSet := rfl
@[simp] theorem State.updC_trees (s : State) (f : Sched → Sched) : (s.updC f).trees = s.trees := rfl
@[simp] theorem State.updC_keys (s : State) (f : Sched → Sched) : (s.updC f).keys = s.keys := rfl
@[simp] theorem State.updC_lineKeys (s : State) (f : Sched → Sched) : (s.updC f).lineKeys = s.lineKeys := rfl
@[simp] theorem State.updC_flights (s : State) (f : Sched → Sched) : (s.updC f).flights = s.flights := rfl
@[simp] theorem State.updC_turn (s : State) (f : Sched → Sched) : (s.updC f).turn = s.turn := rfl
@[simp] theorem State.updC_host (s : State) (f : Sched → Sched) : (s.updC f).host = s.host := rfl
@[simp] theorem State.updC_mEvents (s : State) (f : Sched → Sched) : (s.updC f).mEvents = s.mEvents := rfl
@[simp] theorem State.updC_boot (s : State) (f : Sched → Sched) : (s.updC f).boot = s.boot := rfl
@[simp] theorem State.updC_cur (s : State) (f : Sched → Sched) : (s.updC f).cur = s.cur := rfl
@[simp] theorem State.updC_curCtx (s : State) (f : Sched → Sched) : (s.updC f).curCtx = s.curCtx := rfl
@[simp] theorem State.updC_iword (s : State) (f : Sched → Sched) : (s.updC f).iword = s.iword := rfl
@[simp] theorem State.updC_nextId (s : State) (f : Sched → Sched) : (s.updC f).nextId = s.nextId := rfl
@[simp] theorem State.updC_free (s : State) (f : Sched → Sched) : (s.updC f).free = s.free := rfl
@[simp] theorem State.updC_agenda (s : State) (f : Sched → Sched) : (s.updC f).agenda = s.agenda := rfl

/-! ### setSem -/

@[simp] theorem State.setSem_gtime (s : State) (k n v : Nat) : (s.setSem k n v).gtime = s.gtime := rfl
@[simp] theorem State.setSem_turns (s : State) (k n v : Nat) : (s.setSem k n v).turns = s.turns := rfl
@[simp] theorem State.setSem_mem (s : State) (k n v : Nat) : (s.setSem k n v).mem = s.mem := rfl
@[simp] theorem State.setSem_memPoison (s : State) (k n v : Nat) : (s.setSem k n v).memPoison = s.memPoison := rfl
@[simp] theorem State.setSem_clusters (s : State) (k n v : Nat) : (s.setSem k n v).clusters = s.clusters := rfl
@[simp] theorem State.setSem_formes (s : State) (k n v : Nat) : (s.setSem k n v).formes = s.formes := rfl
@[simp] theorem State.setSem_owners (s : State) (k n v : Nat) : (s.setSem k n v).owners = s.owners := rfl
@[simp] theorem State.setSem_slices (s : State) (k n v : Nat) : (s.setSem k n v).slices = s.slices := rfl
@[simp] theorem State.setSem_dies (s : State) (k n v : Nat) : (s.setSem k n v).dies = s.dies := rfl
@[simp] theorem State.setSem_links (s : State) (k n v : Nat) : (s.setSem k n v).links = s.links := rfl
@[simp] theorem State.setSem_imap (s : State) (k n v : Nat) : (s.setSem k n v).imap = s.imap := rfl
@[simp] theorem State.setSem_imapNext (s : State) (k n v : Nat) : (s.setSem k n v).imapNext = s.imapNext := rfl
@[simp] theorem State.setSem_circOk (s : State) (k n v : Nat) : (s.setSem k n v).circOk = s.circOk := rfl
@[simp] theorem State.setSem_circOkNext (s : State) (k n v : Nat) : (s.setSem k n v).circOkNext = s.circOkNext := rfl
@[simp] theorem State.setSem_modSet (s : State) (k n v : Nat) : (s.setSem k n v).modSet = s.modSet := rfl
@[simp] theorem State.setSem_trees (s : State) (k n v : Nat) : (s.setSem k n v).trees = s.trees := rfl
@[simp] theorem State.setSem_keys (s : State) (k n v : Nat) : (s.setSem k n v).keys = s.keys := rfl
@[simp] theorem State.setSem_lineKeys (s : State) (k n v : Nat) : (s.setSem k n v).lineKeys = s.lineKeys := rfl
@[simp] theorem State.setSem_flights (s : State) (k n v : Nat) : (s.setSem k n v).flights = s.flights := rfl
@[simp] theorem State.setSem_turn (s : State) (k n v : Nat) : (s.setSem k n v).turn = s.turn := rfl
@[simp] theorem State.setSem_host (s : State) (k n v : Nat) : (s.setSem k n v).host = s.host := rfl
@[simp] theorem State.setSem_mEvents (s : State) (k n v : Nat) : (s.setSem k n v).mEvents = s.mEvents := rfl
@[simp] theorem State.setSem_boot (s : State) (k n v : Nat) : (s.setSem k n v).boot = s.boot := rfl
@[simp] theorem State.setSem_cur (s : State) (k n v : Nat) : (s.setSem k n v).cur = s.cur := rfl
@[simp] theorem State.setSem_curCtx (s : State) (k n v : Nat) : (s.setSem k n v).curCtx = s.curCtx := rfl
@[simp] theorem State.setSem_iword (s : State) (k n v : Nat) : (s.setSem k n v).iword = s.iword := rfl
@[simp] theorem State.setSem_nextId (s : State) (k n v : Nat) : (s.setSem k n v).nextId = s.nextId := rfl
@[simp] theorem State.setSem_free (s : State) (k n v : Nat) : (s.setSem k n v).free = s.free := rfl
@[simp] theorem State.setSem_agenda (s : State) (k n v : Nat) : (s.setSem k n v).agenda = s.agenda := rfl

/-! ### wp -/

@[simp] theorem State.wp_gtime (s : State) (n : Nat) (b : Bool) : (s.wp n b).gtime = s.gtime := rfl
@[simp] theorem State.wp_turns (s : State) (n : Nat) (b : Bool) : (s.wp n b).turns = s.turns := rfl
@[simp] theorem State.wp_mem (s : State) (n : Nat) (b : Bool) : (s.wp n b).mem = s.mem := rfl
@[simp] theorem State.wp_memPoison (s : State) (n : Nat) (b : Bool) : (s.wp n b).memPoison = s.memPoison := rfl
@[simp] theorem State.wp_clusters (s : State) (n : Nat) (b : Bool) : (s.wp n b).clusters = s.clusters := rfl
@[simp] theorem State.wp_formes (s : State) (n : Nat) (b : Bool) : (s.wp n b).formes = s.formes := rfl
@[simp] theorem State.wp_owners (s : State) (n : Nat) (b : Bool) : (s.wp n b).owners = s.owners := rfl
@[simp] theorem State.wp_slices (s : State) (n : Nat) (b : Bool) : (s.wp n b).slices = s.slices := rfl
@[simp] theorem State.wp_dies (s : State) (n : Nat) (b : Bool) : (s.wp n b).dies = s.dies := rfl
@[simp] theorem State.wp_links (s : State) (n : Nat) (b : Bool) : (s.wp n b).links = s.links := rfl
@[simp] theorem State.wp_imap (s : State) (n : Nat) (b : Bool) : (s.wp n b).imap = s.imap := rfl
@[simp] theorem State.wp_imapNext (s : State) (n : Nat) (b : Bool) : (s.wp n b).imapNext = s.imapNext := rfl
@[simp] theorem State.wp_circOk (s : State) (n : Nat) (b : Bool) : (s.wp n b).circOk = s.circOk := rfl
@[simp] theorem State.wp_circOkNext (s : State) (n : Nat) (b : Bool) : (s.wp n b).circOkNext = s.circOkNext := rfl
@[simp] theorem State.wp_modSet (s : State) (n : Nat) (b : Bool) : (s.wp n b).modSet = s.modSet := rfl
@[simp] theorem State.wp_trees (s : State) (n : Nat) (b : Bool) : (s.wp n b).trees = s.trees := rfl
@[simp] theorem State.wp_keys (s : State) (n : Nat) (b : Bool) : (s.wp n b).keys = s.keys := rfl
@[simp] theorem State.wp_lineKeys (s : State) (n : Nat) (b : Bool) : (s.wp n b).lineKeys = s.lineKeys := rfl
@[simp] theorem State.wp_flights (s : State) (n : Nat) (b : Bool) : (s.wp n b).flights = s.flights := rfl
@[simp] theorem State.wp_turn (s : State) (n : Nat) (b : Bool) : (s.wp n b).turn = s.turn := rfl
@[simp] theorem State.wp_host (s : State) (n : Nat) (b : Bool) : (s.wp n b).host = s.host := rfl
@[simp] theorem State.wp_mEvents (s : State) (n : Nat) (b : Bool) : (s.wp n b).mEvents = s.mEvents := rfl
@[simp] theorem State.wp_boot (s : State) (n : Nat) (b : Bool) : (s.wp n b).boot = s.boot := rfl
@[simp] theorem State.wp_cur (s : State) (n : Nat) (b : Bool) : (s.wp n b).cur = s.cur := rfl
@[simp] theorem State.wp_curCtx (s : State) (n : Nat) (b : Bool) : (s.wp n b).curCtx = s.curCtx := rfl
@[simp] theorem State.wp_iword (s : State) (n : Nat) (b : Bool) : (s.wp n b).iword = s.iword := rfl
@[simp] theorem State.wp_nextId (s : State) (n : Nat) (b : Bool) : (s.wp n b).nextId = s.nextId := rfl
@[simp] theorem State.wp_free (s : State) (n : Nat) (b : Bool) : (s.wp n b).free = s.free := rfl
@[simp] theorem State.wp_agenda (s : State) (n : Nat) (b : Bool) : (s.wp n b).agenda = s.agenda := rfl

/-! ### updCluster -/

@[simp] theorem State.updCluster_gtime (s : State) (k : Nat) (f : Cluster → Cluster) : (s.updCluster k f).gtime = s.gtime := rfl
@[simp] theorem State.updCluster_turns (s : State) (k : Nat) (f : Cluster → Cluster) : (s.updCluster k f).turns = s.turns := rfl
@[simp] theorem State.updCluster_mem (s : State) (k : Nat) (f : Cluster → Cluster) : (s.updCluster k f).mem = s.mem := rfl
@[simp] theorem State.updCluster_memPoison (s : State) (k : Nat) (f : Cluster → Cluster) : (s.updCluster k f).memPoison = s.memPoison := rfl
@[simp] theorem State.updCluster_tiles (s : State) (k : Nat) (f : Cluster → Cluster) : (s.updCluster k f).tiles = s.tiles := rfl
@[simp] theorem State.updCluster_formes (s : State) (k : Nat) (f : Cluster → Cluster) : (s.updCluster k f).formes = s.formes := rfl
@[simp] theorem State.updCluster_owners (s : State) (k : Nat) (f : Cluster → Cluster) : (s.updCluster k f).owners = s.owners := rfl
@[simp] theorem State.updCluster_slices (s : State) (k : Nat) (f : Cluster → Cluster) : (s.updCluster k f).slices = s.slices := rfl
@[simp] theorem State.updCluster_dies (s : State) (k : Nat) (f : Cluster → Cluster) : (s.updCluster k f).dies = s.dies := rfl
@[simp] theorem State.updCluster_links (s : State) (k : Nat) (f : Cluster → Cluster) : (s.updCluster k f).links = s.links := rfl
@[simp] theorem State.updCluster_imap (s : State) (k : Nat) (f : Cluster → Cluster) : (s.updCluster k f).imap = s.imap := rfl
@[simp] theorem State.updCluster_imapNext (s : State) (k : Nat) (f : Cluster → Cluster) : (s.updCluster k f).imapNext = s.imapNext := rfl
@[simp] theorem State.updCluster_circOk (s : State) (k : Nat) (f : Cluster → Cluster) : (s.updCluster k f).circOk = s.circOk := rfl
@[simp] theorem State.updCluster_circOkNext (s : State) (k : Nat) (f : Cluster → Cluster) : (s.updCluster k f).circOkNext = s.circOkNext := rfl
@[simp] theorem State.updCluster_modSet (s : State) (k : Nat) (f : Cluster → Cluster) : (s.updCluster k f).modSet = s.modSet := rfl
@[simp] theorem State.updCluster_trees (s : State) (k : Nat) (f : Cluster → Cluster) : (s.updCluster k f).trees = s.trees := rfl
@[simp] theorem State.updCluster_keys (s : State) (k : Nat) (f : Cluster → Cluster) : (s.updCluster k f).keys = s.keys := rfl
@[simp] theorem State.updCluster_lineKeys (s : State) (k : Nat) (f : Cluster → Cluster) : (s.updCluster k f).lineKeys = s.lineKeys := rfl
@[simp] theorem State.updCluster_flights (s : State) (k : Nat) (f : Cluster → Cluster) : (s.updCluster k f).flights = s.flights := rfl
@[simp] theorem State.updCluster_turn (s : State) (k : Nat) (f : Cluster → Cluster) : (s.updCluster k f).turn = s.turn := rfl
@[simp] theorem State.updCluster_host (s : State) (k : Nat) (f : Cluster → Cluster) : (s.updCluster k f).host = s.host := rfl
@[simp] theorem State.updCluster_mEvents (s : State) (k : Nat) (f : Cluster → Cluster) : (s.updCluster k f).mEvents = s.mEvents := rfl
@[simp] theorem State.updCluster_boot (s : State) (k : Nat) (f : Cluster → Cluster) : (s.updCluster k f).boot = s.boot := rfl
@[simp] theorem State.updCluster_cur (s : State) (k : Nat) (f : Cluster → Cluster) : (s.updCluster k f).cur = s.cur := rfl
@[simp] theorem State.updCluster_curCtx (s : State) (k : Nat) (f : Cluster → Cluster) : (s.updCluster k f).curCtx = s.curCtx := rfl
@[simp] theorem State.updCluster_iword (s : State) (k : Nat) (f : Cluster → Cluster) : (s.updCluster k f).iword = s.iword := rfl
@[simp] theorem State.updCluster_nextId (s : State) (k : Nat) (f : Cluster → Cluster) : (s.updCluster k f).nextId = s.nextId := rfl
@[simp] theorem State.updCluster_free (s : State) (k : Nat) (f : Cluster → Cluster) : (s.updCluster k f).free = s.free := rfl
@[simp] theorem State.updCluster_agenda (s : State) (k : Nat) (f : Cluster → Cluster) : (s.updCluster k f).agenda = s.agenda := rfl

/-! ### updForme -/

@[simp] theorem State.updForme_gtime (s : State) (k : Nat) (f : Forme → Forme) : (s.updForme k f).gtime = s.gtime := rfl
@[simp] theorem State.updForme_turns (s : State) (k : Nat) (f : Forme → Forme) : (s.updForme k f).turns = s.turns := rfl
@[simp] theorem State.updForme_mem (s : State) (k : Nat) (f : Forme → Forme) : (s.updForme k f).mem = s.mem := rfl
@[simp] theorem State.updForme_memPoison (s : State) (k : Nat) (f : Forme → Forme) : (s.updForme k f).memPoison = s.memPoison := rfl
@[simp] theorem State.updForme_tiles (s : State) (k : Nat) (f : Forme → Forme) : (s.updForme k f).tiles = s.tiles := rfl
@[simp] theorem State.updForme_clusters (s : State) (k : Nat) (f : Forme → Forme) : (s.updForme k f).clusters = s.clusters := rfl
@[simp] theorem State.updForme_owners (s : State) (k : Nat) (f : Forme → Forme) : (s.updForme k f).owners = s.owners := rfl
@[simp] theorem State.updForme_slices (s : State) (k : Nat) (f : Forme → Forme) : (s.updForme k f).slices = s.slices := rfl
@[simp] theorem State.updForme_dies (s : State) (k : Nat) (f : Forme → Forme) : (s.updForme k f).dies = s.dies := rfl
@[simp] theorem State.updForme_links (s : State) (k : Nat) (f : Forme → Forme) : (s.updForme k f).links = s.links := rfl
@[simp] theorem State.updForme_imap (s : State) (k : Nat) (f : Forme → Forme) : (s.updForme k f).imap = s.imap := rfl
@[simp] theorem State.updForme_imapNext (s : State) (k : Nat) (f : Forme → Forme) : (s.updForme k f).imapNext = s.imapNext := rfl
@[simp] theorem State.updForme_circOk (s : State) (k : Nat) (f : Forme → Forme) : (s.updForme k f).circOk = s.circOk := rfl
@[simp] theorem State.updForme_circOkNext (s : State) (k : Nat) (f : Forme → Forme) : (s.updForme k f).circOkNext = s.circOkNext := rfl
@[simp] theorem State.updForme_modSet (s : State) (k : Nat) (f : Forme → Forme) : (s.updForme k f).modSet = s.modSet := rfl
@[simp] theorem State.updForme_trees (s : State) (k : Nat) (f : Forme → Forme) : (s.updForme k f).trees = s.trees := rfl
@[simp] theorem State.updForme_keys (s : State) (k : Nat) (f : Forme → Forme) : (s.updForme k f).keys = s.keys := rfl
@[simp] theorem State.updForme_lineKeys (s : State) (k : Nat) (f : Forme → Forme) : (s.updForme k f).lineKeys = s.lineKeys := rfl
@[simp] theorem State.updForme_flights (s : State) (k : Nat) (f : Forme → Forme) : (s.updForme k f).flights = s.flights := rfl
@[simp] theorem State.updForme_turn (s : State) (k : Nat) (f : Forme → Forme) : (s.updForme k f).turn = s.turn := rfl
@[simp] theorem State.updForme_host (s : State) (k : Nat) (f : Forme → Forme) : (s.updForme k f).host = s.host := rfl
@[simp] theorem State.updForme_mEvents (s : State) (k : Nat) (f : Forme → Forme) : (s.updForme k f).mEvents = s.mEvents := rfl
@[simp] theorem State.updForme_boot (s : State) (k : Nat) (f : Forme → Forme) : (s.updForme k f).boot = s.boot := rfl
@[simp] theorem State.updForme_cur (s : State) (k : Nat) (f : Forme → Forme) : (s.updForme k f).cur = s.cur := rfl
@[simp] theorem State.updForme_curCtx (s : State) (k : Nat) (f : Forme → Forme) : (s.updForme k f).curCtx = s.curCtx := rfl
@[simp] theorem State.updForme_iword (s : State) (k : Nat) (f : Forme → Forme) : (s.updForme k f).iword = s.iword := rfl
@[simp] theorem State.updForme_nextId (s : State) (k : Nat) (f : Forme → Forme) : (s.updForme k f).nextId = s.nextId := rfl
@[simp] theorem State.updForme_free (s : State) (k : Nat) (f : Forme → Forme) : (s.updForme k f).free = s.free := rfl
@[simp] theorem State.updForme_agenda (s : State) (k : Nat) (f : Forme → Forme) : (s.updForme k f).agenda = s.agenda := rfl

/-! ### updOwner -/

@[simp] theorem State.updOwner_gtime (s : State) (o : Nat) (f : Owner → Owner) : (s.updOwner o f).gtime = s.gtime := rfl
@[simp] theorem State.updOwner_turns (s : State) (o : Nat) (f : Owner → Owner) : (s.updOwner o f).turns = s.turns := rfl
@[simp] theorem State.updOwner_mem (s : State) (o : Nat) (f : Owner → Owner) : (s.updOwner o f).mem = s.mem := rfl
@[simp] theorem State.updOwner_memPoison (s : State) (o : Nat) (f : Owner → Owner) : (s.updOwner o f).memPoison = s.memPoison := rfl
@[simp] theorem State.updOwner_tiles (s : State) (o : Nat) (f : Owner → Owner) : (s.updOwner o f).tiles = s.tiles := rfl
@[simp] theorem State.updOwner_clusters (s : State) (o : Nat) (f : Owner → Owner) : (s.updOwner o f).clusters = s.clusters := rfl
@[simp] theorem State.updOwner_formes (s : State) (o : Nat) (f : Owner → Owner) : (s.updOwner o f).formes = s.formes := rfl
@[simp] theorem State.updOwner_slices (s : State) (o : Nat) (f : Owner → Owner) : (s.updOwner o f).slices = s.slices := rfl
@[simp] theorem State.updOwner_dies (s : State) (o : Nat) (f : Owner → Owner) : (s.updOwner o f).dies = s.dies := rfl
@[simp] theorem State.updOwner_links (s : State) (o : Nat) (f : Owner → Owner) : (s.updOwner o f).links = s.links := rfl
@[simp] theorem State.updOwner_imap (s : State) (o : Nat) (f : Owner → Owner) : (s.updOwner o f).imap = s.imap := rfl
@[simp] theorem State.updOwner_imapNext (s : State) (o : Nat) (f : Owner → Owner) : (s.updOwner o f).imapNext = s.imapNext := rfl
@[simp] theorem State.updOwner_circOk (s : State) (o : Nat) (f : Owner → Owner) : (s.updOwner o f).circOk = s.circOk := rfl
@[simp] theorem State.updOwner_circOkNext (s : State) (o : Nat) (f : Owner → Owner) : (s.updOwner o f).circOkNext = s.circOkNext := rfl
@[simp] theorem State.updOwner_modSet (s : State) (o : Nat) (f : Owner → Owner) : (s.updOwner o f).modSet = s.modSet := rfl
@[simp] theorem State.updOwner_trees (s : State) (o : Nat) (f : Owner → Owner) : (s.updOwner o f).trees = s.trees := rfl
@[simp] theorem State.updOwner_keys (s : State) (o : Nat) (f : Owner → Owner) : (s.updOwner o f).keys = s.keys := rfl
@[simp] theorem State.updOwner_lineKeys (s : State) (o : Nat) (f : Owner → Owner) : (s.updOwner o f).lineKeys = s.lineKeys := rfl
@[simp] theorem State.updOwner_flights (s : State) (o : Nat) (f : Owner → Owner) : (s.updOwner o f).flights = s.flights := rfl
@[simp] theorem State.updOwner_turn (s : State) (o : Nat) (f : Owner → Owner) : (s.updOwner o f).turn = s.turn := rfl
@[simp] theorem State.updOwner_host (s : State) (o : Nat) (f : Owner → Owner) : (s.updOwner o f).host = s.host := rfl
@[simp] theorem State.updOwner_mEvents (s : State) (o : Nat) (f : Owner → Owner) : (s.updOwner o f).mEvents = s.mEvents := rfl
@[simp] theorem State.updOwner_boot (s : State) (o : Nat) (f : Owner → Owner) : (s.updOwner o f).boot = s.boot := rfl
@[simp] theorem State.updOwner_cur (s : State) (o : Nat) (f : Owner → Owner) : (s.updOwner o f).cur = s.cur := rfl
@[simp] theorem State.updOwner_curCtx (s : State) (o : Nat) (f : Owner → Owner) : (s.updOwner o f).curCtx = s.curCtx := rfl
@[simp] theorem State.updOwner_iword (s : State) (o : Nat) (f : Owner → Owner) : (s.updOwner o f).iword = s.iword := rfl
@[simp] theorem State.updOwner_nextId (s : State) (o : Nat) (f : Owner → Owner) : (s.updOwner o f).nextId = s.nextId := rfl
@[simp] theorem State.updOwner_free (s : State) (o : Nat) (f : Owner → Owner) : (s.updOwner o f).free = s.free := rfl
@[simp] theorem State.updOwner_agenda (s : State) (o : Nat) (f : Owner → Owner) : (s.updOwner o f).agenda = s.agenda := rfl

/-! ### updSlice -/

@[simp] theorem State.updSlice_gtime (s : State) (n : Nat) (f : Slice → Slice) : (s.updSlice n f).gtime = s.gtime := rfl
@[simp] theorem State.updSlice_turns (s : State) (n : Nat) (f : Slice → Slice) : (s.updSlice n f).turns = s.turns := rfl
@[simp] theorem State.updSlice_mem (s : State) (n : Nat) (f : Slice → Slice) : (s.updSlice n f).mem = s.mem := rfl
@[simp] theorem State.updSlice_memPoison (s : State) (n : Nat) (f : Slice → Slice) : (s.updSlice n f).memPoison = s.memPoison := rfl
@[simp] theorem State.updSlice_tiles (s : State) (n : Nat) (f : Slice → Slice) : (s.updSlice n f).tiles = s.tiles := rfl
@[simp] theorem State.updSlice_clusters (s : State) (n : Nat) (f : Slice → Slice) : (s.updSlice n f).clusters = s.clusters := rfl
@[simp] theorem State.updSlice_formes (s : State) (n : Nat) (f : Slice → Slice) : (s.updSlice n f).formes = s.formes := rfl
@[simp] theorem State.updSlice_owners (s : State) (n : Nat) (f : Slice → Slice) : (s.updSlice n f).owners = s.owners := rfl
@[simp] theorem State.updSlice_dies (s : State) (n : Nat) (f : Slice → Slice) : (s.updSlice n f).dies = s.dies := rfl
@[simp] theorem State.updSlice_links (s : State) (n : Nat) (f : Slice → Slice) : (s.updSlice n f).links = s.links := rfl
@[simp] theorem State.updSlice_imap (s : State) (n : Nat) (f : Slice → Slice) : (s.updSlice n f).imap = s.imap := rfl
@[simp] theorem State.updSlice_imapNext (s : State) (n : Nat) (f : Slice → Slice) : (s.updSlice n f).imapNext = s.imapNext := rfl
@[simp] theorem State.updSlice_circOk (s : State) (n : Nat) (f : Slice → Slice) : (s.updSlice n f).circOk = s.circOk := rfl
@[simp] theorem State.updSlice_circOkNext (s : State) (n : Nat) (f : Slice → Slice) : (s.updSlice n f).circOkNext = s.circOkNext := rfl
@[simp] theorem State.updSlice_modSet (s : State) (n : Nat) (f : Slice → Slice) : (s.updSlice n f).modSet = s.modSet := rfl
@[simp] theorem State.updSlice_trees (s : State) (n : Nat) (f : Slice → Slice) : (s.updSlice n f).trees = s.trees := rfl
@[simp] theorem State.updSlice_keys (s : State) (n : Nat) (f : Slice → Slice) : (s.updSlice n f).keys = s.keys := rfl
@[simp] theorem State.updSlice_lineKeys (s : State) (n : Nat) (f : Slice → Slice) : (s.updSlice n f).lineKeys = s.lineKeys := rfl
@[simp] theorem State.updSlice_flights (s : State) (n : Nat) (f : Slice → Slice) : (s.updSlice n f).flights = s.flights := rfl
@[simp] theorem State.updSlice_turn (s : State) (n : Nat) (f : Slice → Slice) : (s.updSlice n f).turn = s.turn := rfl
@[simp] theorem State.updSlice_host (s : State) (n : Nat) (f : Slice → Slice) : (s.updSlice n f).host = s.host := rfl
@[simp] theorem State.updSlice_mEvents (s : State) (n : Nat) (f : Slice → Slice) : (s.updSlice n f).mEvents = s.mEvents := rfl
@[simp] theorem State.updSlice_boot (s : State) (n : Nat) (f : Slice → Slice) : (s.updSlice n f).boot = s.boot := rfl
@[simp] theorem State.updSlice_cur (s : State) (n : Nat) (f : Slice → Slice) : (s.updSlice n f).cur = s.cur := rfl
@[simp] theorem State.updSlice_curCtx (s : State) (n : Nat) (f : Slice → Slice) : (s.updSlice n f).curCtx = s.curCtx := rfl
@[simp] theorem State.updSlice_iword (s : State) (n : Nat) (f : Slice → Slice) : (s.updSlice n f).iword = s.iword := rfl
@[simp] theorem State.updSlice_nextId (s : State) (n : Nat) (f : Slice → Slice) : (s.updSlice n f).nextId = s.nextId := rfl
@[simp] theorem State.updSlice_free (s : State) (n : Nat) (f : Slice → Slice) : (s.updSlice n f).free = s.free := rfl
@[simp] theorem State.updSlice_agenda (s : State) (n : Nat) (f : Slice → Slice) : (s.updSlice n f).agenda = s.agenda := rfl

/-! ### updDie -/

@[simp] theorem State.updDie_gtime (s : State) (n : Nat) (f : Die → Die) : (s.updDie n f).gtime = s.gtime := rfl
@[simp] theorem State.updDie_turns (s : State) (n : Nat) (f : Die → Die) : (s.updDie n f).turns = s.turns := rfl
@[simp] theorem State.updDie_mem (s : State) (n : Nat) (f : Die → Die) : (s.updDie n f).mem = s.mem := rfl
@[simp] theorem State.updDie_memPoison (s : State) (n : Nat) (f : Die → Die) : (s.updDie n f).memPoison = s.memPoison := rfl
@[simp] theorem State.updDie_tiles (s : State) (n : Nat) (f : Die → Die) : (s.updDie n f).tiles = s.tiles := rfl
@[simp] theorem State.updDie_clusters (s : State) (n : Nat) (f : Die → Die) : (s.updDie n f).clusters = s.clusters := rfl
@[simp] theorem State.updDie_formes (s : State) (n : Nat) (f : Die → Die) : (s.updDie n f).formes = s.formes := rfl
@[simp] theorem State.updDie_owners (s : State) (n : Nat) (f : Die → Die) : (s.updDie n f).owners = s.owners := rfl
@[simp] theorem State.updDie_slices (s : State) (n : Nat) (f : Die → Die) : (s.updDie n f).slices = s.slices := rfl
@[simp] theorem State.updDie_links (s : State) (n : Nat) (f : Die → Die) : (s.updDie n f).links = s.links := rfl
@[simp] theorem State.updDie_imap (s : State) (n : Nat) (f : Die → Die) : (s.updDie n f).imap = s.imap := rfl
@[simp] theorem State.updDie_imapNext (s : State) (n : Nat) (f : Die → Die) : (s.updDie n f).imapNext = s.imapNext := rfl
@[simp] theorem State.updDie_circOk (s : State) (n : Nat) (f : Die → Die) : (s.updDie n f).circOk = s.circOk := rfl
@[simp] theorem State.updDie_circOkNext (s : State) (n : Nat) (f : Die → Die) : (s.updDie n f).circOkNext = s.circOkNext := rfl
@[simp] theorem State.updDie_modSet (s : State) (n : Nat) (f : Die → Die) : (s.updDie n f).modSet = s.modSet := rfl
@[simp] theorem State.updDie_trees (s : State) (n : Nat) (f : Die → Die) : (s.updDie n f).trees = s.trees := rfl
@[simp] theorem State.updDie_keys (s : State) (n : Nat) (f : Die → Die) : (s.updDie n f).keys = s.keys := rfl
@[simp] theorem State.updDie_lineKeys (s : State) (n : Nat) (f : Die → Die) : (s.updDie n f).lineKeys = s.lineKeys := rfl
@[simp] theorem State.updDie_flights (s : State) (n : Nat) (f : Die → Die) : (s.updDie n f).flights = s.flights := rfl
@[simp] theorem State.updDie_turn (s : State) (n : Nat) (f : Die → Die) : (s.updDie n f).turn = s.turn := rfl
@[simp] theorem State.updDie_host (s : State) (n : Nat) (f : Die → Die) : (s.updDie n f).host = s.host := rfl
@[simp] theorem State.updDie_mEvents (s : State) (n : Nat) (f : Die → Die) : (s.updDie n f).mEvents = s.mEvents := rfl
@[simp] theorem State.updDie_boot (s : State) (n : Nat) (f : Die → Die) : (s.updDie n f).boot = s.boot := rfl
@[simp] theorem State.updDie_cur (s : State) (n : Nat) (f : Die → Die) : (s.updDie n f).cur = s.cur := rfl
@[simp] theorem State.updDie_curCtx (s : State) (n : Nat) (f : Die → Die) : (s.updDie n f).curCtx = s.curCtx := rfl
@[simp] theorem State.updDie_iword (s : State) (n : Nat) (f : Die → Die) : (s.updDie n f).iword = s.iword := rfl
@[simp] theorem State.updDie_nextId (s : State) (n : Nat) (f : Die → Die) : (s.updDie n f).nextId = s.nextId := rfl
@[simp] theorem State.updDie_free (s : State) (n : Nat) (f : Die → Die) : (s.updDie n f).free = s.free := rfl
@[simp] theorem State.updDie_agenda (s : State) (n : Nat) (f : Die → Die) : (s.updDie n f).agenda = s.agenda := rfl

/-! ### wx: a write of x0 is discarded (R24) -/

@[simp] theorem State.wx_gtime (s : State) (n : Nat) (v : BitVec 64) : (s.wx n v).gtime = s.gtime := by unfold State.wx; split <;> rfl
@[simp] theorem State.wx_turns (s : State) (n : Nat) (v : BitVec 64) : (s.wx n v).turns = s.turns := by unfold State.wx; split <;> rfl
@[simp] theorem State.wx_mem (s : State) (n : Nat) (v : BitVec 64) : (s.wx n v).mem = s.mem := by unfold State.wx; split <;> rfl
@[simp] theorem State.wx_memPoison (s : State) (n : Nat) (v : BitVec 64) : (s.wx n v).memPoison = s.memPoison := by unfold State.wx; split <;> rfl
@[simp] theorem State.wx_clusters (s : State) (n : Nat) (v : BitVec 64) : (s.wx n v).clusters = s.clusters := by unfold State.wx; split <;> rfl
@[simp] theorem State.wx_formes (s : State) (n : Nat) (v : BitVec 64) : (s.wx n v).formes = s.formes := by unfold State.wx; split <;> rfl
@[simp] theorem State.wx_owners (s : State) (n : Nat) (v : BitVec 64) : (s.wx n v).owners = s.owners := by unfold State.wx; split <;> rfl
@[simp] theorem State.wx_slices (s : State) (n : Nat) (v : BitVec 64) : (s.wx n v).slices = s.slices := by unfold State.wx; split <;> rfl
@[simp] theorem State.wx_dies (s : State) (n : Nat) (v : BitVec 64) : (s.wx n v).dies = s.dies := by unfold State.wx; split <;> rfl
@[simp] theorem State.wx_links (s : State) (n : Nat) (v : BitVec 64) : (s.wx n v).links = s.links := by unfold State.wx; split <;> rfl
@[simp] theorem State.wx_imap (s : State) (n : Nat) (v : BitVec 64) : (s.wx n v).imap = s.imap := by unfold State.wx; split <;> rfl
@[simp] theorem State.wx_imapNext (s : State) (n : Nat) (v : BitVec 64) : (s.wx n v).imapNext = s.imapNext := by unfold State.wx; split <;> rfl
@[simp] theorem State.wx_circOk (s : State) (n : Nat) (v : BitVec 64) : (s.wx n v).circOk = s.circOk := by unfold State.wx; split <;> rfl
@[simp] theorem State.wx_circOkNext (s : State) (n : Nat) (v : BitVec 64) : (s.wx n v).circOkNext = s.circOkNext := by unfold State.wx; split <;> rfl
@[simp] theorem State.wx_modSet (s : State) (n : Nat) (v : BitVec 64) : (s.wx n v).modSet = s.modSet := by unfold State.wx; split <;> rfl
@[simp] theorem State.wx_trees (s : State) (n : Nat) (v : BitVec 64) : (s.wx n v).trees = s.trees := by unfold State.wx; split <;> rfl
@[simp] theorem State.wx_keys (s : State) (n : Nat) (v : BitVec 64) : (s.wx n v).keys = s.keys := by unfold State.wx; split <;> rfl
@[simp] theorem State.wx_lineKeys (s : State) (n : Nat) (v : BitVec 64) : (s.wx n v).lineKeys = s.lineKeys := by unfold State.wx; split <;> rfl
@[simp] theorem State.wx_flights (s : State) (n : Nat) (v : BitVec 64) : (s.wx n v).flights = s.flights := by unfold State.wx; split <;> rfl
@[simp] theorem State.wx_turn (s : State) (n : Nat) (v : BitVec 64) : (s.wx n v).turn = s.turn := by unfold State.wx; split <;> rfl
@[simp] theorem State.wx_host (s : State) (n : Nat) (v : BitVec 64) : (s.wx n v).host = s.host := by unfold State.wx; split <;> rfl
@[simp] theorem State.wx_mEvents (s : State) (n : Nat) (v : BitVec 64) : (s.wx n v).mEvents = s.mEvents := by unfold State.wx; split <;> rfl
@[simp] theorem State.wx_boot (s : State) (n : Nat) (v : BitVec 64) : (s.wx n v).boot = s.boot := by unfold State.wx; split <;> rfl
@[simp] theorem State.wx_cur (s : State) (n : Nat) (v : BitVec 64) : (s.wx n v).cur = s.cur := by unfold State.wx; split <;> rfl
@[simp] theorem State.wx_curCtx (s : State) (n : Nat) (v : BitVec 64) : (s.wx n v).curCtx = s.curCtx := by unfold State.wx; split <;> rfl
@[simp] theorem State.wx_iword (s : State) (n : Nat) (v : BitVec 64) : (s.wx n v).iword = s.iword := by unfold State.wx; split <;> rfl
@[simp] theorem State.wx_nextId (s : State) (n : Nat) (v : BitVec 64) : (s.wx n v).nextId = s.nextId := by unfold State.wx; split <;> rfl
@[simp] theorem State.wx_free (s : State) (n : Nat) (v : BitVec 64) : (s.wx n v).free = s.free := by unfold State.wx; split <;> rfl
@[simp] theorem State.wx_agenda (s : State) (n : Nat) (v : BitVec 64) : (s.wx n v).agenda = s.agenda := by unfold State.wx; split <;> rfl

/-! ### Reading back -/

@[simp] theorem State.tile_setTile (s : State) (k : Nat) (t : Tile) : (s.setTile k t).tile k = t := by simp [State.tile, State.setTile]
theorem State.tile_setTile_other (s : State) {k j : Nat} (t : Tile) (h : j ≠ k) : (s.setTile k t).tile j = s.tile j := by
  simp [State.tile, State.setTile, SMap.get_set_other _ _ _ h]
@[simp] theorem State.tile_updTile (s : State) (k : Nat) (f : Tile → Tile) : (s.updTile k f).tile k = f (s.tile k) := by
  simp [State.updTile]
theorem State.tile_updTile_other (s : State) {k j : Nat} (f : Tile → Tile) (h : j ≠ k) : (s.updTile k f).tile j = s.tile j :=
  s.tile_setTile_other _ h
@[simp] theorem State.ctx_setCtx (s : State) (k c : Nat) (x : Ctx) : (s.setCtx k c x).ctx k c = x := by
  simp [State.ctx, State.setCtx]
theorem State.ctx_setCtx_other (s : State) (k : Nat) {c d : Nat} (x : Ctx) (h : d ≠ c) : (s.setCtx k c x).ctx k d = s.ctx k d := by
  simp [State.ctx, State.setCtx, SMap.get_set_other _ _ _ h]
@[simp] theorem State.ctx_updCtx (s : State) (k c : Nat) (f : Ctx → Ctx) : (s.updCtx k c f).ctx k c = f (s.ctx k c) := by
  simp [State.updCtx]
@[simp] theorem State.me_upd (s : State) (f : Ctx → Ctx) : (s.upd f).me = f s.me := by simp [State.me, State.upd]
@[simp] theorem State.me_updR (s : State) (f : Regs → Regs) : (s.updR f).me = { s.me with r := f s.me.r } := by simp [State.updR]
@[simp] theorem State.me_updY (s : State) (f : Sync → Sync) : (s.updY f).me = { s.me with y := f s.me.y } := by simp [State.updY]
@[simp] theorem State.me_updC (s : State) (f : Sched → Sched) : (s.updC f).me = { s.me with c := f s.me.c } := by simp [State.updC]
@[simp] theorem State.myTile_updMyTile (s : State) (f : Tile → Tile) : (s.updMyTile f).myTile = f s.myTile := by
  simp [State.myTile, State.updMyTile]

/-- A register file read after a change of a context alone. -/
@[simp] theorem State.tile_updCtx_xr (s : State) (k c : Nat) (f : Ctx → Ctx) : ((s.updCtx k c f).tile k).xr = (s.tile k).xr := by
  simp [State.updCtx, State.setCtx]
@[simp] theorem State.rx_zero (s : State) : s.rx 0 = 0 := rfl
@[simp] theorem State.wx_zero (s : State) (v : BitVec 64) : s.wx 0 v = s := rfl
@[simp] theorem State.me_wx (s : State) (n : Nat) (v : BitVec 64) : (s.wx n v).me = s.me := by
  unfold State.wx
  split
  · rfl
  · simp [State.me, State.ctx, State.updMyTile]
/-- A register written is read back (R24). -/
theorem State.rx_wx_same (s : State) {n : Nat} (v : BitVec 64) (h : n ≠ 0) : (s.wx n v).rx n = v := by
  have hm : (s.wx n v).me = s.me := s.me_wx n v
  unfold State.rx
  rw [if_neg h, hm]
  simp [State.wx, h, State.myTile, State.updMyTile]
/-- A write leaves every other register of the window alone. -/
theorem State.rx_wx_other (s : State) {n m : Nat} (v : BitVec 64) (h : m ≠ n) : (s.wx n v).rx m = s.rx m := by
  have hm : (s.wx n v).me = s.me := s.me_wx n v
  unfold State.rx
  rw [hm]
  by_cases hn : n = 0
  · simp [State.wx, hn]
  · by_cases m0 : m = 0
    · simp [m0]
    · have : s.me.r.xbase + m ≠ s.me.r.xbase + n := by omega
      simp [State.wx, hn, m0, State.myTile, State.updMyTile, SMap.get_set_other _ _ _ this]

end Sys2Proof.Machine
end

