-- ==== Sys2Proof/Laws/Wait.lean ====
section
/-! SUPPORT. What passing a tail wait leaves (R28): it changes the moving context's phase, region and clearance mark, and the
semaphore, and nothing that an instruction computes from. -/

namespace Sys2Proof.Machine

/-- What a property of the state needs so that passing a wait keeps it. -/
theorem State.passWait_keeps {α : Type} (p : State → α) (hc : ∀ s f, p (s.updC f) = p s) (hy : ∀ s f, p (s.updY f) = p s)
    (hs : ∀ s k n v, p (s.setSem k n v) = p s) (s : State) (t : Option STail) : p (s.passWait t) = p s := by
  unfold State.passWait
  split
  · dsimp only
    split <;> simp only [State.passedSem, hc, hy, hs]
  · rfl

@[simp] theorem State.passWait_cur (s : State) (t : Option STail) : (s.passWait t).cur = s.cur :=
  State.passWait_keeps (·.cur) (fun _ _ => rfl) (fun _ _ => rfl) (fun _ _ _ _ => rfl) s t
@[simp] theorem State.passWait_curCtx (s : State) (t : Option STail) : (s.passWait t).curCtx = s.curCtx :=
  State.passWait_keeps (·.curCtx) (fun _ _ => rfl) (fun _ _ => rfl) (fun _ _ _ _ => rfl) s t
@[simp] theorem State.passWait_iword (s : State) (t : Option STail) : (s.passWait t).iword = s.iword :=
  State.passWait_keeps (·.iword) (fun _ _ => rfl) (fun _ _ => rfl) (fun _ _ _ _ => rfl) s t
@[simp] theorem State.passWait_mem (s : State) (t : Option STail) : (s.passWait t).mem = s.mem :=
  State.passWait_keeps (·.mem) (fun _ _ => rfl) (fun _ _ => rfl) (fun _ _ _ _ => rfl) s t

/-- A change of a context is one of its tile's contexts only. -/
theorem State.tile_updCtx (s : State) (k c : Nat) (f : Ctx → Ctx) (j : Nat) :
    (s.updCtx k c f).tile j = { s.tile j with ctxs := if j = k then (s.tile j).ctxs.set c (f (s.ctx k c)) else (s.tile j).ctxs } := by
  by_cases h : j = k
  · subst h; simp [State.updCtx, State.setCtx]
  · simp [State.updCtx, State.setCtx, State.tile_updTile_other _ _ h, h]
/-- A change of a semaphore is one of its tile's semaphores only. -/
theorem State.tile_setSem (s : State) (k n v j : Nat) :
    (s.setSem k n v).tile j = { s.tile j with sems := if j = k then (s.tile j).sems.set n (BitVec.ofNat 16 v) else (s.tile j).sems } := by
  by_cases h : j = k
  · subst h; simp [State.setSem]
  · simp [State.setSem, State.tile_updTile_other _ _ h, h]

/-- Everything of a tile but its contexts and semaphores is as before the wait. -/
theorem State.passWait_tile {α : Type} (p : Tile → α) (hp : ∀ t c m, p { t with ctxs := c, sems := m } = p t) (s : State) (t : Option STail)
    (k : Nat) : p ((s.passWait t).tile k) = p (s.tile k) := by
  refine State.passWait_keeps (fun s => p (s.tile k)) ?_ ?_ ?_ s t
  · intro s f; simp only [State.updC, State.upd, State.tile_updCtx]; exact hp ..
  · intro s f; simp only [State.updY, State.upd, State.tile_updCtx]; exact hp ..
  · intro s j n v; simp only [State.tile_setSem]; exact hp ..

@[simp] theorem State.passWait_me_r (s : State) (t : Option STail) : (s.passWait t).me.r = s.me.r := by
  refine State.passWait_keeps (·.me.r) ?_ ?_ ?_ s t
  · intro s f; simp
  · intro s f; simp
  · intro s k n v; simp only [State.me, State.ctx, State.tile_setSem]; rfl
@[simp] theorem State.passWait_rx (s : State) (t : Option STail) (n : Nat) : (s.passWait t).rx n = s.rx n := by
  simp only [State.rx, passWait_me_r]
  congr 1
  exact congrArg (fun m => SMap.get 0 m _) (by
    simpa [State.myTile] using State.passWait_tile (·.xr) (fun _ _ _ => rfl) s t s.cur)
@[simp] theorem State.passWait_rf (s : State) (t : Option STail) (a : Opnd) : (s.passWait t).rf a = s.rf a := by simp [State.rf]
@[simp] theorem State.passWait_rp (s : State) (t : Option STail) (n : Nat) : (s.passWait t).rp n = s.rp n := by simp [State.rp]
@[simp] theorem State.passWait_place (s : State) (t : Option STail) (n : Nat) : (s.passWait t).place n = s.place n := by simp [State.place]

end Sys2Proof.Machine
end

