-- ==== Sys2Proof/Laws/Keeps.lean ====
section
/-! SUPPORT. What the parts that stand around every instruction leave as it is: taking a fault, a debug stop, the next address,
the tail's wait and signal. Each says once, for every observation `p` of the state, what `p` must not see so that the operation
keeps it; a frame is then one observation after the other. -/

namespace Sys2Proof.Machine

/-- An observation that sees neither the scheduling of contexts, nor mailboxes and stop areas, nor trace buffers, nor, of the moving context,
anything but its registers without pc, `ln` and `lc`. -/
structure Keeps {α : Type} (p : State → α) : Prop where
  ctx : ∀ (s : State) (k c : Nat) (f : Ctx → Ctx), (∀ x, (f x).r = x.r ∧ (f x).y = x.y) → p (s.updCtx k c f) = p s
  me : ∀ (s : State) (f : Ctx → Ctx), (∀ x, (f x).r.noNext = x.r.noNext) → p (s.upd f) = p s
  mail : ∀ (s : State) (k : Nat) (l : List Msg), p (s.updForme k fun f => { f with mailbox := l }) = p s
  die : ∀ (s : State) (d : Nat) (l : List Msg), p (s.updDie d fun x => { x with mailbox := l }) = p s
  stops : ∀ (s : State) (k : Nat) (l : List StopPacket), p (s.updTile k fun t => { t with stopArea := l }) = p s
  trace : ∀ (s : State) (k : Nat) (tr : Trace), p (s.updTile k fun t => { t with trace := tr }) = p s
/-- One that sees no semaphore of the moving tile either. -/
structure KeepsSems {α : Type} (p : State → α) : Prop extends Keeps p where
  sems : ∀ (s : State) (m : SMap (BitVec 16)), p (s.updMyTile fun t => { t with sems := m }) = p s
  times : ∀ (s : State) (m : SMap (BitVec 48)), p (s.updMyTile fun t => { t with semTime := m }) = p s

variable {α : Type} {p : State → α}

theorem foldl_keeps {β : Type} {f : State → β → State} (hf : ∀ s b, p (f s b) = p s) (l : List β) (s : State) : p (l.foldl f s) = p s := by
  induction l generalizing s with
  | nil => rfl
  | cons b l ih => rw [List.foldl_cons, ih, hf]

theorem Keeps.updC (hp : Keeps p) (s : State) (f : Sched → Sched) : p (s.updC f) = p s :=
  hp.ctx s s.cur s.curCtx (fun x => { x with c := f x.c }) fun _ => ⟨rfl, rfl⟩
theorem Keeps.updY (hp : Keeps p) (s : State) (f : Sync → Sync) : p (s.updY f) = p s :=
  hp.me s (fun x => { x with y := f x.y }) fun _ => rfl

/-- A message that leaves, and those that arrive with it. -/
theorem Keeps.settleForme (hp : Keeps p) (s : State) (k : Nat) : p (s.settleForme k) = p s := by
  unfold State.settleForme
  dsimp only
  split
  · rfl
  · split
    · exact (foldl_keeps (fun s m => hp.stops s _ _) _ _).trans (hp.mail ..)
    · exact hp.mail ..
theorem Keeps.post (hp : Keeps p) (s : State) (b : Box) (m : Msg) : p (s.post b m) = p s := by
  cases b with
  | forme k => exact (hp.settleForme ..).trans (hp.mail ..)
  | die d => exact hp.die ..

/-- A stop for the twin. -/
theorem Keeps.stopTwin (hp : Keeps p) (s : State) (k c : Nat) : p (s.stopTwin k c) = p s :=
  hp.ctx _ _ _ _ fun x => by
    dsimp only
    repeat' split
    all_goals exact ⟨rfl, rfl⟩

/-- What a gang's contexts hold of their gang. -/
theorem Keeps.updGang (hp : Keeps p) (s : State) (k c : Nat) (u : Gang → Gang) : p (s.updGang k c u) = p s :=
  hp.ctx s k c (fun x => { x with c := { x.c with gang := x.c.gang.map u } }) fun _ => ⟨rfl, rfl⟩
theorem Keeps.stopGang (hp : Keeps p) (s : State) (k c : Nat) (ends : Bool) : p (s.stopGang k c ends) = p s :=
  foldl_keeps (fun s t => hp.ctx _ _ _ _ fun x => by
    repeat' split
    all_goals exact ⟨rfl, rfl⟩) _ _
theorem Keeps.passTurn (hp : Keeps p) (s : State) (k c : Nat) (did : Bool) : p (s.passTurn k c did) = p s := by
  unfold State.passTurn
  split
  · rfl
  · dsimp only
    split
    · rw [hp.updGang, hp.updGang]
    · split
      · rw [hp.stopGang, hp.updGang, hp.updGang]
      · rw [foldl_keeps fun s t => hp.updGang .., hp.updGang, hp.updGang]
theorem Keeps.faultGang (hp : Keeps p) (s : State) (k c : Nat) (ends ran : Bool) : p (s.faultGang k c ends ran) = p s := by
  unfold State.faultGang
  split
  · rfl
  · split
    · exact hp.passTurn ..
    · split <;> [rw [hp.passTurn, hp.updGang]; exact hp.stopGang ..]

/-- Taking a fault, now or on behalf of another context. -/
theorem Keeps.takeFaultRec (hp : Keeps p) (s : State) (k c : Nat) (f : FaultRec) (ran : Bool) : p (s.takeFaultRec k c f ran) = p s := by
  unfold State.takeFaultRec
  rw [hp.post, hp.faultGang, hp.ctx]
  · split <;> [exact hp.stopTwin ..; rfl]
  · exact fun _ => ⟨rfl, rfl⟩
theorem Keeps.takeFault (hp : Keeps p) (s : State) (a : FaultArg) : p (s.takeFault a) = p s := hp.takeFaultRec ..

/-- A stop for the debug module. -/
theorem Ctx.debugStop_r (x : Ctx) (now : BitVec 64) (why : BitVec 4) (point : Nat) :
    (x.debugStop now why point).r = x.r ∧ (x.debugStop now why point).y = x.y := by
  unfold Ctx.debugStop Ctx.debugStop.stop Ctx.debugStop.later
  repeat' split
  all_goals exact ⟨rfl, rfl⟩
theorem Keeps.stopAt (hp : Keeps p) (s : State) (k c : Nat) (now : BitVec 64) (why : BitVec 4) (n : Nat) :
    p (s.updCtx k c fun x => x.debugStop now why n) = p s := hp.ctx s k c (fun x => x.debugStop now why n) fun x => x.debugStop_r ..
theorem Keeps.ite (c : Prop) [Decidable c] (s t u : State) (ht : p t = p s) (hu : p u = p s) : p (if c then t else u) = p s := by
  split <;> assumption
theorem Keeps.stopOthers (hp : Keeps p) (s : State) (k c : Nat) : p (s.stopOthers k c) = p s :=
  foldl_keeps (fun s d => foldl_keeps (fun s t => hp.ctx s t d _ fun x => by
    split <;> [exact ⟨rfl, rfl⟩; exact x.debugStop_r ..]) _ _) _ _
theorem Keeps.debugStop (hp : Keeps p) (s : State) (k c : Nat) (why : BitVec 4) : p (s.debugStop k c why) = p s := by
  have h1 := hp.stopAt s k c s.gtime why (s.ctx k c).c.issued
  have h2 := Keeps.ite (((s.updCtx k c fun x => x.debugStop s.gtime why (s.ctx k c).c.issued).tile k).checked = true) s _ _
    ((hp.stopAt _ (otherTwin k) c s.gtime why (s.ctx k c).c.issued).trans h1) h1
  exact Keeps.ite _ s _ _ ((hp.stopOthers ..).trans h2) h2
theorem Keeps.stepped (hp : Keeps p) (s : State) (was : Bool) : p (s.stepped was) = p s := by
  unfold State.stepped
  split <;> [exact hp.stopOthers ..; rfl]

theorem Keeps.traceRec (hp : Keeps p) (s : State) (k c kind : Nat) (v : BitVec 64) : p (s.traceRec k c kind v) = p s := by
  unfold State.traceRec
  simp only
  repeat' split
  all_goals first | rfl | exact hp.trace ..

/-- The next address. -/
theorem Keeps.leave (hp : Keeps p) (s : State) (h : Head) (g : Bool) : p (s.leave h g) = p s := by
  have pass (s1 : State) : p (if (s1.stepped s.me.c.stepping).me.c.gang.isNone then s1.stepped s.me.c.stepping
      else ((s1.stepped s.me.c.stepping).updGang s.cur s.curCtx fun z => { z with word := s.iword, pc := s.me.r.pc }).passTurn s.cur s.curCtx true) = p s1 := by
    split <;> [exact hp.stepped ..; rw [hp.passTurn, hp.updGang, hp.stepped]]
  unfold State.leave
  dsimp only
  split
  · exact (hp.takeFault ..).trans (hp.updC ..)
  · exact (pass _).trans (hp.updC ..)
  · refine (pass _).trans ?_
    rw [hp.me]
    · split <;> [exact hp.traceRec ..; rfl]
    · intro x; rfl
theorem Keeps.leaveWhenRead (hp : Keeps p) (s : State) (h : Head) (g : Bool) : p (s.leaveWhenRead h g) = p s := by
  unfold State.leaveWhenRead
  split
  · exact hp.updC ..
  · exact hp.leave ..
theorem Keeps.retire (hp : Keeps p) (s : State) (h : Head) (g : Bool) : p (s.retire h g) = p s := by
  unfold State.retire
  split
  · split
    · dsimp only
      exact (hp.passTurn ..).trans ((hp.stepped ..).trans (hp.updC ..))
    · exact hp.leaveWhenRead ..
  · exact hp.leaveWhenRead ..

/-- The tail's signal and the next address. -/
theorem KeepsSems.addSem (hp : KeepsSems p) (s : State) (n i : Nat) : p (s.addSem s.cur n i).1 = p s := by
  unfold State.addSem
  simp only
  split <;> exact (hp.sems ..).trans (hp.times ..)
theorem KeepsSems.finish (hp : KeepsSems p) (s : State) (h : Head) (t : Option STail) (g late : Bool) : p (s.finish h t g late) = p s := by
  unfold State.finish
  split
  · refine Keeps.ite _ s _ _ ?_ (hp.retire ..)
    refine Keeps.ite _ s _ _ ?_ ?_
    · exact (hp.takeFault ..).trans (hp.addSem ..)
    · exact (hp.retire ..).trans (hp.addSem ..)
  · exact hp.retire ..
theorem Keeps.finish_none (hp : Keeps p) (s : State) (h : Head) (g late : Bool) : p (s.finish h none g late) = p s := hp.retire ..
/-- Passing the tail's wait. -/
theorem KeepsSems.passWait (hp : KeepsSems p) (s : State) (t : Option STail) : p (s.passWait t) = p s := by
  unfold State.passWait
  split
  · dsimp only [State.passedSem]
    split
    · exact (hp.sems ..).trans ((hp.updY ..).trans (hp.updC ..))
    · exact (hp.updY ..).trans (hp.updC ..)
  · rfl
theorem Keeps.waitTail (hp : Keeps p) (s : State) (t : Option STail) : p (s.waitTail t) = p s := by
  unfold State.waitTail
  split <;> [exact hp.updC ..; rfl]

/-- What the Execute part of an instruction leaves, as `p` sees it. -/
def Res.keeps (p : State → α) (s : State) : Res → Prop
  | .ok s2 => p s2 = p s
  | .wait s2 _ => p s2 = p s
  | .ends s2 => p s2 = p s
  | .trapBy fx _ => p (fx s) = p s
  | .debug _ fx => p (fx s) = p s
  | _ => True

/-- ONE INSTRUCTION: what its Execute part leaves, the whole of it leaves. `fl` says that `p` does not see `fflags`. -/
theorem KeepsSems.issue (hp : KeepsSems p) (fl : ∀ (s : State) (v : BitVec 5), p (s.updR fun r => { r with fflags := r.fflags ||| v }) = p s)
    {s t : State} {h : Head} {q : Option STail} {need : Level} {ops : List Req} {always late : Bool} {body : State → Bool → Res}
    (hb : ∀ s2, body (s.passWait q) (s.guard h) = .ok s2 ∨ (∃ w, body (s.passWait q) (s.guard h) = .wait s2 w) ∨ body (s.passWait q) (s.guard h) = .ends s2 → p s2 = p s)
    (hx : ∀ fx, (∃ a, body (s.passWait q) (s.guard h) = .trapBy fx a) ∨ (∃ w, body (s.passWait q) (s.guard h) = .debug w fx) → p (fx s) = p s)
    (he : s.issue h q need ops always late body = .next t) : p t = p s := by
  unfold State.issue at he
  split at he
  · cases he; exact hp.takeFault ..
  split at he
  · cases he; exact hp.takeFault ..
  split at he
  · cases he; exact hp.waitTail ..
  split at he
  · cases he; rw [hp.finish, hp.passWait]
  split at he
  · cases he; rfl
  split at he
  · cases he; exact hp.takeFault ..
  unfold State.conclude at he
  split at he <;> cases he
  · next s2 hr => rw [hp.finish]; exact hb _ (.inl hr)
  · exact hp.takeFault ..
  · rw [hp.takeFault]; exact fl ..
  · next fx a hr => rw [hp.takeFault]; exact hx _ (.inl ⟨_, hr⟩)
  · next hr => exact (hp.debugStop ..).trans (hx _ (.inr ⟨_, hr⟩))
  · rfl
  · next s2 w hr => rw [hp.updC]; exact hb _ (.inr (.inl ⟨w, hr⟩))
  · next hr => exact hb _ (.inr (.inr hr))

/-! ### Observations that are kept -/

/-- A change of a tile that leaves what `q` sees of it leaves what `q` sees of every tile. -/
theorem State.tile_updTile_keeps {β : Type} (q : Tile → β) (s : State) (j : Nat) (f : Tile → Tile) (hf : q (f (s.tile j)) = q (s.tile j)) (k : Nat) :
    q ((s.updTile j f).tile k) = q (s.tile k) := by
  by_cases h : k = j
  · subst h; rw [State.tile_updTile, hf]
  · rw [State.tile_updTile_other _ _ h]

/-- A tile but for its contexts, semaphores, stop area and trace buffer. -/
theorem keepsSems_tile {β : Type} (q : Tile → β) (hc : ∀ t c, q { t with ctxs := c } = q t) (ht : ∀ t c, q { t with trace := c } = q t)
    (ha : ∀ t l, q { t with stopArea := l } = q t)
    (hs : ∀ t m, q { t with sems := m } = q t) (hm : ∀ t m, q { t with semTime := m } = q t) (k : Nat) : KeepsSems fun s => q (s.tile k) where
  ctx s j c f _ := by rw [State.tile_updCtx, hc]
  me s f _ := by rw [State.upd, State.tile_updCtx, hc]
  mail _ _ _ := rfl
  die _ _ _ := rfl
  stops s j l := State.tile_updTile_keeps q s j _ (ha ..) k
  trace s j tr := State.tile_updTile_keeps q s j _ (ht ..) k
  sems s m := State.tile_updTile_keeps q s s.cur _ (hs ..) k
  times s m := State.tile_updTile_keeps q s s.cur _ (hm ..) k

/-- The module but for its tiles, and the mailboxes of formes and dies. -/
theorem keepsSems_module {β : Type} (q : State → β) (ht : ∀ s m, q { s with tiles := m } = q s) (hf : ∀ s m, q { s with formes := m } = q s)
    (hd : ∀ s m, q { s with dies := m } = q s) : KeepsSems q where
  ctx _ _ _ _ _ := ht ..
  me _ _ _ := ht ..
  mail _ _ _ := hf ..
  die _ _ _ := hd ..
  stops _ _ _ := ht ..
  trace _ _ _ := ht ..
  sems _ _ := ht ..
  times _ _ := ht ..

end Sys2Proof.Machine
end

