-- ==== Sys2Proof/Laws/Access.lean ====
section
/-! SUPPORT. What an access to a tile's own memories can do (R70 to R79, R94): it performs, or it stops, stalls or waits with
every byte as it was. -/

namespace Sys2Proof.Machine

/-- An access that touches no absent sector and goes on has performed, now or while it waited. -/
theorem localAccess_ok {s s2 : State} {sp : Nat} {ea : Word} {al : Nat} {o c : BitVec 2} {op : LocalOp}
    (hm : sp = 0 → s.myTile.missing ea.toNat op.size = [])
    (h : s.localAccess sp ea al o c op = .ok s2 ∨ (∃ w, s.localAccess sp ea al o c op = .wait s2 w) ∨ s.localAccess sp ea al o c op = .ends s2) :
    (s2 = s ∧ ∃ v, s.me.c.phase = .granted v) ∨
      ∃ s1, s.doLocal s.cur sp ea.toNat op = .ok s1 ∧ s2 = s1.localOrder sp ea.toNat op o c (s.myTile.marksAt sp ea.toNat op.size) := by
  unfold State.localAccess at h
  split at h
  · next r hr =>
    unfold State.resumed at hr
    split at hr <;> cases hr <;> simp at h
    exact .inl ⟨h.symm, _, by assumption⟩
  · split at h
    · simp at h
    split at h
    · simp at h
    dsimp only at h
    have ht : (if sp = 0 then s.touch s.cur s.curCtx s.me.c.level .core ea.toNat op.size else .present) = Touched.present := by
      split
      · next h0 =>
        have := hm h0
        unfold State.touch
        unfold State.myTile at this
        rw [this]; rfl
      · rfl
    rw [ht] at h
    dsimp only at h
    split at h
    · next r hr =>
      unfold State.watched at hr
      repeat' split at hr
      all_goals first | cases hr; done | (cases hr; simp at h)
    · split at h
      · simp at h
      · next s1 hs =>
        refine .inr ⟨s1, hs, ?_⟩
        rcases h with h | ⟨w, h⟩ | h <;> cases h
        rfl
/-- One that touches no absent sector takes no other fault than a plain one, and a debug event leaves everything as it is. -/
theorem localAccess_after {s : State} {sp : Nat} {ea : Word} {al : Nat} {o c : BitVec 2} {op : LocalOp} {fx : State → State}
    (hm : sp = 0 → s.myTile.missing ea.toNat op.size = [])
    (h : (∃ a, s.localAccess sp ea al o c op = .trapBy fx a) ∨ (∃ w, s.localAccess sp ea al o c op = .debug w fx)) : fx = id := by
  unfold State.localAccess at h
  split at h
  · next r hr =>
    unfold State.resumed at hr
    split at hr <;> cases hr <;> simp at h
  · split at h
    · simp at h
    split at h
    · simp at h
    dsimp only at h
    have ht : (if sp = 0 then s.touch s.cur s.curCtx s.me.c.level .core ea.toNat op.size else .present) = Touched.present := by
      split
      · next h0 =>
        have := hm h0
        unfold State.touch
        unfold State.myTile at this
        rw [this]; rfl
      · rfl
    rw [ht] at h
    dsimp only at h
    split at h
    · next r hr =>
      unfold State.watched at hr
      repeat' split at hr
      · cases hr
      · cases hr
      · cases hr
        rcases h with ⟨a, h⟩ | ⟨w, h⟩ <;> cases h
        rfl
      · cases hr; simp at h
    · split at h <;> simp at h

end Sys2Proof.Machine
end

