-- ==== Sys2Proof/Laws/Mail.lean ====
section
/-! SUPPORT. What the delivery of messages can change, and what a packet that joins a stop area changes: one lemma each, for proofs that
then need not unfold them. -/

namespace Sys2Proof.Machine

@[simp] theorem State.toStop_mem (s : State) (k : Nat) (p : StopPacket) : (s.toStop k p).mem = s.mem := rfl
@[simp] theorem State.toStop_flights (s : State) (k : Nat) (p : StopPacket) : (s.toStop k p).flights = s.flights := rfl
@[simp] theorem State.toStop_formes (s : State) (k : Nat) (p : StopPacket) : (s.toStop k p).formes = s.formes := rfl
/-- Only the tiles change when packets join stop areas. -/
theorem State.toStop_fold (k n : Nat) (l : List Msg) (s : State) :
    ∃ t, l.foldl (fun s m => s.toStop k (.mail n m.body)) s = { s with tiles := t } := by
  induction l generalizing s with
  | nil => exact ⟨s.tiles, rfl⟩
  | cons m r ih =>
    obtain ⟨t, h⟩ := ih (s.toStop k (.mail n m.body))
    exact ⟨t, h⟩
/-- Messages that arrive at a forme's mailbox change mailboxes and stop areas alone (R325, R383). -/
theorem State.settleForme_changes (s : State) (k : Nat) : ∃ f t, s.settleForme k = { s with formes := f, tiles := t } := by
  unfold State.settleForme
  dsimp only
  split
  · exact ⟨s.formes, s.tiles, rfl⟩
  · split
    · obtain ⟨t, h⟩ := State.toStop_fold (s.serviceTile k) k
        (takeReady s.msgReady (stopRoom - (s.tile (s.serviceTile k)).stopArea.length) ((s.forme k).mailbox.filter fun m => !m.here)).1
        (s.updForme k fun f => { f with mailbox := (s.forme k).mailbox.filter (·.here) ++
          (takeReady s.msgReady (stopRoom - (s.tile (s.serviceTile k)).stopArea.length) ((s.forme k).mailbox.filter fun m => !m.here)).2 })
      exact ⟨_, t, h⟩
    · exact ⟨_, s.tiles, rfl⟩
theorem State.settleFormes_changes (l : List Nat) (s : State) : ∃ f t, l.foldl State.settleForme s = { s with formes := f, tiles := t } := by
  induction l generalizing s with
  | nil => exact ⟨s.formes, s.tiles, rfl⟩
  | cons k r ih =>
    obtain ⟨f, t, h⟩ := s.settleForme_changes k
    obtain ⟨f', t', h'⟩ := ih (s.settleForme k)
    exact ⟨f', t', by rw [List.foldl_cons, h', h]⟩
/-- The arrival of messages changes mailboxes and stop areas alone (R325, R383). -/
theorem State.settleMail_changes (s : State) : ∃ f d t, s.settleMail = { s with formes := f, dies := d, tiles := t } := by
  obtain ⟨f, t, h⟩ := State.settleFormes_changes (s.formes.map (·.1)) s
  unfold State.settleMail
  dsimp only
  rw [h]
  split
  · exact ⟨f, _, t, rfl⟩
  · exact ⟨f, s.dies, t, rfl⟩
@[simp] theorem State.settleMail_mem (s : State) : s.settleMail.mem = s.mem := by
  obtain ⟨f, d, t, h⟩ := s.settleMail_changes
  rw [h]
@[simp] theorem State.settleMail_flights (s : State) : s.settleMail.flights = s.flights := by
  obtain ⟨f, d, t, h⟩ := s.settleMail_changes
  rw [h]

end Sys2Proof.Machine
end

