-- ==== Sys2Proof/Laws/MemForm.lean ====
section
/-! SUPPORT. Every operation that writes a memory keeps the canonical form of module memory and of every tile's memories. -/

namespace Sys2Proof.Machine

/-- Both memories of a tile have the form. -/
def Tile.memForm (t : Tile) : Prop := t.pad.wf = true ∧ t.store.wf = true

theorem Tile.memForm_reset : Tile.reset.memForm := ⟨rfl, rfl⟩

theorem State.memForm_iff (s : State) : s.memForm = true ↔ s.mem.wf = true ∧ ∀ e ∈ s.tiles, e.2.memForm := by
  simp [State.memForm, Tile.memForm]

/-- A state with the same memories has the form. -/
theorem State.memForm_congr {s t : State} (hm : t.mem = s.mem) (ht : t.tiles = s.tiles) : t.memForm = s.memForm := by
  simp [State.memForm, hm, ht]

theorem SMap.mem_set {α : Type} {m : SMap α} {k : Nat} {v : α} {e : Nat × α} (h : e ∈ m.set k v) : e = (k, v) ∨ e ∈ m := by
  induction m with
  | nil => simpa [SMap.set] using h
  | cons a r ih =>
    obtain ⟨j, w⟩ := a
    simp only [SMap.set] at h
    split_ifs at h
    · rcases List.mem_cons.1 h with h | h
      · exact .inl h
      · exact .inr (List.mem_cons_of_mem _ h)
    · rcases List.mem_cons.1 h with h | h
      · exact .inl h
      · exact .inr h
    · rcases List.mem_cons.1 h with h | h
      · exact .inr (h ▸ List.mem_cons_self ..)
      · exact (ih h).imp_right (List.mem_cons_of_mem _)

theorem SMap.get_mem {α : Type} {d : α} {m : SMap α} {P : α → Prop} (hd : P d) (h : ∀ e ∈ m, P e.2) (k : Nat) : P (m.get d k) := by
  induction m with
  | nil => exact hd
  | cons a r ih =>
    obtain ⟨j, w⟩ := a
    simp only [SMap.get]
    split
    · exact h _ (List.mem_cons_self ..)
    · exact ih fun e he => h e (List.mem_cons_of_mem _ he)

theorem State.memForm_tile {s : State} (h : s.memForm = true) (k : Nat) : (s.tile k).memForm :=
  SMap.get_mem Tile.memForm_reset ((s.memForm_iff.1 h).2) k

theorem State.memForm_setTile {s : State} (h : s.memForm = true) (k : Nat) {t : Tile} (ht : t.memForm) : (s.setTile k t).memForm = true := by
  rw [State.memForm_iff] at h ⊢
  refine ⟨h.1, fun e he => ?_⟩
  rcases SMap.mem_set he with rfl | he
  · exact ht
  · exact h.2 e he

/-- An update of one tile that keeps the form of its memories. -/
theorem State.memForm_updTile {s : State} (h : s.memForm = true) (k : Nat) {f : Tile → Tile} (hf : (s.tile k).memForm → (f (s.tile k)).memForm) :
    (s.updTile k f).memForm = true := s.memForm_setTile h k (hf (s.memForm_tile h k))

theorem State.memForm_updCtx {s : State} (h : s.memForm = true) (k c : Nat) (f : Ctx → Ctx) : (s.updCtx k c f).memForm = true :=
  s.memForm_updTile h k id

theorem State.memForm_mem {s : State} (h : s.memForm = true) {m : Memory} (hm : m.wf = true) : ({ s with mem := m } : State).memForm = true := by
  rw [State.memForm_iff] at h ⊢
  exact ⟨hm, h.2⟩

/-! ### What runs over a list or a range -/

/-- A step repeated over a list. -/
theorem State.memForm_foldl {β : Type} {f : State → β → State} (hf : ∀ s b, s.memForm = true → (f s b).memForm = true) (l : List β) {s : State}
    (h : s.memForm = true) : (l.foldl f s).memForm = true := by
  induction l generalizing s with
  | nil => exact h
  | cons b l ih => exact ih (hf s b h)
/-- A step repeated over a range of numbers. -/
theorem State.memForm_foldUp {f : State → Nat → State} (hf : ∀ s i, s.memForm = true → (f s i).memForm = true) (n i : Nat) {s : State}
    (h : s.memForm = true) : (foldUp f n i s).memForm = true := by
  induction n generalizing s i with
  | zero => exact h
  | succ n ih => exact ih _ (hf s i h)

/-! ### Writes through a key slot (R362) -/

/-- A line taken over by other keys. -/
theorem State.memForm_rekeyLine {s : State} (h : s.memForm = true) (slot l : Nat) : (s.rekeyLine slot l).memForm = true := by
  unfold State.rekeyLine
  split
  · split
    · exact h
    · exact State.memForm_mem (s := { s with lineKeys := _ }) h (Memory.wf_put (s.memForm_iff.1 h).1 _ _)
  · exact h
theorem State.memForm_rekey {s : State} (h : s.memForm = true) (slot pa n : Nat) : (s.rekey slot pa n).memForm = true := by
  unfold State.rekey
  split
  · exact State.memForm_foldUp (fun s l hs => s.memForm_rekeyLine hs slot l) _ _ h
  · exact h
theorem State.memForm_putUnder {s : State} (h : s.memForm = true) (slot pa : Nat) (bs : List Byte) : (s.putUnder slot pa bs).memForm = true := by
  have h' := (State.memForm_iff _).1 (s.memForm_rekey h slot pa bs.length)
  exact (State.memForm_iff _).2 ⟨Memory.wf_put h'.1 _ _, h'.2⟩
theorem State.memForm_setUnder {s : State} (h : s.memForm = true) (slot pa n v : Nat) : (s.setUnder slot pa n v).memForm = true := by
  have h' := (State.memForm_iff _).1 (s.memForm_rekey h slot pa n)
  exact (State.memForm_iff _).2 ⟨Memory.wf_writeN h'.1 _ _ _, h'.2⟩

/-! ### Copies for a proof (R374) -/

theorem State.memForm_leafUsed {s : State} (h : s.memForm = true) (o va : Nat) (w : Bool) : (s.leafUsed o va w).memForm = true := by
  unfold State.leafUsed
  split
  · dsimp only
    have hm (a e : Nat) : ({ s with mem := s.mem.writeN a 8 e } : State).memForm = true :=
      State.memForm_mem h (Memory.wf_writeN (s.memForm_iff.1 h).1 _ _ _)
    repeat' split
    all_goals first | exact h | exact hm _ _
  · exact h

theorem State.memForm_poolCopy {o : Nat} {bs : List (List Byte)} {s t : State} {va : Nat} (h : s.memForm = true)
    (e : s.poolCopy o bs va = some t) : t.memForm = true := by
  induction bs generalizing s va with
  | nil => simp [State.poolCopy] at e; exact e ▸ h
  | cons b r ih =>
    simp only [State.poolCopy] at e
    split at e
    · exact ih ((s.leafUsed ..).memForm_putUnder (s.memForm_leafUsed h ..) ..) e
    · cases e

theorem State.memForm_proofRecord {s : State} (h : s.memForm = true) (o : Nat) : (s.proofRecord o).memForm = true := by
  unfold State.proofRecord
  dsimp only
  split
  · exact State.memForm_putUnder (s.memForm_leafUsed h ..) ..
  · exact h

theorem State.memForm_saveUnit {s t : State} (h : s.memForm = true) {o : Nat} {u : PUnit} (e : s.saveUnit o u = some t) : t.memForm = true := by
  unfold State.saveUnit at e
  dsimp only at e
  split at e
  · obtain ⟨s1, e1, rfl⟩ := Option.map_eq_some_iff.1 e
    have h1 := State.memForm_poolCopy h e1
    exact State.memForm_proofRecord (s := State.updOwner _ _ _) (by exact h1) _
  · cases e; exact h
theorem State.memForm_saveUnit_getD {s : State} (h : s.memForm = true) (o : Nat) (u : PUnit) : ((s.saveUnit o u).getD s).memForm = true := by
  cases e : s.saveUnit o u with
  | none => exact h
  | some t => exact State.memForm_saveUnit h e

theorem State.memForm_noteUnit {s : State} (h : s.memForm = true) (o kind tile unit : Nat) : (s.noteUnit o kind tile unit).memForm = true := by
  unfold State.noteUnit
  dsimp only
  split
  · rename_i s1 e
    have h1 := State.memForm_saveUnit h e
    exact h1
  · split
    · exact h
    · have h1 := State.memForm_saveUnit_getD (State.memForm_proofRecord (s := s.updOwner o fun w => { w with proof := w.proof.abandon }) h o) o
        { kind := kind, tile := tile, unit := unit, pool := 0, sent := false }
      exact h1
theorem State.memForm_noteUnits {s : State} (h : s.memForm = true) (k sp off n : Nat) : (s.noteUnits k sp off n).memForm = true :=
  State.memForm_foldUp (fun _ _ hs => State.memForm_noteUnit hs ..) _ _ h

/-! ### Writes of tile memory and of module memory -/

theorem Tile.memForm_put {t : Tile} (h : t.memForm) (sp off n : Nat) {f : Memory → Memory} (hf : ∀ m, Memory.wf m = true → (f m).wf = true) :
    (t.put sp off n f).memForm := by
  unfold Tile.put
  dsimp only
  split
  · exact ⟨hf _ h.1, h.2⟩
  · exact ⟨h.1, hf _ h.2⟩

theorem State.memForm_tileWrite {s : State} (h : s.memForm = true) (k sp off n v : Nat) : (s.tileWrite k sp off n v).memForm = true :=
  State.memForm_updTile (s.memForm_noteUnits h ..) k fun ht => Tile.memForm_put ht _ _ _ fun _ hm => Memory.wf_writeN hm _ _ _

theorem State.memForm_tilePut {s : State} (h : s.memForm = true) (k sp off : Nat) (bs : List Byte) : (s.tilePut k sp off bs).memForm = true :=
  State.memForm_updTile (s.memForm_noteUnits h ..) k fun ht => Tile.memForm_put ht _ _ _ fun _ hm => Memory.wf_put hm _ _

theorem State.memForm_memWrite {s : State} (h : s.memForm = true) (o va slot pa n v : Nat) : (s.memWrite o va slot pa n v).memForm = true :=
  State.memForm_setUnder (s.memForm_noteUnit h ..) ..
theorem State.memForm_memPut {s : State} (h : s.memForm = true) (o va slot pa : Nat) (bs : List Byte) : (s.memPut o va slot pa bs).memForm = true :=
  State.memForm_putUnder (s.memForm_noteUnit h ..) ..

end Sys2Proof.Machine
end

