-- ==== Sys2Proof/Tests/Slice0.lean ====
section
/-! SUPPORT. Tests. Words of the spec decoded, an ill-formed term for every check of well-formedness, and for each statement a
concrete state that meets its hypotheses, with what the step then does where the spec gives the value. -/

namespace Sys2Proof.Tests

open Sys2Proof Sys2Proof.Machine Sys2Proof.Claims

set_option Elab.async false

/-! ### Helpers -/

/-- Tile 0 of owner 1. -/
def home : Nat := 65536
/-- A context with windows of 128 scalar and 64 vector registers, and its stack limit at 64. -/
def thread (lv : Level) : Ctx :=
  { Ctx.reset with r := { Regs.reset with win := 0x13, slim := 64 }, c := { Sched.reset with run := .ready, level := lv } }
/-- A machine outside boot mode in which one context of one tile moves, with some registers. -/
def small (lv : Level) (xs : List (Nat × Word)) : State :=
  { State.reset with
    boot := false, cur := home, owners := [(1, { Owner.reset with live := true, formes := 1 })],
    tiles := [(home, { Tile.reset with ctxs := [(0, thread lv)], xr := xs })] }
/-- The outcome is a next state with a property. -/
def ends (o : Out) (p : State → Bool) : Bool := match o with
  | .next t => p t
  | _ => false
/-- The moving tile with something changed. -/
def on (s : State) (f : Tile → Tile) : State := s.updMyTile f
def sda (d a : BitVec 7) : SDA := { h := plain, d := .x d, a := .x a, t := noTail }
def sdab (d a b : BitVec 7) : SDAB := { h := plain, d := .x d, a := .x a, b := .x b, t := noTail }
def ida (d a : BitVec 7) (i : BitVec 32) : IDA := { h := plain, d := .x d, a := .x a, imm := i }
def mda (sp : BitVec 2) (d a : BitVec 7) : MDA :=
  { h := plain, d := .x d, a := .x a, m := { disp := 0, space := sp, order := 0, scope := 0, size := 0, rtn := 0 } }
def mab (sp : BitVec 2) (a b : BitVec 7) : MAB :=
  { h := plain, a := .x a, b := .x b, m := { disp := 0, space := sp, order := 0, scope := 0, size := 0, rtn := 0 } }
def mdab (sp : BitVec 2) (d a b : BitVec 7) : MDAB :=
  { h := plain, d := .x d, a := .x a, b := .x b, m := { disp := 0, space := sp, order := 0, scope := 0, size := 0, rtn := 0 } }

/-! ### Every instruction's word, field by field (R19 to R24, R35) -/

/-- A word from its fields, each at the bit where R19 places it. -/
def wordOf (fmt op gpred nas next dst a b dist tail : Nat) : IWord :=
  BitVec.ofNat 96 (fmt * 2 ^ 94 + op * 2 ^ 85 + gpred * 2 ^ 81 + nas * 2 ^ 78 + next * 2 ^ 62 + dst * 2 ^ 54 + a * 2 ^ 46 + b * 2 ^ 38 + dist * 2 ^ 34 +
    tail)
/-- What a word decodes to. -/
noncomputable def reads (w : IWord) (i : Instr) : Bool := match decode w with
  | .ok j => decide (j = i)
  | .error _ => false
/-- A word that decodes to no instruction, for a reason. -/
noncomputable def refuses (w : IWord) (e : DecErr) : Bool := match decode w with
  | .ok _ => false
  | .error d => d == e
/-- Guard p5, next address JUMP by -4, distance 9. -/
def head : Head := { ginv := false, gpred := 5, nas := 2, next := 0xFFFC, dist := 9, yld := false, last := false }
/-- wsem 0x11, wthr 0x22, ssem 0x33, sinc 4, wait and signal enabled, consuming. -/
def tailS : STail := { wsem := 0x11, wthr := 0x22, ssem := 0x33, sinc := 4, wen := true, sen := true, stime := false, cons := true }
def word (fmt op dst a b tail : Nat) : IWord := wordOf fmt op 5 2 0xFFFC dst a b 9 tail

theorem test_words_S0 : ([(0x000, .nop), (0x083, .lcpush), (0x084, .lcpop), (0x087, .yield), (0x08A, .irgn)] :
      List (Nat × (S0 → Instr))).all (fun r =>
    reads (word 0 r.1 0x0 0x0 0x0 (0x11223300 + 4 * 16 + 8 + 4 + 1)) (r.2 { h := head, t := tailS })) = true := by decide +kernel

theorem test_words_SDAB_0 : ([(0x001, .add), (0x002, .sub), (0x003, .mul), (0x004, .mulh), (0x005, .mulhu), (0x006, .div), (0x007, .divu), (0x008, .rem), (0x009,
    .remu), (0x00A, .and), (0x00B, .or), (0x00C, .xor), (0x00D, .andn), (0x00E, .shl), (0x00F, .shr), (0x010, .sra), (0x011, .rotr), (0x012,
    .min), (0x013, .max), (0x014, .minu), (0x015, .maxu), (0x022, .addW), (0x023, .subW), (0x024, .mulW), (0x060, .fadd), (0x061, .fsub),
    (0x062, .fmul), (0x063, .fma), (0x064, .fnma), (0x065, .fdiv), (0x067, .fmin), (0x068, .fmax), (0x0B0, .tset), (0x126, .vaddI), (0x127,
    .vsubI), (0x128, .vmulI), (0x129, .vminI), (0x12A, .vmaxI), (0x12B, .vand), (0x12C, .vor)] :
      List (Nat × (SDAB → Instr))).all (fun r =>
    reads (word 0 r.1 0x7 0xC2 0xC9 (0x11223300 + 4 * 16 + 8 + 4 + 1)) (r.2 { h := head, d := .x 7, a := .p 2, b := .vm 1, t := tailS })) = true := by decide +kernel

theorem test_words_SDAB_1 : ([(0x12D, .vxor), (0x12E, .vshl), (0x12F, .vshr), (0x130, .vsra), (0x131, .vaddF), (0x132, .vsubF), (0x133, .vmulF), (0x134, .vfmaF),
    (0x135, .vfnmaF), (0x136, .vminF), (0x137, .vmaxF), (0x13A, .vdivF), (0x140, .vfmaBf), (0x141, .vcvt), (0x142, .vsplit), (0x143, .vquant),
    (0x144, .vdequant), (0x147, .vcmpEq), (0x148, .vcmpLt), (0x149, .vcmpLe), (0x14A, .vcmpFlt), (0x14B, .vcmpFle), (0x14C, .vcmpFun), (0x14D,
    .vsel), (0x14E, .vmand), (0x14F, .vmor), (0x150, .vmxor), (0x154, .vmovx), (0x155, .vmovv), (0x157, .vperm), (0x158, .vrot), (0x159,
    .vzip), (0x15A, .vunzip), (0x164, .vsetvl), (0x165, .vcmul), (0x1A2, .mbxr), (0x1A3, .tlbi), (0x1A6, .artw), (0x1A7, .imap), (0x1A8,
    .ctxsv)] :
      List (Nat × (SDAB → Instr))).all (fun r =>
    reads (word 0 r.1 0x7 0xC2 0xC9 (0x11223300 + 4 * 16 + 8 + 4 + 1)) (r.2 { h := head, d := .x 7, a := .p 2, b := .vm 1, t := tailS })) = true := by decide +kernel

theorem test_words_SDAB_2 : ([(0x1A9, .ctxld), (0x1AC, .gpart), (0x1AD, .wdog), (0x1AF, .cntc), (0x1B1, .trc), (0x1B3, .keyld)] :
      List (Nat × (SDAB → Instr))).all (fun r =>
    reads (word 0 r.1 0x7 0xC2 0xC9 (0x11223300 + 4 * 16 + 8 + 4 + 1)) (r.2 { h := head, d := .x 7, a := .p 2, b := .vm 1, t := tailS })) = true := by decide +kernel

theorem test_words_IDA_8 : ([(0x001, .addImm), (0x002, .subImm), (0x003, .mulImm), (0x004, .mulhImm), (0x005, .mulhuImm), (0x006, .divImm), (0x007, .divuImm), (0x008,
    .remImm), (0x009, .remuImm), (0x00A, .andImm), (0x00B, .orImm), (0x00C, .xorImm), (0x00D, .andnImm), (0x00E, .shlImm), (0x00F, .shrImm),
    (0x010, .sraImm), (0x011, .rotrImm), (0x012, .minImm), (0x013, .maxImm), (0x014, .minuImm), (0x015, .maxuImm), (0x01B, .bfx), (0x01C,
    .bfxu), (0x01D, .bfi), (0x022, .addWImm), (0x023, .subWImm), (0x024, .mulWImm), (0x025, .sext), (0x026, .zext), (0x12E, .vshlImm), (0x12F,
    .vshrImm), (0x130, .vsraImm), (0x154, .vmovxImm), (0x155, .vmovvImm), (0x158, .vrotImm), (0x1AD, .wdogImm), (0x1AF, .cntcImm), (0x1B1,
    .trcImm)] :
      List (Nat × (IDA → Instr))).all (fun r =>
    reads (word 1 r.1 0x7 0x23 0x0 (8)) (r.2 { h := head, d := .x 7, a := .x 0x23, imm := 8 })) = true := by decide +kernel

theorem test_words_IDA_72 : ([(0x109, .gbarSs)] :
      List (Nat × (IDA → Instr))).all (fun r =>
    reads (word 1 r.1 0x7 0x23 0x0 (72)) (r.2 { h := head, d := .x 7, a := .x 0x23, imm := 72 })) = true := by decide +kernel

theorem test_words_SDA_0 : ([(0x016, .abs), (0x017, .neg), (0x018, .clz), (0x019, .ctz), (0x01A, .popc), (0x01E, .mov), (0x066, .fsqrt), (0x069, .fabs), (0x06A,
    .fneg), (0x06B, .fclass), (0x06C, .frnd), (0x06D, .fcvtFi), (0x06E, .fcvtIf), (0x06F, .fcvtBf), (0x070, .fcvtFb), (0x071, .fcvtE4),
    (0x072, .fcvtE5), (0x073, .fcvtF4), (0x074, .fcvtF5), (0x075, .fsplit), (0x08C, .join), (0x0AF, .tlook), (0x0B1, .tinv), (0x0B5, .rgq),
    (0x107, .gjoin), (0x108, .gleave), (0x10C, .semwt), (0x10E, .semrd), (0x10F, .semset), (0x110, .tagwa), (0x111, .tagwl), (0x112, .tagff),
    (0x138, .vabsF), (0x139, .vnegF), (0x13B, .vsqrtF), (0x13C, .vrcpF), (0x13D, .vrsqF), (0x13E, .vexp2F), (0x13F, .vlog2F), (0x145, .vrnsTo)] :
      List (Nat × (SDA → Instr))).all (fun r =>
    reads (word 0 r.1 0x7 0x23 0x0 (0x11223300 + 4 * 16 + 8 + 4 + 1)) (r.2 { h := head, d := .x 7, a := .x 0x23, t := tailS })) = true := by decide +kernel

theorem test_words_SDA_1 : ([(0x146, .vrnsFrom), (0x151, .vmnot), (0x152, .vmpop), (0x153, .vbcast), (0x156, .viota), (0x15B, .vmov), (0x15C, .vredAddF), (0x15D,
    .vredAddI), (0x15E, .vredMinF), (0x15F, .vredMaxF), (0x160, .vredMinI), (0x161, .vredMaxI), (0x162, .vscanAddI), (0x163, .vscanAddF),
    (0x184, .eqst), (0x185, .mxwm), (0x186, .mxrd), (0x1A1, .mbxw), (0x1A5, .rtchk), (0x1AA, .prmt), (0x1AB, .kill), (0x1B0, .cntr), (0x1B2,
    .scrub), (0x1B4, .turnack), (0x1B6, .fencecore), (0x1B7, .flood)] :
      List (Nat × (SDA → Instr))).all (fun r =>
    reads (word 0 r.1 0x7 0x23 0x0 (0x11223300 + 4 * 16 + 8 + 4 + 1)) (r.2 { h := head, d := .x 7, a := .x 0x23, t := tailS })) = true := by decide +kernel

theorem test_words_ID_8 : ([(0x01F, .li), (0x020, .lih), (0x085, .mfs), (0x100, .fnc), (0x107, .gjoinImm), (0x108, .gleaveImm), (0x109, .gbar), (0x10C, .semwtImm),
    (0x10E, .semrdImm), (0x10F, .semsetImm), (0x110, .tagwaImm), (0x111, .tagwlImm), (0x112, .tagffImm), (0x153, .vbcastImm), (0x164,
    .vsetvlImm), (0x186, .mxrdImm)] :
      List (Nat × (ID → Instr))).all (fun r =>
    reads (word 1 r.1 0x88 0x0 0x0 (8)) (r.2 { h := head, d := .v 8, imm := 8 })) = true := by decide +kernel

theorem test_words_ID_1 : ([(0x1AE, .proof)] :
      List (Nat × (ID → Instr))).all (fun r =>
    reads (word 1 r.1 0x88 0x0 0x0 (1)) (r.2 { h := head, d := .v 8, imm := 1 })) = true := by decide +kernel

theorem test_words_MDA_z : ([(0x021, .lea), (0x0A0, .ldB), (0x0A1, .ldBu), (0x0A2, .ldH), (0x0A3, .ldHu), (0x0A4, .ldW), (0x0A5, .ldWu), (0x0A6, .ldD), (0x0A7, .ldQ),
    (0x103, .barArr), (0x105, .barArw), (0x106, .barSt), (0x10A, .evw), (0x120, .vld)] :
      List (Nat × (MDA → Instr))).all (fun r =>
    reads (word 2 r.1 0x7 0x23 0x0 (0xFFFF8 * 4096 + 0 * 1024 + 0 * 256 + 0 * 64 + 0 * 4 + 0)) (r.2 { h := head, d := .x 7, a := .x 0x23, m := { disp := 0xFFFF8, space := 0, scope := 0, order := 0, rtn := 0, size := 0 } })) = true := by decide +kernel

theorem test_words_MDA_s : ([(0x0AD, .ldT), (0x0EF, .rfree), (0x0F4, .rstat)] :
      List (Nat × (MDA → Instr))).all (fun r =>
    reads (word 2 r.1 0x7 0x23 0x0 (0xFFFF8 * 4096 + 2 * 1024 + 2 * 256 + 0 * 64 + 0 * 4 + 1)) (r.2 { h := head, d := .x 7, a := .x 0x23, m := { disp := 0xFFFF8, space := 2, scope := 2, order := 0, rtn := 0, size := 1 } })) = true := by decide +kernel

theorem test_words_MDA_f : ([(0x1B5, .rflush)] :
      List (Nat × (MDA → Instr))).all (fun r =>
    reads (word 2 r.1 0x7 0x23 0x0 (0xFFFF8 * 4096 + 2 * 1024 + 2 * 256 + 0 * 64 + 0 * 4 + 0)) (r.2 { h := head, d := .x 7, a := .x 0x23, m := { disp := 0xFFFF8, space := 2, scope := 2, order := 0, rtn := 0, size := 0 } })) = true := by decide +kernel

theorem test_words_XAB : ([(0x040, .cmpEq), (0x041, .cmpNe), (0x042, .cmpLt), (0x043, .cmpLe), (0x044, .cmpGt), (0x045, .cmpGe), (0x046, .cmpLtu), (0x047, .cmpLeu),
    (0x048, .cmpGtu), (0x049, .cmpGeu), (0x04A, .btest), (0x04B, .fcmpEq), (0x04C, .fcmpLt), (0x04D, .fcmpLe), (0x04E, .fcmpUn), (0x04F,
    .pand), (0x050, .por), (0x051, .pxor)] :
      List (Nat × (XAB → Instr))).all (fun r =>
    reads (word 3 r.1 0x0 0x23 0xFF (3 * 2 ^ 29 + 6 * 2 ^ 26 + 2 * 2 ^ 23 + 0x7FFFFD)) (r.2 { h := head, a := .x 0x23, b := .imm, x := { ctype := 3, pA := 6, pB := 2, imm23 := 0x7FFFFD } })) = true := by decide +kernel

theorem test_words_SD : ([(0x052, .pmov), (0x188, .mxcap)] :
      List (Nat × (SD → Instr))).all (fun r =>
    reads (word 0 r.1 0x7 0x0 0x0 (0x11223300 + 4 * 16 + 8 + 4 + 1)) (r.2 { h := head, d := .x 7, t := tailS })) = true := by decide +kernel

theorem test_words_SA : ([(0x053, .pset), (0x082, .lcset), (0x0B2, .tclr), (0x0B4, .rgclr), (0x101, .fwait), (0x10B, .evsig), (0x10D, .semsg), (0x113, .tagclr),
    (0x180, .mxq), (0x181, .mxqr), (0x182, .cpq), (0x183, .cpqr), (0x189, .mxgate), (0x18A, .cpkill), (0x1B8, .halt)] :
      List (Nat × (SA → Instr))).all (fun r =>
    reads (word 0 r.1 0x0 0x23 0x0 (0x11223300 + 4 * 16 + 8 + 4 + 1)) (r.2 { h := head, a := .x 0x23, t := tailS })) = true := by decide +kernel

theorem test_words_XDAB : ([(0x054, .sel)] :
      List (Nat × (XDAB → Instr))).all (fun r =>
    reads (word 3 r.1 0x7 0x23 0xFF (0 * 2 ^ 29 + 6 * 2 ^ 26 + 0 * 2 ^ 23 + 0x7FFFFD)) (r.2 { h := head, d := .x 7, a := .x 0x23, b := .imm, x := { ctype := 0, pA := 6, pB := 0, imm23 := 0x7FFFFD } })) = true := by decide +kernel

theorem test_words_I0 : ([(0x080, .enter), (0x081, .leave), (0x082, .lcsetImm), (0x088, .trap), (0x089, .brk), (0x10B, .evsigImm), (0x10D, .semsgImm), (0x113,
    .tagclrImm), (0x189, .mxgateImm), (0x18A, .cpkillImm), (0x1A0, .svc)] :
      List (Nat × (I0 → Instr))).all (fun r =>
    reads (word 1 r.1 0x0 0x0 0x0 (8)) (r.2 { h := head, imm := 8 })) = true := by decide +kernel

theorem test_words_IA : ([(0x086, .mts), (0x187, .mxwrImm)] :
      List (Nat × (IA → Instr))).all (fun r =>
    reads (word 1 r.1 0x0 0x23 0x0 (8)) (r.2 { h := head, a := .x 0x23, imm := 8 })) = true := by decide +kernel

theorem test_words_SAB : ([(0x08B, .launch), (0x0B3, .rgset), (0x187, .mxwr), (0x1A4, .rtld)] :
      List (Nat × (SAB → Instr))).all (fun r =>
    reads (word 0 r.1 0x0 0x83 0x41 (0x11223300 + 4 * 16 + 8 + 4 + 1)) (r.2 { h := head, a := .v 3, b := .x 0x41, t := tailS })) = true := by decide +kernel

theorem test_words_MAB : ([(0x0A8, .stB), (0x0A9, .stH), (0x0AA, .stW), (0x0AB, .stD), (0x0AC, .stQ), (0x102, .barInit), (0x123, .vst)] :
      List (Nat × (MAB → Instr))).all (fun r =>
    reads (word 2 r.1 0x0 0x23 0x41 (0xFFFF8 * 4096 + 0 * 1024 + 0 * 256 + 0 * 64 + 0 * 4 + 0)) (r.2 { h := head, a := .x 0x23, b := .x 0x41, m := { disp := 0xFFFF8, space := 0, scope := 0, order := 0, rtn := 0, size := 0 } })) = true := by decide +kernel

theorem test_words_MDAB_s : ([(0x0AE, .ldS), (0x0EE, .rcell), (0x0F0, .ropFadd), (0x0F1, .ropSt), (0x0F2, .ropMaxi), (0x0F3, .ropBfadd), (0x0F5, .rreissue)] :
      List (Nat × (MDAB → Instr))).all (fun r =>
    reads (word 2 r.1 0x7 0x23 0x41 (0xFFFF8 * 4096 + 2 * 1024 + 2 * 256 + 0 * 64 + 0 * 4 + 1)) (r.2 { h := head, d := .x 7, a := .x 0x23, b := .x 0x41, m := { disp := 0xFFFF8, space := 2, scope := 2, order := 0, rtn := 0, size := 1 } })) = true := by decide +kernel

theorem test_words_MDAB_z : ([(0x0B6, .ldm), (0x0B7, .stm), (0x0E0, .amoAdd), (0x0E1, .amoAnd), (0x0E2, .amoOr), (0x0E3, .amoXor), (0x0E4, .amoMin), (0x0E5, .amoMax),
    (0x0E6, .amoMinu), (0x0E7, .amoMaxu), (0x0E8, .amoXchg), (0x0E9, .amoCas), (0x0EA, .amoFadd), (0x0EB, .amoFmin), (0x0EC, .amoFmax),
    (0x0ED, .amoBfadd2), (0x104, .barWait), (0x121, .vlds), (0x122, .vldx), (0x124, .vsts), (0x125, .vstx)] :
      List (Nat × (MDAB → Instr))).all (fun r =>
    reads (word 2 r.1 0x7 0x23 0x41 (0xFFFF8 * 4096 + 0 * 1024 + 0 * 256 + 0 * 64 + 0 * 4 + 0)) (r.2 { h := head, d := .x 7, a := .x 0x23, b := .x 0x41, m := { disp := 0xFFFF8, space := 0, scope := 0, order := 0, rtn := 0, size := 0 } })) = true := by decide +kernel

theorem test_words_MA : ([(0x114, .settle)] :
      List (Nat × (MA → Instr))).all (fun r =>
    reads (word 2 r.1 0x0 0x23 0x0 (0xFFFF8 * 4096 + 2 * 1024 + 0 * 256 + 0 * 64 + 0 * 4 + 0)) (r.2 { h := head, a := .x 0x23, m := { disp := 0xFFFF8, space := 2, scope := 0, order := 0, rtn := 0, size := 0 } })) = true := by decide +kernel

theorem test_guarded_compare_word : reads 0xC8400000_00017FC0_49FFFFF9
    (.cmpLt { h := plain, a := .x 5, b := .imm, x := { ctype := 2, pA := 2, pB := 3, imm23 := 0x7FFFF9 } }) = true := by decide +kernel
theorem test_cpq_word : reads 0x30400000_0001C000_00000000 (.cpq { h := plain, a := .x 7, t := noTail }) = true := by decide +kernel
/-- Bytes come least significant first, and what follows the twelve is left (R19). -/
theorem test_bytes_of_an_instruction : (match decodeBytes [0, 0, 0, 0, 0, 0xC0, 0x01, 0, 0, 0, 0x40, 0x30, 0xAA] with
    | .ok (i, l) => decide (i = .cpq { h := plain, a := .x 7, t := noTail }) && l == [0xAA]
    | .error _ => false) = true := by decide +kernel

/-! ### Ill-formed instructions (R36, Table 10, order 1): for every check a term that it refuses, and words that decode to none -/

def mt (sp sc o r sz : Nat) : MTail :=
  { disp := 0, space := BitVec.ofNat 2 sp, scope := BitVec.ofNat 2 sc, order := BitVec.ofNat 2 o, rtn := BitVec.ofNat 4 r, size := BitVec.ofNat 2 sz }
def mdaT (m : MTail) : MDA := { h := plain, d := .x 2, a := .x 3, m := m }
def mabT (m : MTail) : MAB := { h := plain, a := .x 3, b := .x 4, m := m }
def mdabT (m : MTail) : MDAB := { h := plain, d := .x 2, a := .x 3, b := .x 4, m := m }
def i0 (v : BitVec 32) : I0 := { h := plain, imm := v }
def idI (v : BitVec 32) : ID := { h := plain, d := .x 2, imm := v }
def iaI (v : BitVec 32) : IA := { h := plain, a := .x 2, imm := v }

theorem test_ill_formed_operand : (Instr.abs { h := plain, d := .rsv 0xCF, a := .x 1, t := noTail }).wf = false ∧
    (Instr.abs { h := plain, d := .x 1, a := .rsv 0xFF, t := noTail }).wf = false := by decide
theorem test_ill_formed_next : (Instr.nop { h := { plain with next := 1 }, t := noTail }).wf = false ∧
    (Instr.nop { h := { plain with nas := 4, next := 2 }, t := noTail }).wf = false ∧
    (Instr.nop { h := { plain with nas := 7, next := 1 }, t := noTail }).wf = false ∧
    (Instr.nop { h := { plain with nas := 6, next := 128 }, t := noTail }).wf = false ∧
    (Instr.nop { h := { plain with nas := 6, next := 127 }, t := noTail }).wf = true := by decide
theorem test_ill_formed_s_tail :
    ([{ noTail with wsem := 1 }, { noTail with wthr := 1 }, { noTail with cons := true }, { noTail with ssem := 1 }, { noTail with sinc := 1 },
      { noTail with stime := true }] : List STail).all (fun t => !(Instr.nop { h := plain, t := t }).wf) = true := by decide
/-- Route without space 3, and sizes 2 and 3. -/
theorem test_ill_formed_m_tail : ([mt 0 0 0 1 0, mt 2 0 0 15 0, mt 0 0 0 0 2, mt 0 0 0 0 3] : List MTail).all (fun m => !(Instr.ldB (mdaT m)).wf) = true := by
  decide
theorem test_ill_formed_x_tail :
    (Instr.cmpEq { h := plain, a := .x 1, b := .x 2, x := { ctype := 0, pA := 1, pB := 2, imm23 := 1 } }).wf = false := by decide
theorem test_ill_formed_bit_fields : (Instr.bfx (ida 1 2 4096)).wf = false ∧ (Instr.bfxu (ida 1 2 (1 + 63 * 64))).wf = false ∧
    (Instr.bfi (ida 1 2 (63 + 64))).wf = false ∧ (Instr.bfi (ida 1 2 63)).wf = true ∧ (Instr.bfx (ida 1 2 (63 * 64))).wf = true := by decide
theorem test_ill_formed_extensions : (Instr.sext (ida 1 2 0)).wf = false ∧ (Instr.zext (ida 1 2 65)).wf = false ∧
    (Instr.zext (ida 1 2 128)).wf = false ∧ (Instr.sext (ida 1 2 64)).wf = true := by decide
theorem test_ill_formed_lea : ([mt 0 1 0 0 0, mt 0 0 1 0 0, mt 3 0 0 1 0, mt 0 0 0 0 1, mt 3 0 0 0 0] : List MTail).all
    (fun m => !(Instr.lea (mdaT m)).wf) = true := by decide
theorem test_ill_formed_select : (Instr.sel { h := plain, d := .x 1, a := .x 1, b := .x 2, x := { ctype := 1, pA := 1, pB := 0, imm23 := 0 } }).wf = false ∧
    (Instr.sel { h := plain, d := .x 1, a := .x 1, b := .x 2, x := { ctype := 0, pA := 1, pB := 1, imm23 := 0 } }).wf = false := by decide
theorem test_ill_formed_frames : (Instr.enter (i0 4)).wf = false ∧ (Instr.leave (i0 9)).wf = false ∧ (Instr.enter (i0 8)).wf = true := by decide
theorem test_ill_formed_special_registers :
    ([0x009, 0x00F, 0x01B, 0x01F, 0x04A, 0x05F, 0x065, 0x100] : List Nat).all (fun n => !(Instr.mfs (idI (BitVec.ofNat 32 n))).wf) = true ∧
    ([0x009, 0x010, 0x013, 0x015, 0x01A, 0x020, 0x03F, 0x046, 0x065] : List Nat).all (fun n => !(Instr.mts (iaI (BitVec.ofNat 32 n))).wf) = true := by
  decide
/-- A load takes size 0 and no release, a store no acquire; order 0 has scope 0; order in space 2 has owner or system scope. -/
theorem test_ill_formed_access : ([mt 0 0 0 0 1, mt 0 0 2 0 0, mt 0 1 0 0 0, mt 2 1 1 0 0] : List MTail).all (fun m => !(Instr.ldW (mdaT m)).wf) = true ∧
    ([mt 0 0 0 0 1, mt 0 0 1 0 0, mt 1 2 0 0 0, mt 3 0 2 0 0] : List MTail).all (fun m => !(Instr.stW (mabT m)).wf) = true ∧
    ([mt 0 0 0 0 1, mt 0 0 1 0 0, mt 1 1 0 0 0] : List MTail).all (fun m => !(Instr.ldm (mdabT m)).wf && !(Instr.stm (mdabT m)).wf) = true := by decide
theorem test_ill_formed_settled : ([mt 1 2 0 0 1, mt 2 3 0 0 1, mt 2 2 0 0 0, mt 2 2 2 0 1] : List MTail).all
    (fun m => !(Instr.ldT (mdaT m)).wf && !(Instr.ldS (mdabT m)).wf) = true := by decide
/-- An atomic with destination x0 takes order 0 or 2; FP32 ones take size 0. -/
theorem test_ill_formed_atomics : (Instr.amoAdd { mdabT (mt 2 2 1 0 1) with d := .x 0 }).wf = false ∧
    (Instr.amoAdd { mdabT (mt 2 2 3 0 1) with d := .x 0 }).wf = false ∧ (Instr.amoAdd (mdabT (mt 2 2 1 0 1))).wf = true ∧
    (Instr.amoFadd (mdabT (mt 2 2 0 0 1))).wf = false ∧ (Instr.amoBfadd2 (mdabT (mt 2 2 0 0 1))).wf = false := by decide
theorem test_ill_formed_cells : ([mt 1 2 0 0 1, mt 2 3 0 0 1, mt 2 2 0 0 0, mt 2 2 1 0 1] : List MTail).all (fun m =>
    !(Instr.rcell (mdabT m)).wf && !(Instr.rfree (mdaT m)).wf && !(Instr.ropSt (mdabT m)).wf && !(Instr.rstat (mdaT m)).wf &&
    !(Instr.rreissue (mdabT m)).wf) = true ∧
    (Instr.ropFadd (mdabT (mt 2 2 2 0 1))).wf = true ∧ (Instr.rcell (mdabT (mt 2 2 2 0 1))).wf = false := by decide
theorem test_ill_formed_barriers : ([mt 0 0 1 0 0, mt 0 0 0 0 1, mt 0 3 0 0 0, mt 1 0 0 0 0, mt 3 1 0 0 0] : List MTail).all (fun m =>
    !(Instr.barInit (mabT m)).wf && !(Instr.barArr (mdaT m)).wf && !(Instr.barWait (mdabT m)).wf && !(Instr.barArw (mdaT m)).wf &&
    !(Instr.barSt (mdaT m)).wf) = true ∧ (Instr.barInit (mabT (mt 3 2 0 0 0))).wf = false ∧ (Instr.barArr (mdaT (mt 3 2 0 0 0))).wf = true := by decide
theorem test_ill_formed_lines : (Instr.evw (mdaT (mt 1 0 0 0 0))).wf = false ∧ (Instr.settle { h := plain, a := .x 3, m := mt 0 0 0 0 0 }).wf = false := by
  decide
theorem test_ill_formed_vector_access : ([mt 0 1 0 0 0, mt 0 0 1 0 0, mt 3 0 0 1 0, mt 0 0 0 0 1] : List MTail).all (fun m =>
    !(Instr.vld (mdaT m)).wf && !(Instr.vlds (mdabT m)).wf && !(Instr.vldx (mdabT m)).wf && !(Instr.vst (mabT m)).wf && !(Instr.vsts (mdabT m)).wf &&
    !(Instr.vstx (mdabT m)).wf) = true := by decide
theorem test_ill_formed_flush : ([mt 0 2 0 0 0, mt 2 1 0 0 0, mt 2 2 1 0 0, mt 2 2 0 0 1] : List MTail).all (fun m => !(Instr.rflush (mdaT m)).wf) = true := by
  decide
theorem test_ill_formed_fences : (Instr.fnc (idI 0)).wf = false ∧ (Instr.fnc (idI 3)).wf = false ∧ (Instr.fnc (idI 32)).wf = false ∧
    (Instr.fnc (idI 4)).wf = true := by decide
theorem test_ill_formed_groups : (Instr.gjoinImm (idI 65536)).wf = false ∧ (Instr.gleaveImm (idI 0x1000)).wf = false ∧
    (Instr.gjoinImm (idI 0x1800)).wf = true ∧ (Instr.gbar (idI 64)).wf = false ∧ (Instr.gbarSs (ida 1 2 63)).wf = false ∧
    (Instr.gbarSs (ida 1 2 128)).wf = false := by decide
theorem test_ill_formed_line_signal : (Instr.evsigImm (i0 (2 ^ 24))).wf = false ∧ (Instr.evsigImm (i0 64)).wf = false ∧
    (Instr.evsigImm (i0 (2 * 16384))).wf = false ∧ (Instr.evsigImm (i0 (2 * 16384 + 65 * 65536))).wf = false ∧
    (Instr.evsigImm (i0 (2 * 16384 + 65536 + 16))).wf = false ∧ (Instr.evsigImm (i0 16)).wf = false ∧ (Instr.evsigImm (i0 (16384 + 15))).wf = false ∧
    (Instr.evsigImm (i0 (16384 + 512 + 16))).wf = false ∧ (Instr.evsigImm (i0 (3 * 16384))).wf = false ∧ (Instr.evsigImm (i0 65536)).wf = false ∧
    (Instr.evsigImm (i0 (2 * 16384 + 64 * 65536 + 15))).wf = true := by decide
theorem test_ill_formed_semaphores : (Instr.semwtImm (idI (2 ^ 25))).wf = false ∧ (Instr.semwtImm (idI (2 ^ 24))).wf = true ∧
    (Instr.semsgImm (i0 (2 ^ 24))).wf = false ∧ (Instr.semrdImm (idI 256)).wf = false ∧ (Instr.semsetImm (idI (2 ^ 24))).wf = false := by decide
theorem test_ill_formed_bounds : (Instr.vshlImm (ida 1 2 32)).wf = false ∧ (Instr.vshrImm (ida 1 2 32)).wf = false ∧
    (Instr.vsraImm (ida 1 2 32)).wf = false ∧ (Instr.vmovxImm (ida 1 2 32)).wf = false ∧ (Instr.vmovvImm (ida 1 2 32)).wf = false ∧
    (Instr.vrotImm (ida 1 2 32)).wf = false ∧ (Instr.vsetvlImm (idI 524288)).wf = false ∧ (Instr.mxrdImm (idI 64)).wf = false ∧
    (Instr.mxwrImm (iaI 64)).wf = false ∧ (Instr.mxgateImm (i0 (2 ^ 24))).wf = false ∧ (Instr.cpkillImm (i0 128)).wf = false ∧
    (Instr.proof (idI 0)).wf = false ∧ (Instr.cntcImm (ida 1 2 (2 ^ 18))).wf = false ∧ (Instr.trcImm (ida 1 2 16)).wf = false := by decide
/-- A reserved opcode, a wrong format, an unused operand field that is not 0, a must-be-0 field, and too few bytes. -/
theorem test_words_of_no_instruction : refuses (wordOf 0 0x055 0 0 0 0 0 0 0 0) .reservedOpcode = true ∧
    refuses (wordOf 2 0x001 0 0 0 1 2 3 0 0) .wrongFormat = true ∧ refuses (wordOf 0 0x016 0 0 0 1 2 3 0 0) .operandNotZero = true ∧
    refuses (wordOf 0 0x000 0 0 5 0 0 0 0 0) .illFormed = true ∧ (match decodeBytes [0, 1, 2] with
      | .ok _ => false
      | .error e => e == .tooShort) = true := by decide +kernel

/-! ### Reset, and an instruction placed where the next step fetches -/

theorem test_reset_memory_form : State.reset.memForm = true := by decide +kernel
theorem test_nop_is_the_first_instruction : decodeTableWord 96 0 = some (.nop { h := plain, t := noTail }) := by decide +kernel
/-- `li x5, 9` placed in the reset state and run by the next step. -/
theorem test_step_runs_the_placed_word : ends (step (State.reset.withFetchWord 96 (2 ^ 94 + 0x1F * 2 ^ 85 + 5 * 2 ^ 54 + 9)))
    (fun t => t.rx 5 == 9) = true := by decide +kernel

/-! ### Witnesses: steps, selectors, tails -/

/-- A U context with 5 in x2, −2 in x3, 4096 in x4, 64 in x5 and 0x3F80_0000 (1.0) in x6, 0x4000_0000 (2.0) in x7. -/
def user : State := small .u [(2, 5), (3, 0xFFFFFFFFFFFFFFFE), (4, 4096), (5, 64), (6, 0x3F800000), (7, 0x40000000)]
/-- The same at level S and at level M. -/
def super : State := small .s [(2, 5), (3, 0xFFFFFFFFFFFFFFFE), (4, 4096), (5, 64)]
def machine : State := small .m [(2, 5), (3, 0xFFFFFFFFFFFFFFFE), (4, 4096), (5, 64)]
def s0 : S0 := { h := plain, t := noTail }
def sd (d : BitVec 7) : SD := { h := plain, d := .x d, t := noTail }
def sa (a : BitVec 7) : SA := { h := plain, a := .x a, t := noTail }
def sab (a b : BitVec 7) : SAB := { h := plain, a := .x a, b := .x b, t := noTail }
def jump (nas : BitVec 3) (next : BitVec 16) : S0 := { h := { plain with nas := nas, next := next }, t := noTail }
/-- `user` with the registers of its context changed. -/
def regs (s : State) (f : Regs → Regs) : State := s.updR f
/-- The word of `li x5, 9`. -/
def liWord : IWord := wordOf 1 0x1F 0 0 0 5 0 0 0 9
def issuing (w : IWord) : State := { on user (fun t => { t with icache := [(0, some w)] }) with agenda := [.issue home 0] }

theorem test_ready_context (w : IWord) (hw : w = liWord ∨ w = 0x0AA000000000000000000000) : Ready (issuing w) home 0 w := by
  rcases hw with rfl | rfl <;> constructor <;> decide +kernel
theorem test_step_meets : decode liWord = .ok (.li { h := plain, d := .x 5, imm := 9 }) ∧ decode 0x0AA000000000000000000000 = .error .reservedOpcode ∧
    (issuing liWord).agenda = [.issue home 0] ∧ encodeFields .quiesce = none := ⟨by rfl, by rfl, by rfl, by rfl⟩
theorem test_step_issues : ends (step (issuing liWord)) (fun t => t.rx 5 == 9 && t.me.r.pc == 12) = true := by decide +kernel
theorem test_step_refuses_a_reserved_word : ends (step (issuing 0x0AA000000000000000000000))
    (fun t => t.me.c.run == .blocked && t.me.c.fault.map (·.cause) == some 1) = true := by decide +kernel

/-- R31: SEQ, FLOW by −2 instructions at pc 24, JUMP with its guard true, CALL, RET, LOOP, JIND and FIN. -/
theorem test_selectors_meet : ([s0, jump 1 0xFFFE, jump 2 3, jump 3 5, jump 4 0, jump 5 0xFFFF, jump 6 4, jump 7 0] : List S0).all (fun f =>
    user.runs f.h (some f.t) .u [] && user.me.c.gang.isNone && !f.t.sen) = true := by decide +kernel
theorem test_selectors : let s := regs user fun r => { r with pc := 24, ln := 600, lc := 3 }
    let go (f : S0) (p : Ctx → Bool) : Bool := ends (exec (.nop f) s) fun t => p t.me
    go s0 (·.r.pc == 36) = true ∧ go (jump 1 0xFFFE) (·.r.pc == 0) = true ∧ go (jump 2 3) (·.r.pc == 36) = true ∧
    go (jump 3 5) (fun c => c.r.pc == 84 && c.r.ln == 36) = true ∧ go (jump 4 0) (·.r.pc == 600) = true ∧
    go (jump 5 0xFFFF) (fun c => c.r.pc == 12 && c.r.lc == 2) = true ∧ go (jump 6 4) (·.r.pc == 4096) = true ∧
    go (jump 7 0) (fun c => c.r.pc == 24 && c.c.run == .ending) = true := by decide +kernel
theorem test_misaligned_target_meets : let s := regs user fun r => { r with ln := 6 }
    s.does (jump 4 0).h (some noTail) .u [] = true ∧ s.me.r.ln.toNat % 4 ≠ 0 ∧ (s.rx 2).toNat % 4 ≠ 0 ∧
    ends (exec (.nop (jump 4 0)) s) (fun t => t.me.c.fault.map (fun q => (q.cause, q.address)) == some (4, 6)) = true ∧
    ends (exec (.nop (jump 6 2)) s) (fun t => t.me.c.fault.map (fun q => (q.cause, q.address)) == some (4, 5)) = true := by decide +kernel

/-- Signals semaphore 3 by 16; waits for 5 on semaphore 7, consuming. -/
def sig3 : S0 := { h := plain, t := { noTail with ssem := 3, sen := true } }
def wait7 : S0 := { h := plain, t := { noTail with wsem := 7, wthr := 5, wen := true, cons := true } }
theorem test_tail_signal : user.does sig3.h (some sig3.t) .u [] = true ∧
    ends (exec (.nop sig3) user) (fun t => t.sem home 3 == 16 && t.me.r.pc == 12) = true ∧
    ends (exec (.nop sig3) (user.setSem home 3 0xFFF0)) (fun t => t.sem home 3 == 0xFFFF && t.me.c.fault.map (·.cause) == some 0x0F) = true := by
  decide +kernel
theorem test_tail_wait : user.me.c.phase = .fresh ∧ opsOk user.me.r.win wait7.h [] = true ∧ user.me.c.level.reaches .u = true ∧
    ends (exec (.nop wait7) (user.setSem home 7 4)) (fun t => t.me.c.run == .waiting && t.sem home 7 == 4 && t.me.r.pc == 0) = true ∧
    ends (exec (.nop wait7) (user.setSem home 7 6)) (fun t => t.sem home 7 == 1 && t.me.r.pc == 12) = true := by decide +kernel

/-! ### Integer, field, predicate and floating-point results -/

/-- Each instruction's result on 5 and −2 (R41, R42, R47). -/
theorem test_integer_results : user.does plain (some noTail) .u [(.x 9, .wx), (.x 2, .rx), (.x 3, .rx)] = true ∧
    ([(.add, 3), (.sub, 7), (.mul, -10), (.mulh, -1), (.mulhu, 4), (.div, -2), (.divu, 0), (.rem, 1), (.remu, 5), (.and, 4), (.or, -1), (.xor, -5),
      (.andn, 1), (.shl, 2 ^ 62), (.shr, 0), (.sra, 0), (.rotr, 20), (.min, -2), (.max, 5), (.minu, 5), (.maxu, -2), (.addW, 3), (.subW, 7),
      (.mulW, -10)] : List ((SDAB → Instr) × Int)).all (fun r =>
      ends (exec (r.1 (sdab 9 2 3)) user) fun t => t.rx 9 == BitVec.ofInt 64 r.2 && t.me.r.pc == 12) = true := by decide +kernel
theorem test_integer_immediates : user.does plain none .u [(.x 9, .wx), (.x 2, .rx)] = true ∧
    ([(.addImm, 3), (.subImm, 7), (.mulImm, -10), (.mulhImm, -1), (.mulhuImm, 4), (.divImm, -2), (.divuImm, 0), (.remImm, 1), (.remuImm, 5), (.andImm, 4),
      (.orImm, -1), (.xorImm, -5), (.andnImm, 1), (.shlImm, 2 ^ 62), (.shrImm, 0), (.sraImm, 0), (.rotrImm, 20), (.minImm, -2), (.maxImm, 5),
      (.minuImm, 5), (.maxuImm, -2), (.addWImm, 3), (.subWImm, 7), (.mulWImm, -10)] : List ((IDA → Instr) × Int)).all (fun r =>
      ends (exec (r.1 (ida 9 2 0xFFFFFFFE)) user) fun t => t.rx 9 == BitVec.ofInt 64 r.2) = true := by decide +kernel
/-- R42, Table 2: division by zero and the one signed overflow. -/
theorem test_division_corners : let s := small .u [(2, 7), (4, 0x8000000000000000), (5, 0xFFFFFFFFFFFFFFFF)]
    let go (i : Instr) (v : Int) : Bool := ends (exec i s) fun t => t.rx 9 == BitVec.ofInt 64 v
    go (.div (sdab 9 2 3)) (-1) && go (.divu (sdab 9 2 3)) (-1) && go (.rem (sdab 9 2 3)) 7 && go (.remu (sdab 9 2 3)) 7 &&
    go (.div (sdab 9 4 5)) (-2 ^ 63) && go (.rem (sdab 9 4 5)) 0 = true := by decide +kernel
/-- A write to x0 is dropped (R24). -/
theorem test_writing_x0 : ends (exec (.add (sdab 0 2 2)) user) (fun t => t.rx 0 == 0 && t.me.r.pc == 12 && decide ((t.tile home).xr = (user.tile home).xr)) = true := by
  decide +kernel
theorem test_one_operand : user.does plain (some noTail) .u [(.x 9, .wx), (.x 3, .rx)] = true ∧
    ([(.mov, -2), (.neg, 2), (.abs, 2), (.clz, 0), (.ctz, 1), (.popc, 63)] : List ((SDA → Instr) × Int)).all (fun r =>
      ends (exec (r.1 (sda 9 3)) user) fun t => t.rx 9 == BitVec.ofInt 64 r.2) = true := by decide +kernel
/-- Bit fields at position 1, width 3, of −2, and extensions from 2 bits (R44, R47). -/
theorem test_fields : user.does plain none .u [(.x 2, .rx), (.x 3, .rx)] = true ∧
    ([(.bfx, 129, -1), (.bfxu, 129, 7), (.bfi, 129, 13), (.sext, 2, -2), (.zext, 2, 2)] : List ((IDA → Instr) × BitVec 32 × Int)).all (fun r =>
      (r.1 (ida 2 3 r.2.1)).wf && ends (exec (r.1 (ida 2 3 r.2.1)) user) fun t => t.rx 2 == BitVec.ofInt 64 r.2.2) = true := by decide +kernel
theorem test_constants_and_lea : user.does plain none .u [(.x 2, .rx)] = true ∧
    ends (exec (.li { h := plain, d := .x 2, imm := 0x80000000 }) user) (fun t => t.rx 2 == 0xFFFFFFFF80000000) = true ∧
    ends (exec (.lih { h := plain, d := .x 2, imm := 0x12345678 }) user) (fun t => t.rx 2 == 0x1234567800000005) = true ∧
    ends (exec (.lea { mda 0 2 4 with m := { disp := 0xFFFFF, space := 0, order := 0, scope := 0, size := 0, rtn := 0 } }) user) (fun t => t.rx 2 == 4095) =
      true := by decide +kernel
def xab (c : BitVec 3) : XAB := { h := plain, a := .x 3, b := .x 2, x := { ctype := c, pA := 1, pB := 2, imm23 := 0 } }
def xpp (c : BitVec 3) : XAB := { h := plain, a := .p 3, b := .p 0, x := { ctype := c, pA := 1, pB := 2, imm23 := 0 } }
/-- Compares of −2 and 5, and bit 5 of −2 (R48). -/
theorem test_compares : user.runs plain none .u ((.x 3, .rx) :: xReqB (.x 2)) = true ∧
    ([(.cmpEq, false), (.cmpNe, true), (.cmpLt, true), (.cmpLe, true), (.cmpGt, false), (.cmpGe, false), (.cmpLtu, false), (.cmpLeu, false),
      (.cmpGtu, true), (.cmpGeu, true), (.btest, true)] : List ((XAB → Instr) × Bool)).all (fun r =>
      ends (exec (r.1 (xab 0)) user) fun t => t.rp 1 == r.2 && t.rp 2 == !r.2) = true := by decide +kernel
/-- R34, Table 8: the combining types 0 to 7 of a true condition on p1 = 1, p2 = 0, and under a guard that is false. -/
theorem test_combining_types : let s := regs user fun r => { r with preds := 2 }
    ([(0, true, false), (1, true, false), (2, true, false), (3, true, true), (4, false, false), (5, true, false), (6, true, true), (7, true, false)] :
      List (BitVec 3 × Bool × Bool)).all (fun r => ends (exec (.cmpNe (xab r.1)) s) fun t => t.rp 1 == r.2.1 && t.rp 2 == r.2.2) = true ∧
    ([(0, true, false), (1, false, false), (2, true, false), (3, true, false), (4, true, false), (5, true, false), (6, true, false), (7, true, false)] :
      List (BitVec 3 × Bool × Bool)).all (fun r => ends (exec (.cmpNe { xab r.1 with h := { plain with gpred := 3 } }) s) fun t =>
        t.rp 1 == r.2.1 && t.rp 2 == r.2.2) = true := by decide +kernel
theorem test_predicate_logic : user.runs plain none .u [(.p 3, .p), (.p 0, .p)] = true ∧
    ([(.pand, false), (.por, true), (.pxor, true)] : List ((XAB → Instr) × Bool)).all (fun r =>
      ends (exec (r.1 (xpp 0)) user) fun t => t.rp 1 == r.2 && t.rp 2 == !r.2) = true := by decide +kernel
theorem test_predicate_moves : let s := regs user fun r => { r with preds := 0x0C }
    s.does plain (some noTail) .u [(.x 9, .wx)] = true ∧ s.does plain (some noTail) .u [(.x 2, .rx)] = true ∧
    s.does plain none .u ((.x 9, .wx) :: (.x 2, .rx) :: xReqB .imm) = true ∧
    ends (exec (.pmov (sd 9)) s) (fun t => t.rx 9 == 0x0D) = true ∧ ends (exec (.pset (sa 2)) s) (fun t => t.rp 2 && !t.rp 3 && !t.rp 1) = true ∧
    ends (exec (.sel { h := plain, d := .x 9, a := .x 2, b := .imm, x := { ctype := 0, pA := 1, pB := 0, imm23 := 0x7FFFFF } }) s) (fun t =>
      t.rx 9 == 0xFFFFFFFFFFFFFFFF) = true := by decide +kernel
/-- On 1.0 and 2.0 (R54 to R57). -/
theorem test_floating_point : user.does plain (some noTail) .u [(.x 9, .wx), (.x 6, .rx), (.x 7, .rx)] = true ∧
    user.does plain (some noTail) .u [(.x 6, .rx), (.x 6, .rx), (.x 7, .rx)] = true ∧ noTrap user 0x1F ∧ user.myTile.vecOpen user.curCtx = false ∧
    ([(.fadd, 0x40400000), (.fsub, 0xBF800000), (.fmul, 0x40000000), (.fdiv, 0x3F000000), (.fmin, 0x3F800000), (.fmax, 0x40000000)] :
      List ((SDAB → Instr) × Word)).all (fun r => ends (exec (r.1 (sdab 9 6 7)) user) fun t => t.rx 9 == r.2 && t.me.r.fflags == 0) = true ∧
    ([(.fma, 0x40400000), (.fnma, 0xBF800000)] : List ((SDAB → Instr) × Word)).all (fun r =>
      ends (exec (r.1 (sdab 6 6 7)) user) fun t => t.rx 6 == r.2) = true := by
  unfold noTrap; decide +kernel
theorem test_floating_point_of_one : ([(.fsqrt, 6, 0x3F800000), (.fabs, 3, 0x7FFFFFFE), (.fneg, 6, 0xBF800000), (.fclass, 6, 64), (.frnd, 7, 0x40000000),
      (.fcvtFi, 2, 0x40A00000), (.fcvtIf, 7, 2), (.fcvtBf, 7, 0x4000), (.fcvtFb, 4, 0x10000000), (.fcvtE4, 6, 0x38), (.fcvtE5, 6, 0x3C),
      (.fcvtF4, 5, 0x40000000), (.fcvtF5, 5, 0x40000000), (.fsplit, 6, 0x3F8000000000)] : List ((SDA → Instr) × BitVec 7 × Word)).all (fun r =>
      ends (exec (r.1 (sda 9 r.2.1)) user) fun t => t.rx 9 == r.2.2) = true := by decide +kernel
def xff : XAB := { h := plain, a := .x 6, b := .x 7, x := { ctype := 0, pA := 1, pB := 2, imm23 := 0 } }
theorem test_floating_compares : user.runs plain none .u [(.x 6, .rx), (.x 7, .rx)] = true ∧
    ([(.fcmpEq, false), (.fcmpLt, true), (.fcmpLe, true), (.fcmpUn, false)] : List ((XAB → Instr) × Bool)).all (fun r =>
      ends (exec (r.1 xff) user) fun t => t.rp 1 == r.2 && t.rp 2 == !r.2) = true := by decide +kernel
/-- With the invalid flag enabled: the root of −1, the sum of two infinities of unlike signs, an ordered compare with a NaN. -/
def trapping : State := regs (small .u [(2, 0xBF800000), (3, 0x7F800000), (4, 0xFF800000), (5, 0x7FC00000)]) fun r => { r with fenable := 0x1F }
theorem test_floating_trap_meets : ¬ noTrap trapping (fpSqrt .rne 0xBF800000).2 ∧ ¬ noTrap trapping (fpAdd .rne 0x7F800000 0xFF800000).2 ∧
    ¬ noTrap trapping (fpFma .rne false 0x7F800000 0x3F800000 0xFF800000).2 ∧
    ¬ noTrap trapping (compareFlags false (read32 0x7FC00000) (read32 0)) := by unfold noTrap; decide +kernel
theorem test_floating_trap : ([.fsqrt (sda 9 2), .fadd (sdab 9 3 4), .fcmpLt { xff with a := .x 5, b := .x 5 }] : List Instr).all (fun i =>
    ends (exec i trapping) fun t => t.rx 9 == 0 && t.me.r.pc == 0 && t.me.c.run == .blocked && t.me.c.fault.map (·.cause) == some 0x0D) = true := by
  decide +kernel

/-! ### Witnesses: control, special registers, faults -/

theorem test_control_meets : user.does plain none .u [(.x 1, .rx)] = true ∧ user.does plain (some noTail) .u [(.x 2, .rx)] = true ∧
    user.does plain none .u [] = true ∧ user.does plain (some noTail) .u [] = true ∧ user.me.r.lcstk.length < 4 := by decide +kernel
theorem test_frames : let s := small .u [(1, 96)]
    ends (exec (.enter (i0 32)) s) (fun t => t.rx 1 == 64) = true ∧
    ends (exec (.enter (i0 40)) s) (fun t => t.rx 1 == 96 && t.me.c.fault.map (fun q => (q.cause, q.detail)) == some (7, 40 * 2 ^ 32)) = true ∧
    ends (exec (.leave (i0 32)) s) (fun t => t.rx 1 == 128) = true := by decide +kernel
theorem test_loop_counts : let s := regs user fun r => { r with lc := 7, lcstk := [9] }
    let full := regs user fun r => { r with lcstk := [1, 2, 3, 4] }
    ends (exec (.lcset (sa 2)) s) (fun t => t.me.r.lc == 5) = true ∧ ends (exec (.lcsetImm (i0 6)) s) (fun t => t.me.r.lc == 6) = true ∧
    ends (exec (.lcpush s0) s) (fun t => t.me.r.lcstk == [7, 9]) = true ∧
    ends (exec (.lcpop s0) s) (fun t => t.me.r.lc == 9 && t.me.r.lcstk == []) = true ∧
    ends (exec (.lcpush s0) full) (fun t => t.me.c.fault.map (fun q => (q.cause, q.detail)) == some (7, 1)) = true ∧
    ends (exec (.lcpop s0) user) (fun t => t.me.c.fault.map (fun q => (q.cause, q.detail)) == some (7, 1)) = true := by decide +kernel
theorem test_yield_and_irgn : ends (exec (.yield s0) user) (fun t => t.myTile.avoid == [4] && t.me.r.pc == 12) = true ∧
    ends (exec (.irgn s0) (regs user fun r => { r with pc := 24 })) (fun t => t.me.r.ire == 36) = true := by decide +kernel

theorem test_special_registers_meet : machine.does plain none (mfsLevel 0x60) [(.x 9, .wx)] = true ∧ machine.sregHeld 0x60 = false ∧
    user.does plain none (mtsLevel 0x05) [(.x 2, .rx)] = true ∧ user.me.c.level.reaches (mfsLevel 0x40) = false ∧
    user.me.c.level.reaches (mtsLevel 0x02) = false := by decide +kernel
theorem test_special_registers : ends (exec (.mts { h := plain, a := .x 3, imm := 0x05 }) user) (fun t => t.me.r.fenable == 0x1E) = true ∧
    ends (exec (.mfs { h := plain, d := .x 9, imm := 0x07 }) user) (fun t => t.rx 9 == 32) = true ∧
    ends (exec (.mfs { h := plain, d := .x 9, imm := 0x40 }) user) (fun t => t.rx 9 == 0 && t.me.c.fault.map (·.cause) == some 3) = true ∧
    ends (exec (.mts { h := plain, a := .x 4, imm := 0x07 }) user) (fun t => t.me.r.vl == 32) = true := by decide +kernel

theorem test_traps_meet : user.does plain none .u [] = true ∧ user.free_ = true ∧ user.me.c.passDebug.getLsbD 2 = false ∧ user.myTile.sdbg = false ∧
    user.me.c.gang = none ∧ user.myTile.checked = false := by decide +kernel
def blocks (o : Out) (c : BitVec 8) (d : BitVec 64) : Bool :=
  ends o fun t => t.me.c.run == .blocked && t.me.r.pc == 0 && t.me.c.fault.map (fun q => (q.cause, q.detail)) == some (c, d)
theorem test_traps : blocks (exec (.trap (i0 7)) user) 0x15 7 = true ∧ blocks (exec (.svc (i0 7)) user) 0x15 0x100000007 = true ∧
    blocks (exec (.brk (i0 7)) user) 0x13 7 = true := by decide +kernel
theorem test_break_stops_under_sdbg : let s := on user fun t => { t with sdbg := true }
    let over_ := s.updC fun c => { c with passDebug := 4 }
    s.does plain none .u [] = true ∧ ends (exec (.brk (i0 7)) s) (fun t => t.me.c.run == .debugStop && t.me.c.why == 2) = true ∧
    over_.me.c.passDebug.getLsbD 2 = true ∧ over_.does plain none .u [] = true ∧ ends (exec (.brk (i0 7)) over_) (fun t => t.me.r.pc == 12) = true := by decide +kernel
/-- R324: a valid service locator takes a U context's faults to its forme; without one they go to the die, as an S context's do. -/
theorem test_fault_mailboxes : let s := user.updForme 64 fun w => { w with svloc := 0x80000005 }
    (s.forme (formeKey home)).svloc.getLsbD 31 = true ∧ (s.tile (tileKey 1 5)).fenced = false ∧ s.faultBox home 0 = .forme 64 ∧
    user.faultBox home 0 = .die (user.dieOf home) ∧ super.faultBox home 0 = .die (super.dieOf home) ∧ machine.faultBox home 0 = .die 0 := by
  decide +kernel

/-- The service core at tile 5 of the forme, whose tile is stopped: a message for it waits in the stop area there (R383). -/
def stoppedCore : State := (user.updForme 64 fun w => { w with svloc := 0x80000005 }).updCtx (tileKey 1 5) 2 fun x =>
  { x with c := { x.c with run := .debugStop } }
theorem test_fault_into_stop_area : let s := stoppedCore
    s.faultBox home 0 = .forme 64 ∧ (s.tile (s.serviceTile 64)).hasStop = true ∧ s.me.c.run ≠ .debugStop ∧ (s.boxMsgs (.forme 64)).all (·.here) = true ∧
    (s.tile (s.serviceTile 64)).stopArea.length < 1024 ∧ s.accOpen home 0 s.nextId = false ∧
    ends (exec (.trap (i0 7)) s) (fun t => (t.tile (tileKey 1 5)).stopArea.length == 1 && t.boxMsgs (.forme 64) == []) = true := by decide +kernel

/-- A fault of cause 6, and a context blocked on it at pc 48. -/
def itsFault : FaultRec :=
  { cause := 6, src := 0, pc := 48, iword := 0, address := 64, stamp := 0, detail := 0, gtime := 0, cyc := 0, allow := 31, resend := none, atFin := false,
    once := false }
def blocked : State := (regs user fun r => { r with pc := 48, ire := 96 }).updC fun c => { c with run := .blocked, fault := some itsFault }
theorem test_fault_reply_meets : (blocked.ctx home 0).c.gang = none ∧ (blocked.tile home).checked = false ∧ (blocked.ctx home 0).c.fault = some itsFault ∧
    (blocked.ctx home 0).c.held = [] ∧ itsFault.atFin = false ∧ itsFault.resend = none ∧ itsFault.cause ≠ 0x10 := by decide +kernel
theorem test_fault_replies : ([(0, 48), (1, 60), (2, 200), (3, 96)] : List (Nat × Word)).all (fun r =>
    let t := blocked.applyReply home 0 r.1 itsFault 200
    (t.ctx home 0).c.run == .ready && (t.ctx home 0).c.fault.isNone && (t.ctx home 0).r.pc == r.2 && decide (t.mem = blocked.mem)) = true := by decide +kernel
/-- R130: SKIP after the late refusal of `rop.fadd x6, va:[x9+0], x5` goes on at the stopped boundary. -/
theorem test_fault_reply_rop :
    ((blocked.applyReply home 0 1 { itsFault with src := 16, iword := 0x9E0000000182414000000A01 } 200).ctx home 0).r.pc = 48 := by decide +kernel

/-! ### Witnesses: accesses -/

/-- Bytes 0xF0 to 0xF7 at 64 of the scratchpad and of the tile store. -/
def bytes : Memory := (List.range 8).map fun i => (64 + i, BitVec.ofNat 8 (0xF0 + i))
def local_ : State := on user fun t => { t with pad := bytes, store := bytes }
theorem test_local_accesses_meet : local_.does plain none .u [(.x 9, .wx), (.x 5, .rx)] = true ∧
    local_.localReady 0 64 8 0 (.load 8 .zero (some 9)) = true ∧ local_.localReady 1 64 16 0 (.pair 10) = true ∧
    local_.localReady 1 64 8 0 (.runLoad (places local_ 9 2)) = true ∧ local_.localReady 0 64 1 0 (.store 1 5) = true ∧
    local_.localReady 0 64 16 0 (.store 16 5) = true ∧ local_.localReady 0 64 8 0 (.runStore [5, 6]) = true ∧
    local_.does plain none .u [(.x 10, .wpair), (.x 5, .rx)] = true ∧ local_.does plain none .u [(.x 9, .wx), (.x 5, .rx), (.x 10, .wrun 9)] = true ∧
    local_.does plain none .u [(.x 5, .rx), (.x 2, .rpair)] = true ∧ local_.does plain none .u [(.x 2, .rx), (.x 5, .rx), (.x 3, .rrun 2)] = true ∧
    local_.myTile.missing 64 8 = [] ∧ (local_.owner (ownerOf local_.cur)).proof.state ≠ 1 ∧ local_.isFresh = true ∧ local_.free_ = true ∧
    local_.myTile.vecOpen local_.curCtx = false := by decide +kernel
theorem test_local_loads : ([(.ldB, 0xFFFFFFFFFFFFFFF0), (.ldBu, 0xF0), (.ldH, 0xFFFFFFFFFFFFF1F0), (.ldHu, 0xF1F0), (.ldW, 0xFFFFFFFFF3F2F1F0),
      (.ldWu, 0xF3F2F1F0), (.ldD, 0xF7F6F5F4F3F2F1F0)] : List ((MDA → Instr) × Word)).all (fun r =>
      ends (exec (r.1 (mda 0 9 5)) local_) (fun t => t.rx 9 == r.2) && ends (exec (r.1 (mda 1 9 5)) local_) fun t => t.rx 9 == r.2) = true := by decide +kernel
theorem test_local_pairs_and_runs : ends (exec (.ldQ (mda 1 10 5)) local_) (fun t => t.rx 10 == 0xF7F6F5F4F3F2F1F0 && t.rx 11 == 0) = true ∧
    ends (exec (.ldm (mdab 1 9 5 10)) local_) (fun t => t.rx 9 == 0xF7F6F5F4F3F2F1F0 && t.rx 10 == 0) = true ∧
    ends (exec (.stQ (mab 0 5 2)) local_) (fun t => t.tileRead home 0 64 16 == 5 + 0xFFFFFFFFFFFFFFFE * 2 ^ 64) = true ∧
    ends (exec (.stm (mdab 0 3 5 2)) local_) (fun t => t.tileRead home 0 64 16 == 5 + 0xFFFFFFFFFFFFFFFE * 2 ^ 64) = true := by decide +kernel
theorem test_local_stores : ([(.stB, 1), (.stH, 2), (.stW, 4), (.stD, 8)] : List ((MAB → Instr) × Nat)).all (fun r =>
      ends (exec (r.1 (mab 1 5 3)) local_) fun t => t.tileRead home 1 64 r.2 == 2 ^ (8 * r.2) - 2 &&
        t.tileRead home 1 (64 + r.2) 8 == local_.tileRead home 1 (64 + r.2) 8 && t.tileRead home 0 64 8 == local_.tileRead home 0 64 8) = true := by
  decide +kernel
theorem test_local_address_faults : let m (sp : BitVec 2) (d : BitVec 20) : MDA :=
      { mda sp 9 5 with m := { disp := d, space := sp, order := 0, scope := 0, size := 0, rtn := 0 } }
    let cause (i : Instr) (c : BitVec 8) : Bool := ends (exec i user) fun t => t.me.c.fault.map (·.cause) == some c
    cause (.ldW (m 0 2)) 4 && cause (.ldW (m 3 1)) 4 && cause (.ldD (m 2 4)) 4 && cause (.ldW (m 0 0x7FC0)) 0x14 && cause (.ldD (m 1 0x5FFC0)) 0x14 &&
    cause (.ldB (m 0 0xFFFBF)) 0x14 && cause (.ldB (m 2 0xFFFBF)) 0x14 && !cause (.ldW (m 0 0x7FBC)) 0x14 = true := by decide +kernel

/-- Page 0 of owner 1 in the data TLB, its key loaded, the rows of four home slices, and a route to the next tile in route register 1. -/
def entry : TlbEntry :=
  { va := 0, lg := 21, frame := 0, key := 0, r := true, w := true, x := true, u := true, g := false, wch := false, mig := false, dirty := true }
def outward : State :=
  let s := on user fun t => { t with dtlb := [entry] }
  let s := s.updY fun y => { y with rts := [(1, mkRoute [0x21, 0x80])] }
  { (s.updForme 64 fun w => { w with anch := (List.range 4).map fun n => (n, { route := mkRoute [0xA0], tag := 0, valid := true }) }) with
    keys := [(0, { KeySlot.reset with loaded := true, owner := 1 })], imap := [(0, 1)] }
def reached (r : Reached) (p : Nat → Dest → Bool → Bool) : Bool := match r with
  | .at_ pa _ d _ w _ => p pa d w
  | _ => false
theorem test_global_reach : reached (outward.reach 64 false false) (fun pa d w => pa == 64 && d == .slice 0 && !w) = true ∧
    reached (outward.reach 4096 true true (scopeFits 2)) (fun pa d w => pa == 4096 && d == .slice 1 && !w) = true ∧
    reached ((on outward fun t => { t with dtlb := [{ entry with wch := true }] }).reach 64 true false) (fun _ _ w => w) = true ∧
    leaves outward 2 64 8 true false ∧ leaves outward 2 4096 16 true true := by unfold leaves; decide +kernel
theorem test_global_accesses_meet : (Instr.ldT { mda 2 10 5 with m := mt 2 2 0 0 1 }).wf = true ∧
    outward.does plain none .u [(.x 10, .wpair), (.x 5, .rx)] = true ∧ (Instr.ldS { mdab 2 10 5 3 with m := mt 2 2 0 0 1 }).wf = true ∧
    outward.does plain none .u [(.x 10, .wx), (.x 5, .rx), (.x 3, .rx)] = true ∧ outward.does plain none .u [(.x 5, .rx), (.x 3, .rx)] = true ∧
    outward.does plain none .u [(.x 5, .rx), (.x 2, .rpair)] = true := by decide +kernel
def sent (o : Out) (p : Flight → Bool) : Bool := ends o fun t => match t.flights with
  | [f] => p f && t.me.r.pc == 12
  | _ => false
theorem test_global_accesses : sent (exec (.ldW (mda 2 9 5)) outward) (fun f => f.dest == .slice 0 && f.addr == 64 && f.op == .load 4) = true ∧
    sent (exec (.stD (mab 2 4 3)) outward) (fun f => f.dest == .slice 1 && f.op == .store 8 0xFFFFFFFFFFFFFFFE && f.ret == .none) = true ∧
    sent (exec (.ldQ (mda 2 10 5)) outward) (fun f => f.op == .load 16 && f.ret == .pair 10) = true ∧
    sent (exec (.stQ (mab 2 5 2)) outward) (fun f => f.op == .store 16 (0xFFFFFFFFFFFFFFFE#64 ++ 5#64)) = true ∧
    sent (exec (.ldT { mda 2 10 5 with m := mt 2 2 0 0 1 }) outward) (fun f => f.op == .ldT) = true ∧
    sent (exec (.ldS { mdab 2 9 5 2 with m := mt 2 2 0 0 1 }) outward) (fun f => f.op == .ldS 5) = true := by decide +kernel
theorem test_watched_access_waits : let s := on outward fun t => { t with dtlb := [{ entry with wch := true }] }
    ends (exec (.ldW (mda 2 9 5)) s) (fun t => t.me.c.run == .waiting && t.me.r.pc == 0 && t.flights.length == 1) = true := by decide +kernel
def injected (n : Nat) (p : Nat → Bool) : Bool := match outward.injectReg n with
  | .ok (_, some k, _) => p k
  | _ => false
theorem test_remote_accesses_meet : injected 1 (· == home + 1) = true ∧ (match outward.injectReg 2 with
    | .error st => st == 7
    | _ => false) = true ∧ outward.acqHeld = false := by decide +kernel
theorem test_remote_accesses : sent (exec (.ldW { mda 3 9 5 with m := mt 3 0 0 1 0 }) outward) (fun f => f.dest == .tile (home + 1) && f.op == .load 4) = true ∧
    sent (exec (.stB { mab 3 5 3 with m := mt 3 0 0 1 0 }) outward) (fun f => f.dest == .tile (home + 1)) = true ∧
    sent (exec (.ldQ { mda 3 10 5 with m := mt 3 0 0 1 0 }) outward) (fun f => f.ret == .pair 10) = true ∧
    sent (exec (.stQ { mab 3 5 2 with m := mt 3 0 0 1 0 }) outward) (fun f => f.rtn == 1) = true ∧
    ends (exec (.ldW { mda 3 9 5 with m := mt 3 0 0 2 0 }) outward) (fun t => t.me.c.fault.map (fun q => (q.cause, q.detail)) == some (8, 7)) = true := by
  decide +kernel
theorem test_runs_meet : (match outward.reachRun false ((List.range 2).map fun i => 64 + 8 * i) [] with
      | .all l s1 => l.length == 2 && !l.any (fun e => e.watched) && (s1.raceRun false l).isNone
      | _ => false) = true ∧ (match outward.reachRun true ((List.range 2).map fun i => 64 + 8 * i) [] with
      | .all l s1 => l.length == 2 && !l.any (fun e => e.watched) && (s1.raceRun true l).isNone
      | _ => false) = true ∧ outward.myTile.watchAt 0 2 64 16 true false = none ∧ outward.myTile.watchAt 0 2 64 16 false true = none ∧
    outward.does plain none .u [(.x 9, .wx), (.x 5, .rx), (.x 10, .wrun 9)] = true ∧
    outward.does plain none .u [(.x 2, .rx), (.x 5, .rx), (.x 3, .rrun 2)] = true := by decide +kernel
theorem test_runs : let two (o : Out) (d : Dest) : Bool := ends o fun t => t.flights.map (fun f => (f.addr, f.dest)) == [(64, d), (72, d)]
    two (exec (.ldm (mdab 2 9 5 10)) outward) (.slice 0) && two (exec (.stm (mdab 2 3 5 2)) outward) (.slice 0) &&
    two (exec (.ldm { mdab 3 9 5 10 with m := mt 3 0 0 1 0 }) outward) (.tile (home + 1)) &&
    two (exec (.stm { mdab 3 3 5 2 with m := mt 3 0 0 1 0 }) outward) (.tile (home + 1)) = true := by decide +kernel

/-! ### Witnesses: tables, atomics, cells -/

theorem test_tag_table : let s := on user fun t => { t with tagTab := [(9, { valid := true, tag := 16 })] }
    s.does plain (some noTail) .u [(.x 9, .wx), (.x 4, .rx)] = true ∧ s.does plain (some noTail) .u [(.x 9, .wx), (.x 4, .rx), (.x 2, .rx)] = true ∧
    (s.rx 2).toNat < 64 ∧ 64 ≤ (s.rx 5).toNat ∧ s.does plain (some noTail) .u [(.x 4, .rx)] = true ∧
    ends (exec (.tlook (sda 9 4)) s) (fun t => t.rx 9 == 9) = true ∧ ends (exec (.tlook (sda 9 5)) s) (fun t => t.rx 9 == 0xFFFFFFFFFFFFFFFF) = true ∧
    ends (exec (.tset (sdab 9 4 2)) s) (fun t => t.rx 9 == 0 && (t.myTile.tagTab.get .reset 5).tag == 16) = true ∧
    ends (exec (.tset (sdab 9 4 5)) s) (fun t => t.me.c.fault.map (·.cause) == some 2) = true ∧
    ends (exec (.tinv (sda 9 4)) s) (fun t => t.rx 9 == 9 && !(t.myTile.tagTab.get .reset 9).valid) = true ∧
    ends (exec (.tclr (sa 3)) s) (fun t => !(t.myTile.tagTab.get .reset 9).valid) = true := by decide +kernel
/-- Entry 5: two sectors from sector 16, bound to the source 4096. -/
def bound : State := small .u [(2, 0x11005), (3, 0x20), (4, 4096), (5, 0x1100)]
theorem test_region_table_meets : bound.does plain (some noTail) .u [(.x 2, .rx), (.x 4, .rx)] = true ∧
    (bound.myTile.regTab.get .reset 5).filling = false ∧ bound.myTile.regTab.any (fun e => (bound.rx 3).getLsbD e.1 && e.2.filling) = false ∧
    (∀ i, i < 16 → i ≠ 5 → (bound.myTile.regTab.get .reset i).valid = true →
      18 ≤ (bound.myTile.regTab.get .reset i).start ∨ (bound.myTile.regTab.get .reset i).start + (bound.myTile.regTab.get .reset i).len ≤ 16) ∧
    (bound.rx 2).toNat / 2 ^ 8 % 128 = 16 ∧ (bound.rx 2).toNat / 2 ^ 16 % 128 + 1 = 2 := by decide +kernel
theorem test_region_table : ends (exec (.rgset (sab 2 4)) bound) (fun t => ends (exec (.rgq (sda 9 5)) t) (fun u => u.rx 9 == 256 + 5 * 16) &&
      ends (exec (.rgclr (sa 3)) t) (fun u => !(u.myTile.regTab.get .reset 5).valid)) = true ∧
    ends (exec (.rgq (sda 9 5)) bound) (fun u => u.rx 9 == 0) = true := by decide +kernel

def amo (sp sc : Nat) (d : BitVec 7) : MDAB := { h := plain, d := .x d, a := .x 5, b := .x 2, m := mt sp sc 0 (if sp == 3 then 1 else 0) 1 }
/-- Old value 0x1_0000_0006 and 5. -/
theorem test_context_atomics : let s := on outward fun t => { t with store := [(64, 6), (68, 1)] }
    s.does plain none .u [(.x 9, .wx), (.x 5, .rx), (.x 2, .rx)] = true ∧ s.localReady 1 64 8 0 (.amo .add 8 5 0 (some 9)) = true ∧
    ([(.amoAdd, 0x10000000B), (.amoAnd, 4), (.amoOr, 0x100000007), (.amoXor, 0x100000003), (.amoMin, 5), (.amoMax, 0x100000006), (.amoMinu, 5),
      (.amoMaxu, 0x100000006), (.amoXchg, 5), (.amoCas, 0x100000006)] : List ((MDAB → Instr) × Nat)).all (fun r =>
      ends (exec (r.1 (amo 1 0 9)) s) fun t => t.rx 9 == 0x100000006 && t.tileRead home 1 64 8 == r.2) = true := by decide +kernel
theorem test_float_atomics : let s := on (small .u [(5, 64), (2, 0x3F800000)]) fun t => { t with store := [(67, 0x40)] }
    let go (i : MDAB → Instr) (v : Nat) : Bool := ends (exec (i { amo 1 0 9 with m := mt 1 0 0 0 0 }) s) fun t => t.tileRead home 1 64 4 == v
    (go .amoFadd 0x40400000 && go .amoFmin 0x3F800000 && go .amoFmax 0x40000000 && go .amoBfadd2 0x40400000) = true := by decide +kernel
theorem test_sent_atomics_meet : outward.does plain none .u [(.x 9, .wx), (.x 5, .rx), (.x 2, .rx)] = true ∧ outward.isFresh = true ∧
    outward.acqHeld = false ∧ outward.myTile.vecOpen outward.curCtx = false ∧ outward.myTile.watchAt outward.curCtx 1 64 8 true true = none ∧
    clusterKey (home + 1) = clusterKey outward.cur ∧ leaves outward 2 64 8 true true := by unfold leaves; decide +kernel
theorem test_sent_atomics : sent (exec (.amoAdd (amo 1 1 9)) outward) (fun f => f.dest == .tile home && f.op == .amo .add 8 5 0) = true ∧
    sent (exec (.amoCas (amo 3 1 9)) outward) (fun f => f.dest == .tile (home + 1)) = true ∧
    sent (exec (.amoMax (amo 2 2 0)) outward) (fun f => f.dest == .slice 0 && f.ret == .none) = true ∧
    ends (exec (.amoMax (amo 2 3 9)) outward) (fun t => t.me.c.fault.map (·.cause) == some 0x0E) = true := by decide +kernel

def cell (d b : BitVec 7) : MDAB := { h := plain, d := .x d, a := .x 5, b := .x b, m := mt 2 2 0 0 1 }
def cellA (d : BitVec 7) : MDA := { h := plain, d := .x d, a := .x 5, m := mt 2 2 0 0 1 }
theorem test_cell_instructions_meet : outward.does plain none .u [(.x 9, .wx), (.x 5, .rx), (.x 8, .rx)] = true ∧ (outward.rx 8).toNat < 4 ∧
    outward.does plain none .u [(.x 10, .wpair), (.x 5, .rx)] = true ∧ leaves outward 2 64 8 true false ∧ outward.curCtx < 4 ∧
    outward.me.r.seq ≠ 0xFFFFF := by unfold leaves; decide +kernel
theorem test_cell_instructions : sent (exec (.rcell (cell 9 8)) outward) (fun f => f.op == .rcell 0) = true ∧
    sent (exec (.rfree (cellA 9)) outward) (fun f => f.op == .rfree) = true ∧ sent (exec (.rstat (cellA 10)) outward) (fun f => f.op == .rstat) = true ∧
    ends (exec (.ropFadd (cell 9 2)) outward) (fun t => t.flights.map (fun f => (f.op, f.stamp)) == [(.rop 0 5, 0)] && t.me.r.seq == 1) = true ∧
    blocks (exec (.ropSt (cell 9 2)) (regs outward fun r => { r with seq := 0xFFFFF })) 0x16 1 = true := by decide +kernel
def reissuer : State := outward.updC fun c => { c with level := .s }
theorem test_reissue : reissuer.does plain none .s [(.x 9, .wx), (.x 5, .rx), (.x 2, .rpair)] = true ∧
    sent (exec (.rreissue (cell 9 2)) reissuer) (fun f => f.stamp == 5 && f.op == .rreissue 0xFFFFFFFFFFFFFFFE) = true ∧
    ends (exec (.rreissue (cell 9 2)) (reissuer.wx 2 0x100000)) (fun t => t.rx 9 == 5 && t.flights.length == 0) = true := by decide +kernel
/-- A cell of kind 3 with one stamp, and an operation of its owner with stamp 9. -/
def aCell : Cell := { kind := 3, base := 0, owner := 1, hist := [(7, 5)], lastfold := none }
def celled (c : Cell) : State := { State.reset with slices := [(0, { Slice.reset with cells := [(8, some c)] })] }
def flying : Flight :=
  { id := 4, src := home, ctx := 0, owner := 1, level := .u, dest := .slice 0, addr := 64, va := 64, op := .rop 3 6, ret := .none, stage := .home 2,
    route := 0, stamp := 9, twin := false, key := 0, isLoad := false, isStore := true, release := false, acquire := false, watched := false, region := 0,
    mark := [], seen := [], slot := 0, scope := 0, eng := none, part := 0, data := [], pc := 0, iword := 0, rtn := 0, resent := none, born := 1 }
def appliedTo (c : Cell) (f : Flight) (p : Bool → State → Bool) : Bool := match (celled c).applyStamped f with
  | .done t _ _ => p true t
  | .refuse t c _ => p (c == 0) t
  | _ => false
theorem test_stamped_meets : (celled aCell).cellAt 64 = some aCell ∧ aCell.owner = flying.owner ∧ aCell.kind = 3 ∧ aCell.hist.all (fun e => e.1 != flying.stamp) = true ∧
    aCell.lastfold ≠ some flying.stamp ∧ ¬ (flying.stamp.toNat / 2 ^ 40 < ((celled aCell).slice 0).wmark.get 0 1) ∧ aCell.hist.length ≠ 15 ∧
    ((celled aCell).slice 0).poolFree ≠ 0 := by decide +kernel
theorem test_stamped : appliedTo aCell flying (fun ok t => ok && (t.cellAt 64).map (·.hist) == some [(7, 5), (9, 6)]) = true ∧
    appliedTo aCell { flying with stamp := 7 } (fun ok t => ok && (t.slice 0).dups.get 0 1 == 1) = true ∧
    appliedTo { aCell with hist := (List.range 15).map fun n => (BitVec.ofNat 64 n, 0) } { flying with stamp := 20 }
      (fun ok t => !ok && (t.slice 0).ovf.get 0 1 == 1) = true := by decide +kernel

/-! ### Witnesses: barrier objects, groups, lines, trees -/

/-- A barrier object at 64 with generation 3, expect 2 and so many pending. -/
def object (pend : Nat) : State := user.tileWrite home 0 64 16 (3 * 2 ^ 28 + 2 * 4096 + pend)
def held_ : State := on (object 1) fun t => { t with barWait := [{ off := 64, ctx := some (partyOf home 0), flight := 0 }] }
theorem test_barrier_object_meets : ((object 2).tile home).barFresh.contains 64 = false ∧ ((object 2).tile home).pad.wf = true ∧
    ((object 2).barObj home 64).pend = 2 ∧ ((object 1).barObj home 64).insec = 0 ∧ ((object 1).barObj home 64).outsec = 0 ∧
    ((object 0).barObj home 64).err = false ∧ ((object 0).barObj home 64).pend = 0 ∧
    ((user.tileWrite home 0 64 16 (4095 * 4096)).barObj home 64).expect = 4095 := by decide +kernel
theorem test_barrier_object : let word (s : State) : Nat := s.tileRead home 0 64 4
    word ((object 2).barArrive home 64).2.1 = 3 * 2 ^ 28 + 2 * 4096 + 1 ∧ word ((object 1).barArrive home 64).2.1 = 4 * 2 ^ 28 + 2 * 4096 + 2 ∧
    word ((object 0).barArrive home 64).2.1 = 3 * 2 ^ 28 + 2 ^ 27 + 2 * 4096 ∧ word ((object 1).barJoin home 64).1 = 3 * 2 ^ 28 + 3 * 4096 + 2 ∧
    ((user.tileWrite home 0 64 16 (4095 * 4096)).barJoin home 64).2 = false := by decide +kernel
theorem test_barrier_waiter : (match (((held_.barArrive home 64).2.1).ctx home 0).c.phase with
    | .granted v => v.toNat % 2 ^ 32 == 3 * 2 ^ 28 + 2 * 4096
    | _ => false) = true ∧ (((held_.barArrive home 64).2.1).tile home).barWait = [] := by decide +kernel

def bar (d : BitVec 7) : MDA := mda 0 d 5
def barG (d b : BitVec 7) : MDAB := mdab 0 d 5 b
theorem test_barrier_instructions_meet : (∀ w, barReady (object 2) 64 w) ∧ (object 2).does plain none .u [(.x 5, .rx), (.x 2, .rx)] = true ∧
    (object 2).quietBut home 64 = true ∧ (object 2).does plain none .u [(.x 9, .wx), (.x 5, .rx)] = true ∧ (object 2).myTile.barWait = [] ∧
    (object 2).does plain none .u [(.x 9, .wx), (.x 5, .rx), (.x 2, .rx)] = true ∧ (object 2).does plain none .u [(.x 10, .wpair), (.x 5, .rx)] = true ∧
    (object 2).me.c.phase = .fresh := by unfold barReady; decide +kernel
theorem test_barrier_instructions : ends (exec (.barInit (mab 0 5 2)) (object 2)) (fun t => t.tileRead home 0 64 16 == 5 * 4097) = true ∧
    ends (exec (.barArr (bar 9)) (object 2)) (fun t => t.rx 9 == 3 * 2 ^ 28 + 2 * 4096 + 2 && t.tileRead home 0 64 1 == 1) = true ∧
    ends (exec (.barWait (barG 9 2)) (object 2)) (fun t => t.rx 9 == 3 * 2 ^ 28 + 2 * 4096 + 2 && t.me.r.pc == 12) = true ∧
    ends (exec (.barWait (barG 9 10)) ((object 2).wx 10 3)) (fun t => t.me.c.run == .waiting && t.me.r.pc == 0) = true ∧
    ends (exec (.barArw (bar 9)) (object 2)) (fun t => t.me.c.run == .waiting && t.tileRead home 0 64 1 == 1) = true ∧
    ends (exec (.barArw (bar 9)) (object 1)) (fun t => t.me.r.pc == 12 && t.tileRead home 0 64 4 == 4 * 2 ^ 28 + 2 * 4096 + 2) = true ∧
    ends (exec (.barSt (bar 10)) (object 2)) (fun t => t.rx 10 == 3 * 2 ^ 28 + 2 * 4096 + 2 && t.rx 11 == 0) = true := by decide +kernel
/-- An instruction that waited and is answered with v. -/
def granted (s : State) (v : BitVec 128) : State := s.updC fun c => { c with phase := .granted v }
theorem test_answered_barriers : ([.barArr (bar 9), .barArw (bar 9), .barWait (barG 9 2)] : List Instr).all (fun i =>
    ends (exec i (granted (object 2) 77)) fun t => t.rx 9 == 77 && t.me.r.pc == 12) = true := by decide +kernel

/-- Object number 4 is at 64. -/
def member (arrived : Bool) : Member := { op := 4, route := 0, gen := 3, arrived := arrived }
def joined : State := (object 2).updY fun y => { y with members := [member false] }
theorem test_groups_meet : (object 2).does plain (some noTail) .u [(.x 9, .wx), (.x 10, .rx)] = true ∧ (object 2).isFresh = true ∧
    (object 2).allQuiet = true ∧ (object 2).myTile.vecOpen 0 = false ∧ joined.me.y.members.find? (fun q => q.op == 4) = some (member false) ∧
    joined.does plain none .u [(.x 9, .wx)] = true ∧ (object 2).myTile.watchAt 0 0 64 16 true true = none := by decide +kernel
theorem test_groups : ends (exec (.gjoinImm (idI 4)) (object 2)) (fun t => t.rx 2 == 0 && t.me.y.members.map (·.op) == [4] &&
      t.tileRead home 0 64 4 == 3 * 2 ^ 28 + 3 * 4096 + 3) = true ∧
    ends (exec (.gjoin (sda 9 10)) (joined.wx 10 4)) (fun t => t.rx 9 == 1) = true ∧
    ends (exec (.gleave (sda 9 10)) (joined.wx 10 4)) (fun t => t.rx 9 == 0 && t.me.y.members == [] && t.tileRead home 0 64 2 == 4096 + 1) = true ∧
    ends (exec (.gleaveImm (idI 4)) (object 2)) (fun t => t.rx 2 == 1) = true ∧
    ends (exec (.gjoinImm (idI 4)) ((object 2).updY fun y => { y with members := (List.range 8).map fun n => { member false with op := BitVec.ofNat 16 (n + 8) } }))
      (fun t => t.rx 2 == 2) = true := by decide +kernel

/-- Barrier line 1 expects two; mutex 16 is held by this context; latch 32 is set. -/
def lined : State :=
  ((user.setLine (clusterKey home) 1 { EvLine.reset with expected := 2 }).setLine (clusterKey home) 16
    { EvLine.reset with holder := some (partyOf home 0) }).setLine (clusterKey home) 32 { EvLine.reset with latch := true }
def evw (n : BitVec 20) : MDA := { h := plain, d := .x 9, a := .x 0, m := { mt 0 0 0 0 0 with disp := n } }
theorem test_lines_meet : evsigWordOk (2 * 16384 + 3 * 65536 + 1) = true ∧ evsigWordOk 1 = true ∧ evsigWordOk 40 = true ∧ evsigWordOk (16384 + 16) = true ∧
    lined.does plain (some noTail) .u [(.x 2, .rx)] = true ∧ lined.does plain none .u [] = true ∧
    lined.does plain none .u [(.x 9, .wx), (.x 0, .rx)] = true ∧ lined.isFresh = true ∧ (eaOf lined (.x 0) (evw 64).m).toNat = 64 ∧
    (lined.line (clusterKey home) 17).holder = none := by decide +kernel
theorem test_line_signals : ends (exec (.evsigImm (i0 (BitVec.ofNat 32 (2 * 16384 + 3 * 65536 + 1)))) lined) (fun t =>
      (t.line (clusterKey home) 1).expected == 3) = true ∧
    ends (exec (.evsig (sa 10)) (lined.wx 10 1)) (fun t => (t.line (clusterKey home) 1).count == 1) = true ∧
    ends (exec (.evsigImm (i0 40)) lined) (fun t => (t.line (clusterKey home) 40).latch) = true ∧
    ends (exec (.evsigImm (i0 (BitVec.ofNat 32 (16384 + 16)))) lined) (fun t => (t.line (clusterKey home) 16).holder == none) = true ∧
    ends (exec (.evsigImm (i0 (BitVec.ofNat 32 (16384 + 17)))) lined) (fun t => t.me.c.fault.map (·.cause) == some 6) = true := by decide +kernel
theorem test_line_waits : let s := lined.setLine (clusterKey home) 2 { EvLine.reset with expected := 2, count := 1 }
    ends (exec (.evw (evw 1)) s) (fun t => t.me.c.run == .waiting && (t.line (clusterKey home) 1).count == 1) = true ∧
    ends (exec (.evw (evw 2)) s) (fun t => t.rx 9 == 1 && (t.line (clusterKey home) 2).count == 0) = true ∧
    ends (exec (.evw (evw 16)) s) (fun t => t.me.c.run == .waiting) = true ∧
    ends (exec (.evw (evw 17)) s) (fun t => t.rx 9 == 1 && (t.line (clusterKey home) 17).holder == some (partyOf home 0)) = true ∧
    ends (exec (.evw (evw 32)) s) (fun t => t.rx 9 == 1 && !(t.line (clusterKey home) 32).latch) = true ∧
    ends (exec (.evw (evw 33)) s) (fun t => t.me.c.run == .waiting) = true ∧
    ends (exec (.evw (evw 64)) s) (fun t => t.me.c.fault.map (·.cause) == some 0x14) = true ∧
    ends (exec (.evw (evw 1)) (granted s 1)) (fun t => t.rx 9 == 1 && t.me.r.pc == 12) = true := by decide +kernel

/-- Context 0 of the tile takes part in tree 3 of owner 1. -/
def treed : State := { (on user fun t => { t with parts := [(3, 1)] }) with trees := [(3, some 1)] }
theorem test_trees_meet : treed.isFresh = true ∧ treed.treeOwner 3 = ownerOf treed.cur ∧ (treed.partSet treed.cur 3).getLsbD treed.curCtx = true ∧
    treed.free_ = true ∧ treed.stampedOpen treed.cur treed.curCtx = false ∧ treed.does plain none .u [(.x 9, .wx), (.x 5, .rx)] = true ∧
    (treed.rx 5).toNat % 32 = 0 ∧ treed.me.c.level ≠ .m ∧ treed.treeOwner 4 ≠ ownerOf treed.cur := by decide +kernel
theorem test_tree_barriers : ends (exec (.gbar { h := plain, d := .x 9, imm := 3 }) treed) (fun t =>
      t.me.c.run == .waiting && (t.myTile.arrivals.get .reset 3).ctxs == 1 && (t.myTile.arrivals.get .reset 3).ss == 0) = true ∧
    ends (exec (.gbarSs (ida 9 5 0x43)) treed) (fun t => t.me.c.run == .waiting && (t.myTile.arrivals.get .reset 3).ss == 1) = true ∧
    ends (exec (.gbar { h := plain, d := .x 9, imm := 4 }) treed) (fun t => t.me.c.fault.map (·.cause) == some 6) = true ∧
    ends (exec (.gbar { h := plain, d := .x 9, imm := 60 }) treed) (fun t => t.me.c.fault.map (·.cause) == some 3) = true ∧
    ends (exec (.gbar { h := plain, d := .x 9, imm := 3 }) (granted treed 7)) (fun t => t.rx 9 == 7) = true ∧
    ends (exec (.gbarSs (ida 9 5 0x43)) (granted treed 7)) (fun t => t.rx 9 == 7) = true := by decide +kernel

/-! ### Witnesses: semaphores, tags, fences -/

def semaphores : State := on (user.setSem home 7 6) fun t => { t with tagbits := 0x30 }
theorem test_words_meet : semaphores.does plain (some noTail) .u [(.x 9, .wx), (.x 10, .rx)] = true ∧ semaphores.does plain none .u [(.x 2, .wx)] = true ∧
    semaphores.does plain (some noTail) .u [(.x 10, .rx)] = true ∧ semaphores.does plain none .u [] = true := by decide +kernel
theorem test_words : let s := semaphores
    let im (i : ID → Instr) (w : BitVec 32) (v : Word) : Bool := ends (exec (i (idI w)) s) fun t => t.rx 2 == v && t.me.r.pc == 12
    let rg (i : SDA → Instr) (w : Word) (v : Word) : Bool := ends (exec (i (sda 9 10)) (s.wx 10 w)) fun t => t.rx 9 == v && t.me.r.pc == 12
    im .semwtImm 0x507 6 && im .semrdImm 7 6 && im .semsetImm 0x907 6 && im .tagwaImm 0x21 0x20 && im .tagwlImm 0x30 0x30 && im .tagffImm 0x60 5 &&
    im .tagffImm 3 0xFFFFFFFFFFFFFFFF && rg .semwt 0x607 6 && rg .semrd 7 6 && rg .semset 0x907 6 && rg .tagwa 0x21 0x20 && rg .tagwl 0x30 0x30 &&
    rg .tagff 0x60 5 = true := by decide +kernel
theorem test_words_wait_or_fault : let go (i : Instr) (w : Word) (p : Ctx → Bool) : Bool := ends (exec i (semaphores.wx 10 w)) fun t => p t.me
    go (.semwt (sda 9 10)) 0x707 (·.c.run == .waiting) && go (.tagwa (sda 9 10)) 3 (·.c.run == .waiting) && go (.tagwl (sda 9 10)) 0x31 (·.c.run == .waiting) &&
    go (.semwt (sda 9 10)) 0x2000000 (fun c => c.c.fault.map (·.cause) == some 2) && go (.semrd (sda 9 10)) 256 (fun c => c.c.fault.map (·.cause) == some 2) &&
    go (.semset (sda 9 10)) 0x1000000 (fun c => c.c.fault.map (·.cause) == some 2) = true := by decide +kernel
theorem test_semaphore_effects : ends (exec (.semwtImm (idI 0x1000507)) semaphores) (fun t => t.sem home 7 == 1) = true ∧
    ends (exec (.semsetImm (idI 0x907)) semaphores) (fun t => t.sem home 7 == 9) = true ∧
    ends (exec (.semsgImm (i0 0x307)) semaphores) (fun t => t.sem home 7 == 9) = true ∧
    ends (exec (.semsg (sa 10)) (semaphores.wx 10 0xFFFF07)) (fun t => t.sem home 7 == 0xFFFF && t.me.c.fault.map (·.cause) == some 0x0F) = true ∧
    ends (exec (.tagclrImm (i0 0x10)) semaphores) (fun t => t.myTile.tagbits == 0x20) = true ∧
    ends (exec (.tagclr (sa 10)) (semaphores.wx 10 0x20)) (fun t => t.myTile.tagbits == 0x10) = true := by decide +kernel

/-- `semrd` and `semset` of semaphore 7 with a signal of 2 to it in their own tail act after the signal (R160). -/
theorem test_words_after_their_signal : let s := semaphores
    let t : STail := { noTail with sen := true, ssem := 7, sinc := 2 }
    ends (exec (.semrd { sda 9 10 with t := t }) (s.wx 10 7)) (fun t => t.rx 9 == 8 && t.sem home 7 == 8) = true ∧
    ends (exec (.semset { sda 9 10 with t := t }) (s.wx 10 0x907)) (fun t => t.rx 9 == 8 && t.sem home 7 == 9) = true ∧
    ends (exec (.semrd { sda 9 10 with t := t }) ((s.setSem home 7 0xFFFE).wx 10 7)) (fun t =>
      t.rx 9 == 0xFFFF && t.me.c.fault.map (·.cause) == some 0x0F) = true := by decide +kernel

/-- A load of the context is on its way; slot 1 covers it with serial 9. -/
def fencing : State :=
  { (outward.updY fun y => { y with fences := [(1, { serial := 9, used := true, upto := 5, ld := true, st := false, eng := false, scope := 3, lapsed := false })] }) with
    flights := [{ flying with op := .load 8, ret := .reg (some 9) 64 .zero, isLoad := true, isStore := false }], nextId := 5 }
theorem test_fences_meet : fencing.does plain none .u [(.x 9, .wx)] = false ∧ fencing.does plain none .u [(.x 10, .wx)] = true ∧
    fencing.fenceFree home 0 (fencing.me.y.fences.get .reset 0) = true ∧ fencing.fenceFree home 0 (fencing.me.y.fences.get .reset 1) = false ∧
    fencing.does plain (some noTail) .u [(.x 11, .rx)] = true ∧ (fencing.me.y.fences.get .reset 1).serial.toNat = (37 : Nat) / 4 := by decide +kernel
theorem test_fences : ends (exec (.fnc { h := plain, d := .x 10, imm := 4 }) fencing) (fun t => t.rx 10 == 0 && (t.me.y.fences.get .reset 0).upto == 6 && t.nextId == 6) = true ∧
    ends (exec (.fwait (sa 11)) (fencing.wx 11 37)) (fun t => t.me.c.run == .waiting) = true ∧
    ends (exec (.fwait (sa 11)) (fencing.wx 11 33)) (fun t => t.me.r.pc == 12) = true ∧
    ends (exec (.fwait (sa 11)) { (fencing.wx 11 37) with flights := [] }) (fun t => t.me.r.pc == 12) = true := by decide +kernel
def settle : MA := { h := plain, a := .x 5, m := mt 2 0 0 0 0 }
theorem test_settle : outward.does plain none .u [(.x 5, .rx)] = true ∧ (match outward.xlate home .data .u 64 false false with
      | .ok pa _ _ _ => pa == 64 && (destOf pa).map (·.1) == some (.slice 0)
      | _ => false) = true ∧
    ends (exec (.settle settle) outward) (fun t => t.me.r.pc == 12) = true ∧
    ends (exec (.settle settle) { outward with flights := [flying] }) (fun t => t.me.r.pc == 0) = true := by decide +kernel

/-! ### Witnesses: the vector engine -/

def vdab : SDAB := { h := plain, d := .v 3, a := .v 1, b := .v 2, t := noTail }
def vmab : SDAB := { h := plain, d := .vm 1, a := .vm 2, b := .vm 3, t := noTail }
def vda : SDA := { h := plain, d := .v 3, a := .v 1, t := noTail }
def vxa : SDA := { h := plain, d := .v 3, a := .x 2, t := noTail }
def vabx : SDAB := { h := plain, d := .v 3, a := .v 1, b := .x 2, t := noTail }
def vi : IDA := { h := plain, d := .v 3, a := .v 1, imm := 4 }
/-- The last command of the vector queue. -/
def vlast (o : Out) (p : VCmd → Bool) : Bool := ends o fun t => t.me.r.pc == 12 && (match t.myTile.vq with
  | [q] => p q
  | _ => false)
theorem test_vector_operands_meet : user.does plain (some noTail) .u [(.v 3, .v 0), (.v 1, .v 0), (.v 2, .v 0)] = true ∧
    user.does plain (some noTail) .u [(.v 4, .v 1), (.v 1, .v 0), (.v 2, .v 0)] = true ∧
    user.does plain (some noTail) .u [(.v 3, .v 2), (.v 1, .v 0), (.v 2, .v 0)] = true ∧
    user.does plain (some noTail) .u [(.vm 1, .vm), (.v 1, .v 0), (.v 2, .v 0)] = true ∧ user.does plain (some noTail) .u [(.vm 1, .vm), (.vm 2, .vm), (.vm 3, .vm)] = true ∧
    user.does plain (some noTail) .u [(.x 9, .wx), (.v 1, .v 0)] = true ∧ user.does plain (some noTail) .u [(.vm 1, .vm), (.vm 2, .vm)] = true ∧
    user.does plain (some noTail) .u [(.x 9, .wx), (.vm 1, .vm)] = true ∧ user.does plain none .u [(.v 3, .v 0), (.v 1, .v 0)] = true ∧
    user.does plain (some noTail) .u [(.v 3, .v 0), (.v 1, .v 0), (.x 2, .rx)] = true := by decide +kernel
theorem test_vector_scalar_operands_meet : user.does plain (some noTail) .u [(.v 3, .v 0), (.x 2, .rx)] = true ∧
    user.does plain none .u [(.v 3, .v 0)] = true ∧ user.does plain (some noTail) .u [(.x 9, .wx), (.v 1, .v 0), (.x 2, .rx)] = true ∧
    user.does plain none .u [(.x 9, .wx), (.v 1, .v 0)] = true ∧ user.does plain (some noTail) .u [(.v 3, .v 0), (.x 2, .rx), (.x 2, .rx)] = true ∧
    user.does plain none .u [(.v 3, .v 0), (.x 2, .rx)] = true ∧ user.does plain (some noTail) .u [(.v 1, .v 0), (.x 2, .rx)] = true ∧
    user.does plain none .u [(.v 1, .v 0)] = true ∧ user.does plain (some noTail) .u [(.x 9, .wx), (.x 2, .rx), (.vm 3, .vm)] = true ∧
    user.does plain none .u [(.x 9, .wx)] = true := by decide +kernel
theorem test_lane_commands : vlast (exec (.vaddI vdab) user) (fun q => q.op == .vaddI && q.d == 3 && q.a == 1 && q.b == 2 && q.vl == 32) = true ∧
    vlast (exec (.vmand vmab) user) (fun q => q.op == .vmand && q.d == 1) = true ∧ vlast (exec (.vabsF vda) user) (fun q => q.op == .vabsF) = true ∧
    vlast (exec (.vshlImm vi) user) (fun q => q.vb == 4) = true ∧ vlast (exec (.vcvt vabx) user) (fun q => q.vb == 5) = true ∧
    ends (exec (.vquant vabx) user) (fun t => t.me.c.fault.map (·.cause) == some 2) = true ∧
    ends (exec (.vaddI vdab) (on user fun t => { t with vq := (vqueued (vqueued user (vcmd user .vmov 0 0 0 0 0 0 none)) (vcmd user .vmov 0 0 0 0 0 0 none)).myTile.vq }))
      (fun t => t.me.r.pc == 0 && t.myTile.vq.length == 2) = true := by decide +kernel
theorem test_scalar_moves : vlast (exec (.vbcast vxa) user) (fun q => q.va == 5) = true ∧ vlast (exec (.viota vxa) user) (fun q => q.op == .viota) = true ∧
    vlast (exec (.mxrd vxa) user) (fun q => q.vb == 5) = true ∧ vlast (exec (.vbcastImm { h := plain, d := .v 3, imm := 7 }) user) (fun q => q.va == 7) = true ∧
    vlast (exec (.mxrdImm { h := plain, d := .v 3, imm := 7 }) user) (fun q => q.vb == 7) = true ∧
    vlast (exec (.vmovx { vabx with d := .x 9 }) user) (fun q => q.d == 9 && q.vb == 5) = true ∧
    vlast (exec (.vmovxImm { vi with d := .x 9 }) user) (fun q => q.vb == 4) = true ∧
    vlast (exec (.vmovv { vabx with a := .x 4 }) user) (fun q => q.va == 4096 && q.vb == 5) = true ∧
    vlast (exec (.vmovvImm { vi with a := .x 4 }) user) (fun q => q.va == 4096 && q.vb == 4) = true ∧
    vlast (exec (.mxwr { h := plain, a := .v 1, b := .x 2, t := noTail }) user) (fun q => q.vb == 5) = true ∧
    vlast (exec (.mxwrImm { h := plain, a := .v 1, imm := 6 }) user) (fun q => q.vb == 6) = true := by decide +kernel
theorem test_vector_length : ends (exec (.vsetvl { h := plain, d := .x 9, a := .x 2, b := .vm 3, t := noTail }) user) (fun t =>
      t.rx 9 == 5 + 0x300 && t.me.r.vl == 5 && t.me.r.msel == 3) = true ∧
    ends (exec (.vsetvlImm { h := plain, d := .x 9, imm := 0x20000 }) user) (fun t => t.rx 9 == 32 + 0x200 + 0x10000 && t.me.r.vl == 32) = true ∧
    ends (exec (.vsetvlImm { h := plain, d := .x 9, imm := 0xFFFF }) user) (fun t => t.rx 9 == 32) = true := by decide +kernel

def vld : MDA := { h := plain, d := .v 3, a := .x 5, m := mt 0 0 0 0 0 }
def vldb (b : Opnd) : MDAB := { h := plain, d := .v 3, a := .x 5, b := b, m := mt 1 0 0 0 0 }
theorem test_lanes_meet (sp : BitVec 2) (h : sp = 0 ∨ sp = 1) (f : Nat → Word)
    (hf : f = (fun i => 64 + BitVec.ofNat 64 (4 * i)) ∨ f = (fun i => 64 + BitVec.ofNat 64 i * user.rx 5) ∨ f = indexAt user 64 1) :
    lanesOk user sp true f := by
  have all : ∀ g ∈ [(fun i => 64 + BitVec.ofNat 64 (4 * i)), (fun i => 64 + BitVec.ofNat 64 i * user.rx 5), indexAt user 64 1],
      (List.range 32).all (fun i => (g i).toNat % 4 == 0 && decide ((g i).toNat + 4 ≤ limitOf sp)) = true := by
    rcases h with rfl | rfl <;> simp only [List.forall_mem_cons] <;> refine ⟨?_, ?_, ?_, by simp⟩ <;> decide +kernel
  refine ⟨by decide +kernel, ?_, fun _ => by decide +kernel, fun _ => by decide +kernel, fun i hi => ?_⟩
  · rcases h with rfl | rfl <;> decide
  · have := List.all_eq_true.mp (all f (by rcases hf with rfl | rfl | rfl <;> simp)) i (by simpa using hi.1)
    simpa using this
theorem test_vector_accesses : vlast (exec (.vld vld) user) (fun q => q.op == .vld && q.va == 64 && q.vb == 4 && q.space == 0) = true ∧
    vlast (exec (.vlds (vldb (.x 5))) user) (fun q => q.op == .vlds && q.vb == 64) = true ∧
    vlast (exec (.vldx (vldb (.v 1))) user) (fun q => q.op == .vldx && q.b == 1) = true ∧
    vlast (exec (.vst { h := plain, a := .x 5, b := .v 3, m := mt 1 0 0 0 0 }) user) (fun q => q.op == .vst && q.b == 3) = true ∧
    vlast (exec (.vsts { h := plain, d := .x 5, a := .x 5, b := .v 3, m := mt 1 0 0 0 0 }) user) (fun q => q.op == .vsts && q.vb == 64) = true ∧
    vlast (exec (.vstx { h := plain, d := .v 1, a := .x 5, b := .v 3, m := mt 1 0 0 0 0 }) user) (fun q => q.op == .vstx && q.d == 1) = true ∧
    ends (exec (.vld { vld with a := .x 2 }) user) (fun t => t.me.c.fault.map (fun q => (q.cause, q.detail)) == some (4, 0)) = true := by decide +kernel

/-- The lanes 7, 8, 9, … in v1 and 1, 1, 1, … in v2; a command on them is at the head of the queue, of vector length 3. -/
def lanes (f : Nat → Nat) : BitVec 1024 := BitVec.ofNat 1024 ((List.range 32).foldl (fun a i => a + f i * 2 ^ (32 * i)) 0)
def vecs : State := on user fun t => { t with vr := [(1, lanes (· + 7)), (2, lanes fun _ => 1), (3, lanes fun _ => 100)], store := bytes }
def engine (op : VOp) : State := vqueued vecs { vcmd vecs op 3 1 2 64 4 1 none with vl := 3 }
theorem test_engine_meets : (engine .vaddI).turn.phase ≠ .shift ∧ ((engine .vaddI).tile home).fenced = false ∧
    ((engine .vaddI).ctx home 0).c.saving = false ∧ ((engine .vaddI).tile home).vPoison = [] ∧ ((engine .vaddI).tile home).store.wf = true ∧
    (List.range 3).all (fun i => (engine .vld).tilePoison home 1 (64 + 4 * i) 4 == none) = true ∧ actsOn (engine .vld) home (vcmd vecs .vld 3 1 2 64 4 1 none) 3 = true := by
  decide +kernel
theorem test_engine_lanes : let lane (op : VOp) (i : Nat) : Nat := (match exec (.vectorInstructionExecute home) (engine op) with
      | .next t => (laneOf ((t.tile home).vr.get 0 3) i).toNat
      | _ => 0)
    [lane .vaddI 0, lane .vaddI 2, lane .vaddI 3, lane .vsubI 1, lane .vshl 0, lane .vperm 0, lane .viota 2, lane .vminI 0] = [8, 10, 100, 7, 14, 8, 66, 1] ∧
    lane .vld 0 = 0xF3F2F1F0 ∧ lane .vld 3 = 100 := by decide +kernel
theorem test_engine_stores : ends (exec (.vectorInstructionExecute home) (engine .vst)) (fun t =>
    t.tileRead home 1 64 4 == 1 && t.tileRead home 1 72 4 == 1 && t.tileRead home 1 76 4 == 0 && (t.tile home).vq.length == 0) = true := by decide +kernel
def adding : State :=
  vqueued (on user fun t => { t with vr := [(1, lanes fun _ => 0x3F800000), (2, lanes fun _ => 0x40000000)] }) (vcmd user .vaddF 3 1 2 0 0 0 none)
theorem test_engine_adds_fp32 : ends (exec (.vectorInstructionExecute home) adding) (fun t => laneOf ((t.tile home).vr.get 0 3) 31 == 0x40400000) = true := by
  decide +kernel

/-! ### Witnesses: the engines -/

/-- A record from its fields: offset and value. -/
def rec_ (l : List (Nat × Nat)) : BitVec 512 := BitVec.ofNat 512 (l.foldl (fun a e => a + e.2 * 2 ^ (8 * e.1)) 0)
/-- ZERO of accumulator 1 with tag 5, and a COPY of 512 bytes within the tile store from 0 to 4096 with tag 6. -/
def zeroRec : BitVec 512 := rec_ [(0, 4), (2, 1), (8, 0x85)]
def copyRec : BitVec 512 := rec_ [(0, 1), (8, 0x86), (0x0C, 2 ^ 62), (0x18, 2 ^ 62 + 4096), (0x24, 512), (0x28, 1)]
def recorded (b : BitVec 512) : State :=
  on (small .u ((5, 128) :: (6, 0x7FE0) :: (7, 0x8000) :: (List.range 8).map fun i => (16 + i, b.extractLsb' (64 * i) 64))) fun t =>
    { t with pad := Memory.writeN [] 128 64 b.toNat }
theorem test_pushes_meet : pushFree (recorded zeroRec) ∧ recordAt (recorded zeroRec) 128 ∧ (recorded zeroRec).myTile.mxFull = false ∧
    (recorded copyRec).myTile.cpFull = false ∧ recBarOk copyRec 0x34 = none ∧ recordBits (recorded copyRec) 128 = copyRec ∧
    registerBits (recorded copyRec) 16 = copyRec ∧ (recorded copyRec).does plain (some noTail) .u [(.x 5, .rx)] = true ∧
    (recorded copyRec).does plain (some noTail) .u [(.x 16, .roct)] = true ∧ cpBad copyRec .u false = 0 ∧ cpKind copyRec ≠ 6 := by
  unfold pushFree recordAt; decide +kernel
theorem test_matrix_pushes : ([.mxq (sa 5), .mxqr (sa 16)] : List Instr).all (fun i => ends (exec i (recorded zeroRec)) fun t =>
      t.myTile.mq.map (fun q => (q.bits, q.started)) == [(zeroRec, false)] && t.me.r.pc == 12) = true ∧
    ends (exec (.mxq (sa 6)) (recorded zeroRec)) (fun t => t.me.c.fault.map (·.cause) == some 4) = true ∧
    ends (exec (.mxq (sa 7)) (recorded zeroRec)) (fun t => t.me.c.fault.map (·.cause) == some 0x14) = true := by decide +kernel
theorem test_copy_pushes : ([.cpq (sa 5), .cpqr (sa 16)] : List Instr).all (fun i => ends (exec i (recorded copyRec)) fun t =>
      t.myTile.cq.map (fun q => (q.bits, q.total, q.ended)) == [(copyRec, 2, none)] && t.me.r.pc == 12) = true ∧
    ends (exec (.cpq (sa 5)) (recorded 0)) (fun t => t.myTile.cq.map (fun q => q.ended.map (·.1)) == [some 0x20]) = true := by decide +kernel
theorem test_engine_status : let s := on user fun t => { t with tagbits := 0x20, tagerr := 0x20, tagst := [(5, 7)] }
    s.does plain (some noTail) .u [(.x 9, .wx), (.x 2, .rx)] = true ∧ s.does plain (some noTail) .u [(.x 9, .wx)] = true ∧
    ends (exec (.eqst (sda 9 2)) s) (fun t => t.rx 9 == 3 * 2 ^ 32 + 7) = true ∧
    ends (exec (.eqst (sda 9 5)) s) (fun t => t.me.c.fault.map (·.cause) == some 2) = true ∧
    ends (exec (.mxwm (sda 9 8)) s) (fun t => t.rx 9 == 16) = true ∧ ends (exec (.mxwm (sda 9 2)) s) (fun t => t.me.c.fault.map (·.cause) == some 2) = true ∧
    ends (exec (.mxcap (sd 9)) s) (fun t => t.rx 9 == 10000 * 2 ^ 40 + 96 * 2 ^ 24 + 16 * 2 ^ 16 + 16 * 2 ^ 8 + 3) = true ∧
    ends (exec (.mxgateImm (i0 77)) s) (fun t => t.myTile.mx.gateNext == 77) = true ∧
    ends (exec (.mxgate (sa 2)) s) (fun t => t.myTile.mx.gateNext == 5) = true ∧
    ends (exec (.cpkillImm (i0 64)) s) (fun t => t.me.r.pc == 12) = true ∧ ends (exec (.cpkill (sa 2)) s) (fun t => t.me.r.pc == 12) = true := by decide +kernel

/-- A matrix command at the head of the queue, with FP32 3.0 in accumulator 1, row 0, column 2. -/
def mcmd (b : BitVec 512) : MCmd :=
  { cap := user.capture.1, bits := b, gen := 0, waited := false, started := false, stopped := false, counted := false, flags := 0, range := false, low := none,
    sig := none, fresh := false, asked := none, got := [], failed := none }
def mxWith (b : BitVec 512) : State := on user fun t => { t with mq := [mcmd b], mx := { t.mx with acc := [(258, 0x40400000), (2, 0x40400000)] } }
theorem test_matrix_zero_and_mode : mxReady (mxWith zeroRec) home (mcmd zeroRec) [] 4 ∧
    ends (exec (.zero home) (mxWith zeroRec)) (fun t => t.myTile.mx.el 1 0 2 == 0 && t.myTile.mx.el 0 0 2 == 0x40400000 && t.myTile.tagbits == 0x20 &&
      t.myTile.mq.length == 0) = true ∧
    mxReady (mxWith (rec_ [(0, 7), (2, 9)])) home (mcmd (rec_ [(0, 7), (2, 9)])) [] 7 ∧
    ends (exec (.rnsmode home) (mxWith (rec_ [(0, 7), (2, 9)]))) (fun t => t.myTile.mx.rns == 2 && t.myTile.mx.el 1 0 2 == 0) = true := by
  unfold mxReady; decide +kernel
/-- LOADW of BF16 rows from 0, LOADACC of one FP32 row from 1024 into accumulator 1, and STREAM of one BF16 row from 512. -/
def loadwRec : BitVec 512 := rec_ [(0, 1), (0x18, 2 ^ 62), (0x20, 32)]
def loadaccRec : BitVec 512 := rec_ [(0, 6), (1, 5), (2, 1), (0x0C, 2 ^ 62 + 1024), (0x14, 64), (0x24, 1)]
def streamRec : BitVec 512 := rec_ [(0, 2), (2, 1), (0x0C, 2 ^ 62 + 512), (0x14, 32), (0x24, 1)]
def mmaRec : BitVec 512 := rec_ [(0, 3), (2, 1), (0x0C, 2 ^ 62 + 512), (0x14, 32), (0x18, 2 ^ 62), (0x20, 32), (0x24, 1), (0x26, 1)]
def storeRec : BitVec 512 := rec_ [(0, 5), (1, 0x50), (2, 1), (0x24, 1), (0x2C, 2 ^ 62 + 1024), (0x34, 64)]
/-- 2.0 in BF16 at column 3 of row 0 of the weights, 1.0 in BF16 as activation 0, and FP32 1.5 at 1032. -/
def rows (b : BitVec 512) : State := on (mxWith b) fun t => { t with store := [(7, 0x40), (512, 0x80), (513, 0x3F), (1034, 0xC0), (1035, 0x3F)] }
theorem test_matrix_loads : mxReady (rows loadwRec) home (mcmd loadwRec) [] 1 ∧ mxReady (rows loadaccRec) home (mcmd loadaccRec) [] 6 ∧
    ends (exec (.loadw home) (rows loadwRec)) (fun t => t.myTile.mx.w 0 3 == 0x4000 && t.myTile.mx.w 0 2 == 0 && t.myTile.mq.map (fun q => mxRow q.bits) == [1]) = true ∧
    ends (exec (.loadacc home) (rows loadaccRec)) (fun t => t.myTile.mx.el 1 0 2 == 0x3FC00000 && t.myTile.mx.el 0 0 2 == 0x40400000 && t.myTile.mq.length == 0) = true := by
  unfold mxReady; decide +kernel
theorem test_matrix_rows_meet : rowFine (rows loadwRec) home loadwRec 0 0x18 0x20 0 0 ∧ rowFine (rows loadaccRec) home loadaccRec 5 0x0C 0x14 0 0 ∧
    rowFine (rows streamRec) home streamRec 0 0x0C 0x14 0 (blockAt streamRec) ∧ rowFine (rows mmaRec) home mmaRec 0 0x0C 0x14 0 (blockAt mmaRec) ∧
    (∀ j, j < 16 → rowFine (rows mmaRec) home mmaRec 0 0x18 0x20 (16 * mxBlock mmaRec + j) 0) ∧ rowInside storeRec 5 0x2C 0x34 0 0 ∧
    mxFb loadwRec = 0 ∧ mxFa loadaccRec = 5 ∧ mxM loadaccRec = 1 ∧ mxFa streamRec = 0 ∧ mxM streamRec = 1 ∧ mxFa mmaRec = 0 ∧ mxFb mmaRec = 0 ∧
    mxM mmaRec = 1 ∧ mxK mmaRec = 1 ∧ mxBlock mmaRec = 0 ∧ mxFb storeRec = 5 ∧ mxM storeRec = 1 ∧ (rows storeRec |>.tile home).store.wf = true := by
  unfold rowFine rowInside; decide +kernel
/-- 3.0 + 1.0 × 2.0 with the weights in the latch, and after MMA's own LOADW. -/
theorem test_matrix_products : mxReady (rows streamRec) home (mcmd streamRec) [] 2 ∧ mxReady (rows mmaRec) home (mcmd mmaRec) [] 3 ∧
    mxReady (rows storeRec) home (mcmd storeRec) [] 5 ∧ mxClr streamRec = false ∧
    ends (exec (.stream home) (on (rows streamRec) fun t => { t with mx := { t.mx with latch := [(2, 0x4000)] } })) (fun t =>
      t.myTile.mx.el 1 0 2 == 0x40A00000 && t.myTile.mx.el 0 0 2 == 0x40400000) = true ∧
    ends (exec (.mma home) (rows mmaRec)) (fun t => t.myTile.mx.el 1 0 3 == 0x40000000 && t.myTile.mx.w 0 3 == 0x4000) = true ∧
    ends (exec (.store home) (rows storeRec)) (fun t => t.tileRead home 1 1032 4 == 0x40400000 && t.tileRead home 1 0 8 == 0x40 * 2 ^ 56) = true := by
  unfold mxReady; decide +kernel

def ccmd (b : BitVec 512) : CCmd :=
  { cap := user.capture.1, bits := b, gen := 0, base := 0, srcRoute := 0, dstRoute := 0, waited := false, started := false, stopped := false, counted := false,
    rwait := false, radd := false, units := [], next := 0, done := 0, flying := [], olds := [], total := 2, index := none, ended := none, flags := 0, low := none, sig := none }
def copying (q : CCmd) : State := on user fun t => { t with cq := [q], store := (List.range 8).map fun i => (i, BitVec.ofNat 8 (i + 1)) }
def sector0 : Sect := { n := 0, src := [.here 1 0 256], dst := [.here 1 4096 256], aux := [], got := [], sent := false }
def flyingCopy : CCmd := { ccmd copyRec with waited := true, started := true, next := 1, flying := [sector0] }
theorem test_copy_meets : cpFree (copying (ccmd copyRec)) home ∧ cpKind copyRec = 1 ∧ recWait copyRec = none ∧ cpSrc copyRec / 2 ^ 62 = 1 ∧
    cpDst copyRec / 2 ^ 62 = 1 ∧ cpLen copyRec = 512 ∧ ((copying flyingCopy).tile home).cpBehind home user.nextId 0 sector0 = false ∧
    (copying flyingCopy).tilePoison home 1 0 256 = none ∧ recBarOk copyRec 0x0A = none ∧ ((copying flyingCopy).tile home).store.wf = true ∧
    ((copying (ccmd copyRec)).ctx home 0).c.saving = false ∧ ((copying flyingCopy).tile home).cpFlying < 16 := by unfold cpFree; decide +kernel
theorem test_copy_steps : ends (exec (.copy home) (copying (ccmd copyRec))) (fun t => t.myTile.cq.map (·.started) == [true]) = true ∧
    ends (exec (.copySectorIssue home) (copying { ccmd copyRec with waited := true, started := true })) (fun t => t.myTile.cq.map (·.flying) == [[sector0]]) = true ∧
    ends (exec (.copySectorPerformed home user.nextId 0) (copying flyingCopy)) (fun t => t.tileRead home 1 4096 8 == 0x0807060504030201 &&
      t.tileRead home 1 0 8 == 0x0807060504030201) = true := by decide +kernel
def otherRec (kind : Nat) : BitVec 512 := rec_ [(0, kind)]
theorem test_copy_kinds_start : ([(.copy, 1), (.gather, 2), (.scatter, 3), (.fill, 4), (.quant, 5), (.proofstream, 6)] : List ((Nat → Instr) × Nat)).all (fun r =>
    cpKind (otherRec r.2) == r.2 && (recWait (otherRec r.2)).isNone &&
    ends (exec (r.1 home) (copying (ccmd (otherRec r.2)))) fun t => t.myTile.cq.map (·.started) == [true]) = true := by decide +kernel

/-- Sector 16 of a demand window fills from 512 of module memory: the reply with its 256 bytes is there. -/
def fill_ : Fill := { sector := 16, entry := 5, va := 512, ctx := 0, who := .core, flight := 4 }
def filled : Flight := { flying with op := .get 256, ret := .fill 16, stage := .replying true 0 0 0, data := (List.range 256).map fun i => BitVec.ofNat 8 (i + 1) }
def window : RegionEntry := { valid := true, start := 16, len := 2, src := 512, states := [(0, 1)] }
def filling : State := { (on outward fun t => { t with fills := [fill_], regTab := [(5, window)] }) with flights := [filled] }
theorem test_fill : (filling.tile home).fills.find? (fun g => g.sector == 16) = some fill_ ∧
    filling.flights.find? (fun g => g.id == fill_.flight) = some filled ∧ filled.data.length = 256 ∧ (filling.tile home).waiters = [] ∧
    (filling.tile home).pad.wf = true ∧
    ends (exec (.fillCompletion home 16) filling) (fun t => (t.tile home).sectorState 16 == 2 && t.tileRead home 0 4096 2 == 0x201) = true := by decide +kernel
theorem test_array_gate : let s := on user fun t => { t with mx := { t.mx with gate := 10, idleFrom := 0 } }
    ends (exec (.arrayPowerGate home) { s with gtime := 10 }) (fun t => t.myTile.mx.gated) = true ∧
    ends (exec (.arrayPowerGate home) { s with gtime := 9 }) (fun t => !t.myTile.mx.gated) = true := by decide +kernel
theorem test_matrix_window : ends (exec (.matrixQueueWindowWrite home zeroRec) user) (fun t => (t.tile home).mq.map (fun q => (q.bits, q.cap.ctx)) == [(zeroRec, 0)]) = true ∧
    (user.tile home).mxFull = false ∧ ((on user fun t => { t with mq := List.replicate 16 (mcmd zeroRec) }).tile home).mxFull = true := by decide +kernel

/-! ### Witnesses: slugs, galleys, threads, time -/

/-- Values placed in module memory. -/
def placed (l : List (Nat × Nat × Nat)) : Memory := l.foldl (fun m e => m.writeN e.1 e.2.1 e.2.2) []
/-- A page of 2 MiB from address 0 with R, W, X and U, by tables of three levels at 0x100000. -/
def tables_ : List (Nat × Nat × Nat) := [(0x100000, 8, 0x101001), (0x101000, 8, 0x102001), (0x102000, 8, 0x1F)]
/-- A slug at 0x1000: code 0x400, frame 0x3000, galley 0, priority 1, window code as `thread`, arguments 21 and 22; its join count is n. -/
def slugAt (n : Nat) : List (Nat × Nat × Nat) :=
  [(0x1000, 8, 0x400), (0x1008, 8, 0x3000), (0x1018, 4, n), (0x1023, 1, 0x13), (0x102A, 1, 1), (0x1030, 8, 21), (0x1038, 8, 22)]
/-- Galley 0 of kind n at 0x10000, serving every cluster. -/
def galleyAt (n : Nat) : List (Nat × Nat × Nat) := [(0x10008, 8, n), (0x10010, 8, 2 ^ 64 - 1)]
/-- The tables, a slug with a join count and galley 0, for owner 1; x2 holds the slug's address. -/
def slugged (count kind : Nat) : State :=
  { (outward.updOwner 1 fun o => { o with ptbase := 0x100000, galb := 0x10000 }).wx 2 0x1000 with
    mem := placed (tables_ ++ slugAt count ++ galleyAt kind) }
/-- Galley 0 with some entries of priority 1 waiting and some pushes. -/
def stocked (s : State) (l : List Entry) (ps : List Push) : State :=
  s.updGalley 1 0 0 fun _ => { s.readGalley 1 0 0 with fifo := [(1, l)], pushes := ps }
def slugEntry : Entry := { addr := 0x1000, resume := false, slot := 0, mark := none }

theorem test_launch_meets : (slugged 2 1).does plain (some noTail) .u [(.x 2, .rx), (.x 0, .rx)] = true ∧ (slugged 2 1).isFresh = true ∧ (slugged 2 1).free_ = true ∧
    reached ((slugged 2 1).reach 0x1000 true true) (fun pa _ w => pa == 0x1000 && !w) = true ∧ ((slugged 2 1).readGalley 1 0 0).kind = 1 ∧
    ((slugged 2 1).readGalley 1 0 0).full = false ∧ ((stocked (slugged 2 1) (List.replicate 16 slugEntry) []).readGalley 1 0 0).full = true ∧
    ((slugged 2 0).readGalley 1 0 0).kind = 0 := by decide +kernel
theorem test_launch : let pushes (t : State) : List (BitVec 64 × Bool) := (t.galley 1 0 0).pushes.map fun p => (p.addr, p.launcher)
    ends (exec (.launch (sab 2 0)) (slugged 2 1)) (fun t => pushes t == [(0x1000, false)] && t.me.r.pc == 12) = true ∧
    ends (exec (.launch (sab 2 0)) (stocked (slugged 2 1) (List.replicate 16 slugEntry) [])) (fun t =>
      pushes t == [(0x1000, true)] && t.me.r.pc == 0 && t.me.c.run == .waiting) = true ∧
    ends (exec (.launch (sab 2 0)) (slugged 2 0)) (fun t => t.me.c.fault.map (fun q => (q.cause, q.detail)) == some (6, 0)) = true ∧
    ends (exec (.launch (sab 2 0)) (granted (slugged 2 1) 0)) (fun t => pushes t == [] && t.me.r.pc == 12) = true := by decide +kernel
theorem test_join_meets : (slugged 2 1).does plain (some noTail) .u [(.x 9, .wx), (.x 2, .rx)] = true ∧ ((slugged 2 1).rx 2).toNat = 0x1000 ∧
    (slugged 2 1).isFresh = true ∧ (slugged 2 1).acqHeld = false ∧ reached ((slugged 2 1).reach 0x1000 true true) (fun pa d w => pa == 0x1000 && d == .slice 1 && !w) = true ∧
    (slugged 2 1).myTile.watchAt 0 2 0x1018 4 true true = none := by decide +kernel
theorem test_join_is_sent : ends (exec (.join (sda 9 2)) (slugged 2 1)) (fun t => t.me.c.run == .waiting && t.me.r.pc == 0 &&
      t.flights.map (fun f => (f.op, f.addr, f.dest, f.release, f.acquire)) == [(.join, 0x1018, .slice 1, true, false)]) = true ∧
    ends (exec (.join (sda 9 2)) (granted (slugged 2 1) 2)) (fun t => t.rx 9 == 2 && t.me.r.pc == 12) = true ∧
    ends (exec (.join (sda 9 2)) (granted (slugged 2 1) (1 + 2 ^ 32 + 7 * 2 ^ 33))) (fun t =>
      t.rx 9 == 0 && t.me.c.fault.map (fun q => (q.cause, q.detail)) == some (6, 7)) = true := by decide +kernel
/-- The join step of context 0 on the slug stands at the home slice of its count. -/
def joining : Flight := { flying with op := .join, addr := 0x1018, va := 0x1000, dest := .slice 1, ret := .gate, isLoad := true, release := true }
def joinAt (count kind : Nat) : State := { (slugged count kind) with flights := [joining], nextId := 5 }
theorem test_join_step_meets : atHome (joinAt 2 1) 4 joining ∧ (joinAt 2 1).pushAt 1 0x1018 = none ∧ (joinAt 2 1).cellAt 0x1018 = none ∧
    (joinAt 2 1).memPoisoned 0x1018 4 = false ∧ (joinAt 1 1).pushable 1 0 0 = true ∧ (joinAt 1 0).pushable 1 0 0 = false := by unfold atHome; decide +kernel
theorem test_join_step : let reply (t : State) (v : BitVec 128) : Bool := t.flights.map (·.stage) == [.replying true 0 0 v]
    let count (t : State) : Nat := t.mem.readN 0x1018 4
    ends (exec (.homeSliceApply 4) (joinAt 2 1)) (fun t => count t == 1 && reply t 2 && (t.galley 1 0 0).pushes.length == 0) = true ∧
    ends (exec (.homeSliceApply 4) (joinAt 1 1)) (fun t => count t == 0 && reply t 1 && (t.galley 1 0 0).pushes.map (·.addr) == [0x1000]) = true ∧
    ends (exec (.homeSliceApply 4) (joinAt 0 1)) (fun t => count t == 0 && reply t 0) = true ∧
    ends (exec (.homeSliceApply 4) (joinAt 1 0)) (fun t => count t == 0 && reply t (1 + 2 ^ 32)) = true := by decide +kernel

def push_ : Push := { addr := 0x1000, src := home, ctx := 0, after := 0, launcher := false, flight := none, mark := none }
theorem test_push_meets : (slugged 2 1).ctlRead 1 (push_.addr.toNat + 0x2A) 1 = some 1 ∧
    ((stocked (slugged 2 1) [] [push_]).galley 1 0 0).pushes = [push_] ∧ ((stocked (slugged 2 1) [] [push_]).galley 1 0 0).waiting < 16 ∧
    ((stocked (slugged 2 2) [] [push_]).galley 1 0 0).kind = 2 ∧ ((stocked (slugged 2 1) [] [push_]).galley 1 0 0).capacity = 16 := by decide +kernel
theorem test_push : ([.galleyPush 64 0, .heldPushApply 64 0] : List Instr).all (fun i =>
      (ends (exec i (stocked (slugged 2 1) [] [push_])) fun t => (t.galley 1 0 0).fifo.get [] 1 == [slugEntry] && (t.galley 1 0 0).pushes == []) &&
      (ends (exec i (stocked (slugged 2 2) [] [push_])) fun t => (t.galley 1 0 0).fifo.get [] 0 == [slugEntry]) &&
      (ends (exec i (stocked (slugged 2 1) (List.replicate 16 slugEntry) [push_])) fun t => (t.galley 1 0 0).pushes == [push_])) = true := by decide +kernel

/-- The tile's context 0 is idle, and the slug waits in galley 0. -/
def vacant : State := (stocked (slugged 2 1) [slugEntry] []).updCtx home 0 fun x => { x with c := Sched.reset }
def slug_ : Slug := Slug.ofNat (vacant.mem.readN 0x1000 64)
def seat : Seat := { tile := home, member := 0, xb := 0, vb := 0, slot := none, img := [], bad := [] }
theorem test_pop_meets : vacant.boot = false ∧ vacant.turn.phase = .none ∧ (vacant.forme 64).held = false ∧ (vacant.cluster 4096).lev = 0 ∧
    (vacant.owner 1).live = true ∧ ((clusterCtxs 4096).map (vacant.considers 4096)).flatten.head? = some (home, 0, 1, 0) ∧
    (match vacant.headFor home 0 0 (vacant.galley 1 0 0) slugEntry with
      | .fits sl en i l => sl == slug_ && en == 0 && i == 0 && l == [seat]
      | _ => false) = true ∧ slug_.isGang = false := by decide +kernel
theorem test_pop : ends (exec (.slugPop 4096) vacant) (fun t => let x := t.ctx home 0
    x.c.run == .ready && x.c.level == .u && x.c.slug.map (·.addr) == some 0x1000 && x.r.pc == 0x400 && x.r.ire == 0x400 && x.r.vl == 32 &&
    x.r.fflags == 0 && (t.tile home).xr.get 0 2 == 0x3000 && (t.tile home).xr.get 0 3 == 0x1000 && (t.tile home).xr.get 0 4 == 21 &&
    (t.tile home).xr.get 0 5 == 22 && (t.galley 1 0 0).fifo.get [] 1 == [] && (t.galley 1 0 0).live == 1) = true := by decide +kernel

/-- A thread of galley 0 on context 0, in a state of its course. -/
def info : SlugInfo :=
  { addr := 0x1000, frame := 0x3000, succ := 0, flags := 0, energy := 0, current := 7, slice := 2, prio := 1, width := 1, index := 0, galley := 0, forme := 0,
    malformed := false }
def running (r : Run) : State := ((stocked (slugged 2 1) [] []).updC fun c => { c with run := r, slug := some info, runFrom := some 0 }).updCluster 4096 fun q =>
  { q with iUsed := 20 }
theorem test_end_meets : ((running .ending).ctx home 0).c.gang = none ∧ ((running .ending).tile home).checked = false ∧
    ((running .ending).ctx home 0).c.slug = some info ∧ ((running .ending).ctx home 0).y.members = [] ∧
    ((running .ending).tile home).vecOpen 0 = false := by decide +kernel
theorem test_end : ends (exec (.routineEnd home 0) (running .ending)) (fun t => (t.ctx home 0).c.run == .idle && (t.cluster 4096).iUsed == 13) = true ∧
    ends (exec (.routineEnd home 0) (running .ready)) (fun t => (t.ctx home 0).c.run == .ready && (t.cluster 4096).iUsed == 20) = true := by decide +kernel

theorem test_reload : let s := user.updCluster 4096 fun q => { q with ebudNext := some 500, eRem := -20, reloaded := 9999 }
    ends (exec (.budgetIntervalReload 4096) { s with gtime := 10000 }) (fun t => (t.cluster 4096).ebud == 500 && (t.cluster 4096).eRem == 480 &&
      (t.cluster 4096).reloaded == 10000) = true ∧
    ends (exec (.budgetIntervalReload 4096) { s with gtime := 9999 }) (fun t => (t.cluster 4096).ebud == 3222 && (t.cluster 4096).eRem == -20) = true := by decide +kernel
/-- Slugs of equal priority wait, and the thread has run for n ns. -/
def timed (r : Run) (l : List Entry) (n : BitVec 64) : State :=
  { (running r).updGalley 1 0 0 (fun q => { q with fifo := [(1, l)] }) with gtime := n }
theorem test_slice_meets : soloThread (timed .ready [slugEntry] 2001) home 0 info ∧ (timed .ready [slugEntry] 2001).waitsFor home 0 1 = true ∧
    (timed .ready [] 2001).waitsFor home 0 1 = false ∧ (timed .ready [slugEntry] 2001).turn.phase = .none ∧
    ((timed .ready [slugEntry] 2001).runTime ((timed .ready [slugEntry] 2001).ctx home 0)).toNat = 2001 := by unfold soloThread; decide +kernel
theorem test_slice : let go (l : List Entry) (n : BitVec 64) (p : Sched → Bool) : Bool := ends (exec (.sliceExpiry home 0) (timed .ready l n)) fun t => p t.me.c
    go [slugEntry] 2001 (fun c => c.run == .held && c.saving) = true ∧ go [slugEntry] 2000 (fun c => c.run == .ready && !c.saving) = true ∧
    go [] 2001 (fun c => c.run == .ready && !c.saving) = true := by decide +kernel
/-- Watchdog times of 3, 4 and 5 µs. -/
def watched_ (r : Run) (l : List Entry) (n : BitVec 64) : State := (timed r l n).updForme 64 fun w => { w with wdog := [(1, 3), (2, 4), (3, 5)] }
def stoppedAt (n : BitVec 64) : State :=
  (watched_ .blocked [] n).updC fun c => { c with fault := some { itsFault with cause := 0x10 }, wdStop := some 100, blkFrom := some 0, runFrom := none }
theorem test_watchdog_meets : watchdogNs (watched_ .ready [] 7000) home info 1 = 3000 ∧ watchdogNs (watched_ .ready [] 7000) home info 2 = 4000 ∧
    watchdogNs (watched_ .ready [] 7000) home info 3 = 5000 ∧ soloThread (watched_ .ready [] 7000) home 0 info ∧ soloThread (stoppedAt 5100) home 0 info := by
  unfold soloThread; decide +kernel
theorem test_watchdog : let c (o : Out) (p : Sched → Bool) : Bool := ends o fun t => p t.me.c
    c (exec (.watchdogT1 home 0) (watched_ .ready [slugEntry] 3000)) (fun c => c.wd1 && c.run == .held) = true ∧
    c (exec (.watchdogT1 home 0) (watched_ .ready [] 3000)) (fun c => c.wd1 && c.run == .ready) = true ∧
    c (exec (.watchdogT1 home 0) (watched_ .ready [] 2999)) (fun c => !c.wd1) = true ∧
    c (exec (.watchdogT2 home 0) (watched_ .ready [] 7000)) (fun c => c.run == .blocked && c.fault.map (·.cause) == some 0x10) = true ∧
    c (exec (.watchdogT2 home 0) (watched_ .ready [] 6999)) (fun c => c.run == .ready) = true ∧
    c (exec (.watchdogT2 home 0) ((watched_ .blocked [] 7000).updC fun c => { c with fault := some itsFault })) (fun c => c.run == .ending && c.dying == some 7000) = true ∧
    c (exec (.watchdogT3 home 0) (stoppedAt 5100)) (fun c => c.run == .ending && c.dying == some 5100) = true ∧
    c (exec (.watchdogT3 home 0) (stoppedAt 5099)) (fun c => c.run == .blocked) = true := by decide +kernel
/-- A kill made at 100 ns: ROUTINE_END ends the context, and 5 µs later the tile is fenced, of which M hears. -/
def condemned (n : BitVec 64) : State := (watched_ .ending [] n).updC fun c => { c with dying := some 100 }
theorem test_kill_ends_or_fences : soloThread (condemned 5100) home 0 info ∧ watchdogNs (condemned 5100) home info 3 = 5000 ∧
    ends (exec (.routineEnd home 0) (condemned 5100)) (fun t => t.me.c.run == .idle) = true ∧
    ends (exec (.watchdogT3 home 0) (condemned 5100)) (fun t => (t.tile home).fenced && t.mEvents == [(2, home)]) = true ∧
    ends (exec (.watchdogT3 home 0) (condemned 5099)) (fun t => !(t.tile home).fenced && t.me.c.run == .ending) = true := by unfold soloThread; decide +kernel
theorem test_boundary_meets : (watched_ .ready [] 7000).atBoundary home 0 = true ∧ (watched_ .ready [] 7000).me.c.dying = none ∧
    (stoppedAt 5100).me.c.dying = none := by decide +kernel

/-! ### Witnesses: indexed launches -/

/-- A launch record at 0x2000: template 0x1000, first index 100, n instances written from 0x4000 on, frames from 0x8000 on by 64, the mode, four contexts a
tile, chunks of 2, forme 0 only. A dynamic launch pushes to galley 1. -/
def launchRecordAt (n mode : Nat) : List (Nat × Nat × Nat) :=
  [(0x2000, 8, 0x1000), (0x2008, 4, 100), (0x200C, 4, n), (0x2010, 8, 0x4000), (0x2018, 8, 0x8000), (0x2020, 4, 64), (0x2024, 2, mode), (0x2026, 1, mode),
   (0x2027, 1, 4), (0x2028, 4, 2), (0x2030, 8, 1)]
/-- The record, galley 0 of kind 2, galley 1 of kind 1 and the private galley of tile 0 and context 0; b4 of the template as the mode asks. -/
def indexed (n mode : Nat) : State :=
  { slugged 0 2 with mem := placed (tables_ ++ slugAt 0 ++ [(0x101E, 2, 16 * (1 - mode))] ++ galleyAt 2 ++ [(0x10028, 8, 1), (0x12000, 8, 0x40000)] ++ launchRecordAt n mode) }
def awaiting (n mode : Nat) : State :=
  (indexed n mode).updGalley 1 0 0 fun _ => { (indexed n mode).readGalley 1 0 0 with fifo := [(0, [{ addr := 0x2000, resume := false, slot := 0, mark := none }])] }
def launch_ : Launch :=
  { record := 0x2000, galley := 0, next := 0, written := 0, finished := [], chunks := [], handed := 0, reported := [], redo := [], lost := false,
    abandoned := false, stuck := false }
def going (n mode : Nat) (q : Launch) : State := (indexed n mode).updForme 64 fun w => { w with launches := [q] }
def record (n mode : Nat) : LaunchRec := LaunchRec.ofNat ((indexed n mode).mem.readN 0x2000 64)

theorem test_launch_record_meets : (awaiting 4 0).launchWork 1 0 0 = none ∧ ((awaiting 4 0).galley 1 0 0).kind = 2 ∧
    (awaiting 4 0).readLaunch 1 0x2000 = some (record 4 0) ∧ (record 4 0).ok 1 true true = true ∧ (record 4 1).ok 1 false true = true ∧ (record 4 1).ok 1 false false = false ∧ (record 0 0).ok 1 true true = false ∧
    ((awaiting 4 0).readSlug 1 0x1000).map (·.flags.getLsbD 4) = some true ∧ ((awaiting 4 1).readSlug 1 0x1000).map (·.flags.getLsbD 4) = some false ∧
    ((awaiting 4 0).owner 1).formes = 1 ∧ ((awaiting 4 0).forme 64).held = false := by decide +kernel
theorem test_launch_begins : ([0, 1] : List Nat).all (fun m => ends (exec (.indexedLaunchRead 64 0) (awaiting 4 m)) fun t =>
      (t.forme 64).launches == [launch_] && (t.galley 1 0 0).fifo.get [] 0 == []) = true ∧
    ends (exec (.indexedLaunchRead 64 0) (awaiting 0 0)) (fun t => (t.forme 64).launches == [] && t.mem.readN 0x202C 4 == 3) = true := by decide +kernel
theorem test_distribution_meets : (going 4 0 launch_).launchWork 1 0 0 = some (launch_, record 4 0) ∧ (record 4 0).dynamic = false ∧
    (record 4 0).nextOf 0 0 = 0 ∧ (record 4 0).privateOf 0 = 256 ∧
    (match (going 4 0 launch_).writeInstance 1 0 256 (record 4 0) 0 with
      | .ok t => t.mem.readN 0x402C 4 == 100 && t.mem.readN 0x4008 8 == 0x8000 && (t.galley 1 0 256).pushes.map (·.addr) == [0x4000]
      | _ => false) = true := by decide +kernel
theorem test_distribution : ends (exec (.indexedLaunchRead 64 0) (going 4 0 launch_)) (fun t =>
      (t.forme 64).launches == [{ launch_ with next := 1, written := 1 }] && t.mem.readN 0x402C 4 == 100) = true ∧
    ends (exec (.indexedLaunchRead 64 0) (going 4 1 { launch_ with chunks := [1], next := 1 })) (fun t =>
      (t.forme 64).launches == [{ launch_ with chunks := [1], next := 2, written := 1 }] && t.mem.readN 0x40EC 4 == 103 &&
      (t.galley 1 0 1).pushes.map (·.addr) == [0x40C0]) = true := by decide +kernel
theorem test_chunks_meet : (going 4 1 launch_).dynOf 1 0 0 ((going 4 1 launch_).wantsChunk 1 0) = some (launch_, record 4 1) ∧ launch_.nextInstance (record 4 1) = none ∧
    (going 4 1 launch_).waitingOf 1 0 (record 4 1) = 0 ∧ (going 4 1 launch_).launchOf 1 ((going 4 1 launch_).masterOf 1 (record 4 1)) 0x2000 = some launch_ ∧
    (going 4 0 launch_).dynOf 1 0 0 ((going 4 0 launch_).wantsChunk 1 0) = none ∧ (record 4 1).chunkOf 1 = [2, 3] := by decide +kernel
def done_ : Launch := { launch_ with chunks := [1], next := 2, written := 2, finished := [2, 3], handed := 2 }
theorem test_reports_meet : (going 8 1 done_).dynOf 1 0 0 (fun l r => l.through r 1) = some (done_, record 8 1) ∧
    (going 8 1 { done_ with finished := [2] }).dynOf 1 0 0 (fun l r => l.through r 1) = none := by decide +kernel
theorem test_chunks : let one (o : Out) (q : Launch) : Bool := ends o fun t => (t.forme 64).launches == [q]
    one (exec (.chunkRequest 64 0) (going 4 1 launch_)) { launch_ with handed := 1, chunks := [0], asked := 1 } = true ∧
    one (exec (.chunkRequest 64 0) (going 4 1 { launch_ with redo := [1], handed := 2 })) { launch_ with handed := 2, chunks := [1], asked := 1 } = true ∧
    one (exec (.chunkReport 64 0 1) (going 8 1 done_)) { launch_ with handed := 2, reported := [1] } = true ∧
    one (exec (.chunkReport 64 0 1) (going 8 1 { done_ with finished := [2] })) { done_ with finished := [2] } = true ∧
    ends (exec (.chunkReport 64 0 1) (going 4 1 done_)) (fun t => (t.forme 64).launches == [] && t.mem.readN 0x202C 4 == 1) = true := by decide +kernel
theorem test_failover : let s := (going 4 1 launch_).updForme 64 fun w => { w with lost := true }
    s.readLaunch 1 0x2000 = some (record 4 1) ∧ (record 4 1).formes = [0] ∧
    ends (exec (.masterFailover 1 0) s) (fun t => (t.launchOf 1 0 0x2000).isNone) = true ∧
    ends (exec (.masterFailover 1 0) (going 4 1 launch_)) (fun t => (t.forme 64).launches == [launch_]) = true := by decide +kernel

/-! ### Witnesses: accesses on their way -/

/-- One access of context 0 of the tile at a stage, on module memory 64 with bytes 0xF0 to 0xF7 there and in the tile stores. -/
def packet (d : Dest) (op : MemOp) (r : Ret) (x : Stage) : Flight := { flying with dest := d, op := op, ret := r, stage := x, route := mkRoute [0xA0] }
def carrying (f : Flight) : State :=
  { (user.updTile (home + 1) fun t => { t with store := bytes }) with flights := [f], nextId := 9, mem := bytes }
def toReg : Ret := .reg (some 9) 16 .sign
theorem test_travel_meets (x : Stage) : (carrying (packet (.slice 0) (.load 2) toReg x)).flight 4 = some (packet (.slice 0) (.load 2) toReg x) ∧
    ((carrying flying).tile home).checked = false ∧ (carrying flying).sinceTurn = false ∧ home < gateBase ∧ flying.ctx < 4 ∧
    ((carrying flying).ctx home 0).c.fault = none := ⟨rfl, by decide +kernel⟩
def stageIs (o : Out) (y : Stage) : Bool := ends o fun t => (t.flight 4).map (·.stage) == some y
def loading (x : Stage) (rel : Bool) (rest : List Flight) : State :=
  { carrying flying with flights := { packet (.slice 0) (.load 2) toReg x with release := rel } :: rest }
theorem test_send : let go (x : Stage) (rel : Bool) (rest : List Flight) (y : Stage) : Bool := stageIs (exec (.postingQueueSend 4) (loading x rel rest)) y
    go .queued false [] (.net 9) && go .queued true [] (.net 9) && go .queued true [{ flying with id := 3, stage := .net 1 }] .queued &&
    go .queued false [{ flying with id := 3, stage := .queued }] .queued && go (.net 5) false [] (.net 5) = true := by decide +kernel
/-- R394: RETRY sends a refused load again behind a later store to another home, which is applied first. -/
theorem test_resend : let s := (blocked.applyReply home 0 0 { itsFault with src := 16, resend := some (packet (.slice 0) (.load 2) toReg (.replying false 6 0 0)) } 0)
    let t : State := { blocked with nextId := 9, flights := [{ flying with id := 8, dest := .slice 3, stage := .queued }] }
    s.flights.map (fun f => (f.stage, f.id, f.resent)) == [(.queued, blocked.nextId, some 4)] &&
    (t.resend (packet (.slice 0) (.load 2) toReg .queued)).flights.map (fun f => (t.resend (packet (.slice 0) (.load 2) toReg .queued)).canSend f) == [true, false] =
      true := by decide +kernel
theorem test_deliver : let go (x : Stage) (rest : List Flight) (y : Stage) : Bool := stageIs (exec (.packetDeliver 4) (loading x false rest)) y
    go (.net 5) [] (.home 9) && go (.net 5) [{ packet (.slice 0) (.rop 3 6) .none (.net 4) with id := 3 }] (.net 5) && go .queued [] .queued = true ∧
    stageIs (exec (.packetDeliver 4) { loading (.net 5) false [] with imap := [(5 * 4096, 1)] }) (.replying false 8 0 0) = true := by decide +kernel
noncomputable def replied (v : Ret) (p : State → Bool) : Bool :=
  ends (exec (.reply 4) (carrying (packet (.slice 0) (.load 2) v (.replying true 0 0 (0x5 * 2 ^ 64 + 0xF1F0))))) fun t => p t && (t.flight 4).isNone
theorem test_replies : replied toReg (fun t => t.rx 9 == 0xFFFFFFFFFFFFF1F0) && replied (.pair 10) (fun t => t.rx 10 == 0xF1F0 && t.rx 11 == 5) &&
    (ends (exec (.reply 4) ((carrying (packet (.slice 0) (.load 2) .gate (.replying true 0 0 7))).updC fun c => { c with phase := .armed 4, run := .waiting })) fun t =>
      t.me.c.phase == .granted 7 && (t.flight 4).isNone) = true := by decide +kernel
def refusedBy (o : Out) : Bool := ends o fun t => t.me.c.run == .blocked &&
  t.me.c.fault.map (fun q => (q.cause, q.address, q.src.getLsbD 4)) == some (8, 64, true)
theorem test_refusals : refusedBy (exec (.reply 4) (carrying (packet (.tile home) (.load 2) toReg (.replying false 8 0 0)))) = true ∧
    refusedBy (exec (.postedRefusal 4) (carrying (packet (.tile home) (.store 2 7) .none (.replying false 8 0 0)))) = true := by decide +kernel

theorem test_home_meets : ([packet (.slice 0) (.load 2) toReg (.home 2), packet (.tile (home + 1)) (.load 4) toReg (.home 2), packet (.gate 0) (.load 8) toReg (.home 2)] : List Flight).all
      (fun f => decide ((carrying f).delivered? 4 = some f)) = true ∧ plainPlace (carrying flying) flying 8 ∧ ownerOf (home + 1) = flying.owner ∧
    ((carrying flying).owner 1).proof.state ≠ 1 ∧ (carrying flying).mem.wf = true ∧ (carrying flying).tilePoison (home + 1) 1 64 8 = none ∧
    ((carrying flying).tile (home + 1)).store.wf = true ∧ ((carrying flying).tile (home + 1)).fenced = false ∧
    ownerOf (tileKey 2 0) ≠ flying.owner ∧ ((carrying flying).tile home).stopArea.contains (.event 4) = false := by unfold plainPlace; decide +kernel
def performed (i : Instr) (d : Dest) (op : MemOp) (r : Ret) (p : State → Option Stage → Bool) : Bool :=
  ends (exec i (carrying (packet d op r (.home 2)))) fun t => p t ((t.flight 4).map (·.stage))
theorem test_home_slice : performed (.homeSliceApply 4) (.slice 0) (.load 2) toReg (fun _ x => x == some (.replying true 0 0 0xF1F0)) = true ∧
    performed (.homeSliceApply 4) (.slice 0) (.store 2 0xABCD1234) .none (fun t x => x == none && t.mem.readN 64 4 == 0xF3F21234) = true ∧
    performed (.homeSliceApply 4) (.slice 0) (.amo .add 4 1 0) toReg (fun t x => x == some (.replying true 0 0 0xFFFFFFFFF3F2F1F0) && t.mem.readN 64 8 == 0xF7F6F5F4F3F2F1F1) = true ∧
    performed (.stampedOperationApply 4) (.slice 0) (.rop 3 6) toReg (fun _ x => x != some (.home 2)) = true ∧
    performed (.homeSliceApply 4) (.slice 0) (.rop 3 6) toReg (fun _ x => x == some (.home 2)) = true := by decide +kernel
theorem test_target_tile : let k := home + 1
    performed (.remoteAccessApply 4) (.tile k) (.load 4) toReg (fun _ x => x == some (.replying true 0 0 0xF3F2F1F0)) = true ∧
    performed (.remoteAccessApply 4) (.tile k) (.store 2 0xABCD1234) .none (fun t x => x == none && t.tileRead k 1 64 4 == 0xF3F21234) = true ∧
    performed (.remoteAccessApply 4) (.tile (tileKey 2 0)) (.load 4) toReg (fun _ x => x == some (.replying false 8 0 0)) = true ∧
    (ends (exec (.remoteBarrierUpdate 4) { object 2 with flights := [packet (.tile home) (.bar .arrive) .gate (.home 2)] }) fun t =>
      (t.flight 4).map (·.stage) == some (.replying true 0 0 (3 * 2 ^ 28 + 2 * 4096 + 2)) && t.tileRead home 0 64 2 % 4096 == 1) = true ∧
    performed (.eventUnitMessage 4) (.tile home) (.ev 32 0 0) .none (fun t x => x == none && t.line (clusterKey home) 32 != user.line (clusterKey home) 32) = true ∧
    performed (.gatewayApplied 4) (.gate 0) (.load 8) toReg (fun _ x => x == some (.replying true 0 0 0xF7F6F5F4F3F2F1F0)) = true ∧
    performed (.gatewayApplied 4) (.gate 0) (.store 8 7) .none (fun t x => x == none && t.mem.readN 64 8 == 7) = true := by decide +kernel

/-- A checked pair, and the two copies of a store at their stages and with some data. -/
def copies (x y : Stage) (v w : BitVec 128) : State :=
  let s := (user.updTile home fun t => { t with checked := true }).updTile (otherTwin home) fun t => { t with checked := true }
  { s with flights := [packet (.slice 0) (.store 8 v) .none x, { packet (.slice 0) (.store 8 w) .none y with id := 5, src := otherTwin home, twin := true }],
           nextId := 9, gtime := 60000 }
theorem test_twins_meet : let s := copies (.net 1) (.twin 100) 7 7
    let f := packet (.slice 0) (.store 8 7) .none (.net 1)
    (s.tile home).checked = true ∧ s.canDeliver f 1 = true ∧ s.stopFull f = false ∧ s.portHeld (.slice 0) < 32 ∧ (s.partner f).map (·.id) = some 5 ∧
    ({ s with flights := [f] } : State).partner f = none ∧ (s.partner f).map (s.hash ·) = some (s.hash f) ∧
    (copies (.net 1) (.twin 100) 7 8).hash f ≠ (copies (.net 1) (.twin 100) 7 8).hash { f with src := otherTwin home, op := .store 8 8 } := by decide +kernel
theorem test_twins : let st (o : Out) (a b : Option Stage) : Bool := ends o fun t => (t.flight 4).map (·.stage) == a && (t.flight 5).map (·.stage) == b
    let alone (x : Stage) : State := { copies x .queued 7 7 with flights := [packet (.slice 0) (.store 8 7) .none x] }
    st (exec (.twinCopyArrival 4) (alone (.net 1))) (some (.twin 60000)) none = true ∧
    st (exec (.twinCopyArrival 4) (copies (.net 1) (.twin 100) 7 7)) (some (.home 9)) (some (.twin 100)) = true ∧
    st (exec (.twinCopyArrival 4) (copies (.net 1) (.twin 100) 7 8)) none none = true ∧
    st (exec (.twinTimeout 4) (alone (.twin 10000))) none none = true ∧ st (exec (.twinTimeout 4) (alone (.twin 10001))) (some (.twin 10001)) none = true := by decide +kernel

/-! ### Witnesses: mailboxes and system instructions -/

/-- Context 0 at level S, context 1 in a state of its own; x2 holds the word a and x4 the word b. -/
def serving (a b : Word) (c : Sched → Sched) : State :=
  ((super.wx 2 a).wx 4 b).updCtx home 1 fun x => { x with r := { x.r with pc := 48, ire := 96, win := 0x13 }, c := c { Sched.reset with level := .u } }
theorem test_acts_meet : acts super plain (some noTail) .s (opsDAB (sdab 9 2 4)) ∧ acts super plain (some noTail) .s (opsDA (sda 9 2)) ∧
    acts super plain none .s [(.x 9, .wx)] ∧ acts super plain none .s [(.x 9, .wx), (.x 2, .rx)] ∧ acts user plain (some noTail) .u (opsDA (sda 9 2)) ∧
    acts machine plain (some noTail) .m (opsDA (sda 9 2)) ∧ acts machine plain (some noTail) .m (opsDAB (sdab 9 2 4)) ∧
    acts machine plain (some noTail) .m [(.x 2, .rx)] ∧ alone (serving 0 0 id) home 1 ∧ super.me.c.run = .ready := by unfold acts alone; decide +kernel
theorem test_levels : levelDAB.all (fun row => (ends (exec (row.1 (sdab 9 2 4)) user) fun t => t.me.c.fault.map (·.cause) == some 3) &&
      (ends (exec (row.1 { sdab 9 2 4 with a := .v 1 }) machine) fun t => t.me.c.fault.map (·.cause) == some 2) &&
      ends (exec (row.1 (sdab 9 3 3)) machine) fun t => t.me.c.fault.map (·.cause) == some 2) = true ∧
    levelDA.all (fun row => (ends (exec (row.1 (sda 9 2)) user) fun t => t.me.c.fault.map (·.cause) == some 3) &&
      (ends (exec (row.1 { sda 9 2 with a := .v 1 }) machine) fun t => t.me.c.fault.map (·.cause) == some 2) &&
      ends (exec (row.1 (sda 9 3)) machine) fun t => t.me.c.fault.map (·.cause) == some 2) = true := by decide +kernel
theorem test_other_levels : ([.mbxw (sda 9 2), .artw (sdab 9 2 4), .proof (idI 0), .rflush (mda 2 9 2), .rreissue (mdab 2 9 2 4), .wdogImm (ida 9 2 0), .cntcImm (ida 9 2 0),
      .trcImm (ida 9 2 0), .flood (sda 9 2), .halt (sa 2)] : List Instr).all (fun i => ends (exec i user) fun t => t.me.c.fault.map (·.cause) == some 3) = true := by
  decide +kernel

/-- Two messages have reached the tile's box. -/
def letter (n : Nat) : Msg := { body := BitVec.ofNat 512 n, src := home, ctx := 0, after := 0, here := true }
def mailed : State := (super.updForme 64 fun w => { w with svloc := 0x80000000, mailbox := [letter 7, letter 8] }).wx 5 64
theorem test_mailbox_meets : mailed.does plain (some noTail) .s (opsDA (sda 9 5)) = true ∧ mailed.isFresh = true ∧ mailed.acqHeld = false ∧
    mailed.myTile.vecOpen mailed.curCtx = false ∧ mailed.delivered mailed.ownBox = [letter 7, letter 8] ∧ mailed.myTile.missing 64 64 = [] ∧
    mailed.watched 0 64 64 false true = none ∧ super.delivered super.ownBox = [] := by decide +kernel
theorem test_mailbox : ends (exec (.mbxw (sda 9 5)) mailed) (fun t => t.rx 9 == 1 && t.tileRead home 0 64 8 == 7 && (t.forme 64).mailbox == [letter 8]) = true ∧
    ends (exec (.mbxw (sda 9 5)) super) (fun t => t.me.c.run == .waiting && t.me.r.pc == 0) = true ∧
    ends (exec (.mbxw (sda 9 2)) mailed) (fun t => t.me.c.fault.map (·.cause) == some 4) = true ∧
    ends (exec (.mbxw (sda 9 2)) (mailed.wx 2 0x8000)) (fun t => t.me.c.fault.map (·.cause) == some 0x14) = true := by decide +kernel

def onFault (c : Sched) : Sched := { c with run := .blocked, fault := some itsFault }
/-- Reply r to context 1: the status, and context 1 after it. -/
noncomputable def replying (r : Nat) (b : Word) (c : Sched → Sched) (st : Word) (p : Ctx → Bool) : Bool :=
  ends (exec (.mbxr (sdab 9 2 4)) (serving (BitVec.ofNat 64 (r * 2 ^ 20 + 2 ^ 16)) b c)) fun t => t.rx 9 == st && t.me.r.pc == 12 && p (t.ctx home 1)
theorem test_reply_meets : let s := serving 0x110000 0 onFault
    targetOk false true 0x110000 = true ∧ s.targetTile 0x110000 = home ∧ targetCtx 0x110000 = 1 ∧ targetSrc 0x110000 = 0 ∧
    s.windowOf (ownerOf home) [home] 1 0 = none ∧ (s.ctx home 1).c.fault = some itsFault ∧ s.allows home 1 itsFault 1 = true ∧
    s.allows home 1 { itsFault with allow := 18 } 2 = false := by decide +kernel
theorem test_replies_to_contexts : replying 1 0 onFault 0 (fun x => x.c.run == .ready && x.r.pc == 60) = true ∧ replying 2 200 onFault 0 (·.r.pc == 200) = true ∧
    replying 2 202 onFault 2 (·.c.run == .blocked) = true ∧ replying 4 0 onFault 0 (·.c.run == .idle) = true ∧ replying 0 0 id 1 (·.c.run == .idle) = true ∧
    replying 0 0 (fun c => { c with run := .held }) 0 (·.c.run == .ready) = true ∧ replying 1 0 (fun c => { c with run := .held }) 2 (·.c.run == .held) = true := by
  decide +kernel
theorem test_replies_to_engines : let m := (serving 0x40000 0 id).updTile home fun t => { t with mq := [{ mcmd zeroRec with stopped := true }] }
    let c := (serving 0x80000 0 id).updTile home fun t => { t with cq := [{ ccmd copyRec with stopped := true, started := true, waited := true }] }
    targetSrc 0x40000 = 1 ∧ targetSrc 0x80000 = 2 ∧ ((m.tile home).mq.map (·.stopped)) = [true] ∧ (current (c.tile home).cq).map (·.stopped) = some true ∧
    ends (exec (.mbxr (sdab 9 2 4)) m) (fun t => t.rx 9 == 0 && (t.tile home).mq.map (·.stopped) == [false]) = true ∧
    ends (exec (.mbxr (sdab 9 2 4)) (m.wx 2 0x140000)) (fun t => t.rx 9 == 2 && (t.tile home).mq.map (·.stopped) == [true]) = true ∧
    ends (exec (.mbxr (sdab 9 2 4)) c) (fun t => t.rx 9 == 0 && (t.tile home).cq.map (·.stopped) == [false]) = true ∧
    ends (exec (.mbxr (sdab 9 2 4)) (c.wx 2 0x180000)) (fun t => t.rx 9 == 2 && (t.tile home).cq.map (·.stopped) == [true]) = true := by decide +kernel

def runs_ (r : Run) (c : Sched) : Sched := { c with run := r, slug := some info }
def threaded (i : Instr) (a b : Word) (c : Sched → Sched) (st : Word) (p : Ctx → Bool) : Bool :=
  ends (exec i (serving a b c)) fun t => t.rx 9 == st && t.me.r.pc == 12 && p (t.ctx home 1)
theorem test_hold_and_kill : threaded (.prmt (sda 9 2)) 0x10000 0 (runs_ .ready) 0 (fun x => x.c.run == .held && !x.c.saving) = true ∧
    threaded (.prmt (sda 9 2)) 0x10000 0 id 1 (·.c.run == .idle) = true ∧ threaded (.prmt (sda 9 2)) 0x10000 0 onFault 0 (·.c.run == .blocked) = true ∧
    threaded (.prmt (sda 9 2)) 0x1010000 0 onFault 3 (·.c.run == .blocked) = true ∧ threaded (.kill (sda 9 2)) 0x10000 0 (runs_ .ready) 0 (·.c.run == .idle) = true ∧
    threaded (.kill (sda 9 2)) 0x10000 0 id 1 (·.c.run == .idle) = true := by decide +kernel
/-- Level S with the pages of `slugged`, its context 1 running the slug of galley 0. -/
def saving_ (r : Run) (a : Word) : State :=
  ((((slugged 2 1).updC fun c => { c with level := .s }).wx 2 a).wx 4 0x4000).updCtx home 1 fun x =>
    { x with r := { x.r with pc := 48, win := 0x13 }, c := runs_ r Sched.reset }
theorem test_preempt_meets : (saving_ .ready 0x1010000).unsavable home 1 = false ∧ ((saving_ .ready 0x1010000).ctx home 1).isStopped = false ∧
    ((saving_ .held 0x10000).ctx home 1).isStopped = true ∧ (saving_ .held 0x10000).saveReady home 1 = true ∧
    (saving_ .held 0x10000).watched 2 0x4000 12288 false true = none ∧ (saving_ .held 0x10000).watched 2 0x4000 12288 true false = none ∧
    alone (saving_ .held 0x10000) home 1 := by unfold alone; decide +kernel
theorem test_preempt : ends (exec (.prmt (sda 9 2)) (saving_ .ready 0x1010000)) (fun t =>
    t.me.c.run == .waiting && t.me.c.phase == .granted 0 && (t.ctx home 1).c.run == .held && (t.ctx home 1).c.saving) = true := by decide +kernel
theorem test_save_image : ends (exec (.ctxsv (sdab 9 2 4)) (saving_ .held 0x10000)) (fun t => t.rx 9 == 0 && t.me.r.pc == 12) = true ∧
    ends (exec (.ctxsv (sdab 9 2 4)) (saving_ .ready 0x10000)) (fun t => t.rx 9 == 1) = true ∧
    ends (exec (.ctxsv (sdab 9 2 4)) ((saving_ .held 0x10000).wx 4 0x4008)) (fun t => t.me.c.fault.map (·.cause) == some 4) = true := by decide +kernel
/-- An image at 0x4000 of nothing but the windows code and pc 96. -/
def imaged : State := let s := saving_ .held 0x10000; { s with mem := (s.mem.writeN 0x6423 1 0x13).writeN 0x6428 1 96 }
theorem bytes_drop (m : Memory) (k : Nat) : ∀ a n, (m.bytes a n).drop k = m.bytes (a + k) (n - k) := by
  induction k with
  | zero => simp
  | succ k ih =>
    intro a n
    cases n with
    | zero => simp [Memory.bytes]
    | succ n => simp [Memory.bytes, ih, Nat.add_comm 1 k, Nat.add_assoc]
theorem bytes_take (m : Memory) (k : Nat) : ∀ a n, (m.bytes a n).take k = m.bytes a (min k n) := by
  induction k with
  | zero => simp [Memory.bytes]
  | succ k ih =>
    intro a n
    cases n with
    | zero => simp [Memory.bytes]
    | succ n => simp [Memory.bytes, ih, Nat.succ_min_succ]
/-- Where it lies. -/
def pieces_ : Span := { va := 0x4000, pa := 0x4000, size := 12288, slot := 0, watch := false }
theorem image_clear : imaged.rangeClear 0 0x4000 12288 = true := by decide +kernel
theorem test_load_image_meets : (match State.spanPieces imaged.cur imaged.me.c.level false 2 0x4000 12288 imaged with
    | .ok (l, t) => decide (l = [pieces_] ∧ t = imaged ∧ (t.ctx home 1).r.win = 0x13) && !(t.badPieces l).any id
    | _ => false) = true := by decide +kernel
theorem test_image_fits : imageFits (imaged.getPieces [pieces_]) 0x13 = true := by
  simp only [State.getPieces, pieces_, State.memBytes, image_clear, if_true, List.append_nil, imageFits, imgN, imgZero, bytes_drop, bytes_take]
  decide +kernel

/-! ### Witnesses: TLBs, trees, times, proofs, counters, level M, routes, maps -/

def dab : SDAB := sdab 9 2 4
/-- A page of tile memory, and x2 and x4 hold words. -/
def sys2 (s : State) (a b : Word) : State := (s.wx 2 a).wx 4 b
def mapped_ : State := on super fun t => { t with dtlb := [entry, { entry with va := 0x200000, g := true }] }
theorem test_tlb : let go (a b : Word) (n : Nat) : Bool := ends (exec (.tlbi dab) (sys2 mapped_ a b)) fun t => t.rx 9 == 0 && t.myTile.dtlb.length == n
    go 64 0 1 = true ∧ go 0x400000 0 2 = true ∧ go 0 1 1 = true ∧ go 0 2 0 = true ∧ go 0 10 0 = true ∧
    ends (exec (.tlbi dab) (sys2 mapped_ 64 3)) (fun t => t.me.c.run == .waiting && t.myTile.dtlb.length == 1) = true ∧
    ends (exec (.tlbi dab) (granted (sys2 mapped_ 64 3) 5)) (fun t => t.rx 9 == 0 && t.me.r.pc == 12) = true ∧
    mapped_.translatedOpen false 5 = false := by decide +kernel
def treeS : State := { (on super fun t => { t with parts := [(3, 1)] }) with trees := [(3, some 1)] }
theorem test_participants : treeS.treeOwner 3 = ownerOf treeS.cur ∧ treeS.treeOwner 4 ≠ ownerOf treeS.cur ∧ treeS.named 0 = home ∧ treeS.partSet home 3 ≠ 0 ∧
    ends (exec (.gpart dab) (sys2 treeS 0x30000 5)) (fun t => t.rx 9 == 1 && t.partSet home 3 == 5) = true ∧
    ends (exec (.gpart dab) (sys2 { treeS with trees := [(4, some 1)] } 0x40000 5)) (fun t => t.rx 9 == 0 && t.partSet home 4 == 0 && (t.tile home).partsNext.get 0 4 == 5) = true ∧
    ends (exec (.gpart dab) (sys2 treeS 0x380000 5)) (fun t => t.me.c.fault.map (·.cause) == some 3) = true ∧
    ends (exec (.gpart dab) (sys2 treeS 0x40000 5)) (fun t => t.me.c.fault.map (·.cause) == some 6) = true := by decide +kernel
theorem test_watchdog_times : ends (exec (.wdog dab) (sys2 super 0x203 77)) (fun t => t.rx 9 == 100000 && (t.forme 64).wdog.get 0 14 == 77) = true ∧
    ends (exec (.wdogImm (ida 9 2 0xFFFFFFFF)) (sys2 super 0x100 0)) (fun t => t.rx 9 == 1000 && (t.forme 64).wdog.get 0 1 == 0xFFFFFFFFFFFFFFFF) = true := by
  decide +kernel
theorem test_proof : ends (exec (.proof (idI 0)) super) (fun t => t.rx 2 == 1 && (t.owner 1).proof.live && (t.owner 1).proof.state == 0) = true ∧
    ends (exec (.proof (idI 0)) (super.updOwner 1 fun o => { o with proof := { o.proof with live := true, state := 1, number := 4 } })) (fun t =>
      t.rx 2 == 5 && (t.owner 1).proof.queued) = true := by decide +kernel
def counter (e : Nat) (m : Bool) : Counter := { claimed := true, byM := m, event := BitVec.ofNat 16 e, enabled := true, value := 42, since := 0 }
def counting_ (s : State) (e : Nat) (m : Bool) : State := s.updC fun c => { c with counters := [(0, counter e m)] }
theorem test_counters : let go (i : Instr) (s : State) (v : Word) (p : Counter → Bool) : Bool := ends (exec i s) fun t => t.rx 9 == v && p (t.counterOf 0)
    go (.cntc dab) (sys2 super 0 0x10005) 0 (fun q => q.claimed && q.enabled && q.event == 5) && go (.cntc dab) (sys2 super 0 0x20005) 0 (!·.claimed) &&
    go (.cntc dab) (sys2 super 0 10) 2 (!·.claimed) && go (.cntc dab) (sys2 (counting_ super 5 true) 0 5) 1 (·.value == 42) &&
    go (.cntcImm (ida 9 2 5)) (sys2 super 0 0) 0 (·.claimed) && go (.cntr (sda 9 2)) (sys2 user 0 0) 0xFFFFFFFFFFFFFFFF (!·.claimed) &&
    go (.cntr (sda 9 2)) (sys2 (counting_ user 5 false) 0 0) 42 (·.claimed) &&
    go (.cntr (sda 9 2)) (sys2 ((user.updCtx home 1 fun x => { x with c := { x.c with counters := [(0, counter 5 false)] } })) 0 0) 42 (·.claimed) &&
    go (.cntr (sda 9 2)) (sys2 (user.updC fun c => { c with counters := [(0, { counter 2 false with enabled := false })] }) 0 0) 42 (!·.enabled) &&
    (ends (exec (.cntr (sda 9 2)) (sys2 (counting_ user 2 false) 0 0)) fun t => t.free == user.free && t.me.r.pc == 12) = true := by decide +kernel
theorem test_trace : ends (exec (.trc dab) (sys2 super 0x5004 7)) (fun t => t.rx 9 == 0 && t.myTile.trace.on && t.myTile.trace.base == 0x5000 && t.myTile.trace.lg == 4) = true ∧
    ends (exec (.trcImm (ida 9 2 0)) (sys2 super 0x5004 0)) (fun t => t.rx 9 == 0 && !t.myTile.trace.on) = true ∧
    ends (exec (.trc dab) (sys2 (on super fun t => { t with trace := { t.trace with on := true, byM := true } }) 0x5000 0)) (fun t => t.rx 9 == 1 && t.myTile.trace.on) = true := by
  decide +kernel

theorem test_scrub : ends (exec (.scrub (sda 9 2)) (sys2 machine 0x10000 0)) (fun t => t.rx 9 == 0 && (t.forme (formeKey (machine.placeOf 0 0))).held) = true ∧
    ends (exec (.scrub (sda 9 2)) (sys2 machine 0x20000 0)) (fun t => t.me.c.fault.map (·.cause) == some 2) = true := by decide +kernel
theorem test_fencing : machine.tileAtSite 0 5 ≠ none ∧ machine.tileAtSite 0 5 ≠ some machine.cur ∧
    (match machine.tileAtSite 0 5 with
     | some k => ends (exec (.fencecore (sda 9 2)) (sys2 machine 0x140 0)) fun t => (t.tile k).fenced && t.rx 9 == 0 && t.me.r.pc == 12
     | none => false) = true ∧
    ends (exec (.fencecore (sda 9 2)) (sys2 machine 0x1FFC0 0)) (fun t => t.rx 9 == 0 && (t.die 0).fencedSites == [2047]) = true := by decide +kernel

/-- The record of a `keyld` or a `flood` at 64 of the scratchpad. -/
def recorded_ (s : State) : State := on s fun t => { t with pad := Memory.writeN [] 64 64 (7 + 9 * 2 ^ 256 + 0x100 * 2 ^ 384 + 3 * 2 ^ 416) }
theorem test_key_load : recordAt (recorded_ (sys2 machine 5 64)) 64 ∧ (recordBits (recorded_ (sys2 machine 5 64)) 64).extractLsb' 0 256 = 7 ∧
    ends (exec (.keyld dab) (recorded_ (sys2 machine 5 64))) (fun t => t.rx 9 == 0 && (t.keys.get .reset 5).loaded && (t.keys.get .reset 5).data == 7 &&
      (t.keys.get .reset 5).tweak == 9 + 0x100 * 2 ^ 128 + 3 * 2 ^ 160) = true := by unfold recordAt; decide +kernel
/-- Boot mode: tile 0 of die 0 moves at level M. -/
def booting : State := { machine with boot := true, cur := bootKey 0 0, tiles := [(bootKey 0 0, machine.tile home)] }
theorem test_flood : let s := recorded_ (sys2 booting 64 0)
    acts s plain (some noTail) .m (opsDA (sda 9 2)) ∧ recordAt s 64 ∧ formeOf s.cur = 0 ∧
    ends (exec (.flood (sda 9 2)) s) (fun t => t.rx 9 == 0 && (t.die 0).floods.map (fun q => (q.dtab, q.dbar)) == [(0x100, 3)]) = true ∧
    ends (exec (.flood (sda 9 2)) machine) (fun t => t.me.c.fault.map (·.cause) == some 3) = true := by unfold acts recordAt; decide +kernel
theorem test_halt : machine.me.c.gang = none ∧ machine.me.c.stepping = false ∧
    ends (exec (.halt (sa 2)) (machine.wx 2 0x1234)) (fun t => t.me.c.run == .halted && (t.die (machine.dieOf home)).dstat == 0x1234 && t.me.r.pc == 12) = true ∧
    ends (exec (.halt (sa 2)) (booting.wx 2 0x1234)) (fun t => t.host.phase == 0xFF && t.host.fcode == 0x12) = true ∧
    ends (exec (.halt (sa 3)) machine) (fun t => t.me.c.fault.map (·.cause) == some 2) = true := by decide +kernel
/-- The owner's cell at 64 has one history entry, and its superstep is 9. -/
def folding : State :=
  { (outward.updC fun c => { c with level := .s }).updOwner 1 fun o => { o with sstep := 9 } with slices := [(0, { Slice.reset with cells := [(8, some aCell)] })] }
theorem test_rflush : acts folding plain none .s [(.x 9, .wx), (.x 5, .rx)] ∧ reached (folding.reach 64 false false) (fun _ d _ => d == .slice 0) = true ∧
    (eaOf folding (.x 5) (mt 2 0 0 0 0)).toNat = 64 ∧
    ([2, 3] : List (BitVec 2)).all (fun sc => ends (exec (.rflush { mda 2 9 5 with m := { mt 2 0 0 0 0 with scope := sc } }) folding) fun t =>
      t.rx 9 == 1 && (t.slice 0).history 1 == 0 && (t.slice 0).wmark.get 0 1 == 9 && ((t.slice 143).wmark.get 0 1 == if sc == 3 then 9 else 0)) = true := by
  unfold acts; decide +kernel

theorem test_route_registers : outward.does plain (some noTail) .u [(.x 2, .rpair), (.x 8, .rx)] = true ∧ outward.checkReg 1 = 0 ∧ outward.checkReg 2 = 7 ∧
    ends (exec (.rtld (sab 2 8)) (outward.wx 8 1)) (fun t => t.me.y.rts.get 0 1 == 0xFFFFFFFFFFFFFFFE#64 ++ 5#64 && !t.me.y.rtck.getLsbD 1) = true ∧
    ends (exec (.rtld (sab 2 8)) (outward.wx 8 16)) (fun t => t.me.c.fault.map (·.cause) == some 2) = true ∧
    ends (exec (.rtchk (sda 9 8)) (outward.wx 8 1)) (fun t => t.rx 9 == 0 && t.me.y.rtck.getLsbD 1) = true ∧
    ends (exec (.rtchk (sda 9 8)) (outward.wx 8 2)) (fun t => t.rx 9 == 7 && !t.me.y.rtck.getLsbD 2) = true ∧
    ends (exec (.rtchk (sda 9 8)) (outward.wx 8 16)) (fun t => t.me.c.fault.map (·.cause) == some 2) = true := by decide +kernel
/-- A route of one eject segment in x2 and x3, a control word in x4. -/
def writing (s : State) (b : Word) : State := { ((s.wx 2 (mkRoute [0xA0]).toNat).wx 3 (BitVec.ofNat 64 ((mkRoute [0xA0]).toNat / 2 ^ 64))).wx 4 b with imap := [(6 * 4096, 0)] }
/-- A route from bed 1, where bed 0 moves next, back to bed 0: W 32, EJECT. -/
def shadowing (s : State) (b : Word) : State :=
  { ((s.wx 2 ((mkRoute [0x60, 0xA0]).setWidth 64)).wx 3 ((mkRoute [0x60, 0xA0] >>> 64).setWidth 64)).wx 4 b with imap := [(6 * 4096, 0)] }
noncomputable def wrote (s : State) (b : Word) (st : Word) (p : State → Bool) : Bool := ends (exec (.artw dab) (writing s b)) fun t => t.rx 9 == st && t.me.r.pc == 12 && p t
theorem test_rows : let row : Row := { route := mkRoute [0xA0], tag := 9, valid := true }
    (writing super 0).does plain (some noTail) .s [(.x 9, .wx), (.x 2, .rpair), (.x 4, .rx)] = true ∧
    wrote super 0x900000500 0 (fun t => (t.forme 64).anch.get .reset 5 == row) = true ∧ ends (exec (.artw dab) (shadowing super 0x900000501)) (fun t => t.rx 9 == 0 && (t.forme 64).shadow.get .reset 5 == { row with route := mkRoute [0x60, 0xA0] }) = true ∧
    wrote super 0x900000501 0x102 (fun t => (t.forme 64).shadow == []) = true ∧
    wrote super 0x900000502 0 (fun t => (t.owner 1).ingress.get .reset 5 == row) = true ∧ wrote super 0x900000503 0 (fun t => (t.owner 1).ingressShadow.get .reset 5 == row) = true ∧
    wrote super 0x504 0 (fun t => !((t.forme 64).anch.get .reset 5).valid) = true ∧ wrote super 5 0 (fun t => (t.owner 1).turnSet == 0xA0) = true ∧
    wrote machine 6 0 (fun t => t.modSet == 0xA0) = true ∧ wrote super 7 4 (fun _ => true) = true ∧
    ends (exec (.artw dab) (writing super 6)) (fun t => t.me.c.fault.map (·.cause) == some 3) = true ∧
    ends (exec (.artw dab) (writing super 8)) (fun t => t.me.c.fault.map (·.cause) == some 2) = true := by decide +kernel
theorem test_imposition_map : let go (s : State) (a : Word) (v : Word) (p : State → Bool) : Bool := ends (exec (.imap dab) (sys2 s a 77)) fun t => t.rx 9 == v && t.me.r.pc == 12 && p t
    let cause (s : State) (a : Word) (c : BitVec 8) : Bool := ends (exec (.imap dab) (sys2 s a 77)) fun t => t.me.c.fault.map (·.cause) == some c
    go { user with imap := [(3, 8)] } 3 8 (fun _ => true) && go user 64 0xFFFFFFFFFFFFFFFF (fun _ => true) && go machine 0x20003 0 (fun t => t.mapAt true 0 3 == 77 && t.mapAt false 0 3 == 0) &&
    go machine 0x20040 1 (fun t => t.imapNext == []) && go booting 0x60003 0 (fun t => t.mapAt false 0 3 == 77) && cause user 0x20003 3 && cause machine 0x60003 3 &&
    cause user 0x80000 2 = true := by decide +kernel
def noticed (ack : Bool) (now : BitVec 64) : State := { super.updForme 64 fun w => { w with notice := some { tnext := 5, tturn := 100, ack := ack, split := false } } with gtime := now }
theorem test_turn_acknowledged : super.does plain (some noTail) .s (opsDA (sda 9 2)) = true ∧ (noticed false 0).rx 2 = 5 ∧
    let go (s : State) (v : Word) : Bool := ends (exec (.turnack (sda 9 2)) s) fun t => t.rx 9 == v && t.me.r.pc == 12
    go super 1 && go (noticed false 100) 1 && go ((noticed false 99).wx 2 6) 2 && go (noticed true 99) 3 && go (noticed false 99) 0 = true := by decide +kernel

/-! ### Witnesses: units, turns, trees -/

theorem test_observe : let s := (semaphores.updC fun c => { c with run := .waiting, waitOn := .sem 7 6 })
    s.holds home 0 (.sem 7 6) = true ∧ s.holds home 0 (.sem 7 7) = false ∧
    ends (exec (.observe home 0) s) (fun t => t.me.c.run == .ready && t.me.c.waitOn == .sem 7 6) = true ∧
    ends (exec (.observe home 0) (s.updC fun c => { c with waitOn := .sem 7 7 })) (fun t => t.me.c.run == .waiting) = true := by decide +kernel
theorem test_walk_meets : (match walk (slugged 2 1).mem ((slugged 2 1).owner 1).ptbase 64 with
      | .leaf a e l _ => a == 0x102000 && e == 0x1F && l == 2 && paKind (pteFrame e + 64) == .module
      | _ => false) = true ∧ (slugged 2 1).keyOk 1 0 = true ∧ (slugged 2 1).mem.wf = true ∧
    (match walk (slugged 2 1).mem ((slugged 2 1).owner 1).ptbase 0x200000 with
      | .stop _ _ => true
      | _ => false) = true := by decide +kernel
theorem test_walk : ends (exec (.pageTableWalk home 64 false false) (slugged 2 1)) (fun t => t.mem.readN 0x102000 8 == 0x5F) = true ∧
    ends (exec (.pageTableWalk home 64 true false) (slugged 2 1)) (fun t => t.mem.readN 0x102000 8 == 0xDF) = true ∧
    ends (exec (.pageTableWalk home 0x200000 false false) (slugged 2 1)) (fun t => (t.cluster 4096).tracker.map (·.base) == [1]) = true := by decide +kernel
theorem test_watermark : let s := user.updOwner 1 fun o => { o with wmarks := [(3, 9)] }
    (s.owner 1).wmarks.find? (fun e => e.1 == 3) = some (3, 9) ∧ (s.owner 1).wmarks.find? (fun e => e.1 == 4) = none ∧
    ends (exec (.settlingWatermarkAdvance 1 3) s) (fun t => t.watermark 3 1 == 9 && t.watermark 3 2 == 0) = true := by decide +kernel
def exc : FpExc := { key := 5, tile := home, ctx := 0, pc := 48, iword := 0, gtime := 7, cyc := 8, index := 0, engine := 0, flags := 1, gang := false }
def collecting (now : BitVec 64) : State :=
  { user.updOwner 1 fun o => { o with windows := [{ opened := 100, excs := [exc], also := [], reported := none }] } with gtime := now }
theorem test_window : leastKey [exc] = some exc ∧ (collecting 4196).canReport home = true ∧
    ends (exec (.collectionWindowClose 1) (collecting 4196)) (fun t => (t.owner 1).windows.map (·.reported) == [some (home, 0, 0)]) = true ∧
    ends (exec (.collectionWindowClose 1) (collecting 4195)) (fun t => (t.owner 1).windows.map (·.reported) == [none]) = true := by decide +kernel
/-- A store of another module at its gateway, and the ingress row of home slice 0. -/
def inbound : Flight := { packet (.slice 0) (.store 8 7) .none .queued with src := gateBase + 1 }
def arriving (r : Row) (st : BitVec 64) : State := (carrying { inbound with stamp := st }).updOwner 1 fun o => { o with ingress := [(208, r)] }
theorem test_ingress_meets : (arriving .reset 0).flight 4 = some { inbound with stamp := 0 } ∧ (arriving .reset 0).hostOrder inbound = true ∧
    inbound.dest.ingressRow = some (0, 0, 0) := by decide +kernel
theorem test_ingress : let good : Row := { route := mkRoute [0xA0], tag := 0, valid := true }
    stageIs (exec (.gatewayIngress 4) (arriving good 0)) (.net 9) = true ∧ stageIs (exec (.gatewayIngress 4) (arriving { good with tag := 1 } 1)) .queued = true ∧
    ends (exec (.gatewayIngress 4) (arriving { good with tag := 1 } 0)) (fun t => (t.flight 4).map (fun f => (f.stage, f.stamp)) == some (.queued, 1)) = true := by
  decide +kernel
theorem test_die_links : let s := user.updLink 3 fun l => { l with corrected := (user.die 0).linkthr.toNat + 1 }
    ends (exec (.ucieFlitReceive 3 0 false) user) (fun t => (t.link 3).corrected == 1 && (t.link 3).expect == 0) = true ∧
    ends (exec (.ucieFlitReceive 3 0 true) user) (fun t => (t.link 3).expect == 1) = true ∧ ends (exec (.ucieFlitReceive 3 5 true) user) (fun t => (t.link 3).expect == 0) = true ∧
    ends (exec (.linkRetrain 3) s) (fun t => (t.link 3).retraining) = true ∧ ends (exec (.linkRetrain 3) user) (fun t => !(t.link 3).retraining) = true ∧
    ends (exec (.linkRetrainComplete 3) (user.updLink 3 fun l => { l with retraining := true })) (fun t => (t.link 3).narrow) = true ∧
    ends (exec (.ucieFlitReceive 3 0 true) (user.updLink 3 fun l => { l with retraining := true })) (fun t => (t.link 3).expect == 0) = true := by decide +kernel

/-- A turn with interval 100 µs and lead 10 µs, in a phase, at a time. -/
def turning (p : TurnPhase) (now : BitVec 64) : State :=
  { super with gtime := now, turn := { super.turn with phase := p, interval := 100, lead := 10, last := 0, tturn := 100000, noShift := false } }
theorem test_notice : ends (exec .turnNotice (turning .none 90000)) (fun t => t.turn.phase == .notice && t.turn.tturn == 100000 &&
      (t.forme (super.onBed 0)).notice == some { tnext := 1, tturn := 100000, ack := false, split := false }) = true ∧
    ends (exec .turnNotice (turning .none 95000)) (fun t => t.turn.tturn == 100000) = true ∧
    ends (exec .turnNotice (turning .none 89999)) (fun t => t.turn.phase == .none) = true ∧
    ends (exec .turnNotice (turning .notice 90000)) (fun t => t.turn.phase == .notice && (t.forme (super.onBed 0)).notice == none) = true := by decide +kernel
theorem test_quiesce_and_drain : ends (exec .quiesce (turning .notice 100000)) (fun t => t.turn.phase == .quiesce && t.turn.tstop == 100000) = true ∧
    ends (exec .quiesce (turning .notice 99999)) (fun t => t.turn.phase == .notice) = true ∧ (turning .quiesce 140000).overrun = false ∧
    (turning .quiesce 140001).overrun = true ∧ (turning .quiesce 140000).drained = true ∧
    ({ turning .quiesce 140000 with flights := [packet (.slice 0) (.load 2) toReg (.net 1)] } : State).drained = false ∧
    ends (exec .drainComplete (turning .quiesce 140000)) (fun t => t.turn.phase == .shift && t.turn.tdrain == 140000) = true ∧
    ends (exec .drainComplete (turning .quiesce 140001)) (fun t => t.turn.phase == .quiesce) = true := by decide +kernel
theorem test_rounds : (turning .shift 150000).isStandard = true ∧ (turning .shift 150000).badCircuit = false ∧ (turning .shift 150000).shiftRounds = 32 ∧
    (turning .shift 150000).retraining = 0 ∧ ({ turning .shift 150000 with turns := 7 } : State).shiftRounds = 64 ∧
    ends (exec .shiftRound (turning .shift 150000)) (fun t => t.turn.rounds == 1) = true ∧ ends (exec .shiftRound (turning .quiesce 150000)) (fun t => t.turn.rounds == 0) = true := by
  decide +kernel
/-- A pause without a shift is over; a circuit that sends two beds to one. -/
def paused_ : State := let s := turning .shift 150000; { s with turn := { s.turn with noShift := true } }
def clashing : State := { turning .shift 150000 with imapNext := [(4096, 1)] }
theorem test_resume_meets : ({ turning .shift 150000 with turn := { (turning .shift 150000).turn with rounds := 32 } } : State).shiftRounds = 32 ∧
    (turning .shift 150000).imapNext = [] ∧ (turning .shift 150000).host.pending = [] ∧ ((List.range 64).map (turning .shift 150000).nextBed).Nodup := by decide +kernel
theorem test_resume : clashing.badCircuit = true ∧ clashing.shiftRounds = 0 ∧ paused_.shiftRounds = 0 ∧
    ends (exec .resume clashing) (fun t => t.turn.phase == .none && t.turns == 0 && t.mEvents == [(1, 2)]) = true ∧
    ends (exec .resume paused_) (fun t => t.turn.phase == .none && t.turns == 0 && t.mEvents == []) = true := by decide +kernel
theorem test_cancel : ends (exec (.turnCancel 1) (turning .quiesce 140001)) (fun t => t.turn.phase == .none && t.mEvents == [(1, 1)]) = true ∧
    ends (exec (.turnCancel 1) (turning .quiesce 140000)) (fun t => t.turn.phase == .quiesce) = true ∧
    ends (exec (.turnCancel 2) (turning .shift 150000)) (fun t => t.turn.phase == .none && t.mEvents == [(1, 2)]) = true ∧
    ends (exec (.turnCancel 2) paused_) (fun t => t.turn.phase == .shift) = true := by decide +kernel

/-- Context 0 has arrived at tree 3, as the only participant, with or without `.ss`, and waits. -/
def arrived_ (ss : Bool) : State :=
  { (treed.updC fun c => { c with run := .waiting, phase := .armed (treeWait 3 ss) }).updMyTile fun t =>
      { t with arrivals := [(3, { (Arrival.reset) with ctxs := 1, ss := if ss then 1 else 0 })] } with gtime := 77 }
theorem test_tree_meets : (arrived_ false).treeTiles 3 = [home] ∧ (arrived_ false).arrived home 3 = true ∧ (arrived_ false).boot = false ∧
    ((arrived_ false).ctx home 0).waitsTree 3 false = true ∧ ((arrived_ true).ctx home 0).waitsTree 3 true = true ∧
    (arrived_ true).allSs ((arrived_ true).treeTiles 3) 3 = true ∧ treed.arrived home 3 = false := by decide +kernel
theorem test_tree_release : ends (exec (.treeBarrierRelease 3) (arrived_ false)) (fun t => (t.tile home).arrivals.get .reset 3 == .reset && (t.owner 1).sstep == 0 &&
      (match (t.ctx home 0).c.phase with
       | .granted v => v.setWidth 64 == (77 : Word)
       | _ => false)) = true ∧
    ends (exec (.treeBarrierRelease 3) (regs (arrived_ true) fun r => { r with seq := 5 })) (fun t => (t.owner 1).sstep == 1 && (t.ctx home 0).r.seq == 0) = true ∧
    ends (exec (.treeBarrierRelease 3) treed) (fun t => (t.tile home).parts == [(3, 1)] && t.me.c.phase == .fresh) = true := by decide +kernel

/-! ### Witnesses: boot, host, debug, errors, owners -/

theorem test_module_reset : ends (exec .moduleResetRelease { machine with mem := bytes }) (fun t => t.mem == bytes && t.boot && t.tiles == [] && t.turns == 0) = true := by
  decide +kernel
/-- Which sites a die skips is open: the cluster's time and its sites are not. -/
theorem test_power_up_meets : let s : State := { State.reset with gtime := 2000 }
    s.boot = true ∧ (s.die 0).powered.getLsbD 1 = false ∧ s.host.phase = 0 ∧ s.host.goHeld = false ∧ (clusterSites 1).contains 4 = true ∧
    ends (exec (.clusterPowerUp 0 1) { s with gtime := 1999 }) (fun t => (t.die 0).powered == 0) = true := by decide +kernel
def awake_ (p : BitVec 8) : State := { booting with host := { booting.host with phase := p } }
theorem test_go : ends (exec .go State.reset) (fun t => t.host.goHeld && t.host.phase == 0) = true ∧
    ends (exec .go (awake_ 1)) (fun t => t.host.phase == 2 && t.host.goDone) = true ∧
    (booting.imageFault (2 ^ 47 + booting.host.bootaddr.toNat)) = 2 ∧
    ends (exec (.imageRelay 0) (awake_ 2)) (fun t => t.host.phase == 0xFF && t.host.fcode == 2 && (t.ctx (bootKey 0 0) 0).c.run == .halted) = true := by
  decide +kernel
/-- Whatever the signature's functions are, an image whose signature they take verifies. -/
theorem test_image_verifies (s : State) (pa : Nat) (h1 : paKind pa = .host ∧ paKind (pa + 0x101 - 1) = .host ∧ paKind (pa + (s.imageHeader pa).len - 1) = .host)
    (h2 : (s.imageHeader pa).formed = true ∧ s.memPoisoned pa (s.imageHeader pa).len = false ∧ (Config.fusedVersion 0).toNat ≤ (s.imageHeader pa).version)
    (h3 : Config.sha384 (s.mem.bytes (pa + 0xA0) 97) = Config.fusedDigest 0 ∧
      Config.ecdsaValid (s.measure pa (s.imageHeader pa).len) (s.mem.bytes (pa + 0x40) 96) (s.mem.bytes (pa + 0xA0) 97) = true) : s.imageFault pa = 0 := by
  obtain ⟨a, b, c⟩ := h1
  obtain ⟨d, e, f⟩ := h2
  simp_all [State.imageFault]
/-- A module whose corners all hold the image but one. -/
def relaying : State :=
  { State.reset with host := { State.reset.host with phase := 3 },
                     dies := ((List.range 64).filter (· != 5)).map fun d => (d, { State.reset.die 0 with imageOk := true }) }
theorem test_relay_meets : relaying.boot = true ∧ relaying.host.phase = 3 ∧ (relaying.die 5).imageOk = false ∧ (relaying.die 0).imageOk = true := by decide +kernel
def flooded : State := booting.updDie 0 fun d => { d with floods := [{ dtab := 0x100, dbar := 64, answered := [7], arriving := [] }] }
theorem test_discovery : ends (exec (.discoveryAnswer 0 9) flooded) (fun t => (t.die 0).floods.map (fun q => (q.answered, q.arriving)) == [([7, 9], [9])]) = true ∧
    ends (exec (.discoveryAnswer 0 7) flooded) (fun t => (t.die 0).floods.map (·.answered) == [[7]]) = true ∧
    flooded.answerTile 0 9 = some (bootKey 0 0) ∧ flooded.answerTile 0 40 = some (bootKey 0 0) ∧ (flooded.tile (bootKey 0 0)).store.wf = true := by decide +kernel
/-- Site 9's word is stored; the barrier object at 64 expects two arrivals more. -/
def arrivingAt : State := (booting.updDie 0 fun d => { d with floods := [{ dtab := 0x100, dbar := 64, answered := [7, 9], arriving := [9] }] }).tileWrite (bootKey 0 0) 0 64 16 (2 * 4096 + 2)
theorem test_discovery_arrives : ends (exec (.discoveryAnswer 0 9) arrivingAt) (fun t => (t.die 0).floods.map (fun q => (q.answered, q.arriving)) == [([7, 9], [])] &&
    t.tileRead (bootKey 0 0) 0 64 4 == 2 * 4096 + 1) = true ∧ arrivingAt.answerTile 0 9 = some (bootKey 0 0) := by decide +kernel

theorem test_doorbells : let h := user.host
    ends (exec (.bstatClear 0x1000000) { user with host := { h with hovf := true, werr := true } }) (fun t => !t.host.hovf && t.host.werr) = true ∧
    ends (exec .hdoor { user with host := { h with hmsg := 5 } }) (fun t => t.host.hqueue == [5]) = true ∧
    ends (exec .hdoor { user with host := { h with hqueue := List.replicate 16 1 } }) (fun t => t.host.hovf && t.host.hqueue.length == 16) = true ∧
    ends (exec .ddoorClear { user with host := { h with ddoor := true } }) (fun t => !t.host.ddoor) = true ∧
    ends (exec .ddoorClear { user with host := { h with ddoor := true, dwait := [3, 4] } }) (fun t => t.host.dmsg == 3 && t.host.dwait == [4] && t.host.ddoor) = true := by
  decide +kernel
theorem test_host_registers : let w (o : Nat) (v : BitVec 64) (p : State → Bool) : Bool := ends (exec (.registerWrite o v) user) p
    w 0x010 7 (·.host.bootaddr == 7) = true ∧ w 0x200 9 (·.host.csel == 9) = true ∧ w 0x080 0 (·.host.hqueue.length == 1) = true ∧ w 0 7 (fun t => t.host.csel == 0) = true ∧
    w 0x020 7 (·.host.winbase == 0) = true ∧ w 0x028 7 (·.host.winkey == 0) = true := by
  decide +kernel
def windowed (p : BitVec 8) : State :=
  { user with host := { user.host with phase := p }, keys := [(0, { KeySlot.reset with loaded := true, owner := 1 })], nextId := 9 }
theorem test_host_window : windowOpen (windowed 6) 64 8 ∧ (windowed 5).windowRefused 64 8 = true ∧ (windowed 6).host.winbase = 0 ∧
    ends (exec (.windowWrite 64 8 7) (windowed 6)) (fun t => t.flights.map (fun f => (f.addr, f.op, f.owner)) == [(64, .store 8 7, 1)]) = true ∧
    ends (exec (.windowRead 64 8) (windowed 6)) (fun t => t.flights.map (fun f => (f.addr, f.op)) == [(64, .load 8)]) = true ∧
    ends (exec (.windowWrite 64 8 7) (windowed 5)) (fun t => t.host.werr && t.flights.length == 0) = true ∧
    ends (exec (.windowRead 64 8) (windowed 5)) (fun t => t.host.werr && t.host.rdata == BitVec.allOnes 512) = true := by unfold windowOpen; decide +kernel
theorem test_attestation_meets : let s : State := { user with host := { user.host with phase := 6, hqueue := [0] } }
    s.host.ddoor = false ∧ recField (0 : BitVec 512) 0 1 = 0 ∧ ends (exec .attestationRequest user) (fun t => t.host.hqueue == []) = true := by decide +kernel

/-- The host's control block selects tile 0 of owner 1. -/
def debugging (r : Run) : State := (user.updC fun c => { c with run := r }).updOwner 1 (fun o => { o with formes := 1 }) |> fun s =>
  { s with host := { s.host with phase := 6, csel := 0x10000 } }
theorem test_debug : (debugging .ready).selected = some home ∧ user.selected = none ∧ ((debugging .ready).tile home).stile = false ∧
    ((debugging .ready).tile home).stopArea = [] ∧ ends (exec (.debugStopRequest 1) (debugging .ready)) (fun t => t.me.c.run == .debugStop && t.me.c.why == 1) = true ∧
    ends (exec (.debugStopRequest 2) (debugging .ready)) (fun t => t.me.c.run == .ready) = true ∧
    ends (exec (.debugStep 1) (debugging .debugStop)) (fun t => t.me.c.run == .ready && t.me.c.stepping) = true ∧
    ends (exec (.debugGo 1) (debugging .debugStop)) (fun t => t.me.c.run == .ready && !t.me.c.stepping) = true := by decide +kernel
theorem test_budgets : let s := debugging .ready
    (s.budgetSums 4096).1 + 500 ≤ 206250 ∧ (s.budgetSums 4096).2 + 9 ≤ 8800 ∧ 206250 < (s.budgetSums 4096).1 + 65535 ∧
    ends (exec (.budgetWrite 0x901F4) s) (fun t => (t.cluster 4096).ebudNext == some 500 && (t.cluster 4096).ibudNext == some 9 && (t.cluster 4096).ebud == 3222) = true ∧
    ends (exec (.budgetWrite 0xFFFF) s) (fun t => (t.cluster 4096).ebudNext == none) = true := by decide +kernel
def sampled (l : Nat) (from_ now : BitVec 64) : State := { user.updCluster 4096 (fun q => { q with lev := l, levFrom := from_ }) with gtime := now }
theorem test_monitors : let go (l : Nat) (a b : BitVec 64) (temp : BitVec 10) (m : Nat) : Bool := ends (exec (.monitorSample 4096 temp 5 6) (sampled l a b)) fun t => (t.cluster 4096).lev == m
    go 0 0 10000 420 3 && go 1 0 10000 410 1 && go 2 0 200000 100 1 && go 2 150000 200000 100 2 && go 0 0 10001 420 0 = true := by decide +kernel
theorem test_trace_drain : ends (exec (.traceCycRecord home 0) (on user fun t => { t with trace := { t.trace with buf := [1, 2], pos := 5 } })) (fun t =>
    t.myTile.trace.buf == [] && t.myTile.trace.pos == 7) = true := by decide +kernel
theorem test_errors : let e (p a : Nat) (q : State → Bool) : Bool := ends (exec (.uncorrectableError p home a) user) q
    e 0 64 (fun t => t.myTile.padPoison == [8]) && e 1 64 (fun t => t.myTile.storePoison == [8]) && e 2 9 (fun t => t.myTile.xPoison == [9]) &&
    e 3 9 (fun t => t.myTile.vPoison == [9]) && e 4 640 (fun t => t.memPoison == List.range' 80 8) && e 18 9 (fun t => t.myTile.xPoison == []) = true := by decide +kernel
/-- An owner with a complete proof of superstep 4, now in superstep 9. -/
def proven : State := user.updOwner 1 fun o => { o with sstep := 9, proof := { o.proof with complete := some { number := 1, sstep := 4, heads := [], cells := [], fresh := [] } } }
theorem test_rollback : (proven.tilesOf 1) = [home] ∧ ((proven.tilesOf 1).foldl State.clearTile proven).ownerQuiet 1 = true ∧ (user.owner 1).proof.complete = none ∧
    ends (exec (.rollback 1) proven) (fun t => (t.owner 1).sstep == 4 && (t.ctx home 0).c.run == .idle) = true := by decide +kernel

/-- A request of the host's. -/
def req (l : List (Nat × Nat)) : BitVec 512 := rec_ l
def asking (r : BitVec 512) : State := { user with host := { user.host with phase := 6, hqueue := [r] } }
/-- Owner 2 is created with a forme; owner 1 grows by one, is retired, is given key slot 5 and loses it. -/
def create : BitVec 512 := req [(0, 1), (1, 2), (2, 1)]
def grow : BitVec 512 := req [(0, 2), (1, 1), (2, 1)]
def shrink : BitVec 512 := req [(0, 3), (1, 1), (2, 1)]
def retire : BitVec 512 := req [(0, 4), (1, 1)]
def give : BitVec 512 := req [(0, 5), (1, 1), (4, 5), (6, 1)]
def take_ : BitVec 512 := req [(0, 6), (1, 1), (4, 5), (6, 1)]
/-- Owner 1 has two formes, and firmware has the beds. -/
def landlord (r : BitVec 512) : State := (asking r).updOwner 1 fun o => { o with formes := 2 }
theorem test_requests_meet : ([(1, create), (2, grow), (3, shrink), (4, retire), (5, give), (6, take_)] : List (Nat × BitVec 512)).all (fun e =>
      (landlord e.2).reqStatus e.2 == 0 && recField e.2 0 1 == e.1 && !(landlord e.2).ownerBusy (recField e.2 1 1) && !(landlord e.2).host.ddoor) = true := by decide +kernel
theorem test_refused_requests : let st (i : Instr) (s : State) (r : BitVec 512) (n : Nat) : Bool := ends (exec i s) fun t => t.host.dmsg == ownerReply r n 0 0 && t.host.hqueue == []
    st .ownerCreate (asking (req [(0, 1), (1, 1), (2, 1)])) (req [(0, 1), (1, 1), (2, 1)]) 1 && st .ownerGrow (asking (req [(0, 2), (1, 1)])) (req [(0, 2), (1, 1)]) 3 &&
    st .ownerShrink (asking shrink) shrink 5 && st .ownerRetire (asking (req [(0, 4), (1, 9)])) (req [(0, 4), (1, 9)]) 1 &&
    st .ownerCreate { landlord create with imap := (List.range 64).map fun b => (b, BitVec.ofNat 64 (1 + 64 * b)) } create 2 = true := by decide +kernel

def bedded (r : BitVec 512) : State := { landlord r with imap := [(0, 4096)] }
theorem test_granted_requests : (bedded create).treesFree (recField create 0x10 8) = true ∧ 1 ≤ ((bedded create).freeBeds 0).length ∧ (bedded create).reqStatus create = 0 ∧
    ends (exec .ownerCreate (bedded create)) (fun t => t.host.pending.map (fun p => (p.req, p.stage, p.formes.length)) == [(create, 0, 1)] && t.host.hqueue == []) = true ∧
    ends (exec .ownerGrow (bedded grow)) (fun t => t.host.pending.map (fun p => (p.req, p.stage, p.formes.length)) == [(grow, 0, 1)]) = true ∧
    ends (exec .ownerShrink (landlord shrink)) (fun t => t.host.pending.map (fun p => (p.req, p.stage)) == [(shrink, 1)]) = true ∧
    ends (exec .ownerRetire (landlord retire)) (fun t => t.host.pending.map (fun p => (p.req, p.stage)) == [(retire, 1)]) = true := by decide +kernel
def holding (o : Nat) (r : BitVec 512) : State := { landlord r with keys := [(5, { KeySlot.reset with loaded := true, owner := o, holder := some o })] }
/-- Line 1025 was last written under slot 6's keys, and no line under slot 5's. -/
def written_ : State := let s := holding 1 take_
  { s with keys := s.keys ++ [(6, { KeySlot.reset with loaded := true, owner := 1, data := 9 })], lineKeys := [(1025, some 9)], mem := [(65600, 7)] }
theorem test_release_keeps : (written_.lineRead 6 1025).toNat = 7 ∧ written_.ownerQuiet 1 = true ∧ written_.slotsQuiet (reqSlots take_) = true ∧
    ends (exec .releaseKeys written_) (fun t => t.mem == written_.mem && (t.lineRead 6 1025).toNat == 7 && (t.keys.get .reset 6).loaded) = true := by decide +kernel
theorem test_keys : ends (exec .assignKeys (landlord give)) (fun t => (t.keys.get .reset 5).holder == some 1 && (t.keys.get .reset 6).holder == none && t.host.dmsg == ownerReply give 0 0 0) = true ∧
    ends (exec .assignKeys (holding 2 give)) (fun t => (t.keys.get .reset 5).holder == some 2 && t.host.dmsg == ownerReply give 4 0 0) = true ∧
    ends (exec .releaseKeys (holding 1 take_)) (fun t => !(t.keys.get .reset 5).loaded && (t.keys.get .reset 5).holder == none && t.host.dmsg == ownerReply take_ 0 0 0) = true ∧
    ends (exec .releaseKeys (holding 2 take_)) (fun t => (t.keys.get .reset 5).loaded && t.host.dmsg == ownerReply take_ 4 0 0) = true ∧
    (holding 1 take_).ownerQuiet 1 = true ∧ ({ holding 1 take_ with flights := [flying] } : State).ownerQuiet 1 = false ∧
    ends (exec .releaseKeys { holding 1 take_ with flights := [flying] }) (fun t => (t.keys.get .reset 5).loaded && t.host.hqueue == [take_]) = true := by decide +kernel
/-- Forme 0 of owner 1 stands on bed 0 and waits for the scrub of its die. -/
def scrubbing : State := { (local_.updForme 64 fun w => { w with held := true, scrubs := [1024] }) with imap := [(0, 1)] }
theorem test_scrub_complete : scrubbing.onBed 0 = 64 ∧ scrubbing.sinceTurn = false ∧ (scrubbing.forme 64).scrubs = [1024] ∧ scrubbing.host.pending = [] ∧
    ends (exec (.scrubComplete 0) scrubbing) (fun t => !(t.forme 64).held && (t.tile home).pad == [] && (t.tile home).store == [] && (t.tile home).xr.get 0 2 == 0) = true ∧
    ends (exec (.scrubComplete 1) scrubbing) (fun t => (t.forme 64).held && (t.tile home).pad == bytes) = true := by decide +kernel

/-! ### Witnesses: tails and frames -/

def wait5 : STail := { noTail with wsem := 7, wthr := 5, wen := true, cons := true }
/-- Below the threshold every form waits, or is stopped by its level or its operands; at it the wait passes. -/
theorem test_tail_waits : user.me.c.phase = .fresh ∧ user.myTile.sdbg = false ∧ wait5.wen = true ∧
    (formsS0.all fun i => (ends (exec (i { s0 with t := wait5 }) (user.setSem home 7 4)) fun t => t.me.c.run == .waiting && t.me.c.waitOn == .sem 7 5) &&
      ends (exec (i { s0 with t := wait5 }) (user.setSem home 7 6)) fun t => t.sem home 7 == 1 || t.me.c.fault.isSome) = true ∧
    (formsSDAB.all fun i => (ends (exec (i { sdab 9 2 4 with t := wait5 }) (user.setSem home 7 4)) fun t => t.me.c.run == .waiting || t.me.c.fault.isSome)) = true := by
  decide +kernel
theorem test_frame_meets : ends (exec (.add (sdab 9 2 4)) user) (fun t => t.rx 9 == 4101 && t.myTile.sems == user.myTile.sems && decide (t.mem = user.mem)) = true := by decide +kernel
/-- A step from a state in the canonical form, a store that writes 0 over a byte. -/
theorem test_memory_form_kept : (local_.memForm = true) ∧ ends (exec (.stB (mab 0 5 0)) local_) (fun t => t.memForm && (t.tile home).pad.length == 7) = true := by decide +kernel

/-! ### Witnesses: clauses on stops -/

/-- A row that is misaligned, one that runs past the tile store's end, and a poisoned one (R72, R220). -/
def rowRec (a : Nat) : BitVec 512 := rec_ [(0, 1), (8, 0x85), (0x18, 2 ^ 62 + a), (0x20, 32)]
def rowsAt (a : Nat) : State := rows (rowRec a)
theorem test_rows_stop :
    rowStops (rowsAt 1) home (rowRec 1) 0 0x18 0x20 0 0x23 ∧
    rowStops (rowsAt 0x5FFF0) home (rowRec 0x5FFF0) 0 0x18 0x20 0 0x24 ∧
    rowStops (on (rowsAt 0) fun t => { t with storePoison := [1] }) home (rowRec 0) 0 0x18 0x20 0 0x25 ∧
    ([(rowsAt 1, 0x23), (rowsAt 0x5FFF0, 0x24), (on (rowsAt 0) fun t => { t with storePoison := [1] }, 0x25)] : List (State × Nat)).all (fun e =>
      ends (exec (.loadw home) e.1) fun t => t.myTile.mq == [] && t.myTile.tagerr == 0x20 && (t.myTile.tagst.get 0 5).toNat == e.2) = true := by
  unfold rowStops rowInside; decide +kernel
/-- A retire whose owner's slot 5 waits for no access any more (R363). -/
def lastKeys : State :=
  { holding 1 retire with host := { (holding 1 retire).host with hqueue := [], pending := [{ req := retire, formes := [], beds := 0, stage := 3, tpause := 0 }] } }
theorem test_retired_keys : lastKeys.heldKeys 1 = [5] ∧ lastKeys.slotsQuiet (lastKeys.heldKeys 1) = true ∧
    ends (exec .releaseKeys lastKeys) (fun t => !(t.keys.get .reset 5).loaded && t.host.pending == [] && t.host.dmsg == ownerReply retire 0 0 0) = true ∧
    ends (exec .releaseKeys { lastKeys with flights := [{ flying with slot := 5 }] }) (fun t => t.host.pending.length == 1) = true := by decide +kernel
/-- A reply to a context of a stopped tile waits in its stop area (R383). -/
def parkedTile (n : Nat) : State := (serving 0x110000 0 onFault).updTile home fun t =>
  { t with ctxs := t.ctxs.set 2 { Ctx.reset with c := { Sched.reset with run := .debugStop } }, stopArea := List.replicate n (.event 0) }
theorem test_reply_to_stopped_tile : ((parkedTile 0).tile home).hasStop = true ∧
    ends (exec (.mbxr (sdab 9 2 4)) (parkedTile 0)) (fun t => t.me.c.run == .waiting && (t.tile home).stopArea.length == 1 && (t.ctx home 1).c.run == .blocked) = true ∧
    ends (exec (.mbxr (sdab 9 2 4)) (parkedTile 1024)) (fun t => (t.tile home).stopArea.length == 1024 && t.me.r.pc == 0) = true := by decide +kernel
/-- The last cluster of the module powers up with `go` held. -/
def lastCluster : State := { State.reset with
  gtime := 20000000, host := { State.reset.host with goHeld := true },
  dies := (List.range 64).map fun d => (d, { State.reset.die 0 with powered := if d = 63 then BitVec.allOnes 64 >>> 1 else BitVec.allOnes 64 }) }
theorem test_last_cluster_meets : lastCluster.boot = true ∧ (lastCluster.die 63).powered.getLsbD 63 = false ∧ lastCluster.host.phase = 0 ∧
    200000 * 63 + 2000 * 63 ≤ lastCluster.gtime.toNat ∧ (List.range 63).all (fun d => (lastCluster.die d).powered == BitVec.allOnes 64) = true := by decide +kernel
/-- A corner that keeps the anchors of the image passes it on (R342). -/
theorem test_fetch_meets : (awake_ 2).boot = true ∧ (awake_ 2).host.phase = 2 ∧ (awake_ 2).host.goDone = false := by decide +kernel

end Sys2Proof.Tests
end

section
/-! SUPPORT. The machine after module reset (R340, R349). -/

namespace Sys2Proof.Proofs

open Sys2Proof Sys2Proof.Machine

/-- After reset the firmware owner alone is listed. -/
theorem reset_owner (o : Nat) :
    State.reset.owner o = if o = firmware then { Owner.reset with live := true, formes := 64 } else .reset := rfl

/-- After reset every tile is in its reset state. -/
theorem reset_tile (k : Nat) : State.reset.tile k = .reset := rfl

/-- Settles O57: nothing but the firmware owner is listed at reset, so everything else reads its reset value. -/
theorem resetState : Obligations.ResetState := by
  refine ⟨rfl, rfl, rfl, rfl, rfl, rfl, rfl, rfl, fun k c => ⟨rfl, rfl, rfl⟩, fun k n => ?_, fun o => ?_, fun n => ⟨rfl, rfl⟩,
    fun g => rfl⟩
  · rw [State.sem, reset_tile]
    exact ⟨rfl, rfl, rfl, rfl, rfl, rfl, rfl, rfl, rfl⟩
  · rw [reset_owner]
    by_cases h : o = firmware <;> simp [h, Owner.reset]

end Sys2Proof.Proofs
end

section
/-! SUPPORT. Vector instructions at their issue (R12, R184 to R207, R224): what a push leaves, which instruction pushes what, and the
checks on the lanes of an access. -/

namespace Sys2Proof.Machine

open Sys2Proof.Claims

/-! ### Queueing a command (R12, R188) -/

@[simp] theorem State.passWait_vq (s : State) (t : Option STail) : (s.passWait t).myTile.vq = s.myTile.vq := by
  simpa [State.myTile] using State.passWait_tile (·.vq) (fun _ _ _ => rfl) s t s.cur

/-- What is pushed is the command that captures the state's values, unless two are queued. -/
theorem State.pushV_eq (s : State) (op : VOp) (d a b : Nat) (va vb : Word) (space : BitVec 2) (sig : Option (BitVec 8 × Nat)) :
    s.pushV op d a b va vb space sig =
      if 2 ≤ s.myTile.vq.length then .stall else .ok (vqueued s (vcmd s op d a b va vb space sig)) := rfl

variable {s : State} {h : Head} {t : Option STail} {op : VOp} {d a b : Nat} {va vb : Word} {space : BitVec 2}

/-- An Execute part that pushes a command ends as `queues` says. -/
theorem conclude_pushV :
    s.conclude h t true true ((s.passWait t).pushV op d a b va vb space (t.bind STail.doneSig)) =
      queues s h t op d a b va vb space := by
  rw [State.pushV_eq, State.passWait_vq]
  unfold queues
  split
  · rfl
  · cases t <;> rfl

/-- The same behind a check of an operand word. -/
theorem conclude_checked_pushV {bad ok : Prop} [Decidable bad] [Decidable ok] (hb : bad ↔ ¬ ok) (x : FaultArg) :
    s.conclude h t true true (if bad then .trap x else (s.passWait t).pushV op d a b va vb space (t.bind STail.doneSig)) =
      if ok then queues s h t op d a b va vb space else .next (s.takeFault x) := by
  by_cases hok : ok
  · rw [if_neg (by tauto), if_pos hok, conclude_pushV]
  · rw [if_pos (by tauto), if_neg hok, conclude_trap]

/-! ### The rows of lane instructions -/

/-- Every three-register instruction is its push. -/
theorem exec_vThreeRows : ∀ row ∈ vThreeRows, ∀ (s : State) (f : SDAB), exec (row.1 f) s =
    s.issue f.h (some f.t) .u [(f.d, row.2.2.1), (f.a, row.2.2.2), (f.b, row.2.2.2)] false true fun s _ =>
      s.pushV row.2.1 f.d.num f.a.num f.b.num 0 0 0 f.t.doneSig := by
  unfold vThreeRows
  repeat refine List.forall_mem_cons.2 ⟨fun _ _ => rfl, ?_⟩
  exact List.forall_mem_nil _

/-- Every two-register instruction is its push. -/
theorem exec_vTwoRows : ∀ row ∈ vTwoRows, ∀ (s : State) (f : SDA), exec (row.1 f) s =
    s.issue f.h (some f.t) .u [(f.d, row.2.2.1), (f.a, row.2.2.2)] false true fun s _ =>
      s.pushV row.2.1 f.d.num f.a.num 0 0 0 0 f.t.doneSig := by
  unfold vTwoRows
  repeat refine List.forall_mem_cons.2 ⟨fun _ _ => rfl, ?_⟩
  exact List.forall_mem_nil _

/-- Every lane instruction with an immediate is its push. -/
theorem exec_vImmRows : ∀ row ∈ vImmRows, ∀ (s : State) (f : IDA), exec (row.1 f) s =
    s.issue f.h none .u [(f.d, .v 0), (f.a, .v 0)] false true fun s _ => s.pushV row.2 f.d.num f.a.num 0 0 (f.imm.setWidth 64) 0 none := by
  unfold vImmRows
  repeat refine List.forall_mem_cons.2 ⟨fun _ _ => rfl, ?_⟩
  exact List.forall_mem_nil _

/-- Every instruction with a control word is its push behind a test that the word is below its bound. -/
theorem exec_vControlRows : ∀ row ∈ vControlRows, ∀ (s : State) (f : SDAB),
    ∃ ok : Nat → Bool, (∀ w : Word, ok w.toNat = true ↔ w.toNat < row.2.2) ∧ exec (row.1 f) s = vctlF row.2.1 ok f s := by
  have hblock (w : Word) : decide (w.toNat < 3) = true ↔ w.toNat < 3 := decide_eq_true_iff
  unfold vControlRows
  refine List.forall_mem_cons.2 ⟨fun _ _ => ⟨fun _ => true, fun w => iff_of_true rfl w.isLt, rfl⟩, ?_⟩
  refine List.forall_mem_cons.2 ⟨fun _ _ => ⟨fun n => decide (n ≤ 0x0A), fun w => decide_eq_true_iff.trans Nat.lt_succ_iff.symm, rfl⟩, ?_⟩
  refine List.forall_mem_cons.2 ⟨fun _ _ => ⟨fun n => decide (n < 3), hblock, rfl⟩, ?_⟩
  exact List.forall_mem_cons.2 ⟨fun _ _ => ⟨fun n => decide (n < 3), hblock, rfl⟩, List.forall_mem_nil _⟩

/-! ### Accumulator moves (R224) -/

/-- A move out of an accumulator only checks its operand word. -/
theorem State.mxrw_mxrd (s : State) (d a : Nat) (w : Word) (sig : Option (BitVec 8 × Nat)) :
    s.mxrw .mxrd d a w sig = if 64 ≤ w.toNat then .trap { cause := 0x02 } else s.pushV .mxrd d a 0 0 w 0 sig := by
  simp [State.mxrw]

/-- A move of plain rows, whose operand word has bit 5 clear, is queued at once. -/
theorem State.mxrw_plain (s : State) (op : VOp) (d a : Nat) {w : Word} (sig : Option (BitVec 8 × Nat)) (hw : w.toNat < 32) :
    s.mxrw op d a w sig = s.pushV op d a 0 0 w 0 sig := by
  have h5 : w.getLsbD 5 = false := Nat.testBit_lt_two_pow hw
  rw [State.mxrw, if_neg (by omega), if_neg (by rw [h5, Bool.and_false]; exact Bool.false_ne_true)]

/-! ### vsetvl (R185) -/

/-- The vector length after `vsetvl` with n: clamped to 1 to 32, kept for 0. -/
theorem Regs.setVl_eq (r : Regs) (n : Nat) :
    r.setVl n = { r with vl := if n = 0 then r.vl else if 32 < n then 32 else BitVec.ofNat 6 n } := by
  unfold Regs.setVl clampNat
  by_cases h0 : n = 0
  · simp [h0]
  · have h1 : ¬ n < 1 := by omega
    by_cases h32 : 32 < n <;> simp [h0, h1, h32]

/-- What `vsetvl` does. -/
theorem State.vsetvl_eq (s : State) (d n : Nat) (k : BitVec 3) :
    let vl : BitVec 6 := if n = 0 then s.me.r.vl else if 32 < n then 32 else BitVec.ofNat 6 n
    s.vsetvl d n k = .ok ((s.updR fun r => { r with vl := vl, msel := k }).wx d
      (BitVec.ofNat 64 (vl.toNat + 256 * k.toNat + (if n = 0 then 65536 else 0)))) := by
  have hr : (s.updR fun r => { r.setVl n with msel := k }) =
      s.updR fun r => { r with vl := if n = 0 then s.me.r.vl else if 32 < n then 32 else BitVec.ofNat 6 n, msel := k } := by
    simp only [State.updR, State.upd, State.updCtx, Regs.setVl_eq]
    rfl
  have hz : bit (n == 0) * 65536 = if n = 0 then 65536 else 0 := by by_cases h0 : n = 0 <;> simp [bit, h0]
  simp only [State.vsetvl, hr, hz, Nat.mul_comm k.toNat, State.me_updR]

/-! ### Vector accesses (R190 to R192) -/

/-- The model's sign extension of a 32-bit value is the one of bit vectors. -/
theorem sextLow_ofNat (v : BitVec 32) : sextLow 32 (BitVec.ofNat 64 v.toNat) = v.signExtend 64 := by
  have hv : (BitVec.ofNat 64 v.toNat).toNat = v.toNat := by simp; omega
  have hs : signedOf 32 v.toNat = v.toInt := by
    rw [signedOf, Nat.mod_eq_of_lt v.isLt, BitVec.toInt_eq_toNat_cond]
    split <;> split <;> omega
  rw [sextLow, hv, hs, BitVec.signExtend]

/-- The active lanes are those below the length that the mask selects (R186). -/
theorem mem_activeLanes {vl i : Nat} {m : BitVec 32} : i ∈ activeLanes vl m ↔ i < 32 ∧ i < vl ∧ m.getLsbD i = true := by
  simp [activeLanes, laneActive]

/-- The lanes that an access checks are the active ones. -/
theorem mem_activeLanes_now (s : State) (i : Nat) :
    i ∈ activeLanes s.me.r.vl.toNat (s.me.r.vm s.me.r.msel.toNat) ↔ activeNow s i := mem_activeLanes

/-- Lanes that are all aligned and inside tile memory pass the checks. -/
theorem laneCheck_none {space : BitVec 2} {lanes : List Nat} {addr : Nat → Word} (hs : space.toNat < 2)
    (hl : ∀ i ∈ lanes, (addr i).toNat % 4 = 0 ∧ (addr i).toNat + 4 ≤ limitOf space) : laneCheck space lanes addr = none := by
  have hlim : spaceLimit space.toNat = limitOf space := by
    obtain rfl | rfl : space = 0 ∨ space = 1 := by bv_omega
    · rfl
    · rfl
  have hal : lanes.find? (fun i => (addr i).toNat % 4 != 0) = none :=
    List.find?_eq_none.2 fun i hi => by simp [(hl i hi).1]
  have hin : lanes.find? (fun i => decide (spaceLimit space.toNat < (addr i).toNat + 4)) = none :=
    List.find?_eq_none.2 fun i hi => by have := (hl i hi).2; simp [hlim]; omega
  simp [laneCheck, hal, hin, show ¬ 2 ≤ space.toNat by omega]

/-- The lowest misaligned lane is the one that the fault names. -/
theorem laneCheck_misaligned {space : BitVec 2} {lanes : List Nat} {addr : Nat → Word} {i : Nat}
    (h : lanes.find? (fun i => (addr i).toNat % 4 != 0) = some i) :
    laneCheck space lanes addr = some { cause := 0x04, address := addr i, detail := BitVec.ofNat 64 i } := by
  simp [laneCheck, h]

/-- The first active lane that fails a test is the lowest one. -/
theorem find_activeLanes {vl i : Nat} {m : BitVec 32} {p : Nat → Bool} (hi : i ∈ activeLanes vl m) (hp : p i = true)
    (hlow : ∀ j, j < i → j ∈ activeLanes vl m → p j = false) : (activeLanes vl m).find? p = some i := by
  have hact := mem_activeLanes.1 hi
  rw [activeLanes, List.find?_filter, List.find?_range_eq_some]
  refine ⟨?_, List.mem_range.2 hact.1, fun j hj => ?_⟩
  · simp [laneActive, hact, hp]
  · by_cases hja : j ∈ activeLanes vl m
    · simp [hlow j hj hja]
    · have : laneActive vl m j = false := by
        simpa [activeLanes, show j < 32 by omega] using hja
      simp [this]

/-- No queued instruction of a context without vector instructions writes its mask. -/
theorem Tile.maskHeld_of_vecOpen {t : Tile} {c : Nat} (h : t.vecOpen c = false) (n : Nat) :
    (t.vq.any fun q => q.cap.ctx == c && q.writesMask n) = false := by
  rw [Tile.vecOpen, List.any_eq_false] at h
  exact List.any_eq_false.2 fun q hq => by simp [h q hq]

/-- The address of a lane as an access computes it. -/
def laneAddr (s : State) (ea : Word) (idx : Option Nat) (stride : Word) (i : Nat) : Word :=
  match idx with
  | some n => ea + sextLow 32 (BitVec.ofNat 64 (lane (s.rv n) i))
  | none => ea + BitVec.ofNat 64 i * stride

/-- An access that nothing holds is decided by the checks on its lanes. -/
theorem State.vmem_checks {s : State} {idx : Option Nat} (op : VOp) (space : BitVec 2) (d a b : Nat) (ea stride : Word)
    (ha : s.acqHeld = false) (hm : s.me.r.msel ≠ 0 → s.myTile.vecOpen s.curCtx = false)
    (hi : idx.isSome = true → s.myTile.vecOpen s.curCtx = false) :
    s.vmem op space d a b ea idx stride =
      (laneCheck space (activeLanes s.me.r.vl.toNat (s.me.r.vm s.me.r.msel.toNat)) (laneAddr s ea idx stride)).elim
        (s.pushV op d a b ea stride space none) .trap := by
  have hmask : (s.me.r.msel != 0 && s.myTile.vq.any fun q => q.cap.ctx == s.curCtx && q.writesMask s.me.r.msel.toNat) = false := by
    by_cases h0 : s.me.r.msel = 0
    · simp [h0]
    · rw [Tile.maskHeld_of_vecOpen (hm h0), Bool.and_false]
  have hidx : (idx.isSome && s.myTile.vecOpen s.curCtx) = false := by
    cases idx with
    | none => rfl
    | some n => simp [hi rfl]
  unfold State.vmem
  simp only [ha, hmask, hidx, Bool.or_false, Bool.false_eq_true, if_false]
  split
  · next x hc => exact (congrArg (Option.elim · (s.pushV op d a b ea stride space none) Res.trap) hc).symm
  · next hc => exact (congrArg (Option.elim · (s.pushV op d a b ea stride space none) Res.trap) hc).symm

/-- An access whose active lanes pass is queued. -/
theorem conclude_vmem {idx : Option Nat} {addr : Nat → Word} {ea stride : Word} (hok : lanesOk s space idx.isSome addr)
    (haddr : ∀ i, i < 32 → laneAddr s ea idx stride i = addr i) :
    s.conclude h none true true ((s.passWait none).vmem op space d a b ea idx stride) = queues s h none op d a b ea stride space := by
  obtain ⟨hacq, hspace, hmask, hidx, hlanes⟩ := hok
  have hpass : laneCheck space (activeLanes s.me.r.vl.toNat (s.me.r.vm s.me.r.msel.toNat)) (laneAddr s ea idx stride) = none :=
    laneCheck_none hspace fun i hi => by
      have hact := (mem_activeLanes_now s i).1 hi
      rw [haddr i hact.1]
      exact hlanes i hact
  rw [passWait_none, State.vmem_checks op space d a b ea stride hacq hmask hidx, hpass]
  exact conclude_pushV

/-- The lanes of a unit stride of 4 bytes. -/
theorem laneAddr_unit (s : State) (ea : Word) (i : Nat) : laneAddr s ea none 4 i = ea + BitVec.ofNat 64 (4 * i) := by
  rw [laneAddr, Nat.mul_comm, BitVec.ofNat_mul]
  rfl

/-- The lanes of an indexed form. -/
theorem laneAddr_index (s : State) (ea stride : Word) (n i : Nat) : laneAddr s ea (some n) stride i = indexAt s ea n i := by
  have hlane : lane (s.rv n) i = (laneOf (s.rv n) i).toNat := by
    simp [lane, laneOf, bitsAt, Nat.shiftRight_eq_div_pow]
  rw [laneAddr, indexAt, hlane, sextLow_ofNat]

end Sys2Proof.Machine

namespace Sys2Proof.Proofs

open Sys2Proof Sys2Proof.Machine Sys2Proof.Claims

/-- Lane instructions: each is its row's push, and the push ends as `queues` says. -/
theorem vectorCommandsAreQueued : VectorCommandsAreQueued := by
  refine ⟨fun s f row hr hd => ?_, fun s f row hr hd => ?_, fun s f row hr hd => ?_, fun s f row hr hd => ?_⟩
  · rw [exec_vThreeRows row hr, issue_does hd]
    exact conclude_pushV
  · rw [exec_vTwoRows row hr, issue_does hd]
    exact conclude_pushV
  · rw [exec_vImmRows row hr, issue_does hd]
    exact conclude_pushV
  · obtain ⟨ok, hok, he⟩ := exec_vControlRows row hr s f
    rw [he, vctlF, issue_does hd]
    simp only [State.passWait_rx]
    exact conclude_checked_pushV (by rw [← hok, Bool.not_eq_true', Bool.not_eq_true]) _

/-- Instructions with a scalar operand: each is a push, behind a check where a register holds the lane or row number. -/
theorem vectorScalarMoves : VectorScalarMoves := by
  refine ⟨fun s f hd => ⟨?_, ?_, ?_⟩, fun s f hd => ⟨?_, fun hw => ?_⟩, fun s f hd => ?_, fun s f hd => ?_, fun s f hd => ?_, fun s f hd => ?_,
    fun s f hd hw => ?_, fun s f hd hw => ?_, fun s n k => ⟨fun f hd hq hn hk => ?_, fun f hd hn hk => ?_⟩⟩
  · change execVbcast f s = _
    rw [execVbcast, issue_does hd, State.passWait_rx]
    exact conclude_pushV
  · change execViota f s = _
    rw [execViota, issue_does hd, State.passWait_rx]
    exact conclude_pushV
  · change execMxrd f s = _
    rw [execMxrd, issue_does hd, State.passWait_rx, State.mxrw_mxrd]
    exact conclude_checked_pushV Nat.not_lt.symm _
  · change execVbcastImm f s = _
    rw [execVbcastImm, issue_does hd]
    exact conclude_pushV
  · change execMxrdImm f s = _
    rw [execMxrdImm, issue_does hd, State.mxrw_mxrd, if_neg (by simp [immZ]; omega)]
    exact conclude_pushV
  · change execVmovx f s = _
    rw [execVmovx, issue_does hd]
    simp only [State.passWait_rx]
    exact conclude_checked_pushV (by omega) _
  · change execVmovxImm f s = _
    rw [execVmovxImm, issue_does hd]
    exact conclude_pushV
  · change execVmovv f s = _
    rw [execVmovv, issue_does hd]
    simp only [State.passWait_rx]
    exact conclude_checked_pushV (by omega) _
  · change execVmovvImm f s = _
    rw [execVmovvImm, issue_does hd]
    exact conclude_pushV
  · change execMxwr f s = _
    rw [execMxwr, issue_does hd, State.passWait_rx, State.mxrw_plain _ _ _ _ _ hw]
    exact conclude_pushV
  · change execMxwrImm f s = _
    rw [execMxwrImm, issue_does hd, State.mxrw_plain _ _ _ _ _ (by simp [immZ]; omega)]
    exact conclude_pushV
  · change execVsetvl f s = _
    rw [execVsetvl, issue_does hd, passWait_bare hq, hn, hk, BitVec.ofNat_toNat, BitVec.setWidth_eq, State.vsetvl_eq]
    rfl
  · have hn' : bitsAt f.imm.toNat 0 16 = n := by simpa [bitsAt] using hn
    have hk' : bitsAt f.imm.toNat 16 3 = k.toNat := by simpa [bitsAt] using hk
    change execVsetvlImm f s = _
    rw [execVsetvlImm, issue_does hd, passWait_none, hn', hk', BitVec.ofNat_toNat, BitVec.setWidth_eq, State.vsetvl_eq]
    rfl

/-- Vector loads and stores: the checks on the active lanes decide. -/
theorem vectorAccessesAreQueued : VectorAccessesAreQueued := by
  refine ⟨fun s f hd => ⟨fun hok => ?_, fun hacq hm i hi hmis hlow => ?_⟩, fun s f hd hok => ?_, fun s f hd => ⟨fun hok => ?_, fun hok => ?_⟩,
    fun s f hd hok => ?_, fun s f hd hok => ?_⟩
  · change execVld f s = _
    rw [execVld, issue_does hd]
    exact conclude_vmem hok fun i _ => laneAddr_unit ..
  · change execVld f s = _
    rw [execVld, issue_does hd]
    have hfind : (activeLanes s.me.r.vl.toNat (s.me.r.vm s.me.r.msel.toNat)).find?
        (fun i => (laneAddr s (s.ea f.a f.m) none 4 i).toNat % 4 != 0) = some i :=
      find_activeLanes ((mem_activeLanes_now s i).2 hi) (by rw [laneAddr_unit]; exact bne_iff_ne.2 hmis) fun j hj hja => by
        rw [laneAddr_unit, bne_eq_false_iff_eq]
        exact hlow j hj ((mem_activeLanes_now s j).1 hja)
    rw [passWait_none, State.vmem_checks _ _ _ _ _ _ _ hacq (absurd hm) (by simp)]
    rw [laneCheck_misaligned hfind, laneAddr_unit]
    rfl
  · change execVlds f s = _
    rw [execVlds, issue_does hd]
    exact conclude_vmem hok fun i _ => rfl
  · change execVldx f s = _
    rw [execVldx, issue_does hd]
    exact conclude_vmem hok fun i _ => laneAddr_index ..
  · change execVstx f s = _
    rw [execVstx, issue_does hd]
    exact conclude_vmem hok fun i _ => laneAddr_index ..
  · change execVst f s = _
    rw [execVst, issue_does hd]
    exact conclude_vmem hok fun i _ => laneAddr_unit ..
  · change execVsts f s = _
    rw [execVsts, issue_does hd]
    exact conclude_vmem hok fun i _ => rfl

/-- Settles O28: from its three parts, each by the rule for a push. -/
theorem vectorInstructionsAreQueued : Obligations.VectorInstructionsAreQueued :=
  ⟨vectorCommandsAreQueued, vectorScalarMoves, vectorAccessesAreQueued⟩

end Sys2Proof.Proofs
end

section
/-! SUPPORT. What the push of an engine command leaves as it is (R12, R13, R211, R223, R235): scalar registers and the queue's earlier
commands, whatever the copies for a proof, the object of the command and its tag take with them. -/

namespace Sys2Proof.Machine

open Sys2Proof.Claims

/-! ### Copies for a proof (R374) -/

/-- An observation that sees neither module memory, with its poison and the keys of its lines, nor what the owners hold. -/
structure SeesNoCopies {α : Type} (p : State → α) : Prop where
  backing : ∀ (s : State) (m : Memory) (l : List Nat) (k : SMap (Option (BitVec 512))) (o : SMap Owner),
    p { s with mem := m, memPoison := l, lineKeys := k, owners := o } = p s

section
variable {α : Type} {p : State → α}

/-- What each step of a range keeps, the whole keeps. -/
theorem foldUp_keeps {f : State → Nat → State} (hf : ∀ s i, p (f s i) = p s) (n i : Nat) (s : State) : p (foldUp f n i s) = p s := by
  induction n generalizing s i with
  | zero => rfl
  | succ n ih => exact (ih _ _).trans (hf s i)

theorem SeesNoCopies.rekeyLine (hp : SeesNoCopies p) (s : State) (slot l : Nat) : p (s.rekeyLine slot l) = p s := by
  unfold State.rekeyLine
  split
  · split
    · rfl
    · exact hp.backing s _ _ _ _
  · exact hp.backing s _ _ _ _
theorem SeesNoCopies.rekey (hp : SeesNoCopies p) (s : State) (slot pa n : Nat) : p (s.rekey slot pa n) = p s := by
  unfold State.rekey
  split
  · exact foldUp_keeps (fun s l => hp.rekeyLine s slot l) ..
  · rfl
theorem SeesNoCopies.putUnder (hp : SeesNoCopies p) (s : State) (slot pa : Nat) (bs : List Byte) : p (s.putUnder slot pa bs) = p s :=
  (hp.backing (s.rekey slot pa bs.length) _ _ _ _).trans (hp.rekey ..)
theorem SeesNoCopies.leafUsed (hp : SeesNoCopies p) (s : State) (o va : Nat) (w : Bool) : p (s.leafUsed o va w) = p s := by
  unfold State.leafUsed
  split
  · exact Keeps.ite _ s _ _ rfl (hp.backing s _ _ _ _)
  · rfl
theorem SeesNoCopies.poolCopy (hp : SeesNoCopies p) {o : Nat} {bs : List (List Byte)} {s t : State} {va : Nat}
    (e : s.poolCopy o bs va = some t) : p t = p s := by
  induction bs generalizing s va with
  | nil => exact congrArg p (Option.some.inj e).symm
  | cons b r ih =>
    simp only [State.poolCopy] at e
    split at e
    · exact (ih e).trans ((hp.putUnder ..).trans (hp.leafUsed ..))
    · cases e
theorem SeesNoCopies.updOwner (hp : SeesNoCopies p) (s : State) (o : Nat) (f : Owner → Owner) : p (s.updOwner o f) = p s := hp.backing s _ _ _ _
theorem SeesNoCopies.proofRecord (hp : SeesNoCopies p) (s : State) (o : Nat) : p (s.proofRecord o) = p s := by
  unfold State.proofRecord
  dsimp only
  split
  · exact (hp.putUnder ..).trans (hp.leafUsed ..)
  · rfl
theorem SeesNoCopies.saveUnit (hp : SeesNoCopies p) {s t : State} {o : Nat} {u : PUnit} (e : s.saveUnit o u = some t) : p t = p s := by
  unfold State.saveUnit at e
  dsimp only at e
  split at e
  · obtain ⟨s1, e1, rfl⟩ := Option.map_eq_some_iff.1 e
    rw [hp.proofRecord, hp.updOwner, hp.poolCopy e1]
  · exact congrArg p (Option.some.inj e).symm
theorem SeesNoCopies.saveUnit_getD (hp : SeesNoCopies p) (s : State) (o : Nat) (u : PUnit) : p ((s.saveUnit o u).getD s) = p s := by
  cases e : s.saveUnit o u with
  | none => rfl
  | some t => exact hp.saveUnit e
theorem SeesNoCopies.noteUnit (hp : SeesNoCopies p) (s : State) (o kind tile unit : Nat) : p (s.noteUnit o kind tile unit) = p s := by
  unfold State.noteUnit
  dsimp only
  split
  · next s1 e => rw [hp.updOwner, hp.saveUnit e]
  · split
    · exact hp.updOwner ..
    · rw [hp.updOwner, hp.saveUnit_getD, hp.proofRecord, hp.updOwner]
/-- Copying what is about to be written changes nothing else. -/
theorem SeesNoCopies.noteUnits (hp : SeesNoCopies p) (s : State) (k sp off n : Nat) : p (s.noteUnits k sp off n) = p s :=
  foldUp_keeps (fun s _ => hp.noteUnit s ..) _ _ s

end

theorem seesNoCopies_tile (k : Nat) : SeesNoCopies fun s => s.tile k := ⟨fun _ _ _ _ _ => rfl⟩
theorem seesNoCopies_cur : SeesNoCopies State.cur := ⟨fun _ _ _ _ _ => rfl⟩

/-! ### Barrier objects of a command (R138) -/

/-- A view of a tile that sees neither its contexts nor its memories, with the marks of its barrier objects. -/
structure SeesNoObjects {α : Type} (q : Tile → α) : Prop where
  rest : ∀ (t : Tile) (c : SMap Ctx) (p r : Memory) (pw sw pp rp : List Nat) (m : SMap (List Mark)) (l : List Nat),
    q { t with ctxs := c, pad := p, store := r, padWritten := pw, storeWritten := sw, padPoison := pp, storePoison := rp, marks := m,
               barFresh := l } = q t

theorem seesNoObjects_xr : SeesNoObjects Tile.xr := ⟨fun _ _ _ _ _ _ _ _ _ _ => rfl⟩
theorem seesNoObjects_tagbits : SeesNoObjects Tile.tagbits := ⟨fun _ _ _ _ _ _ _ _ _ _ => rfl⟩
theorem seesNoObjects_mq : SeesNoObjects Tile.mq := ⟨fun _ _ _ _ _ _ _ _ _ _ => rfl⟩
theorem seesNoObjects_cq : SeesNoObjects Tile.cq := ⟨fun _ _ _ _ _ _ _ _ _ _ => rfl⟩

section
variable {α : Type} {q : Tile → α}

theorem SeesNoObjects.put (hq : SeesNoObjects q) (t : Tile) (sp off n : Nat) (f : Memory → Memory) : q (t.put sp off n f) = q t := by
  unfold Tile.put
  dsimp only
  split
  · exact hq.rest t _ _ _ _ _ _ _ _ _
  · exact hq.rest t _ _ _ _ _ _ _ _ _
theorem SeesNoObjects.updCtx (hq : SeesNoObjects q) (s : State) (k c : Nat) (f : Ctx → Ctx) (j : Nat) :
    q ((s.updCtx k c f).tile j) = q (s.tile j) := by
  rw [State.tile_updCtx]
  exact hq.rest (s.tile j) _ _ _ _ _ _ _ _ _
/-- A write of tile memory. -/
theorem SeesNoObjects.tileWrite (hq : SeesNoObjects q) (s : State) (k sp off n v j : Nat) :
    q ((s.tileWrite k sp off n v).tile j) = q (s.tile j) := by
  rw [State.tileWrite, State.tile_updTile_keeps q _ _ _ (hq.put ..)]
  exact congrArg q ((seesNoCopies_tile j).noteUnits ..)
/-- An add stores the object as it becomes, and takes nothing away. -/
theorem State.barAdd_stores (s : State) (k off : Nat) (inb : Bool) (n : Nat) :
    ∃ b, s.barAdd k off inb n = (s.barBegin k off).2.barStore k off b false := by
  unfold State.barAdd
  dsimp only
  split_ifs
  all_goals exact ⟨_, rfl⟩
/-- An update that takes nothing away wakes no waiter. -/
theorem SeesNoObjects.barStore (hq : SeesNoObjects q) (s : State) (k off : Nat) (b : BarObj) (j : Nat) :
    q ((s.barStore k off b false).tile j) = q (s.tile j) := hq.tileWrite ..
theorem SeesNoObjects.barBegin (hq : SeesNoObjects q) (s : State) (k off j : Nat) : q ((s.barBegin k off).2.tile j) = q (s.tile j) := by
  unfold State.barBegin
  dsimp only
  split
  · exact State.tile_updTile_keeps q _ _ _ (hq.rest (s.tile k) _ _ _ _ _ _ _ _ _) _
  · rfl
theorem SeesNoObjects.barAdd (hq : SeesNoObjects q) (s : State) (k off : Nat) (inb : Bool) (n j : Nat) :
    q ((s.barAdd k off inb n).tile j) = q (s.tile j) := by
  obtain ⟨b, h⟩ := s.barAdd_stores k off inb n
  rw [h, hq.barStore, hq.barBegin]

end

theorem State.barBegin_cur (s : State) (k off : Nat) : (s.barBegin k off).2.cur = s.cur := by
  unfold State.barBegin
  dsimp only
  split <;> rfl
theorem State.tileWrite_cur (s : State) (k sp off n v : Nat) : (s.tileWrite k sp off n v).cur = s.cur := seesNoCopies_cur.noteUnits ..
theorem State.barAdd_cur (s : State) (k off : Nat) (inb : Bool) (n : Nat) : (s.barAdd k off inb n).cur = s.cur := by
  obtain ⟨b, h⟩ := s.barAdd_stores k off inb n
  rw [h]
  exact (State.tileWrite_cur ..).trans (State.barBegin_cur ..)

/-! ### What takes effect at the issue of a record -/

/-- `u` is `s` with what the issue of record `b` on tile k has changed: the tag is clear, and registers and queues are those of `s`. -/
structure Issued (s u : State) (k : Nat) (b : BitVec 512) : Prop where
  cur : u.cur = s.cur
  regs : ∀ j, (u.tile j).xr = (s.tile j).xr
  mq : (u.tile k).mq = (s.tile k).mq
  cq : (u.tile k).cq = (s.tile k).cq
  tag : ∀ n, recTag b = some n → (u.tile k).tagbits.getLsbD n = false

/-- The tag of a record is one of 64. -/
theorem recTag_lt {b : BitVec 512} {n : Nat} (h : recTag b = some n) : n < 64 := by
  unfold recTag at h
  dsimp only at h
  split at h
  · rw [← Option.some.inj h]; omega
  · cases h

/-- Naming and counting a command leaves every tile but its contexts. -/
theorem SeesNoObjects.capture {α : Type} {q : Tile → α} (hq : SeesNoObjects q) (s : State) (j : Nat) :
    q (s.capture.2.tile j) = q (s.tile j) := hq.updCtx _ _ _ _ _
theorem SeesNoObjects.recGen {α : Type} {q : Tile → α} (hq : SeesNoObjects q) (s : State) (k c : Nat) (uses : Bool) (j : Nat) :
    q ((s.recGen k c uses).2.tile j) = q (s.tile j) := by
  cases uses with
  | true => exact hq.updCtx ..
  | false => rfl
theorem State.recGen_cur (s : State) (k c : Nat) (uses : Bool) : (s.recGen k c uses).2.cur = s.cur := by cases uses <;> rfl

/-- The generator's step and the clearing of the tag are an issue (R161, R177). -/
theorem issued_tagIssue (s : State) (k c : Nat) (uses : Bool) (b : BitVec 512) : Issued s ((s.recGen k c uses).2.tagIssue k b) k b := by
  have keeps {α : Type} {q : Tile → α} (hq : SeesNoObjects q) (ht : ∀ t n, q (Tile.tagIssue t n) = q t) (j : Nat) :
      q (((s.recGen k c uses).2.tagIssue k b).tile j) = q (s.tile j) := by
    rw [← hq.recGen s k c uses j]
    unfold State.tagIssue
    split
    · exact State.tile_updTile_keeps q _ _ _ (ht ..) _
    · rfl
  refine ⟨?_, keeps seesNoObjects_xr fun _ _ => rfl, keeps seesNoObjects_mq (fun _ _ => rfl) k,
    keeps seesNoObjects_cq (fun _ _ => rfl) k, fun n hn => ?_⟩
  · rw [← s.recGen_cur k c uses]
    unfold State.tagIssue
    split <;> rfl
  · have hlt := recTag_lt hn
    simp [State.tagIssue, hn, Tile.tagIssue, hlt]

/-- Adding a command's sectors to its object keeps what has been issued. -/
theorem Issued.barAdd {s u : State} {k : Nat} {b : BitVec 512} (h : Issued s u k b) (off : Nat) (inb : Bool) (n : Nat) :
    Issued s (u.barAdd k off inb n) k b where
  cur := (State.barAdd_cur ..).trans h.cur
  regs j := (seesNoObjects_xr.barAdd ..).trans (h.regs j)
  mq := (seesNoObjects_mq.barAdd ..).trans h.mq
  cq := (seesNoObjects_cq.barAdd ..).trans h.cq
  tag i hi := by rw [seesNoObjects_tagbits.barAdd]; exact h.tag i hi

/-- The add is made only for a record that is well formed. -/
theorem Issued.barAddIf {s u : State} {k : Nat} {b : BitVec 512} (h : Issued s u k b) (good : Prop) [Decidable good] (off : Nat) (inb : Bool)
    (n : Nat) : Issued s (if good then (u.barAdd k off inb n, true) else (u, false)).1 k b := by
  split
  · exact h.barAdd off inb n
  · exact h

/-- What has been issued after the command was named and counted has been issued. -/
theorem Issued.of_capture {s u : State} {k : Nat} {b : BitVec 512} (h : Issued s.capture.2 u k b) : Issued s u k b where
  cur := h.cur
  regs j := (h.regs j).trans (seesNoObjects_xr.capture s j)
  mq := h.mq.trans (seesNoObjects_mq.capture s k)
  cq := h.cq.trans (seesNoObjects_cq.capture s k)
  tag := h.tag

/-- What joins a queue after the issue leaves registers and tag as the issue did. -/
theorem Issued.queued {s u : State} {b : BitVec 512} (h : Issued s u s.cur b) {f : Tile → Tile} (hx : ∀ t, (f t).xr = t.xr)
    (ht : ∀ t, (f t).tagbits = t.tagbits) :
    (u.updTile s.cur f).myTile = f (u.tile s.cur) ∧ (∀ n, recTag b = some n → (u.updTile s.cur f).myTile.tagbits.getLsbD n = false) ∧
      s.sameRegsBut (u.updTile s.cur f) fun _ => False := by
  have hmine : (u.updTile s.cur f).myTile = f (u.tile s.cur) := by
    rw [State.myTile, State.updTile_cur, h.cur, State.tile_updTile]
  refine ⟨hmine, fun n hn => ?_, fun k n _ => ?_⟩
  · rw [hmine, ht, h.tag n hn]
  · rw [State.tile_updTile_keeps Tile.xr u _ f (hx _), h.regs]

/-! ### Pushing a matrix command -/

/-- A push to the matrix queue: the issue, and then the command at the end of the queue. -/
theorem State.mxPush_queues (s : State) (k : Nat) (cap : Captured) (b : BitVec 512) (sig : Option (BitVec 8 × Nat)) :
    ∃ (u : State) (q : MCmd), Issued s u k b ∧ s.mxPush k cap b sig = u.updTile k (fun t => { t with mq := t.mq ++ [q] }) ∧
      q.bits = b ∧ q.cap = cap ∧ q.sig = sig ∧ q.started = false ∧ q.stopped = false := by
  refine ⟨_, _, ?_, rfl, rfl, rfl, rfl, rfl, rfl⟩
  split
  · exact (issued_tagIssue ..).barAddIf ..
  · exact issued_tagIssue ..

/-- The issue of a matrix record pushes it. -/
theorem State.mxIssue_pushed (s : State) (sig : Option (BitVec 8 × Nat)) (b : BitVec 512) :
    ∃ t, s.mxIssue sig b = .ok t ∧ mxPushed s t b sig := by
  obtain ⟨u, q, hi, he, hbits, hcap, hsig, hstarted, hstopped⟩ := s.capture.2.mxPush_queues s.cur s.capture.1 b sig
  have hi := hi.of_capture
  obtain ⟨hmine, htag, hregs⟩ := hi.queued (f := fun t => { t with mq := t.mq ++ [q] }) (fun _ => rfl) fun _ => rfl
  refine ⟨_, congrArg Res.ok he, ⟨q, ?_, hbits, hcap, hsig, hstarted, hstopped⟩, htag, hregs⟩
  rw [hmine, hi.mq]
  rfl

/-! ### Pushing a copy command -/

/-- The status of a malformed record fits the 8 bits of a status. -/
theorem cpBad_cases (b : BitVec 512) (lv : Level) (resumed : Bool) :
    cpBad b lv resumed = 0 ∨ cpBad b lv resumed = 0x20 ∨ cpBad b lv resumed = 0x29 := by
  unfold cpBad
  dsimp only
  split_ifs
  all_goals simp

/-- A push to the copy queue: the issue, and then the command at the end of the queue, ended at once when its record is refused. -/
theorem State.cpPush_queues (s : State) (b : BitVec 512) (sig : Option (BitVec 8 × Nat)) (rwait : Bool) :
    ∃ (u : State) (q : CCmd), Issued s u s.cur b ∧ s.cpPush b sig rwait = u.updTile s.cur (fun t => { t with cq := t.cq ++ [q] }) ∧
      q.bits = b ∧ q.cap = s.capture.1 ∧ q.sig = sig ∧ q.started = false ∧
      (cpBad b s.me.c.level false = 0 → cpKind b ≠ 6 → q.ended = none ∧ q.total = cpRows b * cpPer b) ∧
      (cpBad b s.me.c.level false ≠ 0 → ∃ c, q.ended = some (c, 0) ∧ c ≠ 0) := by
  unfold State.cpPush
  dsimp only
  refine ⟨_, _, ?_, rfl, rfl, rfl, rfl, rfl, fun hgood hk => ?_, fun hbad => ?_⟩
  · refine Issued.of_capture ?_
    split
    · exact (issued_tagIssue ..).barAddIf ..
    · exact issued_tagIssue ..
  · have hlevel : s.capture.1.level = s.me.c.level := rfl
    simp [hlevel, hgood, hk]
  · have hlevel : s.capture.1.level = s.me.c.level := rfl
    refine ⟨BitVec.ofNat 8 (cpBad b s.me.c.level false), ?_, ?_⟩
    · simp [hlevel, hbad]
    · rcases cpBad_cases b s.me.c.level false with h | h | h
      · exact absurd h hbad
      · rw [h]; decide
      · rw [h]; decide

/-- The issue of a copy record without a remote object pushes it (R235). -/
theorem State.cpIssue_pushed (s : State) (sig : Option (BitVec 8 × Nat)) (b : BitVec 512) (hr : recBarOk b 0x34 = none) :
    ∃ t, s.cpIssue sig b = .ok t ∧ cpPushed s t b sig := by
  have hplain : s.cpIssue sig b = .ok (s.cpPush b sig false) := by simp [State.cpIssue, hr]
  obtain ⟨u, q, hi, he, hbits, hcap, hsig, hstarted, hgood, hbad⟩ := s.cpPush_queues b sig false
  obtain ⟨hmine, htag, hregs⟩ := hi.queued (f := fun t => { t with cq := t.cq ++ [q] }) (fun _ => rfl) fun _ => rfl
  refine ⟨_, hplain.trans (congrArg Res.ok he), ⟨q, ?_, hbits, hcap, hsig, hstarted, hgood, hbad⟩, htag, hregs⟩
  rw [hmine, hi.cq]
  rfl

/-- A context that has not begun to wait has no push whose remote add was answered. -/
theorem State.cpResumed_fresh {s : State} (hf : s.isFresh = true) : s.cpResumed = none := by
  unfold State.cpResumed
  dsimp only
  split
  · rfl
  · split
    · next hp => simp [State.isFresh, hp] at hf
    · next hp => simp [State.isFresh, hp] at hf
    · rfl

/-! ### Where the record comes from (R72, R94, R223) -/

/-- A record that can be read at once is read. -/
theorem State.readRecord_at {s : State} {a : Word} (fin : BitVec 512 → Res) (h : recordAt s a) : s.readRecord a fin = fin (recordBits s a) := by
  obtain ⟨hf, hal, hend, hpresent, hpoison⟩ := h
  have htouch : s.touch s.cur s.curCtx s.me.c.level .core a.toNat 64 = .present := by
    rw [State.touch, ← State.myTile, hpresent]
    rfl
  rw [State.readRecord, if_neg (not_not.2 hal), if_neg (by omega), htouch]
  split
  · next hp => simp [State.isFresh, hp] at hf
  · simp only [hpoison]
    rfl
/-- A misaligned offset. -/
theorem State.readRecord_misaligned {s : State} {a : Word} (fin : BitVec 512 → Res) (h : a.toNat % 64 ≠ 0) :
    s.readRecord a fin = .trap { cause := 0x04, address := a } := by rw [State.readRecord, if_pos h]
/-- An offset past the last record of the scratchpad. -/
theorem State.readRecord_outside {s : State} {a : Word} (fin : BitVec 512 → Res) (h : a.toNat % 64 = 0) (ho : 0x7FC0 < a.toNat) :
    s.readRecord a fin = .trap { cause := 0x14, address := a } := by rw [State.readRecord, if_neg (not_not.2 h), if_pos ho]

/-- A push that nothing holds reads its record. -/
theorem State.pushFrom_free {s : State} {full : Bool} (a : Word) (push : State → BitVec 512 → Res) (hp : pushFree s) (hf : full = false) :
    s.pushFrom full a push = s.readRecord a (push s) := by simp [State.pushFrom, hp.1, hp.2, hf]
/-- Nothing holds a push from registers either. -/
theorem pushFree_held {s : State} {full : Bool} (hp : pushFree s) (hf : full = false) :
    ¬ (s.acqHeld || s.myTile.vecOpen s.curCtx || full) = true := by simp [hp.1, hp.2, hf]

/-- One word above a number that lies below it. -/
theorem toNat_append_add {m n : Nat} (x : BitVec m) (y : BitVec n) : (x ++ y).toNat = y.toNat + x.toNat * 2 ^ n := by
  rw [BitVec.toNat_append, ← Nat.shiftLeft_add_eq_or_of_lt y.isLt, Nat.shiftLeft_eq, Nat.add_comm]

/-- Eight registers make a record, the lowest first. -/
theorem State.regRecord_eq (s : State) (n : Nat) : s.regRecord n = registerBits s n := by
  apply BitVec.eq_of_toNat_eq
  have hx (i : Nat) : (s.rx i).toNat < 2 ^ 64 := (s.rx i).isLt
  have h0 := hx n; have h1 := hx (n + 1); have h2 := hx (n + 2); have h3 := hx (n + 3)
  have h4 := hx (n + 4); have h5 := hx (n + 5); have h6 := hx (n + 6); have h7 := hx (n + 7)
  simp only [State.regRecord, registerBits, foldUp, toNat_append_add, BitVec.toNat_ofNat]
  simp only [Nat.add_zero, Nat.zero_add, Nat.reduceAdd]
  omega

end Sys2Proof.Machine

namespace Sys2Proof.Proofs

open Sys2Proof Sys2Proof.Machine Sys2Proof.Claims

/-- Settles O30: a push that nothing holds reads its record, and its issue puts the command at the end of the queue. -/
theorem engineCommandsAreQueued : Obligations.EngineCommandsAreQueued := by
  refine ⟨fun s f hd hp hq hfull => ⟨fun hr => ?_, fun hm => ?_, fun hal ho => ?_⟩, fun s f hd hp hq hfull => ?_,
    fun s f hd hp hq hfull hf => ⟨fun hr hb => ?_, fun hm => ?_, fun hal ho => ?_⟩, fun s f hd hp hq hfull hf hb => ?_⟩
  · obtain ⟨t, ht, hpushed⟩ := s.mxIssue_pushed f.t.doneSig (recordBits s (s.rx f.a.num))
    refine ⟨t, ?_, hpushed⟩
    change execMxq f s = _
    rw [execMxq, issue_does hd, passWait_bare hq, State.pushFrom_free _ _ hp hfull, State.readRecord_at _ hr, ht]
    rfl
  · change execMxq f s = _
    rw [execMxq, issue_does hd, passWait_bare hq, State.pushFrom_free _ _ hp hfull, State.readRecord_misaligned _ hm, conclude_trap]
  · change execMxq f s = _
    rw [execMxq, issue_does hd, passWait_bare hq, State.pushFrom_free _ _ hp hfull, State.readRecord_outside _ hal ho, conclude_trap]
  · obtain ⟨t, ht, hpushed⟩ := s.mxIssue_pushed f.t.doneSig (registerBits s f.a.num)
    refine ⟨t, ?_, hpushed⟩
    change execMxqr f s = _
    rw [execMxqr, issue_does hd, passWait_bare hq, if_neg (pushFree_held hp hfull), State.regRecord_eq, ht]
    rfl
  · obtain ⟨t, ht, hpushed⟩ := s.cpIssue_pushed f.t.doneSig (recordBits s (s.rx f.a.num)) hb
    refine ⟨t, ?_, hpushed⟩
    change execCpq f s = _
    rw [execCpq, issue_does hd, passWait_bare hq, State.cpResumed_fresh hf, State.pushFrom_free _ _ hp hfull, State.readRecord_at _ hr, ht]
    rfl
  · change execCpq f s = _
    rw [execCpq, issue_does hd, passWait_bare hq, State.cpResumed_fresh hf, State.pushFrom_free _ _ hp hfull, State.readRecord_misaligned _ hm,
      conclude_trap]
  · change execCpq f s = _
    rw [execCpq, issue_does hd, passWait_bare hq, State.cpResumed_fresh hf, State.pushFrom_free _ _ hp hfull, State.readRecord_outside _ hal ho,
      conclude_trap]
  · obtain ⟨t, ht, hpushed⟩ := s.cpIssue_pushed f.t.doneSig (registerBits s f.a.num) hb
    refine ⟨t, ?_, hpushed⟩
    change execCpqr f s = _
    rw [execCpqr, issue_does hd, passWait_bare hq, State.cpResumed_fresh hf, if_neg (pushFree_held hp hfull), State.regRecord_eq, ht]
    rfl

end Sys2Proof.Proofs
end

section
/-! SUPPORT. The decoder and the encoder undo each other (R19 to R24, R35): words and their fields, the tails, operand codes, the sixteen
forms, and the opcode map in both directions. -/

namespace Sys2Proof

/-! ### Fields and words (R19, Table 1) -/

/-- A bit as a field of one bit. -/
theorem ofBool_getLsbD {n : Nat} (w : BitVec n) (i : Nat) : BitVec.ofBool (w.getLsbD i) = w.extractLsb' i 1 := by
  rw [BitVec.getLsbD_eq_extractLsb']
  generalize w.extractLsb' i 1 = b
  revert b; decide
/-- The whole of a vector, cut at its own width. -/
theorem cast_extractLsb'_zero {n m : Nat} (h : m = n) (w : BitVec n) : (w.extractLsb' 0 m).cast h = w := by
  subst h; simp

theorem Fields.toWord_eq (F : Fields) : F.toWord =
    (F.fmt ++ F.op ++ BitVec.ofBool F.h.ginv ++ F.h.gpred ++ F.h.nas ++ F.h.next ++ F.dst ++ F.srcA ++ F.srcB ++
      F.h.dist ++ BitVec.ofBool F.h.yld ++ BitVec.ofBool F.h.last ++ F.tail).cast (by decide) := rfl
theorem STail.bits_eq (t : STail) : t.bits =
    (t.wsem ++ t.wthr ++ t.ssem ++ t.sinc ++ BitVec.ofBool t.wen ++ BitVec.ofBool t.sen ++ BitVec.ofBool t.stime ++
      BitVec.ofBool t.cons).cast (by decide) := rfl
theorem MTail.bits_eq (m : MTail) : m.bits = (m.disp ++ m.space ++ m.scope ++ m.order ++ m.rtn ++ m.size).cast (by decide) := rfl
theorem XTail.bits_eq (x : XTail) : x.bits = (x.ctype ++ x.pA ++ x.pB ++ x.imm23).cast (by decide) := rfl

@[simp] theorem Fields.ofWord_toWord (F : Fields) : Fields.ofWord F.toWord = F := by
  simp (disch := decide) only [Fields.ofWord, Fields.toWord_eq, BitVec.extractLsb'_cast, BitVec.extractLsb'_append_eq_of_le,
    BitVec.extractLsb'_append_eq_of_add_le, BitVec.extractLsb'_eq_self, BitVec.getLsbD_cast, BitVec.getLsbD_append,
    BitVec.getLsbD_ofBool, Nat.reduceLT, if_true, if_false, Nat.reduceSub, decide_true, Bool.true_and, -Nat.reduceAdd]
@[simp] theorem Fields.toWord_ofWord (w : IWord) : (Fields.ofWord w).toWord = w := by
  simp only [Fields.ofWord, Fields.toWord_eq, ofBool_getLsbD, BitVec.extractLsb'_append_extractLsb'_eq_extractLsb', cast_extractLsb'_zero]

@[simp] theorem STail.ofBits_bits (t : STail) : STail.ofBits t.bits = t := by
  simp (disch := decide) only [STail.ofBits, STail.bits_eq, BitVec.extractLsb'_cast, BitVec.extractLsb'_append_eq_of_le,
    BitVec.extractLsb'_append_eq_of_add_le, BitVec.extractLsb'_eq_self, BitVec.getLsbD_cast, BitVec.getLsbD_append,
    BitVec.getLsbD_ofBool, Nat.reduceLT, if_true, if_false, Nat.reduceSub, decide_true, Bool.true_and, -Nat.reduceAdd]
@[simp] theorem STail.bits_ofBits (t : BitVec 32) : (STail.ofBits t).bits = t := by
  simp only [STail.ofBits, STail.bits_eq, ofBool_getLsbD, BitVec.extractLsb'_append_extractLsb'_eq_extractLsb', cast_extractLsb'_zero]
@[simp] theorem MTail.ofBits_bits (m : MTail) : MTail.ofBits m.bits = m := by
  simp (disch := decide) only [MTail.ofBits, MTail.bits_eq, BitVec.extractLsb'_cast, BitVec.extractLsb'_append_eq_of_le,
    BitVec.extractLsb'_append_eq_of_add_le, BitVec.extractLsb'_eq_self, Nat.reduceSub, -Nat.reduceAdd]
@[simp] theorem MTail.bits_ofBits (t : BitVec 32) : (MTail.ofBits t).bits = t := by
  simp only [MTail.ofBits, MTail.bits_eq, BitVec.extractLsb'_append_extractLsb'_eq_extractLsb', cast_extractLsb'_zero]
@[simp] theorem XTail.ofBits_bits (x : XTail) : XTail.ofBits x.bits = x := by
  simp (disch := decide) only [XTail.ofBits, XTail.bits_eq, BitVec.extractLsb'_cast, BitVec.extractLsb'_append_eq_of_le,
    BitVec.extractLsb'_append_eq_of_add_le, BitVec.extractLsb'_eq_self, Nat.reduceSub, -Nat.reduceAdd]
@[simp] theorem XTail.bits_ofBits (t : BitVec 32) : (XTail.ofBits t).bits = t := by
  simp only [XTail.ofBits, XTail.bits_eq, BitVec.extractLsb'_append_extractLsb'_eq_extractLsb', cast_extractLsb'_zero]

/-! ### Operand codes (R24, Table 6) -/

theorem Opnd.ofCode_code {o : Opnd} (h : o.wf = true) : Opnd.ofCode o.code = o := by
  cases o with
  | x n => revert n; decide
  | v n => revert n; decide
  | p n => revert n; decide
  | vm n => revert n; decide
  | rsv c => revert c; decide
  | imm => rfl
@[simp] theorem Opnd.code_ofCode (c : BitVec 8) : (Opnd.ofCode c).code = c := by revert c; decide

/-! ### The forms (R20 to R23) -/

/-- A reader that asks for zero fields answers what it read where they are 0. -/
theorem ite_ok {α : Type} {c : Prop} [Decidable c] {e : DecErr} {g f : α} :
    (if c then .ok g else .error e : Except DecErr α) = .ok f ↔ c ∧ g = f := by
  split <;> simp_all

/-- A form of the format `fmt`: what `read` finds in a set of fields, and the fields that `fields` makes, undo each other. -/
structure Form {α : Type} (fmt : BitVec 2) (read : Fields → Except DecErr α) (fields : BitVec 9 → α → Fields) (wf : α → Bool) : Prop where
  read_fields : ∀ op f, wf f = true → read (fields op f) = .ok f
  fields_read : ∀ F f, F.fmt = fmt → read F = .ok f → fields F.op f = F

theorem S0.form : Form 0 S0.read S0.fields S0.wf where
  read_fields op f h := by simp_all [S0.read, S0.fields, S0.wf]
  fields_read := by
    rintro ⟨⟩ f hf h
    obtain ⟨h0, rfl⟩ := ite_ok.1 h
    simp_all [S0.fields]
theorem SD.form : Form 0 SD.read SD.fields SD.wf where
  read_fields op f h := by simp_all [SD.read, SD.fields, SD.wf, Opnd.ofCode_code]
  fields_read := by
    rintro ⟨⟩ f hf h
    obtain ⟨h0, rfl⟩ := ite_ok.1 h
    simp_all [SD.fields]
theorem SA.form : Form 0 SA.read SA.fields SA.wf where
  read_fields op f h := by simp_all [SA.read, SA.fields, SA.wf, Opnd.ofCode_code]
  fields_read := by
    rintro ⟨⟩ f hf h
    obtain ⟨h0, rfl⟩ := ite_ok.1 h
    simp_all [SA.fields]
theorem SDA.form : Form 0 SDA.read SDA.fields SDA.wf where
  read_fields op f h := by simp_all [SDA.read, SDA.fields, SDA.wf, Opnd.ofCode_code]
  fields_read := by
    rintro ⟨⟩ f hf h
    obtain ⟨h0, rfl⟩ := ite_ok.1 h
    simp_all [SDA.fields]
theorem SAB.form : Form 0 SAB.read SAB.fields SAB.wf where
  read_fields op f h := by simp_all [SAB.read, SAB.fields, SAB.wf, Opnd.ofCode_code]
  fields_read := by
    rintro ⟨⟩ f hf h
    obtain ⟨h0, rfl⟩ := ite_ok.1 h
    simp_all [SAB.fields]
theorem SDAB.form : Form 0 SDAB.read SDAB.fields SDAB.wf where
  read_fields op f h := by simp_all [SDAB.read, SDAB.fields, SDAB.wf, Opnd.ofCode_code]
  fields_read := by
    rintro ⟨⟩ f hf h
    cases h
    simp_all [SDAB.fields]
theorem I0.form : Form 1 I0.read I0.fields I0.wf where
  read_fields op f h := by simp_all [I0.read, I0.fields, I0.wf]
  fields_read := by
    rintro ⟨⟩ f hf h
    obtain ⟨h0, rfl⟩ := ite_ok.1 h
    simp_all [I0.fields]
theorem ID.form : Form 1 ID.read ID.fields ID.wf where
  read_fields op f h := by simp_all [ID.read, ID.fields, ID.wf, Opnd.ofCode_code]
  fields_read := by
    rintro ⟨⟩ f hf h
    obtain ⟨h0, rfl⟩ := ite_ok.1 h
    simp_all [ID.fields]
theorem IA.form : Form 1 IA.read IA.fields IA.wf where
  read_fields op f h := by simp_all [IA.read, IA.fields, IA.wf, Opnd.ofCode_code]
  fields_read := by
    rintro ⟨⟩ f hf h
    obtain ⟨h0, rfl⟩ := ite_ok.1 h
    simp_all [IA.fields]
theorem IDA.form : Form 1 IDA.read IDA.fields IDA.wf where
  read_fields op f h := by simp_all [IDA.read, IDA.fields, IDA.wf, Opnd.ofCode_code]
  fields_read := by
    rintro ⟨⟩ f hf h
    obtain ⟨h0, rfl⟩ := ite_ok.1 h
    simp_all [IDA.fields]
theorem MA.form : Form 2 MA.read MA.fields MA.wf where
  read_fields op f h := by simp_all [MA.read, MA.fields, MA.wf, Opnd.ofCode_code]
  fields_read := by
    rintro ⟨⟩ f hf h
    obtain ⟨h0, rfl⟩ := ite_ok.1 h
    simp_all [MA.fields]
theorem MDA.form : Form 2 MDA.read MDA.fields MDA.wf where
  read_fields op f h := by simp_all [MDA.read, MDA.fields, MDA.wf, Opnd.ofCode_code]
  fields_read := by
    rintro ⟨⟩ f hf h
    obtain ⟨h0, rfl⟩ := ite_ok.1 h
    simp_all [MDA.fields]
theorem MAB.form : Form 2 MAB.read MAB.fields MAB.wf where
  read_fields op f h := by simp_all [MAB.read, MAB.fields, MAB.wf, Opnd.ofCode_code]
  fields_read := by
    rintro ⟨⟩ f hf h
    obtain ⟨h0, rfl⟩ := ite_ok.1 h
    simp_all [MAB.fields]
theorem MDAB.form : Form 2 MDAB.read MDAB.fields MDAB.wf where
  read_fields op f h := by simp_all [MDAB.read, MDAB.fields, MDAB.wf, Opnd.ofCode_code]
  fields_read := by
    rintro ⟨⟩ f hf h
    cases h
    simp_all [MDAB.fields]
theorem XAB.form : Form 3 XAB.read XAB.fields XAB.wf where
  read_fields op f h := by simp_all [XAB.read, XAB.fields, XAB.wf, Opnd.ofCode_code]
  fields_read := by
    rintro ⟨⟩ f hf h
    obtain ⟨h0, rfl⟩ := ite_ok.1 h
    simp_all [XAB.fields]
theorem XDAB.form : Form 3 XDAB.read XDAB.fields XDAB.wf where
  read_fields op f h := by simp_all [XDAB.read, XDAB.fields, XDAB.wf, Opnd.ofCode_code]
  fields_read := by
    rintro ⟨⟩ f hf h
    cases h
    simp_all [XDAB.fields]

section
variable {α : Type} {fmt : BitVec 2} {read : Fields → Except DecErr α} {fields : BitVec 9 → α → Fields} {wf : α → Bool}

/-! ### From an instruction to its word and back -/

/-- An opcode that reads its operands as a form decodes what the form encodes. -/
theorem Form.decodes (φ : Form fmt read fields wf) {mk : α → Instr} {op : BitVec 9} {f : α} (h : wf f = true)
    (hd : decodeOp (fields op f) = mk <$> read (fields op f)) : decodeOp (fields op f) = .ok (mk f) := by
  rw [hd, φ.read_fields _ _ h]; rfl

end

/-- Bit 6 tells the immediates of `gbar` from those of `gbar.ss`, which the two checks admit (R157). -/
theorem getLsbD_six_iff (i : BitVec 32) (h : i < 128) : i.getLsbD 6 = true ↔ 64 ≤ i := by
  have h : i.toNat < 128 := h
  rw [BitVec.getLsbD, Nat.testBit_eq_decide_div_mod_eq, decide_eq_true_iff, BitVec.le_def]
  simp only [BitVec.ofNat_eq_ofNat, BitVec.toNat_ofNat]
  omega

/-- The opcode and the format of an instruction's fields lead the decoder back to it. -/
theorem decodeOp_encodeFields {i : Instr} {F : Fields} (h : i.wf = true) (e : encodeFields i = some F) : decodeOp F = .ok i := by
  cases i
  case gbar f =>
    cases e
    obtain ⟨hf, hi⟩ : f.wf = true ∧ f.imm < 64 := by simpa [Instr.wf] using h
    have hbit : f.imm.getLsbD 6 = false := by
      rw [← Bool.not_eq_true, getLsbD_six_iff _ (by bv_omega)]
      bv_omega
    refine ID.form.decodes hf ?_
    change (if f.imm.getLsbD 6 then Instr.gbarSs <$> IDA.read (f.fields 0x109) else Instr.gbar <$> ID.read (f.fields 0x109)) = _
    rw [hbit]; rfl
  case gbarSs f =>
    cases e
    obtain ⟨hf, hlo, hhi⟩ : f.wf = true ∧ 64 ≤ f.imm ∧ f.imm < 128 := by simpa [Instr.wf] using h
    refine IDA.form.decodes hf ?_
    change (if f.imm.getLsbD 6 then Instr.gbarSs <$> IDA.read (f.fields 0x109) else Instr.gbar <$> ID.read (f.fields 0x109)) = _
    rw [(getLsbD_six_iff _ hhi).2 hlo]; rfl
  case nop | lcpush | lcpop | yield | irgn =>
    cases e
    exact S0.form.decodes h rfl
  case pmov | mxcap =>
    cases e
    exact SD.form.decodes h rfl
  case pset | lcset | tclr | rgclr | fwait | evsig | semsg | tagclr | mxq | mxqr | cpq | cpqr | mxgate | cpkill | halt =>
    cases e
    exact SA.form.decodes h rfl
  case abs | neg | clz | ctz | popc | mov | fsqrt | fabs | fneg | fclass | frnd | fcvtFi | fcvtIf | fcvtBf | fcvtFb | fcvtE4 | fcvtE5 | fcvtF4 |
    fcvtF5 | fsplit | join | tlook | tinv | rgq | gjoin | gleave | semwt | semrd | semset | tagwa | tagwl | tagff | vabsF | vnegF | vsqrtF | vrcpF |
    vrsqF | vexp2F | vlog2F | vrnsTo | vrnsFrom | vmnot | vmpop | vbcast | viota | vmov | vredAddF | vredAddI | vredMinF | vredMaxF | vredMinI |
    vredMaxI | vscanAddI | vscanAddF | eqst | mxwm | mxrd | mbxw | rtchk | prmt | kill | cntr | scrub | turnack | fencecore | flood =>
    cases e
    exact SDA.form.decodes h rfl
  case launch | rgset | mxwr | rtld =>
    cases e
    exact SAB.form.decodes h rfl
  case add | sub | mul | mulh | mulhu | div | divu | rem | remu | and | or | xor | andn | shl | shr | sra | rotr | min | max | minu | maxu | addW |
    subW | mulW | fadd | fsub | fmul | fma | fnma | fdiv | fmin | fmax | tset | vaddI | vsubI | vmulI | vminI | vmaxI | vand | vor | vxor | vshl |
    vshr | vsra | vaddF | vsubF | vmulF | vfmaF | vfnmaF | vminF | vmaxF | vdivF | vfmaBf | vcvt | vsplit | vquant | vdequant | vcmpEq | vcmpLt |
    vcmpLe | vcmpFlt | vcmpFle | vcmpFun | vsel | vmand | vmor | vmxor | vmovx | vmovv | vperm | vrot | vzip | vunzip | vsetvl | vcmul | mbxr |
    tlbi | artw | imap | ctxsv | ctxld | gpart | wdog | cntc | trc | keyld =>
    cases e
    exact SDAB.form.decodes h rfl
  case lcsetImm | trap | brk | tagclrImm | svc =>
    cases e
    exact I0.form.decodes h rfl
  case enter | leave | evsigImm | semsgImm | mxgateImm | cpkillImm =>
    cases e
    exact I0.form.decodes (Bool.and_elim_left h) rfl
  case li | lih | tagwaImm | tagwlImm | tagffImm | vbcastImm =>
    cases e
    exact ID.form.decodes h rfl
  case mfs | fnc | gjoinImm | gleaveImm | semwtImm | semrdImm | semsetImm | vsetvlImm | mxrdImm | proof =>
    cases e
    exact ID.form.decodes (Bool.and_elim_left h) rfl
  case mts | mxwrImm =>
    cases e
    exact IA.form.decodes (Bool.and_elim_left h) rfl
  case addImm | subImm | mulImm | mulhImm | mulhuImm | divImm | divuImm | remImm | remuImm | andImm | orImm | xorImm | andnImm | shlImm | shrImm |
    sraImm | rotrImm | minImm | maxImm | minuImm | maxuImm | addWImm | subWImm | mulWImm | wdogImm =>
    cases e
    exact IDA.form.decodes h rfl
  case bfx | bfxu | bfi | sext | zext | vshlImm | vshrImm | vsraImm | vmovxImm | vmovvImm | vrotImm | cntcImm | trcImm =>
    cases e
    exact IDA.form.decodes (Bool.and_elim_left h) rfl
  case settle =>
    cases e
    exact MA.form.decodes (Bool.and_elim_left h) rfl
  case lea | ldB | ldBu | ldH | ldHu | ldW | ldWu | ldD | ldQ | ldT | rfree | rstat | barArr | barArw | barSt | evw | vld | rflush =>
    cases e
    exact MDA.form.decodes (Bool.and_elim_left h) rfl
  case stB | stH | stW | stD | stQ | barInit | vst =>
    cases e
    exact MAB.form.decodes (Bool.and_elim_left h) rfl
  case ldS | ldm | stm | amoAdd | amoAnd | amoOr | amoXor | amoMin | amoMax | amoMinu | amoMaxu | amoXchg | amoCas | amoFadd | amoFmin | amoFmax |
    amoBfadd2 | rcell | ropFadd | ropSt | ropMaxi | ropBfadd | rreissue | barWait | vlds | vldx | vsts | vstx =>
    cases e
    exact MDAB.form.decodes (Bool.and_elim_left h) rfl
  case cmpEq | cmpNe | cmpLt | cmpLe | cmpGt | cmpGe | cmpLtu | cmpLeu | cmpGtu | cmpGeu | btest | fcmpEq | fcmpLt | fcmpLe | fcmpUn | pand | por |
    pxor =>
    cases e
    exact XAB.form.decodes h rfl
  case sel =>
    cases e
    exact XDAB.form.decodes (Bool.and_elim_left h) rfl
  all_goals cases e

/-! ### From a word to its instruction and back -/

/-- Whatever instruction the decoder answers has the fields F. -/
def Encodes (F : Fields) (r : Except DecErr Instr) : Prop := ∀ i, r = .ok i → encodeFields i = some F

theorem Encodes.error {F : Fields} {e : DecErr} : Encodes F (.error e) := fun i h => by cases h
theorem Encodes.ite {F : Fields} {p c : Prop} [Decidable c] {r q : Except DecErr Instr} (hr : p → Encodes F r) (hq : p → Encodes F q) :
    p → Encodes F (if c then r else q) := by
  split <;> assumption
/-- An opcode that reads its operands as a form, in the format of that form. -/
theorem Form.encodes {α : Type} {fmt : BitVec 2} {read : Fields → Except DecErr α} {fields : BitVec 9 → α → Fields} {wf : α → Bool}
    (φ : Form fmt read fields wf) {mk : α → Instr} {op : BitVec 9} {F : Fields} (he : encodeFields ∘ mk = some ∘ fields op)
    (hop : F.op.toNat = op.toNat) : F.fmt = fmt → Encodes F (mk <$> read F) := by
  intro hf i hi
  cases hr : read F with
  | error e => rw [hr] at hi; cases hi
  | ok f =>
    rw [hr] at hi
    cases hi
    rw [show encodeFields (mk f) = some (fields op f) from congrFun he f, ← BitVec.eq_of_toNat_eq hop, φ.fields_read F f hf hr]
theorem Encodes.oneForm {F : Fields} {fmt : BitVec 2} {r : Except DecErr Instr} (h : F.fmt = fmt → Encodes F r) :
    Encodes F (oneForm F fmt r) := by
  unfold Sys2Proof.oneForm
  split
  · next hf => exact h (beq_iff_eq.1 hf)
  · exact .error
theorem Encodes.twoForms {F : Fields} {rS rI : Except DecErr Instr} (hS : F.fmt = 0 → Encodes F rS) (hI : F.fmt = 1 → Encodes F rI) :
    Encodes F (twoForms F rS rI) := by
  unfold Sys2Proof.twoForms
  split
  · next hf => exact hS (beq_iff_eq.1 hf)
  · split
    · next hf => exact hI (beq_iff_eq.1 hf)
    · exact .error

theorem encodes_decodeScalar (F : Fields) : Encodes F (decodeScalar F) := by
  unfold decodeScalar
  split
  all_goals apply_rules [Encodes.error, Encodes.oneForm, Encodes.twoForms, S0.form.encodes, SD.form.encodes, SA.form.encodes, SDA.form.encodes,
    SDAB.form.encodes, ID.form.encodes, IDA.form.encodes, MDA.form.encodes, XAB.form.encodes, XDAB.form.encodes]
theorem encodes_decodeFloat (F : Fields) : Encodes F (decodeFloat F) := by
  unfold decodeFloat
  split
  all_goals apply_rules [Encodes.error, Encodes.oneForm, SDA.form.encodes, SDAB.form.encodes]
theorem encodes_decodeControl (F : Fields) : Encodes F (decodeControl F) := by
  unfold decodeControl
  split
  all_goals apply_rules [Encodes.error, Encodes.oneForm, Encodes.twoForms, S0.form.encodes, SA.form.encodes, SDA.form.encodes, SAB.form.encodes,
    I0.form.encodes, ID.form.encodes, IA.form.encodes]
theorem encodes_decodeMemory (F : Fields) : Encodes F (decodeMemory F) := by
  unfold decodeMemory
  split
  all_goals apply_rules [Encodes.error, Encodes.oneForm, SA.form.encodes, SDA.form.encodes, SAB.form.encodes, SDAB.form.encodes, MDA.form.encodes,
    MAB.form.encodes, MDAB.form.encodes]
theorem encodes_decodeSync (F : Fields) : Encodes F (decodeSync F) := by
  unfold decodeSync
  split
  all_goals apply_rules [Encodes.error, Encodes.oneForm, Encodes.twoForms, Encodes.ite, SA.form.encodes, SDA.form.encodes, I0.form.encodes,
    ID.form.encodes, IDA.form.encodes, MA.form.encodes, MDA.form.encodes, MAB.form.encodes, MDAB.form.encodes]
theorem encodes_decodeVecA (F : Fields) : Encodes F (decodeVecA F) := by
  unfold decodeVecA
  split
  all_goals apply_rules [Encodes.error, Encodes.oneForm, Encodes.twoForms, SDA.form.encodes, SDAB.form.encodes, IDA.form.encodes, MDA.form.encodes,
    MAB.form.encodes, MDAB.form.encodes]
theorem encodes_decodeVecB (F : Fields) : Encodes F (decodeVecB F) := by
  unfold decodeVecB
  split
  all_goals apply_rules [Encodes.error, Encodes.oneForm, Encodes.twoForms, SDA.form.encodes, SDAB.form.encodes, ID.form.encodes, IDA.form.encodes]
theorem encodes_decodeEngine (F : Fields) : Encodes F (decodeEngine F) := by
  unfold decodeEngine
  split
  all_goals apply_rules [Encodes.error, Encodes.oneForm, Encodes.twoForms, SD.form.encodes, SA.form.encodes, SDA.form.encodes, SAB.form.encodes,
    I0.form.encodes, ID.form.encodes, IA.form.encodes]
theorem encodes_decodeSystem (F : Fields) : Encodes F (decodeSystem F) := by
  unfold decodeSystem
  split
  all_goals apply_rules [Encodes.error, Encodes.oneForm, Encodes.twoForms, SA.form.encodes, SDA.form.encodes, SAB.form.encodes, SDAB.form.encodes,
    I0.form.encodes, ID.form.encodes, IDA.form.encodes, MDA.form.encodes]
/-- The class of an opcode decides which of the nine decoders answers. -/
theorem encodes_decodeOp (F : Fields) : Encodes F (decodeOp F) := by
  unfold decodeOp
  dsimp only
  split_ifs
  · exact encodes_decodeScalar F
  · exact encodes_decodeFloat F
  · exact encodes_decodeControl F
  · exact encodes_decodeMemory F
  · exact encodes_decodeSync F
  · exact encodes_decodeVecA F
  · exact encodes_decodeVecB F
  · exact encodes_decodeEngine F
  · exact encodes_decodeSystem F
  · exact .error

/-- What `decode` answers is what its fields decode to, when it passes the first check. -/
theorem decode_ok_iff {w : IWord} {i : Instr} : decode w = .ok i ↔ decodeOp (.ofWord w) = .ok i ∧ i.wf = true := by
  unfold decode decodeFields
  cases decodeOp (.ofWord w) with
  | error e => simp
  | ok j =>
    simp only [ite_ok, Except.ok.injEq]
    exact ⟨fun ⟨h, e⟩ => ⟨e, e ▸ h⟩, fun ⟨e, h⟩ => ⟨e ▸ h, e⟩⟩

end Sys2Proof

namespace Sys2Proof.Proofs
open Sys2Proof

/-- Settles O3: the opcode of an encoding picks its row, and the form of the row reads the operands back. -/
theorem everyEncodedInstructionDecodesBack : Obligations.EveryEncodedInstructionDecodesBack := by
  intro i w hwf he
  obtain ⟨F, hF, rfl⟩ := Option.map_eq_some_iff.1 he
  rw [decode_ok_iff, Fields.ofWord_toWord]
  exact ⟨decodeOp_encodeFields hwf hF, hwf⟩

/-- Settles O4: whichever row answers, its form wrote down every field that it read. -/
theorem decodingDropsNoBit : Obligations.DecodingDropsNoBit := by
  intro w i h
  obtain ⟨hop, hwf⟩ := decode_ok_iff.1 h
  refine ⟨hwf, ?_⟩
  rw [encode, encodes_decodeOp _ i hop, Option.map_some, Fields.toWord_ofWord]

/-- Settles O2: each word is the encoding of its instruction, which is well formed, and decoding gives it back. -/
theorem wordsOfTheSpecDecode : Obligations.WordsOfTheSpecDecode := by
  refine ⟨?_, ?_, ?_, ?_, ?_, ?_, ?_, ?_, ?_, ?_, ?_⟩
  all_goals exact everyEncodedInstructionDecodesBack _ _ rfl rfl

end Sys2Proof.Proofs
end

section
/-! SUPPORT. The end of an instruction, as its context sees it (R28, R29, R31 to R33): what the wait leaves of the context, what a fault
leaves, and the next address. -/

namespace Sys2Proof.Machine

/-! ### What passing a wait leaves of the context's state (R28) -/

/-- Passing a wait moves the phase of the instruction on, and nothing else of the context's scheduling. -/
theorem State.passWait_me_c (s : State) (t : Option STail) : ∃ p, (s.passWait t).me.c = { s.me.c with phase := p } := by
  unfold State.passWait
  split
  · refine ⟨.passed, ?_⟩
    dsimp only
    have hsem (s : State) (k n v : Nat) : (s.setSem k n v).me = s.me := by
      simp only [State.me, State.ctx, State.tile_setSem]; rfl
    split <;> simp [State.passedSem, hsem]
  · exact ⟨_, rfl⟩
@[simp] theorem State.passWait_gang (s : State) (t : Option STail) : (s.passWait t).me.c.gang = s.me.c.gang := by
  obtain ⟨p, h⟩ := s.passWait_me_c t
  rw [h]
@[simp] theorem State.passWait_stepping (s : State) (t : Option STail) : (s.passWait t).me.c.stepping = s.me.c.stepping := by
  obtain ⟨p, h⟩ := s.passWait_me_c t
  rw [h]
@[simp] theorem State.passWait_flights (s : State) (t : Option STail) : (s.passWait t).flights = s.flights :=
  State.passWait_keeps (·.flights) (fun _ _ => rfl) (fun _ _ => rfl) (fun _ _ _ _ => rfl) s t
@[simp] theorem State.passWait_busy (s : State) (t : Option STail) (n : Nat) : (s.passWait t).busy n = s.busy n := by
  simp [State.busy]
@[simp] theorem State.passWait_guard (s : State) (t : Option STail) (h : Head) : (s.passWait t).guard h = s.guard h := by
  simp [State.guard]

/-! ### What leaves the moving context alone -/

/-- A fold that changes at each step what `p` does not see. -/
theorem foldl_keeps_of_mem {α β : Type} {p : State → α} {f : State → β → State} (l : List β) (hf : ∀ s, ∀ b ∈ l, p (f s b) = p s) (s : State) :
    p (l.foldl f s) = p s := by
  induction l generalizing s with
  | nil => rfl
  | cons b l ih =>
    rw [List.foldl_cons, ih fun s x hx => hf s x (List.mem_cons_of_mem _ hx), hf s b List.mem_cons_self]

theorem State.ctx_updCtx_other (s : State) {k c j d : Nat} (f : Ctx → Ctx) (h : j ≠ k ∨ d ≠ c) : (s.updCtx k c f).ctx j d = s.ctx j d := by
  rw [State.ctx, State.tile_updCtx]
  by_cases hj : j = k
  · rw [if_pos hj, SMap.get_set_other _ _ _ (h.resolve_left (not_not.2 hj))]; rfl
  · rw [if_neg hj]; rfl
/-- The stop of a tile's other contexts leaves every context of that number. -/
theorem State.stopOthers_ctx (s : State) (k c j : Nat) : (s.stopOthers k c).ctx j c = s.ctx j c :=
  foldl_keeps_of_mem (p := fun s => s.ctx j c) _ (fun s d hd => foldl_keeps_of_mem (p := fun s => s.ctx j c) _
    (fun s t _ => s.ctx_updCtx_other _ (.inr fun e => by simp [e] at hd)) s) s
theorem State.cur_keeps : Keeps State.cur := (keepsSems_module _ (fun _ _ => rfl) (fun _ _ => rfl) fun _ _ => rfl).toKeeps
theorem State.curCtx_keeps : Keeps State.curCtx := (keepsSems_module _ (fun _ _ => rfl) (fun _ _ => rfl) fun _ _ => rfl).toKeeps
@[simp] theorem State.stepped_me (s : State) (b : Bool) : (s.stepped b).me = s.me := by
  unfold State.stepped
  split
  · rw [State.me, State.cur_keeps.stopOthers, State.curCtx_keeps.stopOthers, State.stopOthers_ctx]; rfl
  · rfl
theorem State.ctx_updTile (s : State) (k : Nat) (f : Tile → Tile) (hf : ∀ t, (f t).ctxs = t.ctxs) (j c : Nat) :
    (s.updTile k f).ctx j c = s.ctx j c := by
  simp only [State.ctx, State.tile_updTile_keeps Tile.ctxs s k f (hf _)]
@[simp] theorem State.traceRec_me (s : State) (k c kind : Nat) (v : BitVec 64) : (s.traceRec k c kind v).me = s.me := by
  rw [State.me, State.cur_keeps.traceRec, State.curCtx_keeps.traceRec]
  unfold State.traceRec
  dsimp only
  split
  · rfl
  · split <;> exact State.ctx_updTile _ _ _ (by intro; rfl) ..
theorem State.toStop_ctx (s : State) (k : Nat) (p : StopPacket) (j c : Nat) : (s.toStop k p).ctx j c = s.ctx j c :=
  s.ctx_updTile k (fun t => { t with stopArea := t.stopArea ++ [p] }) (fun _ => rfl) j c
/-- A message changes no context. -/
theorem State.settleForme_ctx (s : State) (k j c : Nat) : (s.settleForme k).ctx j c = s.ctx j c := by
  unfold State.settleForme
  dsimp only
  split
  · rfl
  · split
    · exact foldl_keeps (p := fun s => s.ctx j c) (fun s m => s.toStop_ctx _ _ j c) _ _
    · rfl
theorem State.post_ctx (s : State) (b : Box) (m : Msg) (j c : Nat) : (s.post b m).ctx j c = s.ctx j c := by
  cases b with
  | forme k => exact State.settleForme_ctx ..
  | die d => rfl

/-! ### What a fault leaves of its context (R325, R395) -/

theorem State.block_gang (s : State) (x : Ctx) : (s.block x).c.gang = x.c.gang := by
  simp only [State.block, Sched.stopRun]
  split <;> rfl
/-- Out of a gang a fault whose cause stops no twin blocks its context alone, and posts its message. -/
theorem State.takeFaultRec_apart {s : State} {k c : Nat} {f : FaultRec} {ran : Bool} (hg : (s.ctx k c).c.gang = none)
    (hc : (f.cause == 0x11 || f.cause == 0x12) = false) :
    s.takeFaultRec k c f ran =
      let t := s.updCtx k c fun x => { x with c := { (s.block x).c with fault := some f, phase := x.c.phase.faulted } }
      t.post (t.faultBox k c) { body := f.message (t.ltileRead k), src := k, ctx := c, after := t.nextId } := by
  have hgang (t : State) (ends : Bool) (ht : (t.ctx k c).c.gang = none) : t.faultGang k c ends ran = t := by
    rw [State.faultGang, ht]
  unfold State.takeFaultRec
  rw [hc, Bool.and_false, if_neg Bool.false_ne_true]
  dsimp only
  rw [hgang _ _ (by rw [State.ctx_updCtx]; exact (s.block_gang _).trans hg)]
/-- Out of a gang a fault whose cause stops no twin blocks its context, with its registers as they were. -/
theorem State.takeFault_me {s : State} {a : FaultArg} (hg : s.me.c.gang = none) 
    (hc : (BitVec.ofNat 8 a.cause == 0x11 || BitVec.ofNat 8 a.cause == 0x12) = false) :
    (s.takeFault a).me.r = s.me.r ∧ (s.takeFault a).me.c.run = .blocked ∧
      (s.takeFault a).me.c.fault.map (·.cause) = some (BitVec.ofNat 8 a.cause) := by
  have hme : (s.takeFault a).me = { (s.block s.me) with
      c := { (s.block s.me).c with fault := some (s.faultRec s.cur s.curCtx s.me.r.pc s.iword 0 a), phase := s.me.c.phase.faulted } } := by
    rw [State.me, State.cur_keeps.takeFault, State.curCtx_keeps.takeFault, State.takeFault, State.takeFaultRec_apart hg hc, State.post_ctx,
      State.ctx_updCtx]
    rfl
  rw [hme]
  exact ⟨rfl, rfl, rfl⟩

/-! ### The next address (R31 to R33) -/

/-- Out of a gang an instruction that goes on leaves its context with the next address, `ln` and `lc`. -/
theorem State.leave_goto {s : State} {h : Head} {g : Bool} {pc : BitVec 64} {taken : Bool} (hg : s.me.c.gang = none)
    (hn : nextPc h g s.me.r (s.rx (h.next.toNat % 128)) = .goto pc taken) :
    (s.leave h g).me = { r := { s.me.r with pc := pc,
                                            ln := if h.nas == 3 && g then pcPlus s.me.r.pc 1 else s.me.r.ln,
                                            lc := if h.nas == 5 then s.me.r.lc - 1 else s.me.r.lc },
                         y := s.me.y, c := s.me.c.over } := by
  unfold State.leave
  rw [hn]
  dsimp only
  have ht : (if taken then s.traceRec s.cur s.curCtx 0 pc else s).me = s.me := by split <;> simp
  simp [ht, Sched.over, Sched.count, hg]
/-- Out of a gang one that ends the thread leaves it ending. -/
theorem State.leave_fin {s : State} {h : Head} {g : Bool} (hg : s.me.c.gang = none)
    (hn : nextPc h g s.me.r (s.rx (h.next.toNat % 128)) = .fin) : (s.leave h g).me = { s.me with c := { s.me.c.over with run := .ending } } := by
  unfold State.leave
  rw [hn]
  simp [Sched.over, Sched.count, hg]
/-- A misaligned target is a fault, with the target as its address. -/
theorem State.leave_misaligned {s : State} {h : Head} {g : Bool} {x : BitVec 64}
    (hn : nextPc h g s.me.r (s.rx (h.next.toNat % 128)) = .misaligned x) :
    s.leave h g = (s.updC fun c => { c with phase := .fresh }).takeFault { cause := 0x04, address := x } := by
  unfold State.leave
  rw [hn]
/-- Out of a gang, with the register of a JIND selector at hand, the instruction's end is its next address. -/
theorem State.retire_eq_leave {s : State} {h : Head} {g : Bool} (hg : s.me.c.gang = none)
    (hb : (h.nas == 6 && g && s.busy (h.next.toNat % 128)) = false) : s.retire h g = s.leave h g := by
  rw [State.retire, hg]
  exact if_neg (by rw [hb]; exact Bool.false_ne_true)

/-- The registers that an instruction with this head leaves: `x` is what a JIND selector reads. -/
def nextRegs (h : Head) (g : Bool) (r : Regs) (x : BitVec 64) : Regs :=
  match nextPc h g r x with
  | .goto pc _ => { r with pc := pc, ln := if h.nas == 3 && g then pcPlus r.pc 1 else r.ln, lc := if h.nas == 5 then r.lc - 1 else r.lc }
  | _ => r
/-- Out of a gang the next address leaves the context with `nextRegs`. -/
theorem State.leave_regs {s : State} {h : Head} {g : Bool} (hg : s.me.c.gang = none) :
    (s.leave h g).me.r = nextRegs h g s.me.r (s.rx (h.next.toNat % 128)) := by
  unfold nextRegs
  cases hn : nextPc h g s.me.r (s.rx (h.next.toNat % 128)) with
  | goto pc taken => rw [State.leave_goto hg hn]
  | fin => rw [State.leave_fin hg hn]
  | misaligned x =>
    rw [State.leave_misaligned hn, (State.takeFault_me (by simpa using hg) (by rfl)).1]
    simp

/-! ### The end of `nop` -/

/-- A `nop` that is not held back does nothing but pass its wait, signal, and go on. -/
theorem exec_nop {s : State} {f : S0} (hr : s.runs f.h (some f.t) .u [] = true) :
    exec (.nop f) s = .next ((s.passWait (some f.t)).finish f.h (some f.t) (s.guard f.h) false) := by
  change s.issue f.h (some f.t) .u [] false false (fun s _ => .ok s) = _
  cases hg : s.guard f.h with
  | true => rw [issue_does (by simp [State.does, hr, hg]), conclude_ok]
  | false =>
    simp only [State.runs, Bool.and_eq_true, Bool.not_eq_true'] at hr
    obtain ⟨⟨⟨⟨hl, ho⟩, hw⟩, -⟩, -⟩ := hr
    exact hg ▸ issue_skips hl ho hw hg
/-- Out of a gang, and without a signal, that is its next address. -/
theorem exec_nop_leave {s : State} {f : S0} (hr : s.runs f.h (some f.t) .u [] = true) (hg : s.me.c.gang = none) (hs : f.t.sen = false) :
    exec (.nop f) s = .next ((s.passWait (some f.t)).leave f.h (s.guard f.h)) := by
  have hb : s.opsBusy f.h [] (s.guard f.h) = false := by
    simp only [State.runs, Bool.and_eq_true, Bool.not_eq_true'] at hr
    exact hr.1.2
  rw [exec_nop hr, finish_quiet hs, State.retire_eq_leave (by simpa using hg) (by simpa [State.opsBusy] using hb)]

end Sys2Proof.Machine

namespace Sys2Proof.Proofs
open Sys2Proof Sys2Proof.Machine Sys2Proof.Claims

theorem selectorsChooseThePc : SelectorsChooseThePc := by
  intro s f hr hg hs g seq off x
  refine ⟨(s.passWait (some f.t)).leave f.h g, exec_nop_leave hr hg hs, ?_⟩
  have hregs : ((s.passWait (some f.t)).leave f.h g).me.r = nextRegs f.h g s.me.r (s.rx (f.h.next.toNat % 128)) := by
    rw [State.leave_regs (by simpa using hg)]; simp
  rw [hregs]
  have hseq : pcPlus s.me.r.pc 1 = seq := rfl
  have hoff : pcPlus s.me.r.pc (nextOffset f.h) = off := rfl
  refine ⟨fun h => ?_, fun h => ?_, fun h => ?_, fun h => ?_, fun h ha => ?_, fun h => ?_, fun h hn ha => ?_, fun h => ?_, fun h => ?_⟩
  · simp [nextRegs, nextPc, h, hseq]
  · cases g <;> simp [nextRegs, nextPc, h, hseq, hoff]
  · cases g <;> simp [nextRegs, nextPc, h, hseq, hoff]
  · cases g <;> simp [nextRegs, nextPc, h, hseq, hoff]
  · cases g <;> simp [nextRegs, nextPc, h, hseq, ha]
  · by_cases hl : s.me.r.lc - 1#32 = 0#32 <;> simp [nextRegs, nextPc, h, hseq, hoff, hl]
  · have hx : (s.rx (f.h.next.toNat % 128)) = x := by rw [Nat.mod_eq_of_lt hn]
    cases g <;> simp [nextRegs, nextPc, h, hseq, hx, ha]
  · cases g <;> simp [nextRegs, nextPc, h, hseq]
  · obtain ⟨p, hp⟩ := s.passWait_me_c (some f.t)
    have hgang := (s.passWait_gang (some f.t)).trans hg
    cases g with
    | true => rw [State.leave_fin hgang (by simp [nextPc, h])]; rfl
    | false => rw [State.leave_goto (pc := seq) (taken := false) hgang (by simp [nextPc, h, hseq])]; simp [Sched.over, hp]

theorem misalignedTargetFaults : MisalignedTargetFaults := by
  intro s f hd hg hs
  obtain ⟨hr, hgd⟩ : s.runs f.h (some f.t) .u [] = true ∧ s.guard f.h = true := by simpa [State.does] using hd
  rw [exec_nop_leave hr hg hs, hgd]
  refine ⟨fun h ha => ?_, fun h hn ha => ?_⟩
  · rw [State.leave_misaligned (x := s.me.r.ln) (by simp [nextPc, h, ha])]
  · rw [State.leave_misaligned (x := s.rx f.h.next.toNat) (by simp [nextPc, h, ha, Nat.mod_eq_of_lt hn])]

/-- Settles O5: a `nop` ends in its next address, and the register of a JIND selector is at hand when it runs. -/
theorem nextAddressSelectors : Obligations.NextAddressSelectors := ⟨selectorsChooseThePc, misalignedTargetFaults⟩

end Sys2Proof.Proofs
end

section
/-! SUPPORT. Semaphores around an instruction (R28, R29): what a tail's signal adds, what its wait takes, and that neither the next address
nor a fault touches one. -/

namespace Sys2Proof.Machine

/-- What is seen of an observation is an observation. -/
theorem Keeps.map {α β : Type} {p : State → α} (hp : Keeps p) (g : α → β) : Keeps fun s => g (p s) where
  ctx s k c f hf := congrArg g (hp.ctx s k c f hf)
  me s f hf := congrArg g (hp.me s f hf)
  mail s k l := congrArg g (hp.mail s k l)
  die s d l := congrArg g (hp.die s d l)
  stops s k l := congrArg g (hp.stops s k l)
  trace s k tr := congrArg g (hp.trace s k tr)
/-- Neither the next address nor a fault changes a semaphore. -/
theorem keeps_sems (k : Nat) : Keeps fun s => (s.tile k).sems where
  ctx s j c f _ := by rw [State.tile_updCtx]
  me s f _ := by rw [State.upd, State.tile_updCtx]
  mail _ _ _ := rfl
  die _ _ _ := rfl
  stops s j l := State.tile_updTile_keeps Tile.sems s j (fun t => { t with stopArea := l }) rfl k
  trace s j tr := State.tile_updTile_keeps Tile.sems s j (fun t => { t with trace := tr }) rfl k
theorem keeps_sem (k n : Nat) : Keeps fun s => s.sem k n := (keeps_sems k).map fun m => (m.get 0 n).toNat

@[simp] theorem State.sem_setSem (s : State) (k n v : Nat) : (s.setSem k n v).sem k n = v % 65536 := by simp [State.sem, State.setSem]
@[simp] theorem State.me_setSem (s : State) (k n v : Nat) : (s.setSem k n v).me = s.me := by
  simp only [State.me, State.ctx, State.tile_setSem]; rfl

/-- What a signal adds (R29). -/
theorem State.addSem_sem (s : State) (k n i : Nat) :
    (s.addSem k n i).1.sem k n = if s.sem k n + i ≤ 0xFFFF then s.sem k n + i else 0xFFFF := by
  have ht : (s.updTile k fun t => { t with semTime := t.semTime.set n (s.gtime.setWidth 48) }).sem k n = s.sem k n := by simp [State.sem]
  unfold State.addSem
  simp only [ht]
  by_cases h : s.sem k n + i ≤ 0xFFFF
  · rw [if_neg (by omega), if_pos h, State.sem_setSem, Nat.mod_eq_of_lt (by omega)]
  · rw [if_pos (by omega), if_neg h, State.sem_setSem]
theorem State.addSem_saturates (s : State) (k n i : Nat) : (s.addSem k n i).2 = decide (0xFFFF < s.sem k n + i) := by
  have ht : (s.updTile k fun t => { t with semTime := t.semTime.set n (s.gtime.setWidth 48) }).sem k n = s.sem k n := by simp [State.sem]
  unfold State.addSem
  simp only [ht]
  split <;> simp_all
@[simp] theorem State.addSem_me (s : State) (k n i : Nat) : (s.addSem k n i).1.me = s.me := by
  have ht : (s.updTile k fun t => { t with semTime := t.semTime.set n (s.gtime.setWidth 48) }).me = s.me :=
    s.ctx_updTile k (fun t => { t with semTime := t.semTime.set n (s.gtime.setWidth 48) }) (fun _ => rfl) s.cur s.curCtx
  unfold State.addSem
  dsimp only
  split <;> rw [State.me_setSem, ht]

/-- The end of an instruction that signals. -/
theorem State.finish_signals {s : State} {h : Head} {t : STail} (hs : t.sen = true) :
    s.finish h (some t) true false =
      if 0xFFFF < s.sem s.cur t.ssem.toNat + t.inc then (s.addSem s.cur t.ssem.toNat t.inc).1.takeFault { cause := 0x0F }
      else (s.addSem s.cur t.ssem.toNat t.inc).1.retire h true := by
  simp [State.finish, hs, State.addSem_saturates]

/-- A wait that passes takes its threshold off, if it consumes (R28). -/
theorem State.passWait_sem {s : State} {t : STail} (hw : t.wen = true) (hp : s.me.c.phase = .fresh) :
    (s.passWait (some t)).sem s.cur t.wsem.toNat =
      s.sem s.cur t.wsem.toNat - (if t.cons then t.wthr.toNat else 0) := by
  have hlt : s.sem s.cur t.wsem.toNat < 65536 := BitVec.isLt _
  have hkeep : ((s.updC fun c => { c with phase := .passed }).passedSem t.wsem.toNat).sem s.cur t.wsem.toNat = s.sem s.cur t.wsem.toNat :=
    ((keeps_sem _ _).updY ..).trans ((keeps_sem _ _).updC ..)
  have hcur : ((s.updC fun c => { c with phase := .passed }).passedSem t.wsem.toNat).cur = s.cur := rfl
  simp only [State.passWait, State.waitOf, hw, hp]
  cases hc : t.cons with
  | false => simpa [hc] using hkeep
  | true => simp [hc, hkeep, hcur, Nat.mod_eq_of_lt (show s.sem s.cur t.wsem.toNat - t.wthr.toNat < 65536 by omega)]

end Sys2Proof.Machine

namespace Sys2Proof.Proofs
open Sys2Proof Sys2Proof.Machine Sys2Proof.Claims

theorem tailSignalAddsToItsSemaphore : TailSignalAddsToItsSemaphore := by
  intro s f hd hs hw hn hg n inc sum
  obtain ⟨hr, hgd⟩ : s.runs f.h (some f.t) .u [] = true ∧ s.guard f.h = true := by simpa [State.does] using hd
  have hinc : f.t.inc = inc := by simp [STail.inc, inc]
  have hexec : exec (.nop f) s = .next (if 0xFFFF < sum then (s.addSem s.cur n inc).1.takeFault { cause := 0x0F }
      else (s.addSem s.cur n inc).1.retire f.h true) := by
    rw [exec_nop hr, passWait_bare hw, hgd, State.finish_signals hs, hinc]
  have hsem : (s.addSem s.cur n inc).1.sem s.cur n = if sum ≤ 0xFFFF then sum else 0xFFFF := State.addSem_sem ..
  have hgang : (s.addSem s.cur n inc).1.me.c.gang = none := by simpa using hg
  by_cases hsat : 0xFFFF < sum
  · rw [hexec, if_pos hsat]
    obtain ⟨hregs, hrun, hfault⟩ := State.takeFault_me (a := { cause := 0x0F }) hgang rfl
    refine ⟨_, rfl, ((keeps_sem _ _).takeFault ..).trans hsem, fun h => absurd hsat (by omega), fun _ => ⟨?_, hrun, hfault⟩⟩
    rw [hregs, State.addSem_me]
  · rw [hexec, if_neg hsat]
    refine ⟨_, rfl, ((keeps_sem _ _).retire ..).trans hsem, fun _ => ?_, fun h => absurd h hsat⟩
    rw [State.retire_eq_leave hgang (by simp [hn]), State.leave_regs hgang]
    simp [nextRegs, nextPc, hn, pcPlus]

theorem tailWaitHoldsTheInstruction : TailWaitHoldsTheInstruction := by
  intro s f hl ho hw hs hp
  have hwait : s.waitOf (some f.t) = some f.t := by simp [State.waitOf, hw, hp]
  change (_ → s.issue f.h (some f.t) .u [] false false (fun s _ => .ok s) = _) ∧ (_ → _ → ∃ t, s.issue f.h (some f.t) .u [] false false (fun s _ => .ok s) = _ ∧ _)
  refine ⟨fun hb => ?_, fun hb hn => ?_⟩
  · rw [issue_waits hl ho (by simpa [State.waitBlocked, hwait] using hb), State.waitTail, hwait]
  · have hblock : s.waitBlocked (some f.t) = false := by simpa [State.waitBlocked, hwait] using hb
    have hr : s.runs f.h (some f.t) .u [] = true := by
      simp [State.runs, hl, ho, hblock, State.opsBusy, State.opsPoisoned, hn]
    refine ⟨_, exec_nop hr, ?_⟩
    rw [finish_quiet hs, (keeps_sem _ _).retire, State.passWait_sem hw hp]

/-- Settles O6: a tail's wait stands before an instruction's end and its signal within it; neither the next address nor a fault touches a
semaphore. -/
theorem tailSemaphores : Obligations.TailSemaphores := ⟨tailSignalAddsToItsSemaphore, tailWaitHoldsTheInstruction⟩

end Sys2Proof.Proofs
end

section
/-! SUPPORT. Writing predicates (R34, Table 8): one predicate, and the two targets of a compare by the combining type. -/

namespace Sys2Proof.Machine

/-- The bits of a number after one of them is replaced. -/
theorem testBit_setBits_one (n lo : Nat) (b : Bool) (j : Nat) : (setBits n lo 1 (bit b)).testBit j = if j = lo then b else n.testBit j := by
  have hn : n = 2 ^ lo * (2 * (n / 2 ^ lo / 2) + n / 2 ^ lo % 2) + n % 2 ^ lo := by rw [Nat.div_add_mod, Nat.div_add_mod]
  have hset : setBits n lo 1 (bit b) = 2 ^ lo * (2 * (n / 2 ^ lo / 2) + bit b) + n % 2 ^ lo := by
    have hb : bit b % 2 ^ 1 = bit b := by cases b <;> rfl
    rw [setBits, bitsAt, hb, pow_one, Nat.mul_comm _ (2 ^ lo), Nat.mul_comm (bit b), Nat.mul_add]
    rw [Nat.mul_add] at hn
    omega
  have hlt : n % 2 ^ lo < 2 ^ lo := Nat.mod_lt _ (Nat.two_pow_pos lo)
  rw [hset, Nat.testBit_two_pow_mul_add _ hlt]
  conv_rhs => rw [hn, Nat.testBit_two_pow_mul_add _ hlt]
  rcases Nat.lt_trichotomy j lo with h | h | h
  · simp [h, h.ne]
  · cases b <;> simp [h, bit]
  · obtain ⟨i, hi⟩ : ∃ i, j - lo = i + 1 := ⟨j - lo - 1, by omega⟩
    have hb : (2 * (n / 2 ^ lo / 2) + bit b) / 2 = n / 2 ^ lo / 2 := by cases b <;> simp [bit]; omega
    have hm : (2 * (n / 2 ^ lo / 2) + n / 2 ^ lo % 2) / 2 = n / 2 ^ lo / 2 := by omega
    rw [if_neg h.not_gt, if_neg h.ne', if_neg h.not_gt, hi, Nat.testBit_succ, Nat.testBit_succ, hb, hm]

theorem Regs.p_setP (r : Regs) {n m : Nat} (b : Bool) (hn : n ≠ 0) (hm : m < 8) : (r.setP n b).p m = if m = n then b else r.p m := by
  have hbit : (BitVec.ofNat 8 (setBits r.preds.toNat n 1 (bit b))).getLsbD m = if m = n then b else r.preds.getLsbD m := by
    rw [BitVec.getLsbD_ofNat, decide_eq_true hm, Bool.true_and, testBit_setBits_one]; rfl
  rw [Regs.setP, if_neg hn, Regs.p, hbit, Regs.p]
  by_cases h : m = n
  · simp [h, hn]
  · simp [h]
theorem Regs.p_setP_same (r : Regs) {n : Nat} (b : Bool) (hn : n ≠ 0) (hlt : n < 8) : (r.setP n b).p n = b := by rw [r.p_setP b hn hlt, if_pos rfl]
theorem Regs.p_setP_other (r : Regs) {n m : Nat} (b : Bool) (h : m ≠ n) (hlt : m < 8) : (r.setP n b).p m = r.p m := by
  by_cases hn : n = 0
  · rw [Regs.setP, if_pos hn]
  · rw [r.p_setP b hn hlt, if_neg h]
/-- A predicate is all that is written. -/
theorem Regs.setP_rest (r : Regs) (n : Nat) (b : Bool) (v : BitVec 8) : { r.setP n b with preds := v } = { r with preds := v } := by
  unfold Regs.setP
  split <;> rfl

/-- The modes of a combining type, applied to both targets, are the values of Table 8. -/
theorem ctypeModes_combined : ∀ (ct : BitVec 3) (g c pa pb : Bool),
    ((ctypeModes ct).1.1.apply g (c != (ctypeModes ct).1.2) pa, (ctypeModes ct).2.1.apply g (c != (ctypeModes ct).2.2) pb) =
      Claims.combined ct g c pa pb := by decide

/-- What a combining type leaves of the registers: the predicates alone change, of them the two targets, and those hold the values of
Table 8. -/
structure Combines (r : Regs) (x : XTail) (g c : Bool) (r' : Regs) : Prop where
  rest : { r' with preds := r.preds } = r
  others : ∀ p, p < 8 → p ≠ x.pA.toNat → p ≠ x.pB.toNat → r'.p p = r.p p
  zero : r'.p 0 = true
  targets : x.pA ≠ x.pB → (x.pA ≠ 0 → r'.p x.pA.toNat = (Claims.combined x.ctype g c (r.p x.pA.toNat) (r.p x.pB.toNat)).1) ∧
    (x.pB ≠ 0 → r'.p x.pB.toNat = (Claims.combined x.ctype g c (r.p x.pA.toNat) (r.p x.pB.toNat)).2)

theorem Regs.combine_combines (r : Regs) (x : XTail) (g c : Bool) : Combines r x g c (r.combine x g c) where
  rest := by simp only [Regs.combine, Regs.setP_rest]
  others p hp ha hb := by rw [Regs.combine, Regs.p_setP_other _ _ hb hp, Regs.p_setP_other _ _ ha hp]
  zero := rfl
  targets hne := by
    have hne' : x.pA.toNat ≠ x.pB.toNat := fun h => hne (BitVec.eq_of_toNat_eq h)
    rw [← ctypeModes_combined]
    refine ⟨fun h => ?_, fun h => ?_⟩
    · have h0 : x.pA.toNat ≠ 0 := fun h' => h (BitVec.eq_of_toNat_eq h')
      rw [Regs.combine, Regs.p_setP_other _ _ hne' x.pA.isLt, Regs.p_setP_same _ _ h0 x.pA.isLt]
    · have h0 : x.pB.toNat ≠ 0 := fun h' => h (BitVec.eq_of_toNat_eq h')
      rw [Regs.combine, Regs.p_setP_same _ _ h0 x.pB.isLt, Regs.p_setP_other _ _ hne'.symm x.pB.isLt]

/-- Every compare is `compareX` of its condition (Table 3). -/
theorem exec_compareRows : ∀ row ∈ Claims.compareRows, ∀ (s : State) (f : XAB), exec (row.1 f) s = compareX row.2 f s := by
  unfold Claims.compareRows
  repeat' refine List.forall_mem_cons.2 ⟨fun _ _ => rfl, ?_⟩
  simp
/-- Every predicate instruction is `predX` of its function. -/
theorem exec_predicateRows : ∀ row ∈ Claims.predicateRows, ∀ (s : State) (f : XAB), exec (row.1 f) s = predX row.2 f s := by
  unfold Claims.predicateRows
  repeat' refine List.forall_mem_cons.2 ⟨fun _ _ => rfl, ?_⟩
  simp

/-- The predicates packed, with bit 0 as 1 (R51). -/
theorem Regs.packed_eq (r : Regs) : r.packed = r.preds ||| 1 :=
  (by decide : ∀ p : BitVec 8, BitVec.ofNat 8 (p.toNat / 2 * 2 + 1) = p ||| 1) r.preds

end Sys2Proof.Machine

namespace Sys2Proof.Proofs
open Sys2Proof Sys2Proof.Machine Sys2Proof.Claims

theorem compareAndPredicateResults : CompareAndPredicateResults := by
  refine ⟨fun s f hr row hrow => ?_, fun s f hr row hrow => ?_⟩
  · have hc := Regs.combine_combines s.me.r f.x (s.guard f.h) (row.2 (s.rx f.a.num) (xOperand s f.b f.x))
    refine ⟨_, ?_, hc.rest, hc.others, hc.zero, hc.targets⟩
    rw [exec_compareRows row hrow, compareX, issue_runs hr (by simp)]
    rfl
  · have hc := Regs.combine_combines s.me.r f.x (s.guard f.h) (row.2 (s.rp f.a.num) (s.rp f.b.num))
    refine ⟨_, ?_, hc.rest, hc.others, hc.zero, hc.targets⟩
    rw [exec_predicateRows row hrow, predX, issue_runs hr (by simp)]
    rfl

theorem predicateMovesAndSelect : PredicateMovesAndSelect := by
  refine ⟨fun s f hd => ?_, fun s f hd => ?_, fun s f hd => ?_⟩
  · rw [show exec (.pmov f) s = execPmov f s from rfl, execPmov, issue_does hd, conclude_ok, State.passWait_me_r, Regs.packed_eq]
  · have hlow : BitVec.ofNat 8 ((s.rx f.a.num).toNat % 256) = (s.rx f.a.num).setWidth 8 := BitVec.eq_of_toNat_eq (by simp)
    rw [show exec (.pset f) s = execPset f s from rfl, execPset, issue_does hd, conclude_ok, State.passWait_rx, hlow]
  · rw [show exec (.sel f) s = execSel f s from rfl, execSel, issue_does hd, conclude_ok, passWait_none]

/-- Settles O9: a compare writes what its combining type says of its condition, and the others write what they read. -/
theorem predicateResults : Obligations.PredicateResults := ⟨compareAndPredicateResults, predicateMovesAndSelect⟩

end Sys2Proof.Proofs
end

section
/-! SUPPORT. Register updates that read what they write, for the control instructions (R33, R62, R63). -/

namespace Sys2Proof.Machine

/-- A register update is decided by what it makes of the registers as they are. -/
theorem State.updR_congr {s : State} {f g : Regs → Regs} (h : f s.me.r = g s.me.r) : s.updR f = s.updR g := by
  have hx : ({ s.me with r := f s.me.r } : Ctx) = { s.me with r := g s.me.r } := by rw [h]
  exact congrArg (s.setCtx s.cur s.curCtx) hx
theorem toNat_immZ (v : BitVec 32) : (immZ v).toNat = v.toNat := by
  have := v.isLt
  simp [immZ]
  omega

end Sys2Proof.Machine

namespace Sys2Proof.Proofs
open Sys2Proof Sys2Proof.Machine Sys2Proof.Claims

theorem controlValues : ControlValues := by
  refine ⟨fun s f hd hroom => ?_, fun s f hd => ?_, fun s f hd => ?_, fun s f hd => ?_, fun s f hd hroom => ?_,
    fun s f v l hd hstk => ?_, fun s f hd => ?_, fun s f hd => ?_⟩
  · rw [show exec (.enter f) s = execEnter f s from rfl, execEnter, issue_does hd]
    exact congrArg (s.conclude _ _ _ _) (if_neg (by rw [toNat_immZ]; exact hroom.not_gt))
  · rw [show exec (.leave f) s = execLeave f s from rfl, execLeave, issue_does hd]
    rfl
  · rw [show exec (.lcset f) s = execLcset f s from rfl, execLcset, issue_does hd, conclude_ok, State.passWait_rx]
  · rw [show exec (.lcsetImm f) s = execLcsetImm f s from rfl, execLcsetImm, issue_does hd]
    rfl
  · rw [show exec (.lcpush f) s = execLcpush f s from rfl, execLcpush, issue_does hd, State.passWait_me_r, if_pos hroom, conclude_ok]
    exact congrArg (fun t => Host.Outcome.next (State.finish t f.h _ true false)) (State.updR_congr (by simp))
  · rw [show exec (.lcpop f) s = execLcpop f s from rfl, execLcpop, issue_does hd, State.passWait_me_r, hstk]
    rfl
  · rw [show exec (.yield f) s = execYield f s from rfl, execYield, issue_does hd, conclude_ok, State.passWait_curCtx]
  · rw [show exec (.irgn f) s = execIrgn f s from rfl, execIrgn, issue_does hd, conclude_ok]
    exact congrArg (fun t => Host.Outcome.next (State.finish t f.h _ true false)) (State.updR_congr (by simp [pcPlus]))

theorem stackLimitFaults : StackLimitFaults := by
  refine ⟨fun s f hd hlow => ?_, fun s f hd hfull => ?_, fun s f hd hnone => ?_⟩
  · rw [show exec (.enter f) s = execEnter f s from rfl, execEnter, issue_does hd]
    exact congrArg (s.conclude _ _ _ _) (if_pos (by rw [toNat_immZ]; exact hlow))
  · rw [show exec (.lcpush f) s = execLcpush f s from rfl, execLcpush, issue_does hd, State.passWait_me_r, if_neg (by omega), conclude_trap]
  · rw [show exec (.lcpop f) s = execLcpop f s from rfl, execLcpop, issue_does hd, State.passWait_me_r, hnone]
    rfl

/-- Settles O11: each control instruction that runs is decided by its room on the stack, or writes what it reads. -/
theorem controlResults : Obligations.ControlResults := ⟨controlValues, stackLimitFaults⟩

end Sys2Proof.Proofs
end

section
/-! SUPPORT. What guards a system instruction (R36, R338): its level, its operand codes, its operand words. -/

namespace Sys2Proof.Machine

/-- The refusals of an instruction, in their order: below its level, with an operand code that it cannot take, and, where nothing holds it
back, with operand words that are not `legal`. -/
def Refuses (s : State) (h : Head) (t : STail) (need : Level) (ops : List Req) (legal : Prop) (o : Out) : Prop :=
  (s.me.c.level.reaches need = false → o = .next (s.takeFault { cause := 0x03 })) ∧
  (s.me.c.level.reaches need = true → opsOk s.me.r.win h ops = false → o = .next (s.takeFault { cause := 0x02 })) ∧
  (s.does h (some t) need ops = true → t.wen = false → ¬ legal → o = .next (s.takeFault { cause := 0x02 }))

/-- An instruction whose Execute part begins with the check of its operand words. -/
theorem issue_refuses {s : State} {h : Head} {t : STail} {need : Level} {ops : List Req} {legal : Prop} {body : State → Bool → Res}
    (hb : ¬ legal → body s true = .trap { cause := 0x02 }) :
    Refuses s h t need ops legal (s.issue h (some t) need ops false false body) :=
  ⟨issue_below, issue_badOps, fun hd hw hl => by rw [issue_does hd, passWait_bare hw, hb hl, conclude_trap]⟩
theorem sys_refuses {s : State} {h : Head} {t : STail} {need : Level} {ops : List Req} {legal : Prop} {ok : State → Bool} {body : State → Res}
    (hok : ¬ legal → ok s = false) : Refuses s h t need ops legal (s.sys h t need ops ok body) :=
  issue_refuses fun hl => by rw [hok hl]; rfl
/-- A row of an instruction with the operands d, a, b whose check is `ok`. -/
theorem sysDAB_refuses {mk : SDAB → Instr} {ex : SDAB → State → Out} {need : Level} {ok : Word → Word → Bool}
    {body : SDAB → State → State → Word → Word → Res} {legal : Word → Word → Prop} (he : ∀ f s, exec (mk f) s = ex f s)
    (hx : ∀ f s, ex f s = s.sysDAB f need ok (body f s)) (hok : ∀ a b, ok a b = true ↔ legal a b) (s : State) (f : SDAB) :
    Refuses s f.h f.t need (Claims.opsDAB f) (legal (s.rx f.a.num) (s.rx f.b.num)) (exec (mk f) s) := by
  rw [he, hx]
  exact sys_refuses fun hl => by rwa [← Bool.not_eq_true, hok]
/-- A row of one with the operands d and a. -/
theorem sysDA_refuses {mk : SDA → Instr} {ex : SDA → State → Out} {need : Level} {ok : Word → Bool} {body : SDA → State → State → Word → Res}
    {legal : Word → Prop} (he : ∀ f s, exec (mk f) s = ex f s) (hx : ∀ f s, ex f s = s.sysDA f need ok (body f s))
    (hok : ∀ a, ok a = true ↔ legal a) (s : State) (f : SDA) :
    Refuses s f.h f.t need (Claims.opsDA f) (legal (s.rx f.a.num)) (exec (mk f) s) := by
  rw [he, hx]
  exact sys_refuses fun hl => by rwa [← Bool.not_eq_true, hok]

/-- Below its level a system instruction is refused whatever its operands. -/
theorem sys_below {s : State} {need : Level} (h : Head) (t : STail) (ops : List Req) (ok : State → Bool) (body : State → Res)
    (hl : s.me.c.level.reaches need = false) : s.sys h t need ops ok body = .next (s.takeFault { cause := 0x03 }) := issue_below hl
theorem sysDA_below {s : State} {need : Level} (f : SDA) (ok : Word → Bool) (body : State → Word → Res)
    (hl : s.me.c.level.reaches need = false) : s.sysDA f need ok body = .next (s.takeFault { cause := 0x03 }) := sys_below _ _ _ _ _ hl
theorem sysIDA_below {s : State} (f : IDA) (ok : Word → Bool) (body : State → Word → Word → Res) (hl : s.me.c.level.reaches .s = false) :
    s.sysIDA f ok body = .next (s.takeFault { cause := 0x03 }) := issue_below hl

/-! ### The checks of operand words -/

theorem below_iff (n : Nat) (w : Word) : below n w = true ↔ w.toNat < 2 ^ n := decide_eq_true_iff
/-- A target word has its reserved bits 0: bit 24 unless it holds a mode, and bits 23:20 unless they hold a reply (R329, Table 3). -/
theorem targetOk_iff (mode reply : Bool) (w : Word) :
    targetOk mode reply w = true ↔ w.toNat < 2 ^ 25 ∧ (mode = true ∨ w.toNat / 2 ^ 24 % 2 = 0) ∧
      (if reply then w.toNat / 2 ^ 20 % 16 ≤ 4 else w.toNat / 2 ^ 20 % 16 = 0) := by
  have hbit : w.getLsbD 24 = false ↔ w.toNat / 2 ^ 24 % 2 = 0 := by
    rw [← BitVec.testBit_toNat, Nat.testBit_eq_decide_div_mod_eq]
    simp
  rw [targetOk, Bool.and_eq_true, Bool.and_eq_true, below_iff, and_assoc]
  refine and_congr_right fun _ => and_congr ?_ ?_
  · rw [Bool.or_eq_true, Bool.not_eq_true', hbit]
  · cases reply with
    | true => exact decide_eq_true_iff
    | false => exact beq_iff_eq
theorem wdogOk_iff (a : Word) : wdogOk a = true ↔ a.toNat < 2 ^ 10 ∧ 256 ≤ a.toNat := by
  simp [wdogOk, below_iff, bitsAt]
  omega

end Sys2Proof.Machine

namespace Sys2Proof.Proofs
open Sys2Proof Sys2Proof.Machine Sys2Proof.Claims

/-- Every row of level S or M with the operands d, a, b. -/
theorem levelDAB_refuses : ∀ row ∈ levelDAB, ∀ (s : State) (f : SDAB),
    Refuses s f.h f.t row.2.1 (opsDAB f) (row.2.2 (s.rx f.a.num) (s.rx f.b.num)) (exec (row.1 f) s) := by
  unfold levelDAB
  refine List.forall_mem_cons.2 ⟨sysDAB_refuses (ex := execMbxr) (fun _ _ => rfl) (fun _ _ => rfl) fun a _ => ?_, ?_⟩
  · rw [targetOk_iff]; simp; omega
  refine List.forall_mem_cons.2 ⟨sysDAB_refuses (ex := execTlbi) (fun _ _ => rfl) (fun _ _ => rfl) fun _ b => ?_, ?_⟩
  · simp [below_iff, bitsAt]
  refine List.forall_mem_cons.2 ⟨sysDAB_refuses (ex := execCtxsv) (fun _ _ => rfl) (fun _ _ => rfl) fun a _ => ?_, ?_⟩
  · rw [targetOk_iff]; simp; omega
  refine List.forall_mem_cons.2 ⟨sysDAB_refuses (ex := execCtxld) (fun _ _ => rfl) (fun _ _ => rfl) fun a _ => ?_, ?_⟩
  · rw [targetOk_iff]; simp; omega
  refine List.forall_mem_cons.2 ⟨sysDAB_refuses (ex := execGpart) (fun _ _ => rfl) (fun _ _ => rfl) fun a b => ?_, ?_⟩
  · simp [below_iff]
  refine List.forall_mem_cons.2 ⟨sysDAB_refuses (ex := execWdog) (fun _ _ => rfl) (fun _ _ => rfl) fun a _ => wdogOk_iff a, ?_⟩
  refine List.forall_mem_cons.2 ⟨sysDAB_refuses (ex := execCntc) (fun _ _ => rfl) (fun _ _ => rfl) fun a b => ?_, ?_⟩
  · simp [below_iff]
  refine List.forall_mem_cons.2 ⟨sysDAB_refuses (ex := execTrc) (fun _ _ => rfl) (fun _ _ => rfl) fun a b => ?_, ?_⟩
  · simp [trcOk, below_iff, bitsAt]
  exact List.forall_mem_cons.2 ⟨sysDAB_refuses (ex := execKeyld) (fun _ _ => rfl) (fun _ _ => rfl) fun a _ => below_iff 12 a, by simp⟩

/-- Every row of level S or M with the operands d and a. `turnack` waits for nothing before it (R338). -/
theorem levelDA_refuses : ∀ row ∈ levelDA, ∀ (s : State) (f : SDA),
    Refuses s f.h f.t row.2.1 (opsDA f) (row.2.2 (s.rx f.a.num)) (exec (row.1 f) s) := by
  unfold levelDA
  refine List.forall_mem_cons.2 ⟨sysDA_refuses (ex := execPrmt) (fun _ _ => rfl) (fun _ _ => rfl) fun a => ?_, ?_⟩
  · rw [targetOk_iff]; simp
  refine List.forall_mem_cons.2 ⟨sysDA_refuses (ex := execKill) (fun _ _ => rfl) (fun _ _ => rfl) fun a => ?_, ?_⟩
  · rw [targetOk_iff]; simp; omega
  refine List.forall_mem_cons.2 ⟨fun s f => show Refuses s f.h f.t .s (opsDA f) ((s.rx f.a.num).toNat < 2 ^ 32) (execTurnack f s) from
    issue_refuses fun hl => if_pos (by rw [Bool.not_eq_true', ← Bool.not_eq_true, below_iff]; exact hl), ?_⟩
  refine List.forall_mem_cons.2 ⟨sysDA_refuses (ex := execScrub) (fun _ _ => rfl) (fun _ _ => rfl) fun a => below_iff 17 a, ?_⟩
  exact List.forall_mem_cons.2 ⟨sysDA_refuses (ex := execFencecore) (fun _ _ => rfl) (fun _ _ => rfl) fun a => below_iff 17 a, by simp⟩

/-- Settles O42: the level is looked at before the operand codes, and those before the operand words, with which the Execute part begins. -/
theorem systemInstructionsAreGuarded : Obligations.SystemInstructionsAreGuarded := by
  refine ⟨levelDAB_refuses, levelDA_refuses, fun s hl => ?_, fun s hl => ?_⟩
  · have hs : s.me.c.level.reaches .s = false := by rw [hl]; rfl
    exact ⟨fun f => show execMbxw f s = _ from issue_below hs, fun f => show execArtw f s = _ from issue_below hs,
      fun f => show execProof f s = _ from issue_below hs, fun f => show execRflush f s = _ from issue_below hs,
      fun f => show execRreissue f s = _ from issue_below hs, fun f => show execWdogImm f s = _ from sysIDA_below _ _ _ hs,
      fun f => show execCntcImm f s = _ from sysIDA_below _ _ _ hs, fun f => show execTrcImm f s = _ from sysIDA_below _ _ _ hs⟩
  · have hm : s.me.c.level.reaches .m = false := by
      cases hc : s.me.c.level with
      | m => exact absurd hc hl
      | s => rfl
      | u => rfl
    exact ⟨fun f => show execFlood f s = _ from sysDA_below _ _ _ hm, fun f => show execHalt f s = _ from sys_below _ _ _ _ _ hm⟩

end Sys2Proof.Proofs
end

section
/-! SUPPORT. Every instruction and every step of another agent answers a next state (R38, R100, R395): an instruction is one issue, and an
agent's step is a choice among next states. -/

namespace Sys2Proof.Machine

/-! ### The forms that instructions share -/

theorem sys_next (s h t need ops ok body) : ∃ u, State.sys s h t need ops ok body = .next u := issue_next ..
theorem sysDAB_next (s f need ok body) : ∃ u, State.sysDAB s f need ok body = .next u := sys_next ..
theorem sysDA_next (s f need ok body) : ∃ u, State.sysDA s f need ok body = .next u := sys_next ..
theorem sysIDA_next (s f ok body) : ∃ u, State.sysIDA s f ok body = .next u := issue_next ..
theorem aluS_next (fn f s) : ∃ u, aluS fn f s = .next u := issue_next ..
theorem aluI_next (fn f s) : ∃ u, aluI fn f s = .next u := issue_next ..
theorem unS_next (fn f s) : ∃ u, unS fn f s = .next u := issue_next ..
theorem constI_next (cls fn f s) : ∃ u, constI cls fn f s = .next u := issue_next ..
theorem loadF_next (n ext f s) : ∃ u, loadF n ext f s = .next u := issue_next ..
theorem storeF_next (n f s) : ∃ u, storeF n f s = .next u := issue_next ..
theorem amoF_next (k f s) : ∃ u, amoF k f s = .next u := issue_next ..
theorem ropF_next (k f s) : ∃ u, ropF k f s = .next u := issue_next ..
theorem compareX_next (test f s) : ∃ u, compareX test f s = .next u := issue_next ..
theorem predX_next (test f s) : ∃ u, predX test f s = .next u := issue_next ..
theorem fpCompare_next (quiet test f s) : ∃ u, fpCompare quiet test f s = .next u := issue_next ..
theorem fpBin_next (fn f s) : ∃ u, fpBin fn f s = .next u := issue_next ..
theorem fpTer_next (fn f s) : ∃ u, fpTer fn f s = .next u := issue_next ..
theorem fpUn_next (fn f s) : ∃ u, fpUn fn f s = .next u := issue_next ..
theorem fpNarrow_next (fmt f s) : ∃ u, fpNarrow fmt f s = .next u := issue_next ..
theorem vvvF_next (op k f s) : ∃ u, vvvF op k f s = .next u := issue_next ..
theorem vvF_next (op f s) : ∃ u, vvF op f s = .next u := issue_next ..
theorem vviF_next (op f s) : ∃ u, vviF op f s = .next u := issue_next ..
theorem vredF_next (op f s) : ∃ u, vredF op f s = .next u := issue_next ..
theorem vcmpF_next (op f s) : ∃ u, vcmpF op f s = .next u := issue_next ..
theorem vmaskF_next (op f s) : ∃ u, vmaskF op f s = .next u := issue_next ..
theorem vctlF_next (op ok f s) : ∃ u, vctlF op ok f s = .next u := issue_next ..
theorem wordS_next (ok f body s) : ∃ u, wordS ok f body s = .next u := issue_next ..
theorem wordI_next (f body s) : ∃ u, wordI f body s = .next u := issue_next ..
theorem wordLast_next (ok f body s) : ∃ u, wordLast ok f body s = .next u := issue_next ..

/-! ### Every meaning -/

/-- Each instruction is an issue, by itself or in the form that it shares; each agent's step ends in a next state on all of its branches. -/
theorem exec_next (i : Instr) (s : State) : ∃ t, exec i s = .next t := by
  unfold exec
  cases i
  all_goals dsimp only
  case nop | bfx | bfxu | bfi | lea | sext | zext | pmov | pset | sel | enter | leave | lcset | lcsetImm | lcpush | lcpop | mfs | mts | yield |
    trap | brk | irgn | launch | join | ldQ | stQ | ldT | ldS | tlook | tset | tinv | tclr | rgset | rgclr | rgq | ldm | stm | amoCas | rcell |
    rfree | rstat | rreissue | fnc | fwait | barInit | barArr | barWait | barArw | barSt | gjoin | gjoinImm | gleave | gleaveImm | gbar | gbarSs |
    evw | evsig | evsigImm | semsg | semsgImm | tagclr | tagclrImm | settle | vld | vlds | vldx | vst | vsts | vstx | vmnot | vmpop | vbcast |
    vbcastImm | vmovx | vmovxImm | vmovv | vmovvImm | viota | vsetvl | vsetvlImm | mxq | mxqr | cpq | cpqr | eqst | mxwm | mxrd | mxrdImm | mxwr |
    mxwrImm | mxcap | mxgate | mxgateImm | cpkill | cpkillImm | svc | mbxw | rtld | rtchk | artw | proof | turnack | rflush => exact issue_next ..
  case add | sub | mul | mulh | mulhu | div | divu | rem | remu | and | or | xor | andn | shl | shr | sra | rotr | min | max | minu | maxu | addW
    | subW | mulW => exact aluS_next ..
  case addImm | subImm | mulImm | mulhImm | mulhuImm | divImm | divuImm | remImm | remuImm | andImm | orImm | xorImm | andnImm | shlImm | shrImm |
    sraImm | rotrImm | minImm | maxImm | minuImm | maxuImm | addWImm | subWImm | mulWImm => exact aluI_next ..
  case abs | neg | clz | ctz | popc | mov => exact unS_next ..
  case li | lih => exact constI_next ..
  case cmpEq | cmpNe | cmpLt | cmpLe | cmpGt | cmpGe | cmpLtu | cmpLeu | cmpGtu | cmpGeu | btest => exact compareX_next ..
  case fcmpEq | fcmpLt | fcmpLe | fcmpUn => exact fpCompare_next ..
  case pand | por | pxor => exact predX_next ..
  case fadd | fsub | fmul | fdiv | fmin | fmax => exact fpBin_next ..
  case fma | fnma => exact fpTer_next ..
  case fsqrt | fabs | fneg | fclass | frnd | fcvtFi | fcvtIf | fcvtFb | fcvtF4 | fcvtF5 | fsplit => exact fpUn_next ..
  case fcvtBf | fcvtE4 | fcvtE5 => exact fpNarrow_next ..
  case ldB | ldBu | ldH | ldHu | ldW | ldWu | ldD => exact loadF_next ..
  case stB | stH | stW | stD => exact storeF_next ..
  case amoAdd | amoAnd | amoOr | amoXor | amoMin | amoMax | amoMinu | amoMaxu | amoXchg | amoFadd | amoFmin | amoFmax | amoBfadd2 =>
    exact amoF_next ..
  case ropFadd | ropSt | ropMaxi | ropBfadd => exact ropF_next ..
  case semwt | tagwa | tagwl | tagff => exact wordS_next ..
  case semwtImm | semrdImm | semsetImm | tagwaImm | tagwlImm | tagffImm => exact wordI_next ..
  case semrd | semset => exact wordLast_next ..
  case vaddI | vsubI | vmulI | vminI | vmaxI | vand | vor | vxor | vshl | vshr | vsra | vaddF | vsubF | vmulF | vfmaF | vfnmaF | vminF | vmaxF |
    vdivF | vfmaBf | vsplit | vsel | vperm | vzip | vunzip | vcmul => exact vvvF_next ..
  case vshlImm | vshrImm | vsraImm | vrotImm => exact vviF_next ..
  case vabsF | vnegF | vsqrtF | vrcpF | vrsqF | vexp2F | vlog2F | vrnsTo | vrnsFrom | vmov | vscanAddI | vscanAddF => exact vvF_next ..
  case vcvt | vquant | vdequant | vrot => exact vctlF_next ..
  case vcmpEq | vcmpLt | vcmpLe | vcmpFlt | vcmpFle | vcmpFun => exact vcmpF_next ..
  case vmand | vmor | vmxor => exact vmaskF_next ..
  case vredAddF | vredAddI | vredMinF | vredMaxF | vredMinI | vredMaxI => exact vredF_next ..
  case mbxr | tlbi | imap | ctxsv | ctxld | gpart | wdog | cntc | trc | keyld => exact sysDAB_next ..
  case prmt | kill | cntr | scrub | fencecore | flood => exact sysDA_next ..
  case wdogImm | cntcImm | trcImm => exact sysIDA_next ..
  case halt => exact sys_next ..
  case vectorInstructionExecute | loadw | stream | mma | zero | store | loadacc | rnsmode | copy | gather | scatter | fill | quant | proofstream |
    copySectorIssue | copySectorPerformed | fillCompletion | collectionWindowClose | galleyPush | heldPushApply | moduleResetRelease | go |
    bstatClear | hdoor | ddoorClear | registerWrite | patrolScrub | traceCycRecord | linkLevelRetry | uncorrectableError => exact ⟨_, rfl⟩
  all_goals
    delta execArrayPowerGate execMatrixQueueWindowWrite execRoutineEnd execPostingQueueSend execPacketDeliver execHomeSliceApply
      execStampedOperationApply execRemoteAccessApply execRemoteBarrierUpdate execEventUnitMessage execReply execPostedRefusal execPageTableWalk
      execObserve execTreeBarrierRelease execSettlingWatermarkAdvance execSlugPop execBudgetIntervalReload execSliceExpiry execWatchdogT1
      execWatchdogT2 execWatchdogT3 execIndexedLaunchRead execChunkRequest execChunkReport execMasterFailover execTurnNotice execQuiesce
      execDrainComplete execShiftRound execResume execTurnCancel execUcieFlitReceive execLinkRetrain execLinkRetrainComplete execTwinCopyArrival
      execTwinTimeout execGatewayIngress execClusterPowerUp execImageRelay execDiscoveryAnswer execWindowRead execWindowWrite execDebugStopRequest
      execDebugStep execDebugGo execBudgetWrite execOwnerCreate execOwnerGrow execOwnerShrink execOwnerRetire execAssignKeys execReleaseKeys
      execAttestationRequest execScrubComplete execRollback execMonitorSample execGatewayApplied
    try dsimp only
    repeat' split
    all_goals exact ⟨_, rfl⟩

/-! ### The issue step -/

theorem State.runWord_next (s : State) (w : IWord) : ∃ t, s.runWord w = .next t := by
  unfold State.runWord
  dsimp only
  split
  · exact ⟨_, rfl⟩
  · exact exec_next ..
theorem State.runFetched_next (s : State) (w : IWord) : ∃ t, s.runFetched w = .next t := by
  unfold State.runFetched
  split
  · split
    · exact s.runWord_next w
    · exact ⟨_, rfl⟩
  · exact s.runWord_next w
theorem State.fetchAndRun_next (s : State) : ∃ t, s.fetchAndRun = .next t := by
  unfold State.fetchAndRun
  split
  · exact State.runFetched_next ..
  · exact ⟨_, rfl⟩
  · exact ⟨_, rfl⟩
theorem State.runNext_next (s : State) : ∃ t, s.runNext = .next t := by
  unfold State.runNext
  split
  · split
    · exact s.fetchAndRun_next
    · split
      · exact State.runFetched_next ..
      · exact ⟨_, rfl⟩
  · exact s.fetchAndRun_next
theorem State.issueOf_next (s : State) (k c : Nat) (es : List Instr) : ∃ t, s.issueOf k c es = .next t := by
  obtain ⟨t, ht⟩ := State.runNext_next { s with cur := k, curCtx := c }
  unfold State.issueOf
  dsimp only
  split
  · exact ⟨_, rfl⟩
  · split
    · exact ⟨_, rfl⟩
    · rw [ht]
      split <;> exact ⟨_, rfl⟩
theorem State.event_next (s : State) (i : Instr) : ∃ t, s.event i = .next t := by
  unfold State.event
  split
  · exact exec_next i s
  · exact ⟨_, rfl⟩

end Sys2Proof.Machine

namespace Sys2Proof.Proofs
open Sys2Proof Sys2Proof.Machine

/-- Settles O60: whatever heads the agenda, its step is a next state. -/
theorem everyStepAnswersANextState : Obligations.EveryStepAnswersANextState := by
  intro s
  unfold step
  split
  case h_3 k c rest => exact State.issueOf_next ..
  case h_4 k c es rest => exact State.issueOf_next ..
  case h_5 i rest => exact State.event_next ..
  all_goals exact ⟨_, rfl⟩

end Sys2Proof.Proofs
end

section
/-! SUPPORT. A clock in which one context of a tile issues (R7, R38, R65): what `Ready` makes of the issue step, and whom the clock takes. -/

namespace Sys2Proof.Machine
open Sys2Proof.Claims

/-- A word in the instruction cache is fetched from it. -/
theorem State.fetch_cached {s : State} {w : IWord} (hw : s.myTile.icache.get none s.me.r.pc.toNat = some w) : s.fetch = .word w s := by
  unfold State.fetch
  dsimp only
  rw [hw]
/-- With no breakpoint on it, it runs. -/
theorem State.fetchAndRun_cached {s : State} {w : IWord} (hw : s.myTile.icache.get none s.me.r.pc.toNat = some w)
    (hb : s.myTile.breakAt s.curCtx s.me.r.pc.toNat = none) : s.fetchAndRun = s.runWord w := by
  rw [State.fetchAndRun, State.fetch_cached hw]
  dsimp only
  rw [State.runFetched, hb]
/-- Alone, or leading its gang, a context runs the word at its own pc. -/
theorem State.runNext_leads {s : State} (hg : ∀ g, s.me.c.gang = some g → g.member = 0) : s.runNext = s.fetchAndRun := by
  unfold State.runNext
  split
  · next g h => rw [if_pos (hg g h)]
  · rfl
/-- The issue step of a context that can go on, at a boundary with nothing to do there. -/
theorem State.issueOf_moves {s : State} {k c : Nat} {es : List Instr} (hm : ({ s with cur := k, curCtx := c } : State).canMove = true)
    (hb : ({ s with cur := k, curCtx := c } : State).boundary = none)
    (hi : ({ s with cur := k, curCtx := c } : State).me.c.phase.inside = false) :
    s.issueOf k c es = s.clocked k c es ({ s with cur := k, curCtx := c } : State).runNext := by
  unfold State.issueOf
  dsimp only
  rw [hm, hb, hi]
  rfl

variable {s : State} {rest : List Sys2Proof.Machine.Action} {k c : Nat} {w : IWord}

/-- The state in which context c of tile k attempts to issue. -/
def State.trying (s : State) (rest : List Sys2Proof.Machine.Action) (k c : Nat) : State := { s with agenda := rest, cur := k, curCtx := c }

theorem runNext_ready (hr : Ready s k c w) : (s.trying rest k c).runNext = (s.trying rest k c).runWord w :=
  (State.runNext_leads (s := s.trying rest k c) hr.lead).trans (State.fetchAndRun_cached (s := s.trying rest k c) hr.word hr.free)
theorem canMove_ready (hr : Ready s k c w) : (s.trying rest k c).canMove = true := by
  have hme : (s.trying rest k c).me = s.ctx k c := rfl
  have hpaused : (s.trying rest k c).paused (s.trying rest k c).cur = false := hr.going
  have hturn : (s.trying rest k c).gangTurn = true := hr.turn
  simp [State.canMove, hme, hr.run, hr.phase, hr.saving, hr.window, Phase.inside, Phase.waits, hpaused, hturn]
theorem boundary_ready (hr : Ready s k c w) : (s.trying rest k c).boundary = none := by
  have hme : (s.trying rest k c).me = s.ctx k c := rfl
  simp [State.boundary, hme, hr.join, hr.held, hr.phase, hr.ire, hr.twin, hr.stop]

/-- The step of a context that nothing holds back: its word runs, in a clock of its tile. -/
theorem step_ready (ha : s.agenda = .issue k c :: rest) (hr : Ready s k c w) :
    step s = ({ s with agenda := rest } : State).clocked k c [] ((s.trying rest k c).runWord w) := by
  have hstep : step s = ({ s with agenda := rest } : State).issueOf k c [] := by rw [step, ha]
  have hin : (s.trying rest k c).me.c.phase.inside = false := by
    rw [show (s.trying rest k c).me.c.phase = .fresh from hr.phase]
    rfl
  have hmove : (s.trying rest k c).canMove = true := canMove_ready hr
  have hedge : (s.trying rest k c).boundary = none := boundary_ready hr
  have hrun : (s.trying rest k c).runNext = (s.trying rest k c).runWord w := runNext_ready hr
  rw [hstep, State.issueOf_moves (s := { s with agenda := rest }) hmove hedge hin, ← hrun]
  rfl

/-- A clock with no steps of the engines, in which the attempt of context c has ended in `t`. -/
theorem clocked_waits {t : State} (h : (s.ctx k c).hasIssued (t.ctx k c) = false) : s.clocked k c [] (.next t) = .next t := by
  rw [State.clocked, h]; rfl
theorem clocked_issues {t : State} (h : (s.ctx k c).hasIssued (t.ctx k c) = true) :
    s.clocked k c [] (.next t) = .next (s.clock1 k c [] t) := by
  rw [State.clocked, h]; rfl
/-- The clock of a context that it does not take. -/
theorem clock1_passed (t : State) (h : (s.clockPair k c).contains c = false) : s.clock1 k c [] t = s := by
  rw [State.clock1, h]; rfl
/-- The clock that takes it alone. -/
theorem clock1_alone (t : State) (h : s.clockPair k c = [c]) : s.clock1 k c [] t = t.updTile k (·.issued s.gtime [c]) := by
  rw [State.clock1, h]
  simp
/-- The clock that takes it with another. -/
theorem clock1_together (t : State) {u : State} (h : (s.clockPair k c).contains c = true) (hne : s.clockPair k c ≠ [c])
    (hu : s.together k (s.clockPair k c) [] = some u) : s.clock1 k c [] t = u.updTile k (·.issued s.gtime (s.clockPair k c)) := by
  have hbeq : (s.clockPair k c == [c]) = false := beq_eq_false_iff_ne.2 hne
  rw [State.clock1, h, hbeq, hu]
  rfl
/-- With no other context ready the clock takes it alone, whatever the pointer is and whether it yields. -/
theorem clockPair_alone (hc : c < 4) (h : ∀ d, d ≠ c → s.issues k d = false) : s.clockPair k c = [c] := by
  have hl (p : BitVec 2) : (((List.range 4).map fun i => (p.toNat + i) % 4).filter fun d => d == c || s.issues k d) = [c] := by
    have hcongr (d : Nat) : (d == c || s.issues k d) = (d == c) := by
      by_cases hd : d = c
      · simp [hd]
      · simp [h d hd]
    rw [funext hcongr]
    revert p
    interval_cases c <;> decide
  rw [State.clockPair, hl]
  by_cases hy : c ∈ (s.tile k).yields s.gtime <;> simp [hy]

end Sys2Proof.Machine

namespace Sys2Proof.Proofs
open Sys2Proof Sys2Proof.Machine Sys2Proof.Claims

theorem decodedWordRuns : DecodedWordRuns := by
  refine ⟨?_, ?_⟩
  · intro s k c rest w i t ha hr hd he s0 issues
    have hstep : step s = s0.clocked k c [] (.next t) := by
      rw [step_ready ha hr, State.runWord, hd]
      exact congrArg _ he
    have hclock (h : issues = true) : step s = .next (s0.clock1 k c [] t) := hstep.trans (clocked_issues h)
    refine ⟨fun h => hstep.trans (clocked_waits h), fun h hp => ?_, fun h hp => ?_, fun h hc ho => ?_, fun h hp hne u hu => ?_⟩
    · rw [hclock h, clock1_passed t hp]
    · rw [hclock h, clock1_alone t hp]
    · rw [hclock h, clock1_alone t (clockPair_alone hc ho)]
    · rw [hclock h, clock1_together t hp hne hu]
  · intro s rest i ha hn
    rw [step, ha]
    dsimp only
    rw [State.event, hn]

theorem undecodableWordFaults : UndecodableWordFaults := by
  intro s k c rest w e ha hr hd hc ho hg
  have hrun : (s.trying rest k c).runWord w = .next ((moving s rest k c w).takeFault { cause := 0x01 }) := by
    rw [State.runWord, hd]
    rfl
  have hblocked : (((moving s rest k c w).takeFault { cause := 0x01 }).ctx k c).c.run = .blocked := by
    have hme : ((moving s rest k c w).takeFault { cause := 0x01 }).me = ((moving s rest k c w).takeFault { cause := 0x01 }).ctx k c := by
      rw [State.me, State.cur_keeps.takeFault, State.curCtx_keeps.takeFault]
      rfl
    rw [← hme]
    exact (State.takeFault_me (s := moving s rest k c w) hg rfl).2.1
  have hissued : (s.ctx k c).hasIssued (((moving s rest k c w).takeFault { cause := 0x01 }).ctx k c) = true := by
    rw [Ctx.hasIssued, hr.phase, hblocked]
    simp [show Phase.fresh.inside = false from rfl]
  rw [step_ready ha hr, hrun, clocked_issues (s := { s with agenda := rest }) hissued, clock1_alone _ (clockPair_alone hc ho)]

/-- Settles O1: the attempt of a context that nothing holds back runs its word, and the clock of its tile says what becomes of it. -/
theorem stepRunsTheDecodedInstruction : Obligations.StepRunsTheDecodedInstruction := ⟨decodedWordRuns, undecodableWordFaults⟩

end Sys2Proof.Proofs
end

section
/-! SUPPORT. What a scalar instruction leaves alone (R24, R28, R29, R31): the observations that see nothing of xd, of the tail's semaphores and
of the registers that the instruction may write. -/

namespace Sys2Proof.Machine
open Sys2Proof.Claims

/-! ### The Execute part of a scalar instruction -/

/-- How the Execute part of a scalar instruction ends: with xd written and registers that `rest` does not show, or stopped; one that traps
for floating point has raised flags that `rest` does not show. -/
def ScalarEnd (rest : Regs → Regs) (d : Option Opnd) (s : State) : Res → Prop
  | .ok s2 => ∃ s1, (s1 = s ∨ ∃ o v, d = some o ∧ s1 = s.wx o.num v) ∧ (s2 = s1 ∨ ∃ f, (∀ r, rest (f r) = rest r) ∧ s2 = s1.updR f)
  | .fpTrap fl => ∀ r : Regs, rest { r with fflags := r.fflags ||| fl } = rest r
  | .trap _ => True
  | .stall => True
  | _ => False
/-- A meaning that is the issue of a scalar instruction. -/
def Scalar (ex : State → Out) (d : Option Opnd) (q : Option STail) (rest : Regs → Regs) : Prop :=
  ∃ (h : Head) (need : Level) (ops : List Req) (always : Bool) (body : State → Bool → Res),
    (∀ s, ex s = s.issue h q need ops always false body) ∧ ∀ s g, ScalarEnd rest d s (body s g)

theorem scalarEnd_wx (rest : Regs → Regs) (s : State) (o : Opnd) (v : Word) : ScalarEnd rest (some o) s (.ok (s.wx o.num v)) :=
  ⟨_, .inr ⟨o, v, rfl, rfl⟩, .inl rfl⟩
theorem scalarEnd_updR {rest : Regs → Regs} {f : Regs → Regs} (d : Option Opnd) (s : State) (hf : ∀ r, rest (f r) = rest r) :
    ScalarEnd rest d s (.ok (s.updR f)) := ⟨_, .inl rfl, .inr ⟨f, hf, rfl⟩⟩

/-! ### Observations -/

variable {α : Type} {p : State → α} {s t : State} {d : Option Opnd} {q : Option STail} {rest : Regs → Regs}

/-- An observation that a scalar instruction at `s` cannot change. -/
structure Unseen (p : State → α) (s : State) (d : Option Opnd) (q : Option STail) (rest : Regs → Regs) : Prop where
  keeps : Keeps p
  wait : p (s.passWait q) = p s
  signal : ∀ (s1 : State) (u : STail), s1.cur = s.cur → q = some u → u.sen = true → p (s1.addSem s1.cur u.ssem.toNat u.inc).1 = p s1
  dest : ∀ (s1 : State) (o : Opnd) (v : Word), s1.cur = s.cur → s1.me.r.xbase = s.me.r.xbase → d = some o → p (s1.wx o.num v) = p s1
  regs : ∀ (s1 : State) (f : Regs → Regs), (∀ r, rest (f r) = rest r) → p (s1.updR f) = p s1

theorem KeepsSems.unseen (hp : KeepsSems p) (hx : ∀ (s1 : State) (n : Nat) (v : Word), p (s1.wx n v) = p s1)
    (hr : ∀ (s1 : State) (f : Regs → Regs), p (s1.updR f) = p s1) : Unseen p s d q rest where
  keeps := hp.toKeeps
  wait := hp.passWait ..
  signal _ _ _ _ _ := hp.addSem ..
  dest _ _ _ _ _ _ := hx ..
  regs _ _ _ := hr ..

/-- The end of an instruction, as such an observation sees it. -/
theorem Unseen.finish (hp : Unseen p s d q rest) {s1 : State} (hc : s1.cur = s.cur) (h : Head) (g late : Bool) :
    p (s1.finish h q g late) = p s1 := by
  cases q with
  | none => exact hp.keeps.retire ..
  | some u =>
    unfold State.finish
    dsimp only
    split
    · next hs =>
      have hsen : u.sen = true := by
        simp only [Bool.and_eq_true] at hs
        exact hs.1.1
      have hadd := hp.signal s1 u hc rfl hsen
      exact Keeps.ite _ s1 _ _ ((hp.keeps.takeFault ..).trans hadd) ((hp.keeps.retire ..).trans hadd)
    · exact hp.keeps.retire ..

/-- ONE SCALAR INSTRUCTION leaves what such an observation sees. -/
theorem Unseen.scalar (hp : Unseen p s d q rest) {ex : State → Out} (hs : Scalar ex d q rest) (he : ex s = .next t) : p t = p s := by
  obtain ⟨h, need, ops, always, body, hex, hbody⟩ := hs
  rw [hex] at he
  unfold State.issue at he
  split at he
  · cases he; exact hp.keeps.takeFault ..
  split at he
  · cases he; exact hp.keeps.takeFault ..
  split at he
  · cases he; exact hp.keeps.waitTail ..
  split at he
  · cases he; rw [hp.finish (by simp), hp.wait]
  split at he
  · cases he; rfl
  split at he
  · cases he; exact hp.keeps.takeFault ..
  have hend := hbody (s.passWait q) (s.guard h)
  unfold State.conclude at he
  split at he <;> cases he
  · next s2 hr =>
    rw [hr] at hend
    obtain ⟨s1, hs1, hs2⟩ := hend
    have hw : s1.cur = s.cur ∧ p s1 = p s := by
      rcases hs1 with rfl | ⟨o, v, hd, rfl⟩
      · exact ⟨by simp, hp.wait⟩
      · exact ⟨by simp, (hp.dest _ o v (by simp) (by simp) hd).trans hp.wait⟩
    rcases hs2 with rfl | ⟨f, hf, rfl⟩
    · rw [hp.finish hw.1, hw.2]
    · rw [hp.finish (by simpa using hw.1), hp.regs _ f hf, hw.2]
  · exact hp.keeps.takeFault ..
  · next fl hr =>
    rw [hr] at hend
    rw [hp.keeps.takeFault]
    exact hp.regs _ _ hend
  · next hr => rw [hr] at hend; exact hend.elim
  · next hr => rw [hr] at hend; exact hend.elim
  · rfl
  · next hr => rw [hr] at hend; exact hend.elim
  · next hr => rw [hr] at hend; exact hend.elim

/-! ### The parts of `leavesAlone` -/

/-- A tile but for its scalar registers, contexts and semaphores. -/
def Tile.still (t : Tile) := (t.pad, t.store, t.vr, t.tagbits, t.tagerr, t.mx, t.vq, t.mq, t.cq)
/-- The module but for its tiles. -/
def State.still (s : State) := (s.mem, s.owners, s.keys, s.imap, s.imapNext, s.turn, s.slices, s.gtime, s.flights)

/-- A change of a tile that `f` makes and `r` does not see, through `wx`. -/
theorem State.tile_wx {β : Type} (r : Tile → β) (hr : ∀ t m l, r { t with xr := m, xPoison := l } = r t) (s : State) (n : Nat) (v : Word) (k : Nat) :
    r ((s.wx n v).tile k) = r (s.tile k) := by
  unfold State.wx
  split
  · rfl
  · exact State.tile_updTile_keeps r s s.cur _ (hr ..) k
theorem State.tile_updR {β : Type} (r : Tile → β) (hr : ∀ t m, r { t with ctxs := m } = r t) (s : State) (f : Regs → Regs) (k : Nat) :
    r ((s.updR f).tile k) = r (s.tile k) := by
  rw [State.updR, State.upd, State.tile_updCtx, hr]

theorem unseen_tile (k : Nat) : Unseen (fun s => (s.tile k).still) s d q rest :=
  (keepsSems_tile Tile.still (fun _ _ => rfl) (fun _ _ => rfl) (fun _ _ => rfl) (fun _ _ => rfl) (fun _ _ => rfl) k).unseen
    (fun s1 n v => s1.tile_wx Tile.still (fun _ _ _ => rfl) n v k) (fun s1 f => s1.tile_updR Tile.still (fun _ _ => rfl) f k)
theorem unseen_module : Unseen State.still s d q rest :=
  (keepsSems_module State.still (fun _ _ => rfl) (fun _ _ => rfl) fun _ _ => rfl).unseen
    (fun s1 n v => by unfold State.wx; split <;> rfl) fun _ _ => rfl
theorem unseen_cur : Unseen State.cur s d q rest :=
  (keepsSems_module State.cur (fun _ _ => rfl) (fun _ _ => rfl) fun _ _ => rfl).unseen (fun s1 n v => by simp) fun _ _ => rfl
theorem unseen_curCtx : Unseen State.curCtx s d q rest :=
  (keepsSems_module State.curCtx (fun _ _ => rfl) (fun _ _ => rfl) fun _ _ => rfl).unseen (fun s1 n v => by simp) fun _ _ => rfl

/-- A place of a tile's register file that is not xd's. -/
theorem unseen_reg {k n : Nat} (hn : ¬ (k = s.cur ∧ ∃ o, d = some o ∧ o.num ≠ 0 ∧ n = s.me.r.xbase + o.num)) :
    Unseen (fun s => (s.tile k).xr.get 0 n) s d q rest where
  keeps := (keepsSems_tile (fun t => t.xr.get 0 n) (fun _ _ => rfl) (fun _ _ => rfl) (fun _ _ => rfl) (fun _ _ => rfl) (fun _ _ => rfl) k).toKeeps
  wait := (keepsSems_tile (fun t => t.xr.get 0 n) (fun _ _ => rfl) (fun _ _ => rfl) (fun _ _ => rfl) (fun _ _ => rfl) (fun _ _ => rfl) k).passWait ..
  signal _ _ _ _ _ :=
    (keepsSems_tile (fun t => t.xr.get 0 n) (fun _ _ => rfl) (fun _ _ => rfl) (fun _ _ => rfl) (fun _ _ => rfl) (fun _ _ => rfl) k).addSem ..
  dest s1 o v hc hx hd := by
    unfold State.wx
    split
    · rfl
    · next h0 =>
      by_cases hk : k = s.cur
      · have hne : n ≠ s1.me.r.xbase + o.num := fun e => hn ⟨hk, o, hd, h0, by rw [e, hx]⟩
        rw [hk, ← hc, State.updMyTile, State.tile_updTile]
        exact SMap.get_set_other _ _ _ hne
      · rw [State.updMyTile, State.tile_updTile_other _ _ (by rwa [hc])]
  regs s1 f _ := s1.tile_updR (fun t => t.xr.get 0 n) (fun _ _ => rfl) f k

theorem State.sem_setSem_other (s : State) {j m k n : Nat} (v : Nat) (h : ¬ (k = j ∧ n = m)) :
    ((s.setSem j m v).tile k).sems.get 0 n = (s.tile k).sems.get 0 n := by
  rw [State.tile_setSem]
  dsimp only
  split
  · next hk => exact SMap.get_set_other _ _ _ fun hm => h ⟨hk, hm⟩
  · rfl
/-- The wait that is still to pass is the tail's. -/
theorem waitOf_some {u : STail} (h : s.waitOf q = some u) : q = some u ∧ u.wen = true := by
  cases q with
  | none => cases h
  | some u' =>
    simp only [State.waitOf] at h
    split at h
    · next hw =>
      cases h
      simp only [Bool.and_eq_true] at hw
      exact ⟨rfl, hw.1⟩
    · cases h
/-- A semaphore that is not one of the tail's. -/
theorem unseen_sem {k n : Nat} (hn : ¬ (k = s.cur ∧ ((q.bind fun u => if u.wen && u.cons then some u.wsem.toNat else none) = some n ∨
      (q.bind fun u => if u.sen then some u.ssem.toNat else none) = some n))) :
    Unseen (fun s => (s.tile k).sems.get 0 n) s d q rest where
  keeps := (keeps_sems k).map fun m => m.get 0 n
  wait := by
    unfold State.passWait
    split
    · next u hu =>
      have hpassed : (((s.updC fun c => { c with phase := .passed }).passedSem u.wsem.toNat).tile k).sems = (s.tile k).sems :=
        ((keeps_sems k).updY ..).trans ((keeps_sems k).updC ..)
      dsimp only
      split
      · next hcons =>
        obtain ⟨hq, hw⟩ := waitOf_some hu
        rw [State.sem_setSem_other _ _ fun ⟨hk, hm⟩ => hn ⟨hk, .inl (by simp [hq, hw, hcons, hm])⟩, hpassed]
      · rw [hpassed]
    · rfl
  signal s1 u hc hq hsen := by
    have hne : ¬ (k = s1.cur ∧ n = u.ssem.toNat) := fun ⟨hk, hm⟩ => hn ⟨hk.trans hc, .inr (by simp [hq, hsen, hm])⟩
    have htime : ((s1.updTile s1.cur fun t => { t with semTime := t.semTime.set u.ssem.toNat (s1.gtime.setWidth 48) }).tile k).sems =
        (s1.tile k).sems := State.tile_updTile_keeps Tile.sems s1 s1.cur _ rfl k
    unfold State.addSem
    dsimp only
    split <;> rw [State.sem_setSem_other _ _ hne, htime]
  dest s1 o v hc hx hd := s1.tile_wx (fun t => t.sems.get 0 n) (fun _ _ _ => rfl) _ v k
  regs s1 f _ := s1.tile_updR (fun t => t.sems.get 0 n) (fun _ _ => rfl) f k

/-- What a context other than the moving one holds of registers and memory order. -/
def State.otherCtx (s : State) (k c : Nat) : Option (Regs × Sync) :=
  if k = s.cur ∧ c = s.curCtx then none else some ((s.ctx k c).r, (s.ctx k c).y)
theorem State.otherCtx_congr {s u : State} {k c : Nat} (hc : u.cur = s.cur) (hx : u.curCtx = s.curCtx)
    (h : ¬ (k = s.cur ∧ c = s.curCtx) → (u.ctx k c).r = (s.ctx k c).r ∧ (u.ctx k c).y = (s.ctx k c).y) : u.otherCtx k c = s.otherCtx k c := by
  by_cases hme : k = s.cur ∧ c = s.curCtx
  · simp [State.otherCtx, hc, hx, hme]
  · simp [State.otherCtx, hc, hx, hme, h hme]
theorem State.ctx_upd_other (s : State) {k c : Nat} (f : Ctx → Ctx) (h : ¬ (k = s.cur ∧ c = s.curCtx)) : (s.upd f).ctx k c = s.ctx k c :=
  s.ctx_updCtx_other f (by omega)
theorem otherCtx_updTile (s : State) (j : Nat) (f : Tile → Tile) (hf : ∀ t, (f t).ctxs = t.ctxs) (k c : Nat) :
    (s.updTile j f).otherCtx k c = s.otherCtx k c :=
  State.otherCtx_congr rfl rfl fun _ => by rw [s.ctx_updTile j f hf]; exact ⟨rfl, rfl⟩
theorem ctx_updCtx_regs (s : State) (j d : Nat) {f : Ctx → Ctx} (hf : ∀ x, (f x).r = x.r ∧ (f x).y = x.y) (k c : Nat) :
    ((s.updCtx j d f).ctx k c).r = (s.ctx k c).r ∧ ((s.updCtx j d f).ctx k c).y = (s.ctx k c).y := by
  by_cases hjd : k = j ∧ c = d
  · obtain ⟨rfl, rfl⟩ := hjd
    rw [State.ctx_updCtx]
    exact hf _
  · rw [s.ctx_updCtx_other f (by omega)]
    exact ⟨rfl, rfl⟩
theorem keepsSems_otherCtx (k c : Nat) : KeepsSems fun s => s.otherCtx k c where
  ctx s j d f hf := State.otherCtx_congr rfl rfl fun _ => ctx_updCtx_regs s j d hf k c
  me s f hf := State.otherCtx_congr rfl rfl fun hme => by rw [s.ctx_upd_other f hme]; exact ⟨rfl, rfl⟩
  mail _ _ _ := rfl
  die _ _ _ := rfl
  stops s j _ := otherCtx_updTile s j _ (by intro; rfl) k c
  trace s j _ := otherCtx_updTile s j _ (by intro; rfl) k c
  sems s _ := otherCtx_updTile s s.cur _ (by intro; rfl) k c
  times s _ := otherCtx_updTile s s.cur _ (by intro; rfl) k c
theorem unseen_otherCtx (k c : Nat) : Unseen (fun s => s.otherCtx k c) s d q rest :=
  (keepsSems_otherCtx k c).unseen
    (fun s1 n v => by
      unfold State.wx
      split
      · rfl
      · exact otherCtx_updTile s1 s1.cur _ (by intro; rfl) k c)
    fun s1 f => State.otherCtx_congr rfl rfl fun hme => by rw [State.updR, s1.ctx_upd_other _ hme]; exact ⟨rfl, rfl⟩

/-- The moving context's registers as far as `rest` shows them. -/
theorem unseen_rest (hrest : ∀ r r' : Regs, r.noNext = r'.noNext → rest r = rest r') : Unseen (fun s => rest s.me.r) s d q rest where
  keeps := {
    ctx := fun s k c f hf => congrArg rest (ctx_updCtx_regs s k c hf s.cur s.curCtx).1
    me := fun s f hf => by rw [State.me_upd]; exact hrest _ _ (hf _)
    mail := fun _ _ _ => rfl
    die := fun _ _ _ => rfl
    stops := fun s k l => congrArg (fun x => rest x.r) (s.ctx_updTile k (fun t => { t with stopArea := l }) (fun _ => rfl) s.cur s.curCtx)
    trace := fun s k tr => congrArg (fun x => rest x.r) (s.ctx_updTile k (fun t => { t with trace := tr }) (fun _ => rfl) s.cur s.curCtx) }
  wait := by rw [State.passWait_me_r]
  signal s1 u _ _ _ := by rw [State.addSem_me]
  dest s1 o v _ _ _ := by rw [State.me_wx]
  regs s1 f hf := by rw [State.me_updR, hf]

/-- ONE SCALAR INSTRUCTION leaves alone what `leavesAlone` lists. -/
theorem Scalar.leavesAlone {ex : State → Out} (hs : Scalar ex d q rest) (hrest : ∀ r r' : Regs, r.noNext = r'.noNext → rest r = rest r')
    (he : ex s = .next t) : leavesAlone s t d q rest := by
  have htile (k : Nat) : (t.tile k).still = (s.tile k).still := (unseen_tile k).scalar hs he
  have hmod : t.still = s.still := unseen_module.scalar hs he
  simp only [Tile.still, Prod.mk.injEq] at htile
  simp only [State.still, Prod.mk.injEq] at hmod
  obtain ⟨hmem, howners, hkeys, himap, himapNext, hturn, hslices, hgtime, hflights⟩ := hmod
  refine ⟨⟨fun a => by rw [hmem], fun k a => ?_⟩, fun k n hn => (unseen_reg hn).scalar hs he, fun k => ?_,
    ⟨howners, hkeys, himap, himapNext, hturn, hslices, hgtime, hflights⟩, fun k c hne => ?_, (unseen_rest hrest).scalar hs he⟩
  · obtain ⟨hpad, hstore, -⟩ := htile k
    rw [hpad, hstore]
    exact ⟨rfl, rfl⟩
  · obtain ⟨-, -, hvr, htagbits, htagerr, hmx, hvq, hmq, hcq⟩ := htile k
    exact ⟨hvr, htagbits, htagerr, hmx, hvq, hmq, hcq, fun n hn => (unseen_sem hn).scalar hs he⟩
  · have hother := (unseen_otherCtx k c).scalar hs he
    have hne' : ¬ (k = s.cur ∧ c = s.curCtx) := fun ⟨h1, h2⟩ => hne (by rw [h1, h2])
    have hcur : t.cur = s.cur := unseen_cur.scalar hs he
    have hcurCtx : t.curCtx = s.curCtx := unseen_curCtx.scalar hs he
    rw [State.otherCtx, State.otherCtx, hcur, hcurCtx, if_neg hne', if_neg hne', Option.some.injEq, Prod.mk.injEq] at hother
    exact hother

/-! ### The scalar instructions -/

theorem Scalar.of_eq {ex ex' : State → Out} (h : Scalar ex' d q rest) (he : ∀ s, ex s = ex' s) : Scalar ex d q rest := by
  rwa [funext he]
theorem aluS_scalar (fn : Word → Word → Word) (f : SDAB) : Scalar (aluS fn f) (some f.d) (some f.t) Regs.noNext :=
  ⟨_, _, _, _, _, fun _ => rfl, fun s _ => scalarEnd_wx _ s f.d _⟩
theorem aluI_scalar (fn : Word → Word → Word) (f : IDA) : Scalar (aluI fn f) (some f.d) none Regs.noNext :=
  ⟨_, _, _, _, _, fun _ => rfl, fun s _ => scalarEnd_wx _ s f.d _⟩
theorem unS_scalar (fn : Word → Word) (f : SDA) : Scalar (unS fn f) (some f.d) (some f.t) Regs.noNext :=
  ⟨_, _, _, _, _, fun _ => rfl, fun s _ => scalarEnd_wx _ s f.d _⟩
theorem constI_scalar (cls : Cls) (fn : Word → BitVec 32 → Word) (f : ID) : Scalar (constI cls fn f) (some f.d) none Regs.noNext :=
  ⟨_, _, _, _, _, fun _ => rfl, fun s _ => scalarEnd_wx _ s f.d _⟩

/-- The registers without the predicates, and without what floating point raises and draws. -/
def Regs.noPreds (r : Regs) : Regs := { r.noNext with preds := 0 }
def Regs.noFlags (r : Regs) : Regs := { r.noNext with fflags := 0, srstate := 0 }
theorem noPreds_congr (r r' : Regs) (h : r.noNext = r'.noNext) : r.noPreds = r'.noPreds := by rw [Regs.noPreds, h]; rfl
theorem noFlags_congr (r r' : Regs) (h : r.noNext = r'.noNext) : r.noFlags = r'.noFlags := by rw [Regs.noFlags, h]; rfl
theorem Regs.combine_noPreds (r : Regs) (x : XTail) (g c : Bool) : (r.combine x g c).noPreds = r.noPreds :=
  congrArg Regs.noPreds (Regs.combine_combines r x g c).rest |>.symm ▸ rfl

theorem compareX_scalar (test : Word → Word → Bool) (f : XAB) : Scalar (compareX test f) none none Regs.noPreds :=
  ⟨_, _, _, _, _, fun _ => rfl, fun s _ => scalarEnd_updR none s fun r => r.combine_noPreds ..⟩
theorem predX_scalar (test : Bool → Bool → Bool) (f : XAB) : Scalar (predX test f) none none Regs.noPreds :=
  ⟨_, _, _, _, _, fun _ => rfl, fun s _ => scalarEnd_updR none s fun r => r.combine_noPreds ..⟩

/-- The end with a register and flags. -/
theorem scalarEnd_fpWrite (s : State) (o : Opnd) (r : FRes) : ScalarEnd Regs.noFlags (some o) s (s.fpWrite o r) := by
  unfold State.fpWrite State.fpDone
  split
  · exact fun _ => rfl
  · exact ⟨_, .inr ⟨o, _, rfl, rfl⟩, .inr ⟨(·.raiseFlags r.2), fun _ => rfl, rfl⟩⟩
theorem fpBin_scalar (fn : RM → Nat → Nat → FRes) (f : SDAB) : Scalar (fpBin fn f) (some f.d) (some f.t) Regs.noFlags :=
  ⟨_, _, _, _, _, fun _ => rfl, fun s _ => scalarEnd_fpWrite s f.d _⟩
theorem fpTer_scalar (fn : RM → Nat → Nat → Nat → FRes) (f : SDAB) : Scalar (fpTer fn f) (some f.d) (some f.t) Regs.noFlags :=
  ⟨_, _, _, _, _, fun _ => rfl, fun s _ => scalarEnd_fpWrite s f.d _⟩
theorem fpUn_scalar (fn : BitVec 16 → Word → FRes) (f : SDA) : Scalar (fpUn fn f) (some f.d) (some f.t) Regs.noFlags :=
  ⟨_, _, _, _, _, fun _ => rfl, fun s _ => scalarEnd_fpWrite s f.d _⟩

theorem aluRows_scalar : ∀ row ∈ aluRows, ∀ f, Scalar (exec (row.1 f)) (some f.d) (some f.t) Regs.noNext := by
  unfold aluRows
  repeat' refine List.forall_mem_cons.2 ⟨fun f => (aluS_scalar _ f).of_eq fun _ => rfl, ?_⟩
  simp
theorem aluImmRows_scalar : ∀ row ∈ aluImmRows, ∀ f, Scalar (exec (row.1 f)) (some f.d) none Regs.noNext := by
  unfold aluImmRows
  repeat' refine List.forall_mem_cons.2 ⟨fun f => (aluI_scalar _ f).of_eq fun _ => rfl, ?_⟩
  simp
theorem unaryRows_scalar : ∀ row ∈ unaryRows, ∀ f, Scalar (exec (row.1 f)) (some f.d) (some f.t) Regs.noNext := by
  unfold unaryRows
  repeat' refine List.forall_mem_cons.2 ⟨fun f => (unS_scalar _ f).of_eq fun _ => rfl, ?_⟩
  simp
theorem field_scalar {ex : IDA → State → Out} (ops : IDA → List Req) (v : IDA → State → Word)
    (h : ∀ f s, ex f s = s.issue f.h none .u (ops f) false false fun s _ => .ok (s.wx f.d.num (v f s))) (f : IDA) :
    Scalar (ex f) (some f.d) none Regs.noNext := ⟨_, _, _, _, _, h f, fun s _ => scalarEnd_wx _ s f.d _⟩
theorem fieldRows_scalar : ∀ row ∈ fieldRows, ∀ f, Scalar (exec (row.1 f)) (some f.d) none Regs.noNext := by
  unfold fieldRows
  refine List.forall_mem_cons.2 ⟨fun f => (field_scalar (ex := execBfx) _ _ (fun _ _ => rfl) f).of_eq fun _ => rfl, ?_⟩
  refine List.forall_mem_cons.2 ⟨fun f => (field_scalar (ex := execBfxu) _ _ (fun _ _ => rfl) f).of_eq fun _ => rfl, ?_⟩
  refine List.forall_mem_cons.2 ⟨fun f => (field_scalar (ex := execBfi) _ _ (fun _ _ => rfl) f).of_eq fun _ => rfl, ?_⟩
  refine List.forall_mem_cons.2 ⟨fun f => (field_scalar (ex := execSext) _ _ (fun _ _ => rfl) f).of_eq fun _ => rfl, ?_⟩
  exact List.forall_mem_cons.2 ⟨fun f => (field_scalar (ex := execZext) _ _ (fun _ _ => rfl) f).of_eq fun _ => rfl, by simp⟩
theorem compareRows_scalar : ∀ row ∈ compareRows, ∀ f, Scalar (exec (row.1 f)) none none Regs.noPreds :=
  fun row hrow f => (compareX_scalar row.2 f).of_eq fun s => exec_compareRows row hrow s f
theorem predicateRows_scalar : ∀ row ∈ predicateRows, ∀ f, Scalar (exec (row.1 f)) none none Regs.noPreds :=
  fun row hrow f => (predX_scalar row.2 f).of_eq fun s => exec_predicateRows row hrow s f
theorem fpBinRows_scalar : ∀ row ∈ fpBinRows, ∀ f, Scalar (exec (row.1 f)) (some f.d) (some f.t) Regs.noFlags := by
  unfold fpBinRows
  refine List.forall_mem_cons.2 ⟨fun f => (fpBin_scalar fpAdd f).of_eq fun _ => rfl, ?_⟩
  refine List.forall_mem_cons.2 ⟨fun f => (fpBin_scalar fpSub f).of_eq fun _ => rfl, ?_⟩
  refine List.forall_mem_cons.2 ⟨fun f => (fpBin_scalar fpMul f).of_eq fun _ => rfl, ?_⟩
  refine List.forall_mem_cons.2 ⟨fun f => (fpBin_scalar fpDiv f).of_eq fun _ => rfl, ?_⟩
  refine List.forall_mem_cons.2 ⟨fun f => (fpBin_scalar (fun _ => fpMinMax false) f).of_eq fun _ => rfl, ?_⟩
  exact List.forall_mem_cons.2 ⟨fun f => (fpBin_scalar (fun _ => fpMinMax true) f).of_eq fun _ => rfl, by simp⟩
theorem fpTerRows_scalar : ∀ row ∈ fpTerRows, ∀ f, Scalar (exec (row.1 f)) (some f.d) (some f.t) Regs.noFlags := by
  unfold fpTerRows
  refine List.forall_mem_cons.2 ⟨fun f => (fpTer_scalar (fun m => fpFma m false) f).of_eq fun _ => rfl, ?_⟩
  exact List.forall_mem_cons.2 ⟨fun f => (fpTer_scalar (fun m => fpFma m true) f).of_eq fun _ => rfl, by simp⟩
theorem fpUnRows_scalar : ∀ row ∈ fpUnRows, ∀ f, Scalar (exec (row.1 f)) (some f.d) (some f.t) Regs.noFlags := by
  unfold fpUnRows
  refine List.forall_mem_cons.2 ⟨fun f => (fpUn_scalar (fun m a => fpSqrt (arnd m) a.toNat) f).of_eq fun _ => rfl, ?_⟩
  refine List.forall_mem_cons.2 ⟨fun f => (fpUn_scalar (fun _ a => (fpAbs a.toNat, 0)) f).of_eq fun _ => rfl, ?_⟩
  refine List.forall_mem_cons.2 ⟨fun f => (fpUn_scalar (fun _ a => (fpNeg a.toNat, 0)) f).of_eq fun _ => rfl, ?_⟩
  refine List.forall_mem_cons.2 ⟨fun f => (fpUn_scalar (fun _ a => (2 ^ fpClass a.toNat, 0)) f).of_eq fun _ => rfl, ?_⟩
  refine List.forall_mem_cons.2 ⟨fun f => (fpUn_scalar (fun m a => fpRound (crnd m) a.toNat) f).of_eq fun _ => rfl, ?_⟩
  refine List.forall_mem_cons.2 ⟨fun f => (fpUn_scalar (fun m a => round32 (crnd m) (ofInt a.toInt)) f).of_eq fun _ => rfl, ?_⟩
  refine List.forall_mem_cons.2 ⟨fun f => (fpUn_scalar (fun m a => fpToI64 (crnd m) a.toNat) f).of_eq fun _ => rfl, ?_⟩
  refine List.forall_mem_cons.2 ⟨fun f => (fpUn_scalar (fun _ a => widen .bf16 (a.toNat % 65536)) f).of_eq fun _ => rfl, ?_⟩
  refine List.forall_mem_cons.2 ⟨fun f => (fpUn_scalar (fun _ a => widen .e4m3 (a.toNat % 256)) f).of_eq fun _ => rfl, ?_⟩
  refine List.forall_mem_cons.2 ⟨fun f => (fpUn_scalar (fun _ a => widen .e5m2 (a.toNat % 256)) f).of_eq fun _ => rfl, ?_⟩
  exact List.forall_mem_cons.2 ⟨fun f => (fpUn_scalar (fun _ a => fpSplit (a.toNat % 2 ^ 32)) f).of_eq fun _ => rfl, by simp⟩

end Sys2Proof.Machine

namespace Sys2Proof.Proofs
open Sys2Proof Sys2Proof.Machine Sys2Proof.Claims

/-- Settles O56: each of them is an issue whose Execute part writes xd and registers that its clause does not show, and no observation of
the rest sees that, its tail, its fault or its next address. -/
theorem scalarInstructionsLeaveTheRestAlone : Obligations.ScalarInstructionsLeaveTheRestAlone := by
  intro s t flags preds
  have hnext : ∀ r r' : Regs, r.noNext = r'.noNext → r.noNext = r'.noNext := fun _ _ => id
  refine ⟨fun row hrow f => (aluRows_scalar row hrow f).leavesAlone hnext, fun row hrow f => (aluImmRows_scalar row hrow f).leavesAlone hnext,
    fun row hrow f => (unaryRows_scalar row hrow f).leavesAlone hnext, fun row hrow f => (fieldRows_scalar row hrow f).leavesAlone hnext,
    fun mk hmk f => ?_, fun f => ?_, fun f => ?_, fun f => ?_, fun f => ?_, fun f => ?_,
    fun row hrow f => (compareRows_scalar row hrow f).leavesAlone noPreds_congr,
    fun row hrow f => (predicateRows_scalar row hrow f).leavesAlone noPreds_congr,
    fun row hrow f => (fpBinRows_scalar row hrow f).leavesAlone noFlags_congr,
    fun row hrow f => (fpTerRows_scalar row hrow f).leavesAlone noFlags_congr,
    fun row hrow f => (fpUnRows_scalar row hrow f).leavesAlone noFlags_congr⟩
  · have hconst : Scalar (exec (mk f)) (some f.d) none Regs.noNext := by
      simp only [List.mem_cons, List.not_mem_nil, or_false] at hmk
      rcases hmk with rfl | rfl
      · exact (constI_scalar .wx (fun _ i => immS i) f).of_eq fun _ => rfl
      · exact (constI_scalar .rx (fun d i => (i ++ d.setWidth 32 : BitVec 64)) f).of_eq fun _ => rfl
    exact hconst.leavesAlone hnext
  · have hlea : Scalar (execLea f) (some f.d) none Regs.noNext := ⟨_, _, _, _, _, fun _ => rfl, fun s _ => scalarEnd_wx _ s f.d _⟩
    exact hlea.leavesAlone hnext
  · have hsel : Scalar (execSel f) (some f.d) none Regs.noNext := ⟨_, _, _, _, _, fun _ => rfl, fun s _ => scalarEnd_wx _ s f.d _⟩
    exact hsel.leavesAlone hnext
  · have hnop : Scalar (execNop f) none (some f.t) Regs.noNext := ⟨_, _, _, _, _, fun _ => rfl, fun s _ => ⟨s, .inl rfl, .inl rfl⟩⟩
    exact hnop.leavesAlone hnext
  · have hpmov : Scalar (execPmov f) (some f.d) (some f.t) Regs.noNext :=
      ⟨_, _, _, _, _, fun _ => rfl, fun s _ => scalarEnd_wx _ s f.d _⟩
    exact hpmov.leavesAlone hnext
  · have hpset : Scalar (execPset f) none (some f.t) Regs.noPreds :=
      ⟨_, _, _, _, _, fun _ => rfl, fun s _ => scalarEnd_updR none s fun _ => rfl⟩
    exact hpset.leavesAlone noPreds_congr

end Sys2Proof.Proofs
end

section
/-! SUPPORT. A tail's wait before an instruction (R28, R38): without a debug stop, what an issue makes of its Execute part does not ask
whether there was a wait, once it has passed. -/

namespace Sys2Proof.Machine
open Sys2Proof.Claims

/-! ### The issue with its wait and without -/

/-- An end of an Execute part that is no debug stop. -/
def Res.quiet : Res → Prop
  | .debug _ _ => False
  | _ => True

theorem finish_bare (s : State) (h : Head) (t : STail) (g late : Bool) : s.finish h (some (bareTail t)) g late = s.finish h (some t) g late := rfl

/-- The Execute part's end, without the wait and with it: the same next state, unless it is a stall or a fault. -/
theorem conclude_bare {s s1 u : State} {h : Head} {t : STail} {g late : Bool} {r : Res} (hr : r.quiet)
    (hu : s1.conclude h (some (bareTail t)) g late r = .next u) :
    u = s1 ∨ (∃ v a, u = State.takeFault v a) ∨ s.conclude h (some t) g late r = .next u := by
  cases r with
  | ok s2 => exact .inr (.inr hu)
  | trap a => cases hu; exact .inr (.inl ⟨_, _, rfl⟩)
  | fpTrap fl => cases hu; exact .inr (.inl ⟨_, _, rfl⟩)
  | trapBy fx a => cases hu; exact .inr (.inl ⟨_, _, rfl⟩)
  | debug why fx => exact hr.elim
  | stall => cases hu; exact .inl rfl
  | wait s2 w => exact .inr (.inr hu)
  | ends s2 => exact .inr (.inr hu)

section
variable {s : State} {t : STail} {h : Head} {need : Level} {ops : List Req} {always late : Bool} {body : State → Bool → Res} {i bare : Instr}

@[simp] theorem passWait_opsBusy (s : State) (q : Option STail) (h : Head) (ops : List Req) (g : Bool) :
    (s.passWait q).opsBusy h ops g = s.opsBusy h ops g := by
  have hbusy : (s.passWait q).busy = s.busy := funext fun n => s.passWait_busy q n
  simp [State.opsBusy, hbusy]
@[simp] theorem passWait_opsPoisoned (s : State) (q : Option STail) (h : Head) (ops : List Req) (g : Bool) :
    (s.passWait q).opsPoisoned h ops g = s.opsPoisoned h ops g := by
  have hpoison : (s.passWait q).myTile.xPoison = s.myTile.xPoison := by
    simpa [State.myTile] using State.passWait_tile (·.xPoison) (fun _ _ _ => rfl) s q s.cur
  simp [State.opsPoisoned, hpoison]
@[simp] theorem passWait_level (s : State) (q : Option STail) : (s.passWait q).me.c.level = s.me.c.level := by
  obtain ⟨p, hp⟩ := s.passWait_me_c q
  rw [hp]
/-- A tail without its wait blocks nothing. -/
theorem waitBlocked_bare (s : State) (t : STail) : s.waitBlocked (some (bareTail t)) = false := by
  rw [State.waitBlocked, waitOf_bare rfl]

theorem waitGuards_of_issue (hp : s.me.c.phase = .fresh) (hw : t.wen = true)
    (hi : exec i s = s.issue h (some t) need ops always late body)
    (hb : ∀ s1, exec bare s1 = s1.issue h (some (bareTail t)) need ops always late body)
    (hq : (body (s.passWait (some t)) (s.guard h)).quiet) : waitGuards s t i bare := by
  have hwait : s.waitOf (some t) = some t := by simp [State.waitOf, hw, hp]
  refine ⟨fun hlow => ?_, fun hhigh u hu hne => ?_⟩
  · rw [hi, hb]
    cases hl : s.me.c.level.reaches need with
    | false =>
      refine .inr (.inl ⟨fun hm => ?_, issue_below hl, issue_below hl⟩)
      rw [hm] at hl
      cases hl
    | true =>
      cases ho : opsOk s.me.r.win h ops with
      | false => exact .inr (.inr ⟨issue_badOps hl ho, issue_badOps hl ho⟩)
      | true =>
        refine .inl ?_
        rw [issue_waits hl ho (by simpa [State.waitBlocked, hwait] using hlow), State.waitTail, hwait]
  · have hblock : s.waitBlocked (some t) = false := by simpa [State.waitBlocked, hwait] using hhigh
    rw [hb] at hu
    rw [hi]
    simp only [State.issue, passWait_level, State.passWait_me_r, waitBlocked_bare, State.passWait_guard, passWait_opsBusy,
      passWait_opsPoisoned, passWait_bare (q := bareTail t) rfl, hblock, Bool.false_eq_true, if_false] at hu ⊢
    split at hu
    · cases hu; exact .inl ⟨_, _, rfl⟩
    next hl =>
    split at hu
    · cases hu; exact .inl ⟨_, _, rfl⟩
    next ho =>
    rw [if_neg hl, if_neg ho]
    split at hu
    · next hg => exact .inr ((if_pos hg).trans hu)
    next hg =>
    rw [if_neg hg]
    split at hu
    · cases hu; exact absurd rfl hne
    next hbusy =>
    rw [if_neg hbusy]
    split at hu
    · cases hu; exact .inl ⟨_, _, rfl⟩
    next hpoison =>
    rw [if_neg hpoison]
    exact (conclude_bare hq hu).resolve_left hne

end

/-- Instructions of one form, whose tails `t` gives and `bare` frees of their waits: each tail's wait guards its instruction. -/
def Guards {α : Type} (t : α → STail) (bare : α → α) (mk : α → Instr) : Prop :=
  ∀ s : State, s.me.c.phase = .fresh → s.myTile.sdbg = false → ∀ f, (t f).wen = true → waitGuards s (t f) (mk f) (mk (bare f))

/-- An instruction of the form whose meaning `ex` is an issue with a quiet Execute part. -/
theorem guards_of_issue {α : Type} {t : α → STail} {bare : α → α} {mk : α → Instr} {ex : α → State → Out} {h : α → Head}
    {need : Level} {ops : α → List Req} {always late : Bool} {body : α → State → Bool → Res} (he : ∀ f s, exec (mk f) s = ex f s)
    (hi : ∀ f s, ex f s = s.issue (h f) (some (t f)) need (ops f) always late (body f))
    (hb : ∀ f s, ex (bare f) s = s.issue (h f) (some (bareTail (t f))) need (ops f) always late (body f))
    (hq : ∀ f s g, s.myTile.sdbg = false → (body f s g).quiet) : Guards t bare mk := by
  intro s hp hs f hw
  have hsdbg : (s.passWait (some (t f))).myTile.sdbg = false := by
    simpa [State.myTile] using (State.passWait_tile (·.sdbg) (fun _ _ _ => rfl) s (some (t f)) s.cur).trans hs
  exact waitGuards_of_issue hp hw ((he ..).trans (hi ..)) (fun s1 => (he ..).trans (hb ..)) (hq f _ _ hsdbg)

/-! ### Quiet Execute parts -/

section
variable {s : State}

theorem watched_quiet (hs : s.myTile.sdbg = false) {sp off n : Nat} {rd wr : Bool} {r : Res} (hr : s.watched sp off n rd wr = some r) : r.quiet := by
  simp only [State.watched, hs] at hr
  split at hr
  · cases hr
  · split at hr
    · cases hr
    · cases hr; trivial
theorem Res.after_quiet {r : Res} (hr : r.quiet) (fx : State → State) : (r.after fx).quiet := by
  cases r with
  | debug why fx => exact hr.elim
  | _ => trivial
theorem watched_getD_quiet (hs : s.myTile.sdbg = false) {sp off n : Nat} {rd wr : Bool} {r : Res} (hr : r.quiet) :
    ((s.watched sp off n rd wr).getD r).quiet := by
  cases hw : s.watched sp off n rd wr with
  | none => exact hr
  | some r' => exact watched_quiet hs hw
theorem watched_after_getD_quiet (hs : s.myTile.sdbg = false) {sp off n : Nat} {rd wr : Bool} {fx : State → State} {r : Res} (hr : r.quiet) :
    (((s.watched sp off n rd wr).map (·.after fx)).getD r).quiet := by
  cases hw : s.watched sp off n rd wr with
  | none => exact hr
  | some r' => exact Res.after_quiet (watched_quiet hs hw) fx
theorem resumed_quiet {fin : BitVec 128 → State} {r : Res} (hr : s.resumed fin = some r) : r.quiet := by
  unfold State.resumed at hr
  split at hr <;> cases hr <;> trivial

theorem fpWrite_quiet (d : Opnd) (r : FRes) : (s.fpWrite d r).quiet := by
  unfold State.fpWrite State.fpDone
  split <;> trivial
theorem sendRemote_quiet (rtn : BitVec 4) (q : Dest → BitVec 128 → Req2) : (s.sendRemote rtn q).quiet := by
  unfold State.sendRemote
  repeat' split
  all_goals trivial
theorem sendRemoteWait_quiet (rtn : BitVec 4) (q : Dest → BitVec 128 → Req2) : (s.sendRemoteWait rtn q).quiet := by
  unfold State.sendRemoteWait
  repeat' split
  all_goals trivial
theorem gjoin_quiet (hs : s.myTile.sdbg = false) (d : Nat) (op : BitVec 16) : (s.gjoin d op).quiet := by
  unfold State.gjoin
  dsimp only
  split
  · next hr => exact resumed_quiet hr
  · repeat' split
    all_goals first | trivial | exact sendRemoteWait_quiet .. | exact watched_getD_quiet hs trivial
theorem gleave_quiet (hs : s.myTile.sdbg = false) (d : Nat) (op : BitVec 16) : (s.gleave d op).quiet := by
  unfold State.gleave
  dsimp only
  split
  · trivial
  next m hm =>
  split
  · trivial
  have hout : Res.quiet (match (s.updY fun y => { y with members := y.members.filter fun q => q.op != op }).withdraw m with
      | .ok s1 => .ok (s1.wx d 0)
      | .error st => .trap { cause := 0x08, detail := BitVec.ofNat 64 st }) := by
    split <;> trivial
  split
  · exact hout
  · exact watched_getD_quiet hs hout
theorem evsig_quiet (w : Nat) : (s.evsig w).quiet := by
  unfold State.evsig
  dsimp only
  split
  · exact sendRemote_quiet ..
  · repeat' split
    all_goals trivial
theorem semwt_quiet (d : Nat) (op : Word) : (s.semwt d op).quiet := by
  unfold State.semwt
  dsimp only
  split <;> trivial
theorem semsg_quiet (op : Word) : (s.semsg op).quiet := by
  unfold State.semsg
  dsimp only
  split <;> trivial
theorem tagwa_quiet (d : Nat) (m : Word) : (s.tagwa d m).quiet := by
  unfold State.tagwa
  split <;> trivial
theorem tagwl_quiet (d : Nat) (m : Word) : (s.tagwl d m).quiet := by
  unfold State.tagwl
  split <;> trivial
theorem pushV_quiet (op : VOp) (d a b : Nat) (va vb : Word) (space : BitVec 2) (sig : Option (BitVec 8 × Nat)) :
    (s.pushV op d a b va vb space sig).quiet := by
  unfold State.pushV
  split <;> trivial
theorem mxrw_quiet (op : VOp) (d a : Nat) (w : Word) (sig : Option (BitVec 8 × Nat)) : (s.mxrw op d a w sig).quiet := by
  unfold State.mxrw
  repeat' split
  all_goals first | trivial | exact pushV_quiet ..
theorem readRecord_quiet (a : Word) {fin : BitVec 512 → Res} (hf : ∀ v, (fin v).quiet) : (s.readRecord a fin).quiet := by
  unfold State.readRecord
  repeat' split
  all_goals first | trivial | exact hf _
theorem pushFrom_quiet (full : Bool) (a : Word) {push : State → BitVec 512 → Res} (hf : ∀ v, (push s v).quiet) :
    (s.pushFrom full a push).quiet := by
  unfold State.pushFrom
  split
  · trivial
  · exact readRecord_quiet a hf
theorem cpIssue_quiet (sig : Option (BitVec 8 × Nat)) (b : BitVec 512) : (State.cpIssue sig s b).quiet := by
  unfold State.cpIssue
  dsimp only
  repeat' split
  all_goals trivial
theorem cpResumed_quiet {r : Res} (hr : s.cpResumed = some r) : r.quiet := by
  unfold State.cpResumed at hr
  dsimp only at hr
  repeat' split at hr
  all_goals cases hr <;> trivial
theorem mxgate_quiet (a : Word) : (s.mxgate a).quiet := by
  unfold State.mxgate
  split <;> trivial
theorem cpkill_quiet (a : Nat) : (s.cpkill a).quiet := by
  unfold State.cpkill
  split <;> trivial
theorem goOn_quiet (d : Nat) (v : Word) : (s.goOn d v).quiet := by
  unfold State.goOn
  split <;> trivial
theorem queueReply_quiet (k : Nat) (a b : Word) : (s.queueReply k a b).quiet := by
  unfold State.queueReply
  split <;> trivial
theorem claim_quiet (d : Nat) (a b : Word) : (s.claim d a b).quiet := by
  unfold State.claim
  dsimp only
  repeat' split
  all_goals trivial
theorem traceSet_quiet (d : Nat) (a b : Word) : (s.traceSet d a b).quiet := by
  unfold State.traceSet
  dsimp only
  split <;> trivial
theorem sendJoin_quiet (hs : s.myTile.sdbg = false) (va : Word) : (s.sendJoin va).quiet := by
  unfold State.sendJoin
  dsimp only
  repeat' split
  all_goals first | trivial | exact Res.after_quiet (watched_quiet hs (by assumption)) _

end

/-! ### The shapes of the system instructions (R338) -/

/-- The Execute part of a system instruction: its operand words' check, its wait for the context's accesses, and its body. -/
theorem sysBody_quiet {s : State} {ok : Bool} {r : Res} (hr : r.quiet) :
    Res.quiet (if !ok then .trap { cause := 0x02 } else if s.acqHeld || !s.allQuiet then .stall else r) := by
  split
  · trivial
  · split
    · trivial
    · exact hr

theorem sys_eq_issue (s : State) (h : Head) (t : STail) (need : Level) (ops : List Req) (ok : State → Bool) (body : State → Res) :
    s.sys h t need ops ok body = s.issue h (some t) need ops false false fun s _ =>
      if !ok s then .trap { cause := 0x02 } else if s.acqHeld || !s.allQuiet then .stall else body s := rfl
theorem sysDA_eq_issue (s : State) (f : SDA) (need : Level) (ok : Word → Bool) (body : State → Word → Res) :
    s.sysDA f need ok body = s.issue f.h (some f.t) need [(f.d, .wx), (f.a, .rx)] false false fun s _ =>
      if !ok (s.rx f.a.num) then .trap { cause := 0x02 } else if s.acqHeld || !s.allQuiet then .stall else body s (s.rx f.a.num) := rfl
theorem sysDAB_eq_issue (s : State) (f : SDAB) (need : Level) (ok : Word → Word → Bool) (body : State → Word → Word → Res) :
    s.sysDAB f need ok body = s.issue f.h (some f.t) need [(f.d, .wx), (f.a, .rx), (f.b, .rx)] false false fun s _ =>
      if !ok (s.rx f.a.num) (s.rx f.b.num) then .trap { cause := 0x02 } else if s.acqHeld || !s.allQuiet then .stall
      else body s (s.rx f.a.num) (s.rx f.b.num) := rfl

/-! ### A tail of any form without its wait -/

def S0.bare (f : S0) : S0 := { f with t := bareTail f.t }
def SD.bare (f : SD) : SD := { f with t := bareTail f.t }
def SA.bare (f : SA) : SA := { f with t := bareTail f.t }
def SAB.bare (f : SAB) : SAB := { f with t := bareTail f.t }
def SDA.bare (f : SDA) : SDA := { f with t := bareTail f.t }
def SDAB.bare (f : SDAB) : SDAB := { f with t := bareTail f.t }

section
variable {s : State} {q : STail}

/-- Whether an instruction waits does not depend on its tail's signal. -/
theorem passWait_signal (b : Bool) : s.passWait (some { q with sen := b }) = s.passWait (some q) := by
  cases hw : q.wen && s.me.c.phase == .fresh <;> simp [State.passWait, State.waitOf, hw]

end

/-! ### The families (R28) -/

section
variable {mk : SDA → Instr} {mk' : SDAB → Instr}

theorem aluS_guards {fn : Word → Word → Word} (he : ∀ f s, exec (mk' f) s = aluS fn f s) : Guards SDAB.t SDAB.bare mk' :=
  guards_of_issue he (fun _ _ => rfl) (fun _ _ => rfl) fun _ _ _ _ => trivial
theorem unS_guards {fn : Word → Word} (he : ∀ f s, exec (mk f) s = unS fn f s) : Guards SDA.t SDA.bare mk :=
  guards_of_issue he (fun _ _ => rfl) (fun _ _ => rfl) fun _ _ _ _ => trivial
theorem fpBin_guards {ex : SDAB → State → Out} {fn : RM → Nat → Nat → FRes} (he : ∀ f s, exec (mk' f) s = ex f s)
    (hf : ∀ f s, ex f s = fpBin fn f s) : Guards SDAB.t SDAB.bare mk' :=
  guards_of_issue (fun f s => (he f s).trans (hf f s)) (fun _ _ => rfl) (fun _ _ => rfl) fun _ _ _ _ => fpWrite_quiet ..
theorem fpTer_guards {ex : SDAB → State → Out} {fn : RM → Nat → Nat → Nat → FRes} (he : ∀ f s, exec (mk' f) s = ex f s)
    (hf : ∀ f s, ex f s = fpTer fn f s) : Guards SDAB.t SDAB.bare mk' :=
  guards_of_issue (fun f s => (he f s).trans (hf f s)) (fun _ _ => rfl) (fun _ _ => rfl) fun _ _ _ _ => fpWrite_quiet ..
theorem fpUn_guards {ex : SDA → State → Out} {fn : BitVec 16 → Word → FRes} (he : ∀ f s, exec (mk f) s = ex f s)
    (hf : ∀ f s, ex f s = fpUn fn f s) : Guards SDA.t SDA.bare mk :=
  guards_of_issue (fun f s => (he f s).trans (hf f s)) (fun _ _ => rfl) (fun _ _ => rfl) fun _ _ _ _ => fpWrite_quiet ..
theorem fpNarrow_guards {fmt : Fmt} (he : ∀ f s, exec (mk f) s = fpNarrow fmt f s) : Guards SDA.t SDA.bare mk :=
  guards_of_issue he (fun _ _ => rfl) (fun _ _ => rfl) fun f s g _ => by
    dsimp only
    split
    · trivial
    · unfold State.fpDone
      split <;> trivial
theorem wordS_guards {ex : SDA → State → Out} {ok : Word → Bool} {body : State → Nat → Word → Res} (he : ∀ f s, exec (mk f) s = ex f s)
    (hf : ∀ f s, ex f s = wordS ok f body s) (hq : ∀ (s : State) d w, (body s d w).quiet) : Guards SDA.t SDA.bare mk :=
  guards_of_issue (fun f s => (he f s).trans (hf f s)) (fun _ _ => rfl) (fun _ _ => rfl) fun f s g _ => by
    dsimp only
    split
    · trivial
    · exact hq ..
theorem vvvF_guards {op : VOp} {k : Nat} (he : ∀ f s, exec (mk' f) s = vvvF op k f s) : Guards SDAB.t SDAB.bare mk' :=
  guards_of_issue he (fun _ _ => rfl) (fun _ _ => rfl) fun _ _ _ _ => pushV_quiet ..
theorem vvF_guards {op : VOp} (he : ∀ f s, exec (mk f) s = vvF op f s) : Guards SDA.t SDA.bare mk :=
  guards_of_issue he (fun _ _ => rfl) (fun _ _ => rfl) fun _ _ _ _ => pushV_quiet ..
theorem vredF_guards {op : VOp} (he : ∀ f s, exec (mk f) s = vredF op f s) : Guards SDA.t SDA.bare mk :=
  guards_of_issue he (fun _ _ => rfl) (fun _ _ => rfl) fun _ _ _ _ => pushV_quiet ..
theorem vcmpF_guards {op : VOp} (he : ∀ f s, exec (mk' f) s = vcmpF op f s) : Guards SDAB.t SDAB.bare mk' :=
  guards_of_issue he (fun _ _ => rfl) (fun _ _ => rfl) fun _ _ _ _ => pushV_quiet ..
theorem vmaskF_guards {op : VOp} (he : ∀ f s, exec (mk' f) s = vmaskF op f s) : Guards SDAB.t SDAB.bare mk' :=
  guards_of_issue he (fun _ _ => rfl) (fun _ _ => rfl) fun _ _ _ _ => pushV_quiet ..
theorem vctlF_guards {ex : SDAB → State → Out} {op : VOp} {ok : Nat → Bool} (he : ∀ f s, exec (mk' f) s = ex f s)
    (hf : ∀ f s, ex f s = vctlF op ok f s) : Guards SDAB.t SDAB.bare mk' :=
  guards_of_issue (fun f s => (he f s).trans (hf f s)) (fun _ _ => rfl) (fun _ _ => rfl) fun f s g _ => by
    dsimp only
    split
    · trivial
    · exact pushV_quiet ..
theorem sysDA_guards {ex : SDA → State → Out} {need : Level} {ok : Word → Bool} {body : SDA → State → Word → Res}
    (he : ∀ f s, exec (mk f) s = ex f s) (hi : ∀ f s, ex f s = s.sysDA f need ok (body f))
    (hb : ∀ f s, ex (SDA.bare f) s = s.sysDA (SDA.bare f) need ok (body f)) (hq : ∀ f s a, (body f s a).quiet) : Guards SDA.t SDA.bare mk :=
  guards_of_issue he (fun f s => (hi f s).trans (sysDA_eq_issue ..)) (fun f s => (hb f s).trans (sysDA_eq_issue ..))
    fun _ _ _ _ => sysBody_quiet (hq ..)
theorem sysDAB_guards {ex : SDAB → State → Out} {need : Level} {ok : Word → Word → Bool} {body : SDAB → State → Word → Word → Res}
    (he : ∀ f s, exec (mk' f) s = ex f s) (hi : ∀ f s, ex f s = s.sysDAB f need ok (body f))
    (hb : ∀ f s, ex (SDAB.bare f) s = s.sysDAB (SDAB.bare f) need ok (body f)) (hq : ∀ f s a b, s.myTile.sdbg = false → (body f s a b).quiet) :
    Guards SDAB.t SDAB.bare mk' :=
  guards_of_issue he (fun f s => (hi f s).trans (sysDAB_eq_issue ..)) (fun f s => (hb f s).trans (sysDAB_eq_issue ..))
    fun _ _ _ hs => sysBody_quiet (hq _ _ _ _ hs)

/-- `semrd` and `semset` issue without their tail's signal, which their Execute part adds (R30). -/
theorem wordLast_guards {ex : SDA → State → Out} {ok : Word → Bool} {body : State → Nat → Word → Res} (he : ∀ f s, exec (mk f) s = ex f s)
    (hf : ∀ f s, ex f s = wordLast ok f body s) (hq : ∀ (s : State) d w, (body s d w).quiet) : Guards SDA.t SDA.bare mk := by
  intro s hp hs f hw
  have hunsigned : waitGuards s { f.t with sen := false } (mk f) (mk (SDA.bare f)) :=
    waitGuards_of_issue hp hw ((he ..).trans (hf ..)) (fun s1 => (he ..).trans (hf ..)) (by
      dsimp only
      split
      · trivial
      split
      · exact hq ..
      split
      · split <;> trivial
      · exact hq ..)
  rwa [waitGuards, passWait_signal] at hunsigned

end

end Sys2Proof.Machine
end

section
/-! SUPPORT. Each S-form instruction's tail wait guards it (R28, R38): the instructions with an Execute part of their own, then the lists. -/

namespace Sys2Proof.Machine
open Sys2Proof.Claims

/-! ### Instructions whose Execute part has cases of its own -/

theorem lcpush_guards : Guards S0.t S0.bare .lcpush :=
  guards_of_issue (ex := execLcpush) (fun _ _ => rfl) (fun _ _ => rfl) (fun _ _ => rfl) fun f s g _ => by
    split <;> trivial
theorem lcpop_guards : Guards S0.t S0.bare .lcpop :=
  guards_of_issue (ex := execLcpop) (fun _ _ => rfl) (fun _ _ => rfl) (fun _ _ => rfl) fun f s g _ => by
    split <;> trivial
theorem rgclr_guards : Guards SA.t SA.bare .rgclr :=
  guards_of_issue (ex := execRgclr) (fun _ _ => rfl) (fun _ _ => rfl) (fun _ _ => rfl) fun f s g _ => by
    dsimp only
    repeat' split
    all_goals trivial
theorem fwait_guards : Guards SA.t SA.bare .fwait :=
  guards_of_issue (ex := execFwait) (fun _ _ => rfl) (fun _ _ => rfl) (fun _ _ => rfl) fun f s g _ => by
    dsimp only
    repeat' split
    all_goals trivial
theorem evsig_guards : Guards SA.t SA.bare .evsig :=
  guards_of_issue (ex := execEvsig) (fun _ _ => rfl) (fun _ _ => rfl) (fun _ _ => rfl) fun f s g _ => by
    dsimp only
    split
    · trivial
    · exact evsig_quiet _
theorem semsg_guards : Guards SA.t SA.bare .semsg :=
  guards_of_issue (ex := execSemsg) (fun _ _ => rfl) (fun _ _ => rfl) (fun _ _ => rfl) fun f s g _ => by
    dsimp only
    split
    · trivial
    · exact semsg_quiet _
theorem mxq_guards : Guards SA.t SA.bare .mxq :=
  guards_of_issue (ex := execMxq) (fun _ _ => rfl) (fun _ _ => rfl) (fun _ _ => rfl) fun _ _ _ _ =>
    pushFrom_quiet _ _ fun _ => trivial
theorem mxqr_guards : Guards SA.t SA.bare .mxqr :=
  guards_of_issue (ex := execMxqr) (fun _ _ => rfl) (fun _ _ => rfl) (fun _ _ => rfl) fun f s g _ => by
    split
    · trivial
    · trivial
theorem cpq_guards : Guards SA.t SA.bare .cpq :=
  guards_of_issue (ex := execCpq) (fun _ _ => rfl) (fun _ _ => rfl) (fun _ _ => rfl) fun f s g _ => by
    split
    · next hr => exact cpResumed_quiet hr
    · exact pushFrom_quiet _ _ fun v => cpIssue_quiet ..
theorem cpqr_guards : Guards SA.t SA.bare .cpqr :=
  guards_of_issue (ex := execCpqr) (fun _ _ => rfl) (fun _ _ => rfl) (fun _ _ => rfl) fun f s g _ => by
    split
    · next hr => exact cpResumed_quiet hr
    · split
      · trivial
      · exact cpIssue_quiet ..
theorem halt_guards : Guards SA.t SA.bare .halt :=
  guards_of_issue (ex := execHalt) (fun _ _ => rfl) (fun _ _ => sys_eq_issue ..) (fun _ _ => sys_eq_issue ..) fun _ _ _ _ => sysBody_quiet trivial
theorem launch_guards : Guards SAB.t SAB.bare .launch :=
  guards_of_issue (ex := execLaunch) (fun _ _ => rfl) (fun _ _ => rfl) (fun _ _ => rfl) fun f s g _ => by
    dsimp only
    split
    · next hr => exact resumed_quiet hr
    · repeat' split
      all_goals trivial
theorem rgset_guards : Guards SAB.t SAB.bare .rgset :=
  guards_of_issue (ex := execRgset) (fun _ _ => rfl) (fun _ _ => rfl) (fun _ _ => rfl) fun f s g _ => by
    dsimp only
    repeat' split
    all_goals trivial
theorem rtld_guards : Guards SAB.t SAB.bare .rtld :=
  guards_of_issue (ex := execRtld) (fun _ _ => rfl) (fun _ _ => rfl) (fun _ _ => rfl) fun f s g _ => by
    dsimp only
    split <;> trivial
theorem join_guards : Guards SDA.t SDA.bare .join :=
  guards_of_issue (ex := execJoin) (fun _ _ => rfl) (fun _ _ => rfl) (fun _ _ => rfl) fun f s g hs => by
    split
    · split <;> trivial
    · trivial
    · split
      · trivial
      · exact sendJoin_quiet hs _
theorem rgq_guards : Guards SDA.t SDA.bare .rgq :=
  guards_of_issue (ex := execRgq) (fun _ _ => rfl) (fun _ _ => rfl) (fun _ _ => rfl) fun f s g _ => by
    dsimp only
    split <;> trivial
theorem gjoin_guards : Guards SDA.t SDA.bare .gjoin :=
  guards_of_issue (ex := execGjoin) (fun _ _ => rfl) (fun _ _ => rfl) (fun _ _ => rfl) fun f s g hs => by
    dsimp only
    split
    · trivial
    · exact gjoin_quiet hs ..
theorem gleave_guards : Guards SDA.t SDA.bare .gleave :=
  guards_of_issue (ex := execGleave) (fun _ _ => rfl) (fun _ _ => rfl) (fun _ _ => rfl) fun f s g hs => by
    dsimp only
    split
    · trivial
    · exact gleave_quiet hs ..
theorem eqst_guards : Guards SDA.t SDA.bare .eqst :=
  guards_of_issue (ex := execEqst) (fun _ _ => rfl) (fun _ _ => rfl) (fun _ _ => rfl) fun f s g _ => by
    dsimp only
    repeat' split
    all_goals trivial
theorem mxwm_guards : Guards SDA.t SDA.bare .mxwm :=
  guards_of_issue (ex := execMxwm) (fun _ _ => rfl) (fun _ _ => rfl) (fun _ _ => rfl) fun f s g _ => by
    dsimp only
    split <;> trivial
theorem mbxw_guards : Guards SDA.t SDA.bare .mbxw :=
  guards_of_issue (ex := execMbxw) (fun _ _ => rfl) (fun _ _ => rfl) (fun _ _ => rfl) fun f s g hs => by
    dsimp only
    repeat' split
    all_goals first | trivial | exact watched_after_getD_quiet hs trivial | exact watched_getD_quiet hs trivial
theorem rtchk_guards : Guards SDA.t SDA.bare .rtchk :=
  guards_of_issue (ex := execRtchk) (fun _ _ => rfl) (fun _ _ => rfl) (fun _ _ => rfl) fun f s g _ => by
    dsimp only
    split <;> trivial
theorem prmt_guards : Guards SDA.t SDA.bare .prmt :=
  sysDA_guards (ex := execPrmt) (fun _ _ => rfl) (fun _ _ => rfl) (fun _ _ => rfl) fun f s a => by
    dsimp only
    repeat' split
    all_goals trivial
theorem kill_guards : Guards SDA.t SDA.bare .kill :=
  sysDA_guards (ex := execKill) (fun _ _ => rfl) (fun _ _ => rfl) (fun _ _ => rfl) fun f s a => by
    dsimp only
    split
    · trivial
    · exact goOn_quiet ..
theorem cntr_guards : Guards SDA.t SDA.bare .cntr :=
  sysDA_guards (ex := execCntr) (fun _ _ => rfl) (fun _ _ => rfl) (fun _ _ => rfl) fun _ _ _ => trivial
theorem scrub_guards : Guards SDA.t SDA.bare .scrub :=
  sysDA_guards (ex := execScrub) (fun _ _ => rfl) (fun _ _ => rfl) (fun _ _ => rfl) fun _ _ _ => trivial
theorem turnack_guards : Guards SDA.t SDA.bare .turnack :=
  guards_of_issue (ex := execTurnack) (fun _ _ => rfl) (fun _ _ => rfl) (fun _ _ => rfl) fun f s g _ => by
    dsimp only
    repeat' split
    all_goals trivial
theorem fencecore_guards : Guards SDA.t SDA.bare .fencecore :=
  sysDA_guards (ex := execFencecore) (fun _ _ => rfl) (fun _ _ => rfl) (fun _ _ => rfl) fun f s a => by
    dsimp only
    split
    · next k _ =>
      generalize State.fenceTile _ k = s1
      exact goOn_quiet ..
    · trivial
theorem flood_guards : Guards SDA.t SDA.bare .flood :=
  sysDA_guards (ex := execFlood) (fun _ _ => rfl) (fun _ _ => rfl) (fun _ _ => rfl) fun f s a => by
    dsimp only
    split
    · trivial
    · exact readRecord_quiet a fun _ => trivial
theorem tset_guards : Guards SDAB.t SDAB.bare .tset :=
  guards_of_issue (ex := execTset) (fun _ _ => rfl) (fun _ _ => rfl) (fun _ _ => rfl) fun f s g _ => by
    dsimp only
    split <;> trivial
theorem vmovx_guards : Guards SDAB.t SDAB.bare .vmovx :=
  guards_of_issue (ex := execVmovx) (fun _ _ => rfl) (fun _ _ => rfl) (fun _ _ => rfl) fun f s g _ => by
    dsimp only
    split
    · trivial
    · exact pushV_quiet ..
theorem vmovv_guards : Guards SDAB.t SDAB.bare .vmovv :=
  guards_of_issue (ex := execVmovv) (fun _ _ => rfl) (fun _ _ => rfl) (fun _ _ => rfl) fun f s g _ => by
    dsimp only
    split
    · trivial
    · exact pushV_quiet ..
theorem mbxr_guards : Guards SDAB.t SDAB.bare .mbxr :=
  sysDAB_guards (ex := execMbxr) (fun _ _ => rfl) (fun _ _ => rfl) (fun _ _ => rfl) fun f s a b _ => by
    dsimp only
    split
    · next hr => exact resumed_quiet hr
    · split
      · exact queueReply_quiet ..
      · exact goOn_quiet ..
theorem tlbi_guards : Guards SDAB.t SDAB.bare .tlbi :=
  sysDAB_guards (ex := execTlbi) (fun _ _ => rfl) (fun _ _ => rfl) (fun _ _ => rfl) fun f s a b _ => by
    dsimp only
    repeat' split
    all_goals trivial
theorem artw_guards : Guards SDAB.t SDAB.bare .artw :=
  guards_of_issue (ex := execArtw) (fun _ _ => rfl) (fun _ _ => rfl) (fun _ _ => rfl) fun f s g _ => by
    dsimp only
    repeat' split
    all_goals trivial
theorem imap_guards : Guards SDAB.t SDAB.bare .imap :=
  sysDAB_guards (ex := execImap) (fun _ _ => rfl) (fun _ _ => rfl) (fun _ _ => rfl) fun f s a b _ => by
    dsimp only
    repeat' split
    all_goals trivial
theorem ctxsv_guards : Guards SDAB.t SDAB.bare .ctxsv :=
  sysDAB_guards (ex := execCtxsv) (fun _ _ => rfl) (fun _ _ => rfl) (fun _ _ => rfl) fun f s a b hs => by
    dsimp only
    repeat' split
    all_goals first | trivial | exact Res.after_quiet (watched_quiet hs (by assumption)) _
theorem ctxld_guards : Guards SDAB.t SDAB.bare .ctxld :=
  sysDAB_guards (ex := execCtxld) (fun _ _ => rfl) (fun _ _ => rfl) (fun _ _ => rfl) fun f s a b hs => by
    dsimp only
    repeat' split
    all_goals first | trivial | exact Res.after_quiet (watched_quiet hs (by assumption)) _
theorem gpart_guards : Guards SDAB.t SDAB.bare .gpart :=
  sysDAB_guards (ex := execGpart) (fun _ _ => rfl) (fun _ _ => rfl) (fun _ _ => rfl) fun f s a b _ => by
    dsimp only
    repeat' split
    all_goals trivial
theorem keyld_guards : Guards SDAB.t SDAB.bare .keyld :=
  sysDAB_guards (ex := execKeyld) (fun _ _ => rfl) (fun _ _ => rfl) (fun _ _ => rfl) fun _ _ _ b _ =>
    readRecord_quiet b fun _ => trivial

/-! ### The S-form instructions by their operand fields (R20) -/

theorem formsS0_guards : ∀ mk ∈ formsS0, Guards S0.t S0.bare mk := by
  unfold formsS0
  refine List.forall_mem_cons.2 ⟨guards_of_issue (ex := execNop) (fun _ _ => rfl) (fun _ _ => rfl) (fun _ _ => rfl) fun _ _ _ _ => trivial, ?_⟩
  refine List.forall_mem_cons.2 ⟨lcpush_guards, ?_⟩
  refine List.forall_mem_cons.2 ⟨lcpop_guards, ?_⟩
  refine List.forall_mem_cons.2 ⟨guards_of_issue (ex := execYield) (fun _ _ => rfl) (fun _ _ => rfl) (fun _ _ => rfl) fun _ _ _ _ => trivial, ?_⟩
  refine List.forall_mem_cons.2 ⟨guards_of_issue (ex := execIrgn) (fun _ _ => rfl) (fun _ _ => rfl) (fun _ _ => rfl) fun _ _ _ _ => trivial, ?_⟩
  exact List.forall_mem_nil _
theorem formsSD_guards : ∀ mk ∈ formsSD, Guards SD.t SD.bare mk := by
  unfold formsSD
  refine List.forall_mem_cons.2 ⟨guards_of_issue (ex := execPmov) (fun _ _ => rfl) (fun _ _ => rfl) (fun _ _ => rfl) fun _ _ _ _ => trivial, ?_⟩
  refine List.forall_mem_cons.2 ⟨guards_of_issue (ex := execMxcap) (fun _ _ => rfl) (fun _ _ => rfl) (fun _ _ => rfl) fun _ _ _ _ => trivial, ?_⟩
  exact List.forall_mem_nil _
theorem formsSA_guards : ∀ mk ∈ formsSA, Guards SA.t SA.bare mk := by
  unfold formsSA
  refine List.forall_mem_cons.2 ⟨guards_of_issue (ex := execPset) (fun _ _ => rfl) (fun _ _ => rfl) (fun _ _ => rfl) fun _ _ _ _ => trivial, ?_⟩
  refine List.forall_mem_cons.2 ⟨guards_of_issue (ex := execLcset) (fun _ _ => rfl) (fun _ _ => rfl) (fun _ _ => rfl) fun _ _ _ _ => trivial, ?_⟩
  refine List.forall_mem_cons.2 ⟨guards_of_issue (ex := execTclr) (fun _ _ => rfl) (fun _ _ => rfl) (fun _ _ => rfl) fun _ _ _ _ => trivial, ?_⟩
  refine List.forall_mem_cons.2 ⟨rgclr_guards, ?_⟩
  refine List.forall_mem_cons.2 ⟨fwait_guards, ?_⟩
  refine List.forall_mem_cons.2 ⟨evsig_guards, ?_⟩
  refine List.forall_mem_cons.2 ⟨semsg_guards, ?_⟩
  refine List.forall_mem_cons.2 ⟨guards_of_issue (ex := execTagclr) (fun _ _ => rfl) (fun _ _ => rfl) (fun _ _ => rfl) fun _ _ _ _ => trivial, ?_⟩
  refine List.forall_mem_cons.2 ⟨mxq_guards, ?_⟩
  refine List.forall_mem_cons.2 ⟨mxqr_guards, ?_⟩
  refine List.forall_mem_cons.2 ⟨cpq_guards, ?_⟩
  refine List.forall_mem_cons.2 ⟨cpqr_guards, ?_⟩
  refine List.forall_mem_cons.2 ⟨guards_of_issue (ex := execMxgate) (fun _ _ => rfl) (fun _ _ => rfl) (fun _ _ => rfl)
    fun _ _ _ _ => mxgate_quiet _, ?_⟩
  refine List.forall_mem_cons.2 ⟨guards_of_issue (ex := execCpkill) (fun _ _ => rfl) (fun _ _ => rfl) (fun _ _ => rfl)
    fun _ _ _ _ => cpkill_quiet _, ?_⟩
  refine List.forall_mem_cons.2 ⟨halt_guards, ?_⟩
  exact List.forall_mem_nil _
theorem formsSAB_guards : ∀ mk ∈ formsSAB, Guards SAB.t SAB.bare mk := by
  unfold formsSAB
  refine List.forall_mem_cons.2 ⟨launch_guards, ?_⟩
  refine List.forall_mem_cons.2 ⟨rgset_guards, ?_⟩
  refine List.forall_mem_cons.2 ⟨guards_of_issue (ex := execMxwr) (fun _ _ => rfl) (fun _ _ => rfl) (fun _ _ => rfl) fun _ _ _ _ => mxrw_quiet .., ?_⟩
  refine List.forall_mem_cons.2 ⟨rtld_guards, ?_⟩
  exact List.forall_mem_nil _
theorem formsSDA_guards : ∀ mk ∈ formsSDA, Guards SDA.t SDA.bare mk := by
  unfold formsSDA
  iterate 6 refine List.forall_mem_cons.2 ⟨unS_guards fun _ _ => rfl, ?_⟩
  refine List.forall_mem_cons.2 ⟨fpUn_guards (ex := execFsqrt) (fun _ _ => rfl) fun _ _ => rfl, ?_⟩
  refine List.forall_mem_cons.2 ⟨fpUn_guards (ex := execFabs) (fun _ _ => rfl) fun _ _ => rfl, ?_⟩
  refine List.forall_mem_cons.2 ⟨fpUn_guards (ex := execFneg) (fun _ _ => rfl) fun _ _ => rfl, ?_⟩
  refine List.forall_mem_cons.2 ⟨fpUn_guards (ex := execFclass) (fun _ _ => rfl) fun _ _ => rfl, ?_⟩
  refine List.forall_mem_cons.2 ⟨fpUn_guards (ex := execFrnd) (fun _ _ => rfl) fun _ _ => rfl, ?_⟩
  refine List.forall_mem_cons.2 ⟨fpUn_guards (ex := execFcvtFi) (fun _ _ => rfl) fun _ _ => rfl, ?_⟩
  refine List.forall_mem_cons.2 ⟨fpUn_guards (ex := execFcvtIf) (fun _ _ => rfl) fun _ _ => rfl, ?_⟩
  refine List.forall_mem_cons.2 ⟨fpNarrow_guards fun _ _ => rfl, ?_⟩
  refine List.forall_mem_cons.2 ⟨fpUn_guards (ex := execFcvtFb) (fun _ _ => rfl) fun _ _ => rfl, ?_⟩
  iterate 2 refine List.forall_mem_cons.2 ⟨fpNarrow_guards fun _ _ => rfl, ?_⟩
  refine List.forall_mem_cons.2 ⟨fpUn_guards (ex := execFcvtF4) (fun _ _ => rfl) fun _ _ => rfl, ?_⟩
  refine List.forall_mem_cons.2 ⟨fpUn_guards (ex := execFcvtF5) (fun _ _ => rfl) fun _ _ => rfl, ?_⟩
  refine List.forall_mem_cons.2 ⟨fpUn_guards (ex := execFsplit) (fun _ _ => rfl) fun _ _ => rfl, ?_⟩
  refine List.forall_mem_cons.2 ⟨join_guards, ?_⟩
  refine List.forall_mem_cons.2 ⟨guards_of_issue (ex := execTlook) (fun _ _ => rfl) (fun _ _ => rfl) (fun _ _ => rfl) fun _ _ _ _ => trivial, ?_⟩
  refine List.forall_mem_cons.2 ⟨guards_of_issue (ex := execTinv) (fun _ _ => rfl) (fun _ _ => rfl) (fun _ _ => rfl) fun _ _ _ _ => trivial, ?_⟩
  refine List.forall_mem_cons.2 ⟨rgq_guards, ?_⟩
  refine List.forall_mem_cons.2 ⟨gjoin_guards, ?_⟩
  refine List.forall_mem_cons.2 ⟨gleave_guards, ?_⟩
  refine List.forall_mem_cons.2 ⟨wordS_guards (ex := execSemwt) (body := State.semwt) (fun _ _ => rfl) (fun _ _ => rfl)
    fun _ _ _ => semwt_quiet .., ?_⟩
  refine List.forall_mem_cons.2 ⟨wordLast_guards (ex := execSemrd) (body := State.semrd) (fun _ _ => rfl) (fun _ _ => rfl) fun _ _ _ => trivial, ?_⟩
  refine List.forall_mem_cons.2 ⟨wordLast_guards (ex := execSemset) (body := State.semset) (fun _ _ => rfl) (fun _ _ => rfl) fun _ _ _ => trivial, ?_⟩
  refine List.forall_mem_cons.2 ⟨wordS_guards (ex := execTagwa) (body := State.tagwa) (fun _ _ => rfl) (fun _ _ => rfl)
    fun _ _ _ => tagwa_quiet .., ?_⟩
  refine List.forall_mem_cons.2 ⟨wordS_guards (ex := execTagwl) (body := State.tagwl) (fun _ _ => rfl) (fun _ _ => rfl)
    fun _ _ _ => tagwl_quiet .., ?_⟩
  refine List.forall_mem_cons.2 ⟨wordS_guards (ex := execTagff) (body := State.tagff) (fun _ _ => rfl) (fun _ _ => rfl) fun _ _ _ => trivial, ?_⟩
  iterate 9 refine List.forall_mem_cons.2 ⟨vvF_guards fun _ _ => rfl, ?_⟩
  refine List.forall_mem_cons.2 ⟨guards_of_issue (ex := execVmnot) (fun _ _ => rfl) (fun _ _ => rfl) (fun _ _ => rfl)
    fun _ _ _ _ => pushV_quiet .., ?_⟩
  refine List.forall_mem_cons.2 ⟨guards_of_issue (ex := execVmpop) (fun _ _ => rfl) (fun _ _ => rfl) (fun _ _ => rfl)
    fun _ _ _ _ => pushV_quiet .., ?_⟩
  refine List.forall_mem_cons.2 ⟨guards_of_issue (ex := execVbcast) (fun _ _ => rfl) (fun _ _ => rfl) (fun _ _ => rfl)
    fun _ _ _ _ => pushV_quiet .., ?_⟩
  refine List.forall_mem_cons.2 ⟨guards_of_issue (ex := execViota) (fun _ _ => rfl) (fun _ _ => rfl) (fun _ _ => rfl)
    fun _ _ _ _ => pushV_quiet .., ?_⟩
  refine List.forall_mem_cons.2 ⟨vvF_guards fun _ _ => rfl, ?_⟩
  iterate 6 refine List.forall_mem_cons.2 ⟨vredF_guards fun _ _ => rfl, ?_⟩
  iterate 2 refine List.forall_mem_cons.2 ⟨vvF_guards fun _ _ => rfl, ?_⟩
  refine List.forall_mem_cons.2 ⟨eqst_guards, ?_⟩
  refine List.forall_mem_cons.2 ⟨mxwm_guards, ?_⟩
  refine List.forall_mem_cons.2 ⟨guards_of_issue (ex := execMxrd) (fun _ _ => rfl) (fun _ _ => rfl) (fun _ _ => rfl) fun _ _ _ _ => mxrw_quiet .., ?_⟩
  refine List.forall_mem_cons.2 ⟨mbxw_guards, ?_⟩
  refine List.forall_mem_cons.2 ⟨rtchk_guards, ?_⟩
  refine List.forall_mem_cons.2 ⟨prmt_guards, ?_⟩
  refine List.forall_mem_cons.2 ⟨kill_guards, ?_⟩
  refine List.forall_mem_cons.2 ⟨cntr_guards, ?_⟩
  refine List.forall_mem_cons.2 ⟨scrub_guards, ?_⟩
  refine List.forall_mem_cons.2 ⟨turnack_guards, ?_⟩
  refine List.forall_mem_cons.2 ⟨fencecore_guards, ?_⟩
  refine List.forall_mem_cons.2 ⟨flood_guards, ?_⟩
  exact List.forall_mem_nil _
theorem formsSDAB_guards : ∀ mk ∈ formsSDAB, Guards SDAB.t SDAB.bare mk := by
  unfold formsSDAB
  iterate 24 refine List.forall_mem_cons.2 ⟨aluS_guards fun _ _ => rfl, ?_⟩
  refine List.forall_mem_cons.2 ⟨fpBin_guards (ex := execFadd) (fun _ _ => rfl) fun _ _ => rfl, ?_⟩
  refine List.forall_mem_cons.2 ⟨fpBin_guards (ex := execFsub) (fun _ _ => rfl) fun _ _ => rfl, ?_⟩
  refine List.forall_mem_cons.2 ⟨fpBin_guards (ex := execFmul) (fun _ _ => rfl) fun _ _ => rfl, ?_⟩
  refine List.forall_mem_cons.2 ⟨fpTer_guards (ex := execFma) (fun _ _ => rfl) fun _ _ => rfl, ?_⟩
  refine List.forall_mem_cons.2 ⟨fpTer_guards (ex := execFnma) (fun _ _ => rfl) fun _ _ => rfl, ?_⟩
  refine List.forall_mem_cons.2 ⟨fpBin_guards (ex := execFdiv) (fun _ _ => rfl) fun _ _ => rfl, ?_⟩
  refine List.forall_mem_cons.2 ⟨fpBin_guards (ex := execFmin) (fun _ _ => rfl) fun _ _ => rfl, ?_⟩
  refine List.forall_mem_cons.2 ⟨fpBin_guards (ex := execFmax) (fun _ _ => rfl) fun _ _ => rfl, ?_⟩
  refine List.forall_mem_cons.2 ⟨tset_guards, ?_⟩
  iterate 20 refine List.forall_mem_cons.2 ⟨vvvF_guards fun _ _ => rfl, ?_⟩
  refine List.forall_mem_cons.2 ⟨vctlF_guards (ex := execVcvt) (fun _ _ => rfl) fun _ _ => rfl, ?_⟩
  refine List.forall_mem_cons.2 ⟨vvvF_guards fun _ _ => rfl, ?_⟩
  refine List.forall_mem_cons.2 ⟨vctlF_guards (ex := execVquant) (fun _ _ => rfl) fun _ _ => rfl, ?_⟩
  refine List.forall_mem_cons.2 ⟨vctlF_guards (ex := execVdequant) (fun _ _ => rfl) fun _ _ => rfl, ?_⟩
  iterate 6 refine List.forall_mem_cons.2 ⟨vcmpF_guards fun _ _ => rfl, ?_⟩
  refine List.forall_mem_cons.2 ⟨vvvF_guards fun _ _ => rfl, ?_⟩
  iterate 3 refine List.forall_mem_cons.2 ⟨vmaskF_guards fun _ _ => rfl, ?_⟩
  refine List.forall_mem_cons.2 ⟨vmovx_guards, ?_⟩
  refine List.forall_mem_cons.2 ⟨vmovv_guards, ?_⟩
  refine List.forall_mem_cons.2 ⟨vvvF_guards fun _ _ => rfl, ?_⟩
  refine List.forall_mem_cons.2 ⟨vctlF_guards (ex := execVrot) (fun _ _ => rfl) fun _ _ => rfl, ?_⟩
  iterate 2 refine List.forall_mem_cons.2 ⟨vvvF_guards fun _ _ => rfl, ?_⟩
  refine List.forall_mem_cons.2 ⟨guards_of_issue (ex := execVsetvl) (fun _ _ => rfl) (fun _ _ => rfl) (fun _ _ => rfl) fun _ _ _ _ => trivial, ?_⟩
  refine List.forall_mem_cons.2 ⟨vvvF_guards fun _ _ => rfl, ?_⟩
  refine List.forall_mem_cons.2 ⟨mbxr_guards, ?_⟩
  refine List.forall_mem_cons.2 ⟨tlbi_guards, ?_⟩
  refine List.forall_mem_cons.2 ⟨artw_guards, ?_⟩
  refine List.forall_mem_cons.2 ⟨imap_guards, ?_⟩
  refine List.forall_mem_cons.2 ⟨ctxsv_guards, ?_⟩
  refine List.forall_mem_cons.2 ⟨ctxld_guards, ?_⟩
  refine List.forall_mem_cons.2 ⟨gpart_guards, ?_⟩
  refine List.forall_mem_cons.2 ⟨sysDAB_guards (ex := execWdog) (fun _ _ => rfl) (fun _ _ => rfl) (fun _ _ => rfl) fun _ _ _ _ _ => trivial, ?_⟩
  refine List.forall_mem_cons.2 ⟨sysDAB_guards (ex := execCntc) (fun _ _ => rfl) (fun _ _ => rfl) (fun _ _ => rfl)
    fun _ _ _ _ _ => claim_quiet .., ?_⟩
  refine List.forall_mem_cons.2 ⟨sysDAB_guards (ex := execTrc) (fun _ _ => rfl) (fun _ _ => rfl) (fun _ _ => rfl)
    fun _ _ _ _ _ => traceSet_quiet .., ?_⟩
  refine List.forall_mem_cons.2 ⟨keyld_guards, ?_⟩
  exact List.forall_mem_nil _

end Sys2Proof.Machine

namespace Sys2Proof.Proofs
open Sys2Proof Sys2Proof.Machine Sys2Proof.Claims

/-- Settles O55: every S-form instruction is an issue, which asks for the tail's wait after the level and the operand fields, and whose Execute
part does not ask whether there was one. -/
theorem tailWaitsGuardEveryInstruction : Obligations.TailWaitsGuardEveryInstruction := fun s hfresh hsdbg =>
  ⟨fun mk hmk f hw => formsS0_guards mk hmk s hfresh hsdbg f hw, fun mk hmk f hw => formsSD_guards mk hmk s hfresh hsdbg f hw,
    fun mk hmk f hw => formsSA_guards mk hmk s hfresh hsdbg f hw, fun mk hmk f hw => formsSAB_guards mk hmk s hfresh hsdbg f hw,
    fun mk hmk f hw => formsSDA_guards mk hmk s hfresh hsdbg f hw, fun mk hmk f hw => formsSDAB_guards mk hmk s hfresh hsdbg f hw⟩

end Sys2Proof.Proofs
end

section
/-! SUPPORT. Integer instructions (R41 to R43, R47): the functions of Tables 1 and 2 in the statements' terms, and the meaning of every row. -/

namespace Sys2Proof.Machine

open Sys2Proof.Claims

/-! ### The functions of two operands (R41, R42, R47) -/

/-- The unsigned quotient and remainder are those of bit vectors. -/
theorem aluDivu_eq : aluDivu = fun a b => if b = 0 then BitVec.allOnes 64 else a / b := by
  funext a b
  rw [aluDivu, ← BitVec.toNat_udiv, BitVec.ofNat_toNat, BitVec.setWidth_eq]
  rfl
theorem aluRemu_eq : aluRemu = fun a b => if b = 0 then a else a % b := by
  funext a b
  rw [aluRemu, ← BitVec.toNat_umod, BitVec.ofNat_toNat, BitVec.setWidth_eq]

/-- Of two numbers the order at equality does not matter when both choices are then the same. -/
theorem ite_toInt_le {a b x y : Word} (hxy : a = b → x = y) : (if a.toInt ≤ b.toInt then x else y) = if a.slt b then x else y := by
  simp only [BitVec.slt_iff_toInt_lt]
  rcases lt_trichotomy a.toInt b.toInt with h | h | h
  · rw [if_pos h.le, if_pos h]
  · rw [if_pos h.le, if_neg h.not_lt, hxy (BitVec.eq_of_toInt_eq h)]
  · rw [if_neg h.not_ge, if_neg h.not_gt]
theorem ite_toNat_le {a b x y : Word} (hxy : a = b → x = y) : (if a.toNat ≤ b.toNat then x else y) = if a.ult b then x else y := by
  simp only [BitVec.ult_iff_lt, BitVec.lt_def]
  rcases lt_trichotomy a.toNat b.toNat with h | h | h
  · rw [if_pos h.le, if_pos h]
  · rw [if_pos h.le, if_neg h.not_lt, hxy (BitVec.eq_of_toNat_eq h)]
  · rw [if_neg h.not_ge, if_neg h.not_gt]
theorem aluMin_eq : aluMin = fun a b => if a.slt b then a else b := funext₂ fun _ _ => ite_toInt_le id
theorem aluMax_eq : aluMax = fun a b => if a.slt b then b else a := funext₂ fun _ _ => ite_toInt_le Eq.symm
theorem aluMinu_eq : aluMinu = fun a b => if a.ult b then a else b := funext₂ fun _ _ => ite_toNat_le id
theorem aluMaxu_eq : aluMaxu = fun a b => if a.ult b then b else a := funext₂ fun _ _ => ite_toNat_le Eq.symm

/-- The low half of a sum, a difference and a product is that of the low halves. -/
theorem aluAddW_eq : aluAddW = fun a b => (a + b).setWidth 32 |>.signExtend 64 := by
  funext a b
  rw [aluAddW, BitVec.setWidth_add _ _ (by decide)]
theorem aluSubW_eq : aluSubW = fun a b => (a - b).setWidth 32 |>.signExtend 64 := by
  funext a b
  have h : a.setWidth 32 - b.setWidth 32 = (a - b).setWidth 32 := by bv_omega
  rw [aluSubW, h]
theorem aluMulW_eq : aluMulW = fun a b => (a * b).setWidth 32 |>.signExtend 64 := by
  funext a b
  rw [aluMulW, BitVec.setWidth_mul _ _ (by decide)]

/-! ### The rows of two operands -/

/-- An S-form row and its I-form twin are the forms `op xd, xa, xb` and `op xd, xa, imm` with their functions. -/
def Computes (p : ((SDAB → Instr) × (Word → Word → Word)) × ((IDA → Instr) × (Word → Word → Word))) : Prop :=
  (∀ (s : State) (f : SDAB), exec (p.1.1 f) s = aluS p.1.2 f s) ∧ ∀ (s : State) (f : IDA), exec (p.2.1 f) s = aluI p.2.2 f s
/-- The model's function may stand in other terms. -/
theorem Computes.of_eq {mk : SDAB → Instr} {mi : IDA → Instr} {fn fn' : Word → Word → Word} (h : fn = fn')
    (hs : ∀ s f, exec (mk f) s = aluS fn f s) (hi : ∀ s f, exec (mi f) s = aluI fn f s) : Computes ((mk, fn'), (mi, fn')) := h ▸ ⟨hs, hi⟩

theorem aluRows_compute : ∀ p ∈ aluRows.zip aluImmRows, Computes p := by
  unfold aluRows aluImmRows
  iterate 6 refine List.forall_mem_cons.2 ⟨⟨fun _ _ => rfl, fun _ _ => rfl⟩, ?_⟩
  refine List.forall_mem_cons.2 ⟨.of_eq aluDivu_eq (fun _ _ => rfl) fun _ _ => rfl, ?_⟩
  refine List.forall_mem_cons.2 ⟨⟨fun _ _ => rfl, fun _ _ => rfl⟩, ?_⟩
  refine List.forall_mem_cons.2 ⟨.of_eq aluRemu_eq (fun _ _ => rfl) fun _ _ => rfl, ?_⟩
  iterate 8 refine List.forall_mem_cons.2 ⟨⟨fun _ _ => rfl, fun _ _ => rfl⟩, ?_⟩
  refine List.forall_mem_cons.2 ⟨.of_eq aluMin_eq (fun _ _ => rfl) fun _ _ => rfl, ?_⟩
  refine List.forall_mem_cons.2 ⟨.of_eq aluMax_eq (fun _ _ => rfl) fun _ _ => rfl, ?_⟩
  refine List.forall_mem_cons.2 ⟨.of_eq aluMinu_eq (fun _ _ => rfl) fun _ _ => rfl, ?_⟩
  refine List.forall_mem_cons.2 ⟨.of_eq aluMaxu_eq (fun _ _ => rfl) fun _ _ => rfl, ?_⟩
  refine List.forall_mem_cons.2 ⟨.of_eq aluAddW_eq (fun _ _ => rfl) fun _ _ => rfl, ?_⟩
  refine List.forall_mem_cons.2 ⟨.of_eq aluSubW_eq (fun _ _ => rfl) fun _ _ => rfl, ?_⟩
  refine List.forall_mem_cons.2 ⟨.of_eq aluMulW_eq (fun _ _ => rfl) fun _ _ => rfl, ?_⟩
  exact List.forall_mem_nil _

/-- Every S-form integer instruction is its form with the function of its row. -/
theorem exec_aluRows : ∀ row ∈ aluRows, ∀ (s : State) (f : SDAB), exec (row.1 f) s = aluS row.2 f s := by
  have hfirst : aluRows = (aluRows.zip aluImmRows).map Prod.fst := rfl
  rw [hfirst]
  exact List.forall_mem_map.2 fun p hp => (aluRows_compute p hp).1
/-- And so is its I-form twin. -/
theorem exec_aluImmRows : ∀ row ∈ aluImmRows, ∀ (s : State) (f : IDA), exec (row.1 f) s = aluI row.2 f s := by
  have hsecond : aluImmRows = (aluRows.zip aluImmRows).map Prod.snd := rfl
  rw [hsecond]
  exact List.forall_mem_map.2 fun p hp => (aluRows_compute p hp).2

end Sys2Proof.Machine

namespace Sys2Proof.Proofs
open Sys2Proof Sys2Proof.Machine Sys2Proof.Claims

theorem integerRegisterResults : IntegerRegisterResults := by
  intro s f hd row hrow
  rw [exec_aluRows row hrow, aluS, issue_does hd, conclude_ok, State.passWait_rx, State.passWait_rx]

theorem integerImmediateResults : IntegerImmediateResults := by
  intro s f hd row hrow
  rw [exec_aluImmRows row hrow, aluI, issue_does hd, conclude_ok, passWait_none]
  rfl

/-- Settles O7: every integer instruction is its operand form with its function, which is the one of Tables 1 and 2. -/
theorem integerResults : Obligations.IntegerResults := ⟨integerRegisterResults, integerImmediateResults⟩

end Sys2Proof.Proofs
end

section
/-! SUPPORT. One-operand instructions, bit fields and extensions (R43 to R47): counts of bits as counts over positions, fields as shifts and
masks, and the meaning of every row. -/

namespace Sys2Proof.Machine

open Sys2Proof.Claims

/-! ### Counts and magnitudes (R43) -/

/-- A search up from an index is the search of the list of indices. -/
theorem findFrom_eq_find? (p : Nat → Bool) (n i : Nat) : findFrom p n i = (List.range' i n).find? p := by
  induction n generalizing i with
  | zero => rfl
  | succ n ih => rw [findFrom, List.range'_succ, List.find?_cons, ih]; cases p i <;> rfl
theorem findFrom_zero (p : Nat → Bool) (n : Nat) : findFrom p n 0 = (List.range n).find? p := by
  rw [findFrom_eq_find?, List.range_eq_range']

/-- The one bits of a number are the positions at which it has one. -/
theorem onesIn_eq_countP (k n : Nat) : onesIn k n = (List.range k).countP n.testBit := by
  induction k generalizing n with
  | zero => rfl
  | succ k ih =>
    have htail : n.testBit ∘ Nat.succ = (n / 2).testBit := funext fun i => Nat.testBit_succ n i
    have hhead : n % 2 = if n.testBit 0 = true then 1 else 0 := by
      rw [Nat.testBit_zero]
      rcases Nat.mod_two_eq_zero_or_one n with h | h <;> simp [h]
    rw [onesIn, ih, List.range_succ_eq_map, List.countP_cons, List.countP_map, htail, ← hhead, Nat.add_comm]

theorem aluAbs_eq : aluAbs = fun a => if a.msb then 0 - a else a := by
  funext a
  rw [aluAbs, BitVec.msb_eq_toInt]
  simp only [decide_eq_true_eq]
theorem aluClz_eq : aluClz = fun a => BitVec.ofNat 64 (((List.range 64).find? fun i => a.getLsbD (63 - i)).getD 64) := by
  funext a
  rw [aluClz, findFrom_zero]
theorem aluCtz_eq : aluCtz = fun a => BitVec.ofNat 64 (((List.range 64).find? fun i => a.getLsbD i).getD 64) := by
  funext a
  rw [aluCtz, findFrom_zero]
theorem aluPopc_eq : aluPopc = fun a => BitVec.ofNat 64 ((List.range 64).countP fun i => a.getLsbD i) := by
  funext a
  rw [aluPopc, onesIn_eq_countP]
  rfl

/-- Every one-operand instruction is the form `op xd, xa` with the function of its row. -/
theorem exec_unaryRows : ∀ row ∈ unaryRows, ∀ (s : State) (f : SDA), exec (row.1 f) s = unS row.2 f s := by
  unfold unaryRows
  iterate 2 refine List.forall_mem_cons.2 ⟨fun _ _ => rfl, ?_⟩
  refine List.forall_mem_cons.2 ⟨fun s f => congrArg (unS · f s) aluAbs_eq, ?_⟩
  refine List.forall_mem_cons.2 ⟨fun s f => congrArg (unS · f s) aluClz_eq, ?_⟩
  refine List.forall_mem_cons.2 ⟨fun s f => congrArg (unS · f s) aluCtz_eq, ?_⟩
  refine List.forall_mem_cons.2 ⟨fun s f => congrArg (unS · f s) aluPopc_eq, ?_⟩
  exact List.forall_mem_nil _

/-! ### Fields of a word (R44, R47) -/

/-- The low bits of a word, extended, are the low bits shifted up to its end and back. -/
theorem sextLow_eq_shifts {w : Nat} (hlo : 1 ≤ w) (hhi : w ≤ 64) (v : Word) : sextLow w v = (v <<< (64 - w)).sshiftRight (64 - w) := by
  have hint : signedOf w v.toNat = (v.setWidth w).toInt := by
    have hpow : 2 ^ w = 2 * 2 ^ (w - 1) := by rw [← Nat.pow_succ']; congr 1; omega
    rw [signedOf, BitVec.toInt_eq_toNat_cond, BitVec.toNat_setWidth, hpow]
    split <;> split <;> omega
  have hext : sextLow w v = (v.setWidth w).signExtend 64 := by rw [sextLow, hint, BitVec.signExtend]
  rw [hext]
  ext i hi
  simp only [BitVec.getElem_signExtend, BitVec.getElem_sshiftRight, BitVec.msb_eq_getLsbD_last, BitVec.getElem_shiftLeft,
    BitVec.getLsbD_shiftLeft, BitVec.getElem_setWidth, BitVec.getLsbD_setWidth]
  by_cases h : i < w
  · have hshift : 64 - w + i - (64 - w) = i := by omega
    simp [h, show 64 - w + i < 64 by omega, hshift, BitVec.getLsbD_eq_getElem hi]
  · have hlast : 63 - (64 - w) = w - 1 := by omega
    simp [h, show ¬ 64 - w + i < 64 by omega, hlast, show w - 1 < w by omega, show ¬ 63 < 64 - w by omega]
theorem zextLow_eq_shifts {w : Nat} (hhi : w ≤ 64) (v : Word) : zextLow w v = (v <<< (64 - w)) >>> (64 - w) := by
  have hext : zextLow w v = (v.setWidth w).setWidth 64 := by
    apply BitVec.eq_of_toNat_eq
    simp [zextLow]
  rw [hext]
  ext i hi
  simp only [BitVec.getElem_setWidth, BitVec.getLsbD_setWidth, BitVec.getElem_ushiftRight, BitVec.getLsbD_shiftLeft]
  by_cases h : i < w
  · have hshift : 64 - w + i - (64 - w) = i := by omega
    simp [h, show 64 - w + i < 64 by omega, hshift]
  · simp [h, show ¬ 64 - w + i < 64 by omega]

/-- The bits of a number after a field of it is replaced. -/
theorem testBit_setBits (n lo w v j : Nat) :
    (setBits n lo w v).testBit j = if lo ≤ j ∧ j < lo + w then v.testBit (j - lo) else n.testBit j := by
  have hlt : n % 2 ^ lo < 2 ^ lo := Nat.mod_lt _ (Nat.two_pow_pos lo)
  have hfield : bitsAt n lo w < 2 ^ w := Nat.mod_lt _ (Nat.two_pow_pos w)
  have hn : n = 2 ^ lo * (2 ^ w * (n / 2 ^ lo / 2 ^ w) + bitsAt n lo w) + n % 2 ^ lo := by rw [bitsAt, Nat.div_add_mod, Nat.div_add_mod]
  have hset : setBits n lo w v = 2 ^ lo * (2 ^ w * (n / 2 ^ lo / 2 ^ w) + v % 2 ^ w) + n % 2 ^ lo := by
    rw [Nat.mul_add] at hn ⊢
    rw [setBits, Nat.mul_comm (bitsAt n lo w), Nat.mul_comm (v % 2 ^ w)]
    omega
  rw [hset, Nat.testBit_two_pow_mul_add _ hlt, Nat.testBit_two_pow_mul_add _ (Nat.mod_lt _ (Nat.two_pow_pos w)), Nat.testBit_mod_two_pow]
  conv_rhs => rw [hn, Nat.testBit_two_pow_mul_add _ hlt, Nat.testBit_two_pow_mul_add _ hfield]
  by_cases hlo : j < lo
  · simp [hlo, hlo.not_ge]
  · by_cases hw : j - lo < w
    · simp [hlo, hw, show lo ≤ j by omega, show j < lo + w by omega]
    · simp [hlo, hw, show ¬ j < lo + w by omega]

/-- The mask of a field inside the word. -/
theorem getLsbD_fieldMask {p k j : Nat} (hj : j < 64) (hk : k < 64) :
    ((BitVec.allOnes 64 >>> (63 - k)) <<< p).getLsbD j = decide (p ≤ j ∧ j < p + (k + 1)) := by
  rw [BitVec.getLsbD_shiftLeft, BitVec.getLsbD_ushiftRight, BitVec.getLsbD_allOnes, Bool.eq_iff_iff]
  simp only [Bool.and_eq_true, Bool.not_eq_true', decide_eq_true_eq, decide_eq_false_iff_not]
  omega
/-- A field replaced is a mask cleared and filled. -/
theorem aluBfi_eq (d a : Word) (i : BitVec 32) :
    aluBfi d a i =
      let m : Word := (BitVec.allOnes 64 >>> (63 - i.toNat / 64 % 64)) <<< (i.toNat % 64)
      (d &&& ~~~m) ||| ((a <<< (i.toNat % 64)) &&& m) := by
  refine BitVec.eq_of_getLsbD_eq fun j hj => ?_
  rw [aluBfi, BitVec.getLsbD_ofNat, testBit_setBits, BitVec.getLsbD_or, BitVec.getLsbD_and, BitVec.getLsbD_not, BitVec.getLsbD_and,
    getLsbD_fieldMask hj (Nat.mod_lt _ (by decide)), BitVec.getLsbD_shiftLeft, bfPos, bfWidth, decide_eq_true hj]
  by_cases hfield : i.toNat % 64 ≤ j ∧ j < i.toNat % 64 + (i.toNat / 64 % 64 + 1)
  · simp [hfield, BitVec.getLsbD]
  · simp [hfield, BitVec.getLsbD]

/-! ### The rows of fields and extensions -/

/-- `op xd, xa, imm` on the old xd, a and the immediate. -/
def fieldI (cls : Cls) (fn : Word → Word → BitVec 32 → Word) (f : IDA) (s : State) : Out :=
  s.issue f.h none .u [(f.d, cls), (f.a, .rx)] false false fun s _ => .ok (s.wx f.d.num (fn (s.rx f.d.num) (s.rx f.a.num) f.imm))
/-- A row whose function is the model's for the immediate at hand. -/
theorem field_row {mk : IDA → Instr} {ex : IDA → State → Out} {cls : Cls} {fn fn' : Word → Word → BitVec 32 → Word} {f : IDA} (s : State)
    (he : exec (mk f) s = ex f s) (hx : ex f s = fieldI cls fn f s) (hfn : ∀ d a, fn d a f.imm = fn' d a f.imm) :
    exec (mk f) s = fieldI cls fn' f s := by
  rw [he, hx, fieldI, fieldI]
  simp only [hfn]

theorem bfWidth_pos (i : BitVec 32) : 1 ≤ bfWidth i := Nat.le_add_left ..
theorem bfWidth_le (i : BitVec 32) : bfWidth i ≤ 64 := by unfold bfWidth; omega
/-- The width of an extension that the decoder admits. -/
theorem extImm_width {i : BitVec 32} (h : extImm i = true) : 1 ≤ i.toNat % 128 ∧ i.toNat % 128 ≤ 64 := by
  simp only [extImm, Bool.and_eq_true, decide_eq_true_eq] at h
  omega

/-- Every field instruction that is well formed is the form with the function of its row. -/
theorem exec_fieldRows : ∀ row ∈ fieldRows, ∀ (s : State) (f : IDA), (row.1 f).wf = true → exec (row.1 f) s = fieldI row.2.1 row.2.2 f s := by
  have hext {f : IDA} (h : (f.wf && extImm f.imm) = true) := extImm_width (Bool.and_elim_right h)
  unfold fieldRows
  refine List.forall_mem_cons.2 ⟨fun s f _ => field_row (ex := execBfx) (fn := fun _ a i => aluBfx a i) s rfl rfl fun _ a =>
    sextLow_eq_shifts (bfWidth_pos f.imm) (bfWidth_le f.imm) (a >>> bfPos f.imm), ?_⟩
  refine List.forall_mem_cons.2 ⟨fun s f _ => field_row (ex := execBfxu) (fn := fun _ a i => aluBfxu a i) s rfl rfl fun _ a =>
    zextLow_eq_shifts (bfWidth_le f.imm) (a >>> bfPos f.imm), ?_⟩
  refine List.forall_mem_cons.2 ⟨fun s f _ => field_row (ex := execBfi) (fn := aluBfi) s rfl rfl fun d a => aluBfi_eq d a f.imm, ?_⟩
  refine List.forall_mem_cons.2 ⟨fun s f h => field_row (ex := execSext) (fn := fun _ a i => sextLow (i.toNat % 128) a) s rfl rfl fun _ a =>
    sextLow_eq_shifts (hext h).1 (hext h).2 a, ?_⟩
  refine List.forall_mem_cons.2 ⟨fun s f h => field_row (ex := execZext) (fn := fun _ a i => zextLow (i.toNat % 128) a) s rfl rfl fun _ a =>
    zextLow_eq_shifts (hext h).2 a, ?_⟩
  exact List.forall_mem_nil _

end Sys2Proof.Machine

namespace Sys2Proof.Proofs
open Sys2Proof Sys2Proof.Machine Sys2Proof.Claims

theorem unaryAndMoveResults : UnaryAndMoveResults := by
  refine ⟨fun s f hd row hrow => ?_, fun s f hd => ?_⟩
  · rw [exec_unaryRows row hrow, unS, issue_does hd, conclude_ok, State.passWait_rx]
  · rw [show exec (.nop f) s = execNop f s from rfl, execNop, issue_does hd, conclude_ok]

theorem fieldConstantAndAddressResults : FieldConstantAndAddressResults := by
  refine ⟨fun s f row hrow hwf hd => ?_, fun s f hd => ?_, fun s f hd => ?_, fun s f hd => ?_⟩
  · rw [exec_fieldRows row hrow s f hwf, fieldI, issue_does hd, conclude_ok, passWait_none]
  · rw [show exec (.li f) s = execLi f s from rfl, execLi, constI, issue_does hd, conclude_ok, passWait_none, immS]
  · rw [show exec (.lih f) s = execLih f s from rfl, execLih, constI, issue_does hd, conclude_ok, passWait_none]
  · rw [show exec (.lea f) s = execLea f s from rfl, execLea, issue_does hd, conclude_ok, passWait_none]

/-- Settles O8: every one of them writes the one value of its form, and fields are shifts and masks. -/
theorem moveFieldAndAddressResults : Obligations.MoveFieldAndAddressResults := ⟨unaryAndMoveResults, fieldConstantAndAddressResults⟩

end Sys2Proof.Proofs
end

section
/-! SUPPORT. Scalar floating point (R49, R54 to R61): the trap or the end of an instruction by its flags, and the meaning of every row. -/

namespace Sys2Proof.Machine

open Sys2Proof.Claims

variable {s : State} {h : Head} {t : Option STail} {g : Bool} {fl : Flags}

/-! ### The end of a floating-point instruction (R54, R172) -/

/-- With no raised flag enabled it completes, and its flags stand. -/
theorem State.conclude_fpDone_quiet {u next : State} (hu : u.me.r = s.me.r) (hq : noTrap s fl) :
    s.conclude h t g false (u.fpDone fl next) = .next ((next.updR (withFlags fl)).finish h t g false) := by
  have hno : u.me.r.fpTraps fl = false := by rw [hu]; exact bne_eq_false_iff_eq.2 hq
  rw [State.fpDone, hno]
  rfl
/-- With one enabled it faults, and its flags alone stand. -/
theorem State.conclude_fpDone_trap {u next : State} (hu : u.me.r = s.me.r) (hq : ¬ noTrap s fl) :
    s.conclude h t g false (u.fpDone fl next) = .next ((s.updR (withFlags fl)).takeFault { cause := 0x0D, detail := fl.setWidth 64 }) := by
  have hyes : u.me.r.fpTraps fl = true := by rw [hu]; exact bne_iff_ne.2 hq
  rw [State.fpDone, hyes]
  rfl

/-! ### The rows -/

/-- `fabs` clears bit 31, and `fneg` inverts it (R55). -/
theorem fabs_eq : (fun (_ : BitVec 16) (a : Word) => ((fpAbs a.toNat, 0) : FRes)) = fun _ a => (a.toNat % 2 ^ 31, 0) :=
  funext₂ fun _ _ => Prod.ext rfl rfl
theorem fpNeg_eq (a : Word) : fpNeg a.toNat = (a.setWidth 32 ^^^ 0x80000000#32).toNat := by
  have hsign : 0x80000000#32 = BitVec.twoPow 32 31 := by decide
  have hset : fpNeg a.toNat = setBits (a.setWidth 32).toNat 31 1 (bit (!bitAt a.toNat 31)) := by
    simp only [fpNeg, bitAt, setBits, bitsAt, BitVec.toNat_setWidth, beq_iff_eq]
    rcases Nat.mod_two_eq_zero_or_one (a.toNat / 2 ^ 31) with h | h
    all_goals
      simp only [h, bit]
      simp
      omega
  have hbit : bitAt a.toNat 31 = a.getLsbD 31 := by
    rw [← BitVec.testBit_toNat, Nat.testBit_eq_decide_div_mod_eq, bitAt, beq_eq_decide]
  refine Nat.eq_of_testBit_eq fun j => ?_
  rw [hset, testBit_setBits_one, hbit, hsign, BitVec.testBit_toNat, BitVec.testBit_toNat, BitVec.getLsbD_xor, BitVec.getLsbD_twoPow]
  by_cases hj : j = 31
  · subst hj
    simp
  · simp [hj, Ne.symm hj]
theorem fneg_eq : (fun (_ : BitVec 16) (a : Word) => ((fpNeg a.toNat, 0) : FRes)) =
    fun _ a => ((a.setWidth 32 ^^^ 0x80000000#32).toNat, 0) := funext₂ fun _ a => Prod.ext (fpNeg_eq a) rfl

theorem exec_fpBinRows : ∀ row ∈ fpBinRows, ∀ (s : State) (f : SDAB), exec (row.1 f) s = fpBin row.2 f s := by
  unfold fpBinRows
  iterate 6 refine List.forall_mem_cons.2 ⟨fun _ _ => rfl, ?_⟩
  exact List.forall_mem_nil _
theorem exec_fpTerRows : ∀ row ∈ fpTerRows, ∀ (s : State) (f : SDAB), exec (row.1 f) s = fpTer row.2 f s := by
  unfold fpTerRows
  iterate 2 refine List.forall_mem_cons.2 ⟨fun _ _ => rfl, ?_⟩
  exact List.forall_mem_nil _
/-- The model's function of one source may stand in other terms. -/
theorem fpUn_row {mk : SDA → Instr} {fn fn' : BitVec 16 → Word → FRes} (he : ∀ s f, exec (mk f) s = fpUn fn f s) (h : fn = fn') (s : State)
    (f : SDA) : exec (mk f) s = fpUn fn' f s := h ▸ he s f
theorem exec_fpUnRows : ∀ row ∈ fpUnRows, ∀ (s : State) (f : SDA), exec (row.1 f) s = fpUn row.2 f s := by
  unfold fpUnRows
  refine List.forall_mem_cons.2 ⟨fun _ _ => rfl, ?_⟩
  refine List.forall_mem_cons.2 ⟨fpUn_row (mk := .fabs) (fn := fun _ a => (fpAbs a.toNat, 0)) (fun _ _ => rfl) fabs_eq, ?_⟩
  refine List.forall_mem_cons.2 ⟨fpUn_row (mk := .fneg) (fn := fun _ a => (fpNeg a.toNat, 0)) (fun _ _ => rfl) fneg_eq, ?_⟩
  iterate 8 refine List.forall_mem_cons.2 ⟨fun _ _ => rfl, ?_⟩
  exact List.forall_mem_nil _
theorem exec_fpNarrowRows : ∀ row ∈ fpNarrowRows, ∀ (s : State) (f : SDA), exec (row.1 f) s = fpNarrow row.2 f s := by
  unfold fpNarrowRows
  iterate 3 refine List.forall_mem_cons.2 ⟨fun _ _ => rfl, ?_⟩
  exact List.forall_mem_nil _
theorem exec_fpCompareRows : ∀ row ∈ fpCompareRows, ∀ (s : State) (f : XAB), exec (row.1 f) s = fpCompare row.2.1 row.2.2 f s := by
  unfold fpCompareRows
  iterate 4 refine List.forall_mem_cons.2 ⟨fun _ _ => rfl, ?_⟩
  exact List.forall_mem_nil _

/-! ### What an instruction whose guard holds ends in -/

theorem fpBin_does {f : SDAB} (hd : s.does f.h (some f.t) .u [(f.d, .wx), (f.a, .rx), (f.b, .rx)] = true) (fn : RM → Nat → Nat → FRes) :
    fpBin fn f s = s.conclude f.h (some f.t) true false
      ((s.passWait (some f.t)).fpWrite f.d (fn (arnd s.me.r.rmode) (s.rf f.a) (s.rf f.b))) := by
  rw [fpBin, issue_does hd, State.passWait_me_r, State.passWait_rf, State.passWait_rf]
theorem fpTer_does {f : SDAB} (hd : s.does f.h (some f.t) .u [(f.d, .rx), (f.a, .rx), (f.b, .rx)] = true) (fn : RM → Nat → Nat → Nat → FRes) :
    fpTer fn f s = s.conclude f.h (some f.t) true false
      ((s.passWait (some f.t)).fpWrite f.d (fn (arnd s.me.r.rmode) (s.rf f.a) (s.rf f.b) (s.rf f.d))) := by
  rw [fpTer, issue_does hd, State.passWait_me_r, State.passWait_rf, State.passWait_rf, State.passWait_rf]
theorem fpUn_does {f : SDA} (hd : s.does f.h (some f.t) .u [(f.d, .wx), (f.a, .rx)] = true) (fn : BitVec 16 → Word → FRes) :
    fpUn fn f s = s.conclude f.h (some f.t) true false ((s.passWait (some f.t)).fpWrite f.d (fn s.me.r.rmode (s.rx f.a.num))) := by
  rw [fpUn, issue_does hd, State.passWait_me_r, State.passWait_rx]
/-- A narrowing conversion steps the generator, and no open vector instruction holds it. -/
theorem fpNarrow_does {f : SDA} (hd : s.does f.h (some f.t) .u [(f.d, .wx), (f.a, .rx)] = true) (hv : s.myTile.vecOpen s.curCtx = false)
    (fmt : Fmt) :
    let r := cvtSR fmt s.me.r.rmode (satOf s.me.r.rmode) (read32 (s.rf f.a)) s.me.r.srstate
    fpNarrow fmt f s = s.conclude f.h (some f.t) true false ((s.passWait (some f.t)).fpDone r.2.2
      (((s.passWait (some f.t)).wx f.d.num (BitVec.ofNat 64 r.2.1)).updR fun q => { q with srstate := r.1 })) := by
  have hopen : (s.passWait (some f.t)).myTile.vecOpen s.curCtx = false := by rw [Tile.vecOpen, State.passWait_vq]; exact hv
  dsimp only
  rw [fpNarrow, issue_does hd, State.passWait_me_r, State.passWait_rf, State.passWait_curCtx, hopen]
  dsimp only
  rw [Bool.and_false]
  rfl
/-- A compare raises its flags with a true guard only. -/
theorem fpCompare_runs {f : XAB} (hr : s.runs f.h none .u [(f.a, .rx), (f.b, .rx)] = true) (quiet : Bool) (test : FVal → FVal → Bool) :
    let a := read32 (s.rf f.a)
    let b := read32 (s.rf f.b)
    fpCompare quiet test f s = s.conclude f.h none (s.guard f.h) false
      (s.fpDone (if s.guard f.h then compareFlags quiet a b else 0) (s.combine f.x (s.guard f.h) (test a b))) := by
  dsimp only
  rw [fpCompare, issue_runs hr (Bool.or_true _), passWait_none]
  cases s.guard f.h <;> rfl

end Sys2Proof.Machine

namespace Sys2Proof.Proofs
open Sys2Proof Sys2Proof.Machine Sys2Proof.Claims

theorem floatingPointValues : FloatingPointValues := by
  refine ⟨fun s f hd row hrow hq => ?_, fun s f hd row hrow hq => ?_, fun s f hd row hrow hq => ?_, fun s f hd hvec row hrow hq => ?_,
    fun s f hr row hrow hq => ?_⟩
  · rw [exec_fpBinRows row hrow, fpBin_does hd]
    exact State.conclude_fpDone_quiet (State.passWait_me_r ..) hq
  · rw [exec_fpTerRows row hrow, fpTer_does hd]
    exact State.conclude_fpDone_quiet (State.passWait_me_r ..) hq
  · rw [exec_fpUnRows row hrow, fpUn_does hd]
    exact State.conclude_fpDone_quiet (State.passWait_me_r ..) hq
  · rw [exec_fpNarrowRows row hrow, fpNarrow_does hd hvec]
    exact State.conclude_fpDone_quiet (State.passWait_me_r ..) hq
  · rw [exec_fpCompareRows row hrow, fpCompare_runs hr]
    exact State.conclude_fpDone_quiet rfl hq

theorem floatingPointTrap : FloatingPointTrap := by
  refine ⟨fun s f hd row hrow hq => ?_, fun s f hd row hrow hq => ?_, fun s f hd row hrow hq => ?_, fun s f hr row hrow hq => ?_⟩
  · rw [exec_fpBinRows row hrow, fpBin_does hd]
    exact State.conclude_fpDone_trap (State.passWait_me_r ..) hq
  · rw [exec_fpUnRows row hrow, fpUn_does hd]
    exact State.conclude_fpDone_trap (State.passWait_me_r ..) hq
  · rw [exec_fpTerRows row hrow, fpTer_does hd]
    exact State.conclude_fpDone_trap (State.passWait_me_r ..) hq
  · rw [exec_fpCompareRows row hrow, fpCompare_runs hr]
    exact State.conclude_fpDone_trap rfl hq

/-- Settles O10: each of them ends in its result and its flags, and whether one of these is enabled decides between the result and the trap. -/
theorem floatingPointResults : Obligations.FloatingPointResults := ⟨floatingPointValues, floatingPointTrap⟩

end Sys2Proof.Proofs
end

section
/-! SUPPORT. Special registers (R64, R185, R337): the levels of Tables 7 and 8, and what a write leaves in a context's own registers. -/

namespace Sys2Proof.Machine

open Sys2Proof.Claims

/-! ### Levels -/

theorem readLevel_eq (n : Nat) : readLevel n = mfsLevel n := by
  unfold readLevel mfsLevel
  simp only [Bool.or_eq_true, decide_eq_true_eq]
theorem writeLevel_eq (n : Nat) : writeLevel n = mtsLevel n := by
  unfold writeLevel mtsLevel
  simp only [Bool.or_eq_true, decide_eq_true_eq, or_assoc]
  by_cases hm : n = 0x47 ∨ n = 0x48
  · rw [if_pos hm, if_pos (by omega : n = 0x47 ∨ n = 0x48 ∨ 0x60 ≤ n)]
  · by_cases hlow : n < 0x60
    · rw [if_neg hm, if_pos hlow, if_neg (by omega : ¬ (n = 0x47 ∨ n = 0x48 ∨ 0x60 ≤ n))]
    · rw [if_neg hm, if_neg hlow, if_pos (by omega : n = 0x47 ∨ n = 0x48 ∨ 0x60 ≤ n)]

/-! ### The registers of a context -/

/-- A value truncated to a width and read back is masked. -/
theorem setWidth_setWidth_eq_and {w : Nat} (hw : w ≤ 64) (v : Word) : (v.setWidth w).setWidth 64 = v &&& BitVec.ofNat 64 (2 ^ w - 1) := by
  have hpow : 2 ^ w ≤ 2 ^ 64 := Nat.pow_le_pow_right (by decide) hw
  have hmask : (2 ^ w - 1) % 2 ^ 64 = 2 ^ w - 1 := Nat.mod_eq_of_lt (by have := Nat.two_pow_pos w; omega)
  have hlow : v.toNat % 2 ^ w < 2 ^ 64 := (Nat.mod_lt _ (Nat.two_pow_pos w)).trans_le hpow
  apply BitVec.eq_of_toNat_eq
  rw [BitVec.toNat_setWidth, BitVec.toNat_setWidth, Nat.mod_eq_of_lt hlow, BitVec.toNat_and, BitVec.toNat_ofNat, hmask,
    Nat.and_two_pow_sub_one_eq_mod]
/-- `rmode` has nine bits in use. -/
theorem rmode_stored (v : Word) : (BitVec.ofNat 16 (v.toNat % 512)).setWidth 64 = v &&& 0x1FF := by
  have hnine : (BitVec.ofNat 16 (v.toNat % 512)).setWidth 64 = (v.setWidth 9).setWidth 64 := by
    apply BitVec.eq_of_toNat_eq
    simp
    omega
  rw [hnine, setWidth_setWidth_eq_and (by decide)]
  rfl
/-- The vector length is clamped, and kept for 0 (R185). -/
theorem vl_stored (r : Regs) (v : Word) :
    (r.setVl v.toNat).vl.setWidth 64 = if v = 0 then r.vl.setWidth 64 else if 32 < v.toNat then 32 else v := by
  have hzero : v.toNat = 0 ↔ v = 0 := ⟨fun h => BitVec.eq_of_toNat_eq h, fun h => h ▸ rfl⟩
  simp only [Regs.setVl_eq, hzero]
  split
  · rfl
  · split
    · rfl
    · apply BitVec.eq_of_toNat_eq
      simp
      omega

/-- A write of a special register of the context that leaves its other registers of this kind alone. -/
structure WritesOwn (n : Nat) (get : Regs → Word) (v : Word) (f : Regs → Regs) : Prop where
  writes : ∀ s : State, s.setSreg n v = s.updR f
  value : ∀ r, get (f r) = stored n (get r) v
  others : ∀ r, ∀ other ∈ ownRegisters, other.1 ≠ n → other.2 (f r) = other.2 r

theorem sreg_ownRegisters : ∀ row ∈ ownRegisters, ∀ s : State, s.sreg row.1 = row.2 s.me.r := by
  unfold ownRegisters
  iterate 10 refine List.forall_mem_cons.2 ⟨fun _ => rfl, ?_⟩
  exact List.forall_mem_nil _
theorem setSreg_ownRegisters (v : Word) : ∀ row ∈ ownRegisters, ∃ f, WritesOwn row.1 row.2 v f := by
  have hlow {w : Nat} (hw : w ≤ 64) := setWidth_setWidth_eq_and hw v
  unfold ownRegisters
  refine List.forall_mem_cons.2 ⟨⟨fun r => { r with ln := v }, fun _ => rfl, fun _ => rfl, fun _ => by simp [ownRegisters]⟩, ?_⟩
  refine List.forall_mem_cons.2 ⟨⟨fun r => { r with lc := v.setWidth 32 }, fun _ => rfl,
    fun _ => hlow (w := 32) (by decide), fun _ => by simp [ownRegisters]⟩, ?_⟩
  refine List.forall_mem_cons.2 ⟨⟨fun r => { r with slim := v }, fun _ => rfl, fun _ => rfl, fun _ => by simp [ownRegisters]⟩, ?_⟩
  refine List.forall_mem_cons.2 ⟨⟨fun r => { r with fflags := v.setWidth 5 }, fun _ => rfl,
    fun _ => hlow (w := 5) (by decide), fun _ => by simp [ownRegisters]⟩, ?_⟩
  refine List.forall_mem_cons.2 ⟨⟨fun r => { r with fenable := v.setWidth 5 }, fun _ => rfl,
    fun _ => hlow (w := 5) (by decide), fun _ => by simp [ownRegisters]⟩, ?_⟩
  refine List.forall_mem_cons.2 ⟨⟨fun r => { r with ire := v }, fun _ => rfl, fun _ => rfl, fun _ => by simp [ownRegisters]⟩, ?_⟩
  refine List.forall_mem_cons.2 ⟨⟨fun r => { r with seq := v.setWidth 20 }, fun _ => rfl,
    fun _ => hlow (w := 20) (by decide), fun _ => by simp [ownRegisters]⟩, ?_⟩
  refine List.forall_mem_cons.2 ⟨⟨(·.setVl v.toNat), fun _ => rfl,
    fun r => vl_stored r v, fun _ => by simp [ownRegisters, Regs.setVl_eq]⟩, ?_⟩
  refine List.forall_mem_cons.2 ⟨⟨fun r => { r with rmode := BitVec.ofNat 16 (v.toNat % 512) }, fun _ => rfl,
    fun _ => rmode_stored v, fun _ => by simp [ownRegisters]⟩, ?_⟩
  refine List.forall_mem_cons.2 ⟨⟨fun r => { r with srstate := if v = 0 then 1 else v }, fun _ => rfl,
    fun _ => rfl, fun _ => by simp [ownRegisters]⟩, ?_⟩
  exact List.forall_mem_nil _

end Sys2Proof.Machine

namespace Sys2Proof.Proofs
open Sys2Proof Sys2Proof.Machine Sys2Proof.Claims

theorem specialRegisterMoves : SpecialRegisterMoves := by
  refine ⟨fun s f hd hheld => ?_, fun s f hd hheld => ?_, fun s f hl => ?_, fun s f hl => ?_⟩
  · rw [show exec (.mfs f) s = execMfs f s from rfl, execMfs, readLevel_eq, issue_does hd, passWait_none, if_neg (by simp [hheld]), conclude_ok]
  · rw [show exec (.mts f) s = execMts f s from rfl, execMts, writeLevel_eq, issue_does hd, passWait_none, if_neg (by simp [hheld]), conclude_ok]
  · rw [show exec (.mfs f) s = execMfs f s from rfl, execMfs, readLevel_eq, issue_below hl]
  · rw [show exec (.mts f) s = execMts f s from rfl, execMts, writeLevel_eq, issue_below hl]

theorem specialRegisterReadsBack : SpecialRegisterReadsBack := by
  intro s v row hrow
  obtain ⟨f, hwrites, hvalue, hothers⟩ := setSreg_ownRegisters v row hrow
  have hregs : (s.setSreg row.1 v).me.r = f s.me.r := by rw [hwrites, State.me_updR]
  refine ⟨?_, sreg_ownRegisters row hrow s, fun other ho hne => ?_, fun k c hne => ?_⟩
  · rw [sreg_ownRegisters row hrow, hregs, hvalue]
  · rw [hregs, hothers _ other ho hne]
  · rw [hwrites, State.updR, s.ctx_upd_other _ fun h => hne (Prod.ext h.1 h.2)]

/-- Settles O12: the levels are those of the tables, and a write of one of the context's own registers is an update of that register alone. -/
theorem specialRegisters : Obligations.SpecialRegisters := ⟨specialRegisterMoves, specialRegisterReadsBack⟩

end Sys2Proof.Proofs
end

section
/-! SUPPORT. `launch` and `join` (R68, R69, R311): the checks before a push and before a step, and the step at the home slice. -/

namespace Sys2Proof.Machine

open Sys2Proof.Claims

variable {s s1 u : State}

/-! ### An update after an update -/

@[simp] theorem SMap.set_set {α : Type} (m : SMap α) (k : Nat) (v w : α) : (m.set k v).set k w = m.set k w := by
  induction m with
  | nil => simp [SMap.set]
  | cons e r ih =>
    obtain ⟨j, x⟩ := e
    by_cases hk : k = j
    · simp [SMap.set, hk]
    · by_cases hl : k < j
      · simp [SMap.set, hk, hl]
      · simp [SMap.set, hk, hl, ih]
theorem State.setTile_setTile (s : State) (k : Nat) (t t' : Tile) : (s.setTile k t).setTile k t' = s.setTile k t' := by
  simp [State.setTile]
/-- Two updates of what the moving context holds of its scheduling are one. -/
theorem State.updC_updC (s : State) (f g : Sched → Sched) : (s.updC f).updC g = s.updC fun c => g (f c) := by
  have hme : (s.updC f).me = { s.me with c := f s.me.c } := s.me_updC f
  change (s.updC f).setTile s.cur { (s.updC f).tile s.cur with
    ctxs := ((s.updC f).tile s.cur).ctxs.set s.curCtx { (s.updC f).me with c := g (s.updC f).me.c } } = _
  rw [hme]
  simp only [State.updC, State.upd, State.updCtx, State.setCtx, State.updTile, State.setTile_setTile, State.tile_setTile,
    SMap.set_set]
  rfl

/-! ### What an instruction finds before its access -/

theorem State.isFresh_cases (hf : s.isFresh = true) : s.me.c.phase = .fresh ∨ s.me.c.phase = .passed := by
  simpa [State.isFresh] using hf
theorem State.resumed_fresh (hf : s.isFresh = true) (fin : BitVec 128 → State) : s.resumed fin = none := by
  rcases State.isFresh_cases hf with hp | hp <;> rw [State.resumed, hp]
theorem State.resumed_granted {v : BitVec 128} (hp : s.me.c.phase = .granted v) (fin : BitVec 128 → State) :
    s.resumed fin = some (.ok (fin v)) := by
  rw [State.resumed, hp]
/-- An access on no watchpoint is not stopped. -/
theorem State.watched_unmet {sp off n : Nat} {rd wr : Bool} (h : s.myTile.watchAt s.curCtx sp off n rd wr = none) :
    s.watched sp off n rd wr = none := by
  rw [State.watched, h]
  exact ite_self _
/-- An address that is aligned and inside its space passes. -/
theorem spaceCheck_passes {ea : Word} {n align limit : Nat} (ha : ea.toNat % align = 0) (hl : ea.toNat + n ≤ limit) :
    spaceCheck ea n align limit = none := by
  rw [spaceCheck, if_neg (not_not.2 ha), if_neg (by omega)]

/-! ### launch (R68, R311) -/

/-- What `launch` does with a slug whose address passes its checks: the galley's check, the wait for everything earlier, the push. -/
def State.launched (s s1 : State) (a : Word) (g : Nat) : Res :=
  let full := (s.readGalley (ownerOf s.cur) (formeOf s.cur) g).full
  let pushed := (s1.pushTo (ownerOf s.cur) (formeOf s.cur) g (pushOf s a full)).updY Sync.ordered
  if !s.pushable (ownerOf s.cur) (formeOf s.cur) g then .trapBy (s1.walked s.cur) { cause := 0x06, detail := BitVec.ofNat 64 g }
  else if s.acqHeld || !s.allQuiet then .stall
  else if s.silent s.cur then .ok (s1.updY Sync.ordered)
  else if full then pushed.armWait else .ok pushed

theorem exec_launch_at {f : SAB} {pa slot : Nat} {d : Dest} {r : BitVec 128} {w : Bool}
    (hd : s.does f.h (some f.t) .u [(f.a, .rx), (f.b, .rx)] = true) (hq : f.t.wen = false) (hf : s.isFresh = true)
    (ha : (s.rx f.a.num).toNat % 64 = 0) (hl : (s.rx f.a.num).toNat + 64 ≤ 2 ^ 57)
    (hr : s.reach (s.rx f.a.num).toNat true true = .at_ pa slot d r w s1) :
    exec (.launch f) s = s.conclude f.h (some f.t) true false (s.launched s1 (s.rx f.a.num) (s.rx f.b.num).toNat) := by
  rw [show exec (.launch f) s = execLaunch f s from rfl, execLaunch, issue_does hd, passWait_bare hq]
  simp only [State.resumed_fresh hf, show spaceCheck (s.rx f.a.num) 64 64 vaLimit = none from spaceCheck_passes ha hl, hr]
  rfl

variable {a : Word} {g : Nat}

theorem State.pushable_iff {o f : Nat} : s.pushable o f g = true ↔ g < 256 ∧ (s.readGalley o f g).kind ≠ 0 := by
  simp [State.pushable]
/-- A galley that is not configured. -/
theorem State.launched_unpushable (h : 256 ≤ g ∨ (s.readGalley (ownerOf s.cur) (formeOf s.cur) g).kind = 0) :
    s.launched s1 a g = .trapBy (s1.walked s.cur) { cause := 0x06, detail := BitVec.ofNat 64 g } := by
  have hno : ¬ s.pushable (ownerOf s.cur) (formeOf s.cur) g = true := fun hp => by
    obtain ⟨hlt, hkind⟩ := State.pushable_iff.1 hp
    exact h.elim (fun hge => absurd hge hlt.not_ge) hkind
  rw [State.launched, if_pos (by simp [hno])]
/-- One that is, with everything earlier performed: the second tile of a checked pair is silent, and otherwise the slug is pushed. -/
theorem State.launched_free (hg : g < 256) (hk : (s.readGalley (ownerOf s.cur) (formeOf s.cur) g).kind ≠ 0) (hfree : s.free_ = true) :
    s.launched s1 a g =
      let full := (s.readGalley (ownerOf s.cur) (formeOf s.cur) g).full
      let pushed := (s1.pushTo (ownerOf s.cur) (formeOf s.cur) g (pushOf s a full)).updY Sync.ordered
      if s.silent s.cur then .ok (s1.updY Sync.ordered) else if full then pushed.armWait else .ok pushed := by
  have hp : s.pushable (ownerOf s.cur) (formeOf s.cur) g = true := State.pushable_iff.2 ⟨hg, hk⟩
  have hnone : ¬ (s.acqHeld || !s.allQuiet) = true := by
    simp only [State.free_, Bool.and_eq_true, Bool.not_eq_true'] at hfree
    simp [hfree]
  rw [State.launched, if_neg (by simp [hp]), if_neg hnone]
/-- The instruction that waits for the room. -/
theorem conclude_armWait (s u : State) (h : Head) (t : Option STail) (g late : Bool) : s.conclude h t g late u.armWait = .next (armed u 0) := by
  rw [State.armWait, conclude_wait, State.updC_updC]
  rfl

/-! ### join as its context sees it (R69) -/

/-- The access that carries the step to the count of a slug at `va`. -/
def joinReq (va : Word) (pa slot : Nat) (d : Dest) (r : BitVec 128) (w : Bool) : Req2 :=
  { dest := d, addr := pa + 0x18, va := va, slot := slot, op := .join, ret := .gate, route := r, isLoad := true, isStore := true, order := 2,
    scope := 2, watched := w }
theorem State.sendJoin_at {va : Word} {pa slot : Nat} {d : Dest} {r : BitVec 128} {w : Bool} (ha : va.toNat % 64 = 0) (hl : va.toNat + 64 ≤ 2 ^ 57)
    (hr : s.reach va.toNat true true = .at_ pa slot d r w s1) (hw : s.myTile.watchAt s.curCtx 2 (va + 0x18).toNat 4 true true = none) :
    s.sendJoin va = s1.sendWait (joinReq va pa slot d r w) := by
  have hspace : spaceCheck va 64 64 vaLimit = none := spaceCheck_passes ha hl
  have hunwatched : s.watched2 (va + 0x18) (joinReq va pa slot d r w) = none := State.watched_unmet hw
  rw [joinReq] at hunwatched
  rw [State.sendJoin, hspace]
  dsimp only
  rw [hr]
  dsimp only
  rw [hunwatched]
  rfl
theorem exec_join_at {f : SDA} {pa slot : Nat} {d : Dest} {r : BitVec 128} {w : Bool}
    (hd : s.does f.h (some f.t) .u [(f.d, .wx), (f.a, .rx)] = true) (hq : f.t.wen = false) (hf : s.isFresh = true) (hacq : s.acqHeld = false)
    (hsend : s.sendJoin (s.rx f.a.num) = s1.sendWait (joinReq (s.rx f.a.num) pa slot d r w)) :
    exec (.join f) s = .next (waits s1 (joinReq (s.rx f.a.num) pa slot d r w)) := by
  rw [show exec (.join f) s = execJoin f s from rfl, execJoin, issue_does hd, passWait_bare hq, hacq, hsend]
  rcases State.isFresh_cases hf with hp | hp
  · rw [hp]
    rfl
  · rw [hp]
    rfl
/-- The answer: the count, or the galley that could not be pushed to. -/
theorem exec_join_granted {f : SDA} {v : BitVec 128} (hd : s.does f.h (some f.t) .u [(f.d, .wx), (f.a, .rx)] = true) (hq : f.t.wen = false)
    (hp : s.me.c.phase = .granted v) :
    exec (.join f) s = s.conclude f.h (some f.t) true false
      (if v.getLsbD 32 then .trap { cause := 0x06, detail := BitVec.ofNat 64 (v.toNat / 2 ^ 33 % 2 ^ 16) }
       else .ok (s.wx f.d.num (BitVec.ofNat 64 (v.toNat % 2 ^ 32)))) := by
  rw [show exec (.join f) s = execJoin f s from rfl, execJoin, issue_does hd, passWait_bare hq, hp]
  dsimp only
  rw [unpushedGalley]
  cases v.getLsbD 32 <;> rfl

/-! ### The step at the home slice (R69) -/

/-- An observation of the tiles does not see the write of an access. -/
theorem SeesNoCopies.setUnder {α : Type} {p : State → α} (hp : SeesNoCopies p) (s : State) (slot pa n v : Nat) :
    p (s.setUnder slot pa n v) = p s :=
  (hp.backing (s.rekey slot pa n) _ _ _ _).trans (hp.rekey ..)
theorem SeesNoCopies.flightWrite {α : Type} {p : State → α} (hp : SeesNoCopies p) (s : State) (f : Flight) (n v : Nat) :
    p (s.flightWrite f n v) = p s := by
  unfold State.flightWrite
  split
  · exact hp.setUnder ..
  · exact (hp.setUnder ..).trans (hp.noteUnit ..)
theorem State.homeMark_tile (s : State) (f : Flight) (l : List Mark) (k : Nat) : (s.homeMark f l).tile k = s.tile k := by
  unfold State.homeMark
  dsimp only
  split <;> rfl

/-- The reply of an access that its instruction waits for, on an unchecked tile. -/
theorem State.answer_done {f : Flight} (v : BitVec 128) (seen : List Mark) (hc : (u.tile f.src).checked = false) (hret : f.ret = .gate) :
    State.answer f (.done u v seen) = answered u f.id true 0 v seen := by
  have halone : u.partner f = none := by rw [State.partner, hc]; rfl
  rw [State.answer, State.respond, halone]
  dsimp only
  rw [hret]
  rfl

/-- The state in which a step has taken one off the count. -/
def State.countTaken (s : State) (f : Flight) : State :=
  (s.flightWrite f 4 (s.memReadN f.slot f.addr 4 - 1)).homeMark f ((s.slice (homeSlice f.addr)).marksAt f.addr 4)
theorem State.countTaken_tile (s : State) (f : Flight) (k : Nat) : (s.countTaken f).tile k = s.tile k := by
  rw [State.countTaken, State.homeMark_tile]
  exact (seesNoCopies_tile k).flightWrite ..

/-- The step on a count that lies in plain memory. -/
theorem State.applyJoin_memory {f : Flight} (hwatched : f.watched = false) (hpush : s.pushAt f.owner f.addr = none) (hcell : s.cellAt f.addr = none)
    (hpoison : s.memPoisoned f.addr 4 = false) :
    let c := s.memReadN f.slot f.addr 4
    let seen := (s.slice (homeSlice f.addr)).marksAt f.addr 4
    let u := s.countTaken f
    let g := u.memReadN f.slot (f.addr + 4) 2
    s.applyJoin f =
      if c = 0 then .done s (joinValue 0 none) seen
      else if c ≠ 1 then .done u (joinValue c none) seen
      else if u.pushable f.owner (formeOf f.src) g then .done (u.pushTo f.owner (formeOf f.src) g f.joinPush) (joinValue 1 none) seen
      else .done u (joinValue 1 (some g)) seen := by
  have hrace : s.raceCheck f = .ok s := by rw [State.raceCheck, hwatched]; rfl
  dsimp only
  rw [State.applyJoin, hpush, hcell, hrace]
  dsimp only
  rw [hpoison]
  rfl

/-- A step whose answer is formed in `u`, which has the tiles of `s`. -/
theorem exec_homeSliceApply_join {n h : Nat} {f : Flight} {v : BitVec 128} {seen : List Mark} (hhome : atHome s n f) (hdest : f.dest = .slice h)
    (hop : f.op = .join) (hret : f.ret = .gate) (htile : u.tile f.src = s.tile f.src) (hj : s.applyJoin f = .done u v seen) :
    exec (.homeSliceApply n) s = .next (answered u n true 0 v seen) := by
  obtain ⟨hdelivered, hid, hunchecked, -⟩ := hhome
  have hexec : exec (.homeSliceApply n) s = .next (State.answer f (s.applyJoin f)) := by
    rw [show exec (.homeSliceApply n) s = execHomeSliceApply n s from rfl, execHomeSliceApply, hdelivered]
    dsimp only
    rw [hdest, hop]
  rw [hexec, hj, State.answer_done v seen (by rw [htile, hunchecked]) hret, hid]

/-- n bytes make a number below 2 to the power of their bits. -/
theorem Memory.readN_lt (m : Memory) (a n : Nat) : m.readN a n < 256 ^ n := by
  induction n generalizing a with
  | zero => exact Nat.one_pos
  | succ n ih =>
    have hb : (m.read a).toNat < 256 := (m.read a).isLt
    have := ih (a + 1)
    rw [Memory.readN, Nat.pow_succ]
    omega
theorem bytesNat_lt (l : List (BitVec 8)) : bytesNat l < 256 ^ l.length := by
  induction l with
  | nil => exact Nat.one_pos
  | cons b r ih =>
    have hb : b.toNat < 256 := b.isLt
    rw [bytesNat, List.length_cons, Nat.pow_succ]
    omega
theorem State.memReadN_lt (s : State) (slot pa n : Nat) : s.memReadN slot pa n < 256 ^ n := by
  rw [State.memReadN]
  split
  · exact Memory.readN_lt ..
  · next hkeys =>
    have hlen : (s.memBytes slot pa n).length = n := by rw [State.memBytes, if_neg hkeys, List.length_map, List.length_range]
    exact (bytesNat_lt _).trans_eq (by rw [hlen])
/-- What a join that cannot push reports: the count, the mark in bit 32, and the galley above it. -/
theorem joinValue_unpushed {g : Nat} (hg : g < 2 ^ 16) :
    (joinValue 1 (some g)).toNat % 2 ^ 32 = 1 ∧ (joinValue 1 (some g)).getLsbD 32 = true ∧
      (joinValue 1 (some g)).toNat / 2 ^ 33 % 2 ^ 16 = g := by
  have hv : (joinValue 1 (some g)).toNat = 1 + (2 ^ 32 + g * 2 ^ 33) := by
    rw [joinValue, BitVec.toNat_ofNat]
    exact Nat.mod_eq_of_lt (by omega)
  rw [← BitVec.testBit_toNat, hv, Nat.testBit_eq_decide_div_mod_eq, decide_eq_true_eq]
  omega

end Sys2Proof.Machine

namespace Sys2Proof.Proofs
open Sys2Proof Sys2Proof.Machine Sys2Proof.Claims

/-- Settles O36: an address that passes its checks leaves `launch` to its galley and `join` to its access, and the count that the step finds
decides what it does. -/
theorem launchAndJoin : Obligations.LaunchAndJoin := by
  refine ⟨fun s s1 f pa slot d r w hd hq => ⟨fun v hp => ?_, fun hf ha hl hr => ?_⟩,
    fun s s1 f pa slot d r w hd hq => ⟨fun hf hacq ha hl hr hw => ?_, fun v hp hb => ?_, fun v hp hb => ?_⟩,
    fun s n h f hhome hdest hop hret hwatched hpush hcell hpoison => ?_⟩
  · rw [show exec (.launch f) s = execLaunch f s from rfl, execLaunch, issue_does hd, passWait_bare hq, State.resumed_granted hp]
    rfl
  · have hexec := exec_launch_at hd hq hf ha hl hr
    refine ⟨fun hg hk hfree => ?_, fun hbad => ?_⟩
    · rw [State.launched_free hg hk hfree] at hexec
      refine ⟨fun hs hfull => ?_, fun hs hfull => ?_, fun hs => ?_⟩
      · rw [hexec, hs, hfull]
        rfl
      · rw [hexec, hs, hfull]
        exact conclude_armWait ..
      · rw [hexec, hs]
        rfl
    · rw [hexec, State.launched_unpushable hbad, conclude_trapBy]
  · exact exec_join_at hd hq hf hacq (State.sendJoin_at ha hl hr hw)
  · rw [exec_join_granted hd hq hp, hb]
    rfl
  · rw [exec_join_granted hd hq hp, hb]
    rfl
  · have hj := State.applyJoin_memory hwatched hpush hcell hpoison
    have htile := s.countTaken_tile f f.src
    refine ⟨fun hc => ?_, fun hc => ?_, fun hc hp => ?_, fun hc hp => ?_⟩
    · exact exec_homeSliceApply_join hhome hdest hop hret rfl (hj.trans (if_pos hc))
    · exact exec_homeSliceApply_join hhome hdest hop hret htile (hj.trans ((if_neg (by omega)).trans (if_pos (by omega))))
    · exact exec_homeSliceApply_join hhome hdest hop hret htile (hj.trans ((if_neg (by omega)).trans ((if_neg (not_not.2 hc)).trans (if_pos hp))))
    · have hno : ¬ (s.countTaken f).pushable f.owner (formeOf f.src) ((s.countTaken f).memReadN f.slot (f.addr + 4) 2) = true :=
        Bool.eq_false_iff.1 hp
      exact ⟨_, exec_homeSliceApply_join hhome hdest hop hret htile
        (hj.trans ((if_neg (by omega)).trans ((if_neg (not_not.2 hc)).trans (if_neg hno)))), joinValue_unpushed (State.memReadN_lt ..)⟩

end Sys2Proof.Proofs
end

section
/-! SUPPORT. Fences and `settle` (R107, R163 to R165): the slot that `fnc` takes and what `fwait` finds in it. -/

namespace Sys2Proof.Machine

open Sys2Proof.Claims

variable {s s1 : State}

theorem bitAt_eq_testBit (n i : Nat) : bitAt n i = n.testBit i := by
  rw [Nat.testBit_eq_decide_div_mod_eq]
  rfl
theorem bitAt_toNat {w : Nat} (x : BitVec w) (i : Nat) : bitAt x.toNat i = x.getLsbD i := bitAt_eq_testBit ..
/-- The first index at which a test holds. -/
theorem findFrom_first {p : Nat → Bool} {n k : Nat} (hn : n < k) (hp : p n = true) (hlow : ∀ i < n, p i = false) :
    findFrom p k 0 = some n := by
  rw [findFrom_zero, List.find?_range_eq_some]
  exact ⟨hp, List.mem_range.2 hn, fun i hi => by simp [hlow i hi]⟩

/-- The fence that an `fnc` leaves in its slot (R163). -/
def State.newFence (s : State) (imm : BitVec 32) : Fence :=
  { serial := s.me.y.fserial, used := true, upto := s.nextId + 1, ld := bitAt imm.toNat 2, st := bitAt imm.toNat 3, eng := bitAt imm.toNat 4,
    scope := BitVec.ofNat 2 imm.toNat, lapsed := false }
theorem exec_fnc_free {f : ID} {n : Nat} (hd : s.does f.h none .u [(f.d, .wx)] = true)
    (hn : findFrom (fun i => s.fenceFree s.cur s.curCtx (s.me.y.fences.get .reset i)) 4 0 = some n) :
    exec (.fnc f) s = completes ((({ s with nextId := s.nextId + 1 } : State).updY fun y =>
      { y with fences := y.fences.set n (s.newFence f.imm), fserial := y.fserial + 1 }).wx f.d.num
        (BitVec.ofNat 64 (s.me.y.fserial.toNat * 4 + n))) f.h none := by
  rw [show exec (.fnc f) s = execFnc f s from rfl, execFnc, issue_does hd, passWait_none, Nat.add_comm (s.me.y.fserial.toNat * 4)]
  dsimp only
  rw [hn]
  rfl

/-- The fence in the slot that an `fwait` names, and whether its token is still that fence's (R164). -/
def State.namedFence (s : State) (a : Word) : Fence := s.me.y.fences.get .reset (a.toNat % 4)
def State.tokenHeld (s : State) (a : Word) : Bool := (s.namedFence a).used && (s.namedFence a).serial.toNat == a.toNat / 4
theorem State.tokenHeld_iff {a : Word} :
    s.tokenHeld a = true ↔ (s.namedFence a).used = true ∧ (s.namedFence a).serial.toNat = a.toNat / 4 := by
  rw [State.tokenHeld, Bool.and_eq_true, beq_iff_eq]
theorem exec_fwait_at {f : SA} (hd : s.does f.h (some f.t) .u [(f.a, .rx)] = true) (hq : f.t.wen = false)
    (ha : (s.rx f.a.num).toNat < 2 ^ 32) :
    exec (.fwait f) s =
      if s.tokenHeld (s.rx f.a.num) then
        if s.fenceFree s.cur s.curCtx (s.namedFence (s.rx f.a.num)) then
          completes (s.updY fun y => y.fencePass (s.namedFence (s.rx f.a.num)) (s.taken s.cur (s.namedFence (s.rx f.a.num)).scope true))
            f.h (some f.t)
        else .next (s.updC fun c =>
          { c with run := .waiting, waitOn := .fence ((s.rx f.a.num).toNat % 4) (s.namedFence (s.rx f.a.num)).serial })
      else completes (s.updY fun y => { y with region := y.region + 1 }) f.h (some f.t) := by
  have hserial : bitsAt (s.rx f.a.num).toNat 2 30 = (s.rx f.a.num).toNat / 4 := by rw [bitsAt]; omega
  have hslot : bitsAt (s.rx f.a.num).toNat 0 2 = (s.rx f.a.num).toNat % 4 := by rw [bitsAt]; omega
  have hmine : s.tokenHeld (s.rx f.a.num) = ((s.me.y.fences.get .reset ((s.rx f.a.num).toNat % 4)).used &&
      (s.me.y.fences.get .reset ((s.rx f.a.num).toNat % 4)).serial.toNat == (s.rx f.a.num).toNat / 4) := rfl
  rw [show exec (.fwait f) s = execFwait f s from rfl, execFwait, issue_does hd, passWait_bare hq]
  simp only [hserial, hslot, ← hmine, show ¬ 2 ^ 32 ≤ (s.rx f.a.num).toNat by omega, if_false, State.namedFence]
  cases s.tokenHeld (s.rx f.a.num) with
  | false => rfl
  | true =>
    by_cases hfree : s.fenceFree s.cur s.curCtx (s.me.y.fences.get .reset ((s.rx f.a.num).toNat % 4)) = true
    · simp only [hfree]
      rfl
    · simp only [Bool.eq_false_iff.2 hfree]
      rfl

theorem exec_settle_at {f : MA} {pa slot h row : Nat} {w : Bool} (hd : s.does f.h none .u [(f.a, .rx)] = true)
    (hl : (eaOf s f.a f.m).toNat < 2 ^ 57) (hx : s.xlate s.cur .data s.me.c.level (eaOf s f.a f.m).toNat false false = .ok pa w slot s1)
    (hdest : destOf pa = some (.slice h, row)) :
    exec (.settle f) s = s.conclude f.h none true false (if s.stampedTo h then .stall else .ok s1) := by
  have hspace : spaceCheck (eaOf s f.a f.m) 1 1 vaLimit = none := spaceCheck_passes (Nat.mod_one _) hl
  rw [show exec (.settle f) s = execSettle f s from rfl, execSettle, issue_does hd, passWait_none]
  rw [show s.ea f.a f.m = eaOf s f.a f.m from rfl]
  dsimp only
  rw [hspace]
  dsimp only
  rw [hx]
  dsimp only
  rw [hdest]

end Sys2Proof.Machine

namespace Sys2Proof.Proofs
open Sys2Proof Sys2Proof.Machine Sys2Proof.Claims

/-- Settles O27: the first free slot takes the new fence, a token that is not the slot's passes at once, and `settle` looks at the home
slice of its address alone. -/
theorem fenceResults : Obligations.FenceResults := by
  refine ⟨fun s f n hd hn hfree hlow => ?_, fun s f hd hq ha => ?_, fun s s1 f pa slot h row w hd hl hx hdest => ?_⟩
  · exact ⟨s.newFence f.imm, exec_fnc_free hd (findFrom_first hn hfree fun i hi => Bool.eq_false_iff.2 (hlow i hi)), rfl, rfl, rfl,
      bitAt_toNat .., bitAt_toNat .., bitAt_toNat .., BitVec.eq_of_toNat_eq (by simp [State.newFence])⟩
  · have hexec := exec_fwait_at hd hq ha
    refine ⟨fun hno => ?_, fun hmine hfree => ?_, fun hmine hheld => ?_⟩
    · exact hexec.trans (if_neg fun hm => hno (State.tokenHeld_iff.1 hm))
    · exact hexec.trans ((if_pos (State.tokenHeld_iff.2 hmine)).trans (if_pos hfree))
    · exact hexec.trans ((if_pos (State.tokenHeld_iff.2 hmine)).trans (if_neg (Bool.eq_false_iff.1 hheld)))
  · rw [exec_settle_at hd hl hx hdest]
    cases s.stampedTo h <;> rfl

end Sys2Proof.Proofs
end

section
/-! SUPPORT. The release of a tree barrier (R110, R156, R158): what it leaves of every tile and context, and that the records and proof
copies of a closing superstep leave the owner's counter and the sequence counters alone. -/

namespace Sys2Proof.Machine

variable {s : State}

/-! ### A change of every entry -/

/-- A change of every entry that leaves the default changes what is read everywhere. -/
theorem SMap.get_map {α : Type} {d : α} {f : Nat → α → α} {k : Nat} (hd : f k d = d) (m : SMap α) :
    SMap.get d (m.map fun e => (e.1, f e.1 e.2)) k = f k (m.get d k) := by
  induction m with
  | nil => exact hd.symm
  | cons e r ih =>
    by_cases h : k = e.1
    · simp [SMap.get, ← h]
    · simpa [SMap.get, h] using ih
@[simp] theorem SMap.get_erase_same {α : Type} (d : α) (m : SMap α) (k : Nat) : (m.erase k).get d k = d := by
  induction m with
  | nil => rfl
  | cons e r ih =>
    by_cases h : k = e.1
    · simpa [SMap.erase, h] using ih
    · simpa [SMap.erase, SMap.get, h] using ih
theorem State.tile_mapTiles {f : Nat → Tile → Tile} {k : Nat} (hd : f k .reset = .reset) (s : State) :
    (s.mapTiles f).tile k = f k (s.tile k) := SMap.get_map hd s.tiles
theorem Tile.ctx_mapCtx {f : Ctx → Ctx} (hd : f .reset = .reset) (t : Tile) (c : Nat) :
    (t.mapCtx f).ctxs.get .reset c = f (t.ctxs.get .reset c) := SMap.get_map (f := fun _ => f) hd t.ctxs

/-! ### A context at a release -/

theorem Ctx.treeReleased_waiting {x : Ctx} {g : Nat} (v : BitVec 128) (h : x.waitsTree g false = true) :
    (x.treeReleased g v).c.phase = .granted v := by rw [Ctx.treeReleased, h]; rfl
theorem Ctx.treeReleased_elsewhere {x : Ctx} {g : Nat} (v : BitVec 128) (h : x.waitsTree g false = false) (hs : x.waitsTree g true = false) :
    x.treeReleased g v = x := by rw [Ctx.treeReleased, h, hs]; rfl
theorem Ctx.treeReleased_r (x : Ctx) (g : Nat) (v : BitVec 128) : (x.treeReleased g v).r = x.r := by
  unfold Ctx.treeReleased
  split <;> rfl
/-- The time that a release answers with. -/
theorem setWidth_timed (now : BitVec 64) (t : BitVec 48) : (timed now.toNat t).setWidth 64 = now := by
  apply BitVec.eq_of_toNat_eq
  have hnow : now.toNat < 2 ^ 64 := now.isLt
  have ht : t.toNat < 2 ^ 48 := t.isLt
  rw [timed, BitVec.toNat_setWidth, BitVec.toNat_ofNat]
  omega

/-! ### A tile at a release -/

/-- What a release whose arrivals did not mix both forms leaves of a tile of the tree's owner. -/
def Tile.released (g : Nat) (v : BitVec 128) (t : Tile) : Tile := (t.mapCtx fun x => x.treeReleased g v).nextGeneration g
theorem Tile.released_arrivals (g : Nat) (v : BitVec 128) (t : Tile) : (t.released g v).arrivals.get .reset g = .reset :=
  SMap.get_erase_same ..
theorem Tile.released_ctx (g : Nat) (v : BitVec 128) (t : Tile) (c : Nat) :
    (t.released g v).ctxs.get .reset c = (t.ctxs.get .reset c).treeReleased g v :=
  Tile.ctx_mapCtx (f := fun x => x.treeReleased g v) (Ctx.treeReleased_elsewhere v rfl rfl) t c
/-- A release on the tiles of owner o. -/
def State.releaseAt (s : State) (o g : Nat) (v : BitVec 128) : State := s.mapTiles fun k t => if ownerOf k = o then t.released g v else t
theorem State.tile_releaseAt (s : State) (o g : Nat) (v : BitVec 128) (k : Nat) :
    (s.releaseAt o g v).tile k = if ownerOf k = o then (s.tile k).released g v else s.tile k :=
  State.tile_mapTiles (f := fun k t => if ownerOf k = o then t.released g v else t) (by split <;> rfl) s
theorem State.ctx_releaseAt {o k : Nat} (hk : ownerOf k = o) (s : State) (g : Nat) (v : BitVec 128) (c : Nat) :
    (s.releaseAt o g v).ctx k c = (s.ctx k c).treeReleased g v := by
  rw [State.ctx, State.tile_releaseAt, if_pos hk, Tile.released_ctx]
  rfl

/-- The answer of a release: the present time, and above it that of the last arrival. -/
def State.releaseValue (s : State) (g : Nat) : BitVec 128 :=
  timed s.gtime.toNat (BitVec.ofNat 48 ((s.arrivalsOf (s.treeTiles g) g).foldl (fun a e => if a < e.1 then e.1 else a) 0))
/-- A release of arrivals without `.ss`. -/
theorem State.releaseTree_plain {g : Nat} (hss : s.allSs (s.treeTiles g) g = false)
    (hnone : ∀ k ∈ s.treeTiles g, ((s.tile k).arrivals.get .reset g).ss = 0) :
    s.releaseTree g = s.releaseAt (s.treeOwner g) g (s.releaseValue g) := by
  have hmixed : ((s.treeTiles g).any fun k => ((s.tile k).arrivals.get .reset g).ss != 0) = false :=
    List.any_eq_false.2 fun k hk => by simp [hnone k hk]
  simp only [State.releaseTree, hss, hmixed]
  rfl
/-- A release of arrivals that all used `.ss` closes the superstep first. -/
theorem State.releaseTree_close {g : Nat} (hss : s.allSs (s.treeTiles g) g = true) :
    s.releaseTree g = (s.closeStep (s.treeOwner g) g (s.treeTiles g) (s.qualifies (s.treeOwner g) g)).releaseAt (s.treeOwner g) g
      (s.releaseValue g) := by
  simp only [State.releaseTree, hss]
  rfl
/-- Where no arrival used `.ss`, they did not all use it: a tree does not close with no arrival at all. -/
theorem State.allSs_of_none {l : List Nat} {g : Nat} (hnone : ∀ k ∈ l, ((s.tile k).arrivals.get .reset g).ss = 0) : s.allSs l g = false := by
  refine Bool.eq_false_iff.2 fun h => ?_
  simp only [State.allSs, Bool.and_eq_true, List.any_map, List.any_eq_true, List.all_map, List.all_eq_true, Function.comp_apply,
    bne_iff_ne, beq_iff_eq] at h
  obtain ⟨⟨k, hk, harrived⟩, hall⟩ := h
  exact harrived ((hall k hk).trans (hnone k hk))

/-! ### The close of a superstep (R110, R158) -/

/-- Writes of module memory leave the owners. -/
theorem State.rekey_owners (s : State) (slot pa n : Nat) : (s.rekey slot pa n).owners = s.owners := by
  unfold State.rekey
  split
  · refine foldUp_keeps (p := State.owners) (fun s l => ?_) ..
    unfold State.rekeyLine
    split
    · split <;> rfl
    · rfl
  · rfl
theorem State.putUnder_owners (s : State) (slot pa : Nat) (bs : List Byte) : (s.putUnder slot pa bs).owners = s.owners := s.rekey_owners ..
theorem State.leafUsed_owners (s : State) (o va : Nat) (w : Bool) : (s.leafUsed o va w).owners = s.owners := by
  unfold State.leafUsed
  split
  · exact Keeps.ite _ s _ _ rfl rfl
  · rfl
theorem State.poolCopy_owners {o : Nat} {bs : List (List Byte)} {s t : State} {va : Nat} (e : s.poolCopy o bs va = some t) :
    t.owners = s.owners := by
  induction bs generalizing s va with
  | nil => exact congrArg State.owners (Option.some.inj e).symm
  | cons b r ih =>
    simp only [State.poolCopy] at e
    split at e
    · exact (ih e).trans ((State.putUnder_owners ..).trans (State.leafUsed_owners ..))
    · cases e
theorem State.proofRecord_owners (s : State) (o : Nat) : (s.proofRecord o).owners = s.owners := by
  unfold State.proofRecord
  dsimp only
  split
  · exact (State.putUnder_owners ..).trans (State.leafUsed_owners ..)
  · rfl
/-- The superstep counter of an owner. -/
def State.sstepOf (o : Nat) (s : State) : BitVec 64 := (s.owner o).sstep
theorem State.sstepOf_congr {s t : State} (h : t.owners = s.owners) (o : Nat) : t.sstepOf o = s.sstepOf o := by
  rw [State.sstepOf, State.owner, h]; rfl
theorem State.owner_updOwner (s : State) (o j : Nat) (f : Owner → Owner) :
    (s.updOwner o f).owner j = if j = o then f (s.owner o) else s.owner j := by
  split
  · next h => rw [h]; exact SMap.get_set_same ..
  · next h => exact SMap.get_set_other _ _ _ h
/-- A change of an owner's proof leaves the counter. -/
theorem State.sstepOf_proof (s : State) (o j : Nat) (q : Owner → Proof) :
    (s.updOwner j fun w => { w with proof := q w }).sstepOf o = s.sstepOf o := by
  rw [State.sstepOf, State.owner_updOwner]
  split
  · next h => rw [h]; rfl
  · rfl
theorem State.saveUnit_sstepOf {s t : State} {j : Nat} {u : PUnit} (e : s.saveUnit j u = some t) (o : Nat) : t.sstepOf o = s.sstepOf o := by
  unfold State.saveUnit at e
  dsimp only at e
  split at e
  · obtain ⟨s1, e1, rfl⟩ := Option.map_eq_some_iff.1 e
    exact (State.sstepOf_congr (State.proofRecord_owners ..) o).trans
      ((State.sstepOf_proof ..).trans (State.sstepOf_congr (State.poolCopy_owners e1) o))
  · exact congrArg (State.sstepOf o) (Option.some.inj e).symm
theorem State.saveUnit_getD_sstepOf (s : State) (j : Nat) (u : PUnit) (o : Nat) : ((s.saveUnit j u).getD s).sstepOf o = s.sstepOf o := by
  cases e : s.saveUnit j u with
  | none => rfl
  | some t => exact State.saveUnit_sstepOf e o
theorem State.noteUnit_sstepOf (s : State) (j kind tile unit o : Nat) : (s.noteUnit j kind tile unit).sstepOf o = s.sstepOf o := by
  unfold State.noteUnit
  dsimp only
  split
  · next e => exact (State.sstepOf_proof ..).trans (State.saveUnit_sstepOf e o)
  · split
    · exact State.sstepOf_proof ..
    · exact (State.sstepOf_proof ..).trans ((State.saveUnit_getD_sstepOf ..).trans
        ((State.sstepOf_congr (State.proofRecord_owners ..) o).trans (State.sstepOf_proof ..)))
theorem State.tileWrite_sstepOf (s : State) (k sp off n v o : Nat) : (s.tileWrite k sp off n v).sstepOf o = s.sstepOf o :=
  foldUp_keeps (p := State.sstepOf o) (fun s _ => s.noteUnit_sstepOf ..) ..
/-- The records of a superstep leave the counter. -/
theorem State.putRecords_sstepOf (g v : Nat) (s : State) (k o : Nat) : (s.putRecords g v k).sstepOf o = s.sstepOf o :=
  foldl_keeps (p := State.sstepOf o) (fun s _ => s.tileWrite_sstepOf ..) ..
theorem State.takeProof_sstepOf (s : State) (j o : Nat) : (s.takeProof j).sstepOf o = s.sstepOf o := by
  unfold State.takeProof
  dsimp only
  refine Keeps.ite (p := State.sstepOf o) _ s _ _ rfl ?_
  exact (State.sstepOf_congr (State.proofRecord_owners ..) o).trans (State.sstepOf_proof ..)
theorem State.takeProof_tile (s : State) (j k : Nat) : (s.takeProof j).tile k = s.tile k := by
  have hp := seesNoCopies_tile k
  unfold State.takeProof
  dsimp only
  exact Keeps.ite (p := fun s => s.tile k) _ s _ _ rfl ((hp.proofRecord ..).trans (hp.updOwner ..))

/-- What closes between the records of a superstep and the taking of a proof: the counter, the contexts' counters, the slices' lines. -/
def State.closing (s : State) (o : Nat) : State :=
  let w := ((s.owner o).sstep + 1).toNat % 2 ^ 24
  let t := s.updOwner o fun q => { q with sstep := q.sstep + 1, wmarks := q.wmarks ++ (List.range 144).map fun h => (h, w) }
  let t := t.mapTiles fun k t => if ownerOf k = o then t.mapCtx Ctx.closed else t
  { t with slices := t.slices.map fun e =>
    (e.1, { e.2 with lines := e.2.lines.filter fun q => match q.2 with | some r => r.owner != o | none => true }) }
theorem State.closeStep_eq (s : State) (o g : Nat) (l : List Nat) (qual : Bool) :
    s.closeStep o g l qual =
      let t := (l.foldl (State.putRecords g (imbalance (s.owner o).sstep (s.arrivalsOf l g))) s).closing o
      if qual then t.takeProof o else t := rfl
theorem State.closing_sstepOf (s : State) (o : Nat) : (s.closing o).sstepOf o = s.sstepOf o + 1 :=
  congrArg Owner.sstep (SMap.get_set_same Owner.reset s.owners o _)
theorem State.closing_seq (s : State) {o k : Nat} (hk : ownerOf k = o) (c : Nat) : ((s.closing o).ctx k c).r.seq = 0 := by
  have htile : (s.closing o).tile k = (s.tile k).mapCtx Ctx.closed :=
    (State.tile_mapTiles (f := fun k t => if ownerOf k = o then t.mapCtx Ctx.closed else t) (by split <;> rfl) _).trans (if_pos hk)
  rw [State.ctx, htile, Tile.ctx_mapCtx (f := Ctx.closed) rfl]
  rfl
/-- A close counts the owner's superstep. -/
theorem State.closeStep_sstepOf (s : State) (o g : Nat) (l : List Nat) (qual : Bool) :
    (s.closeStep o g l qual).sstepOf o = s.sstepOf o + 1 := by
  rw [State.closeStep_eq]
  refine (Keeps.ite (p := State.sstepOf o) _ _ _ _ (State.takeProof_sstepOf ..) rfl).trans ?_
  rw [State.closing_sstepOf, foldl_keeps (p := State.sstepOf o) fun s k => s.putRecords_sstepOf g _ k o]
/-- It sets every sequence counter of the owner's contexts to 0. -/
theorem State.closeStep_seq (s : State) (o g : Nat) (l : List Nat) (qual : Bool) {k : Nat} (hk : ownerOf k = o) (c : Nat) :
    ((s.closeStep o g l qual).ctx k c).r.seq = 0 := by
  rw [State.closeStep_eq]
  dsimp only
  split
  · rw [State.ctx, State.takeProof_tile]
    exact State.closing_seq _ hk c
  · exact State.closing_seq _ hk c

/-! ### The step -/

theorem exec_treeBarrierRelease_holds {g : Nat} (h : 64 ≤ g ∨ s.turn.phase = .shift ∨ ¬ ∀ k ∈ s.treeTiles g, s.arrived k g = true) :
    exec (.treeBarrierRelease g) s = .next s := by
  refine if_pos ?_
  rw [Bool.or_eq_true, Bool.or_eq_true, decide_eq_true_eq, beq_iff_eq, Bool.not_eq_true', ← Bool.not_eq_true, List.all_eq_true, or_assoc]
  exact h
theorem exec_treeBarrierRelease_releases {g : Nat} (hg : g < 64) (hp : s.turn.phase ≠ .shift) (hall : ∀ k ∈ s.treeTiles g, s.arrived k g = true) :
    exec (.treeBarrierRelease g) s = if s.boot && g = 61 then .next s.leaveBoot else .next (s.releaseTree g) := by
  refine if_neg ?_
  rw [Bool.or_eq_true, Bool.or_eq_true, decide_eq_true_eq, beq_iff_eq, Bool.not_eq_true', ← Bool.not_eq_true, List.all_eq_true, or_assoc]
  exact fun h => h.elim (fun hge => absurd hg hge.not_gt) fun h => h.elim hp fun hno => hno hall

end Sys2Proof.Machine

namespace Sys2Proof.Proofs
open Sys2Proof Sys2Proof.Machine Sys2Proof.Claims

/-- Settles O50: a release is one change of every tile of the tree's owner, before which a superstep closes when every arrival used `.ss`. -/
theorem treesRelease : Obligations.TreesRelease := by
  refine fun s g => ⟨exec_treeBarrierRelease_holds, fun hg hp hall => ?_⟩
  have hexec := exec_treeBarrierRelease_releases hg hp hall
  refine ⟨fun hb h61 => ?_, fun hb hnone => ?_, fun hb hss => ?_⟩
  · subst h61
    rw [hb] at hexec
    exact ⟨s.leaveBoot, hexec, rfl, fun hf => congrArg HostPort.phase (if_neg hf)⟩
  · rw [hb, State.releaseTree_plain (State.allSs_of_none fun k _ => hnone k) fun k _ => hnone k] at hexec
    refine ⟨_, s.releaseValue g, hexec, setWidth_timed .., fun k => ⟨fun hk => ?_, fun hk => ⟨?_, fun c => ?_⟩⟩⟩
    · rw [State.tile_releaseAt, if_neg hk]
    · rw [State.tile_releaseAt, if_pos hk, Tile.released_arrivals]
    · rw [State.ctx_releaseAt hk]
      exact ⟨Ctx.treeReleased_r .., Ctx.treeReleased_waiting _, Ctx.treeReleased_elsewhere _⟩
  · rw [hb, State.releaseTree_close hss] at hexec
    refine ⟨_, hexec, State.closeStep_sstepOf .., fun k c hk => ?_⟩
    rw [State.ctx_releaseAt hk, Ctx.treeReleased_r, State.closeStep_seq _ _ _ _ _ hk]

end Sys2Proof.Proofs
end

section
/-! SUPPORT. Steps of the units beside the cores (R100, R132, R181, R278, R282 to R284, R330 to R332): a walk's leaf, a mailbox that takes a
message, a collection window, a gateway's row, and the modules of a die link. -/

namespace Sys2Proof.Machine

open Sys2Proof.Claims

variable {s : State}

/-! ### A walk (R330 to R332) -/

/-- A bit that is set in a number. -/
theorem setBits_one_eq_or (n i : Nat) : setBits n i 1 1 = n ||| 2 ^ i := by
  refine Nat.eq_of_testBit_eq fun j => ?_
  rw [show setBits n i 1 1 = setBits n i 1 (bit true) from rfl, testBit_setBits_one, Nat.testBit_or, Nat.testBit_two_pow]
  by_cases h : j = i
  · simp [h]
  · simp [h, Ne.symm h]
/-- A leaf as a walk leaves it: A, and for a write D, set. -/
def leafAfter (e : Nat) (wr : Bool) : Nat := setBits (if wr then setBits e 7 1 1 else e) 6 1 1
theorem leafAfter_eq (e : Nat) (wr : Bool) : leafAfter e wr = e ||| 64 ||| (if wr then 128 else 0) := by
  cases wr with
  | false => simp [leafAfter, setBits_one_eq_or]
  | true => simp [leafAfter, setBits_one_eq_or, Nat.or_assoc, Nat.or_comm 128 64]
theorem leafAfter_lt {e : Nat} (he : e < 2 ^ 64) (wr : Bool) : leafAfter e wr < 2 ^ 64 := by
  rw [leafAfter_eq]
  exact Nat.or_lt_two_pow (Nat.or_lt_two_pow he (by decide)) (by cases wr <;> decide)
/-- No other bit changes. -/
theorem leafAfter_testBit (e : Nat) (wr : Bool) {j : Nat} (h6 : j ≠ 6) (h7 : j ≠ 7) : (leafAfter e wr).testBit j = e.testBit j := by
  have h64 : Nat.testBit 64 j = false := by rw [show (64 : Nat) = 2 ^ 6 from rfl, Nat.testBit_two_pow]; simp [Ne.symm h6]
  have h128 : Nat.testBit 128 j = false := by rw [show (128 : Nat) = 2 ^ 7 from rfl, Nat.testBit_two_pow]; simp [Ne.symm h7]
  rw [leafAfter_eq, Nat.testBit_or, Nat.testBit_or, h64]
  cases wr <;> simp [h128]
/-- A field above the bits that a walk sets. -/
theorem leafAfter_bitsAt (e : Nat) (wr : Bool) {lo : Nat} (h : 8 ≤ lo) (w : Nat) : bitsAt (leafAfter e wr) lo w = bitsAt e lo w := by
  refine Nat.eq_of_testBit_eq fun j => ?_
  rw [bitsAt, bitsAt, Nat.testBit_mod_two_pow, Nat.testBit_mod_two_pow, Nat.testBit_div_two_pow, Nat.testBit_div_two_pow,
    leafAfter_testBit e wr (by omega) (by omega)]

/-- The entry of a leaf with the right asked for, on a page of module memory that does not migrate, under a key of the owner, passes for
level M (R83, R362). -/
theorem State.checkEntry_passes {k va : Nat} {p : XPath} {e : TlbEntry} {wr fe : Bool} {fx : State → State} {s1 : State}
    (hright : (if fe then e.x else if wr then e.w else e.r) = true) (hpa : paKind (e.frame + va % 2 ^ e.lg) = .module)
    (hkey : s.keyOk (ownerOf k) e.key = true) (hmig : e.mig = false) :
    s.checkEntry k p .m e va wr fe fx s1 = .ok (e.frame + va % 2 ^ e.lg) e.wch e.key s1 := by
  rw [State.checkEntry]
  simp [hright, hpa, hkey, hmig]

/-- A walk that ends in a leaf sets its bits, and then checks the entry that it has become. -/
theorem State.walkFor_leaf {k va at_ e l : Nat} {u : Bool} (hw : walk s.mem (s.owner (ownerOf k)).ptbase va = .leaf at_ e l u) (p : XPath)
    (lv : Level) (wr fe : Bool) :
    ∃ fx s1, s.walkFor k p lv va wr fe = s.checkEntry k p lv (tlbOf va (leafAfter e wr) l u) va wr fe fx s1 ∧
      s1.mem = s.mem.writeN at_ 8 (leafAfter e wr) := by
  rw [State.walkFor, hw]
  exact ⟨_, _, rfl, rfl⟩
theorem exec_pageTableWalk_outside {k : Nat} {va : BitVec 64} (wr fe : Bool) (hv : 2 ^ 57 ≤ va.toNat) :
    exec (.pageTableWalk k va wr fe) s = .next s := if_pos hv
theorem exec_pageTableWalk_stop {k l : Nat} {va : BitVec 64} {bad : Bool} (wr fe : Bool) (hv : va.toNat < 2 ^ 57)
    (hw : walk s.mem (s.owner (ownerOf k)).ptbase va.toNat = .stop l bad) :
    exec (.pageTableWalk k va wr fe) s = .next (s.trackFault k va.toNat) := by
  rw [show exec (.pageTableWalk k va wr fe) s = execPageTableWalk k va wr fe s from rfl, execPageTableWalk, if_neg hv.not_ge, State.walkFor, hw]
theorem exec_pageTableWalk_leaf {k at_ e l : Nat} {va : BitVec 64} {wr fe u : Bool} (hv : va.toNat < 2 ^ 57)
    (hw : walk s.mem (s.owner (ownerOf k)).ptbase va.toNat = .leaf at_ e l u)
    (hright : e.testBit (if fe then 3 else if wr then 2 else 1) = true) (hmig : e.testBit 9 = false)
    (hpa : paKind (pteFrame e + va.toNat % 2 ^ leafLg l) = .module) (hkey : s.keyOk (ownerOf k) (e / 2 ^ 48 % 4096) = true) :
    ∃ t, exec (.pageTableWalk k va wr fe) s = .next t ∧ t.mem = s.mem.writeN at_ 8 (leafAfter e wr) := by
  obtain ⟨fx, s1, hwalk, hmem⟩ := State.walkFor_leaf hw (if fe then .fetch else .data) .m wr fe
  have hframe : (tlbOf va.toNat (leafAfter e wr) l u).frame = pteFrame e := by
    rw [tlbOf, pteFrame, leafAfter_bitsAt e wr (by decide)]
    rfl
  have hbit {j : Nat} (h6 : j ≠ 6) (h7 : j ≠ 7) : bitAt (leafAfter e wr) j = e.testBit j := by
    rw [bitAt_eq_testBit, leafAfter_testBit e wr h6 h7]
  have hpass := State.checkEntry_passes (s := s) (k := k) (va := va.toNat) (p := if fe then .fetch else .data) (wr := wr) (fe := fe)
    (e := tlbOf va.toNat (leafAfter e wr) l u) (fx := fx) (s1 := s1)
    (by
      simp only [tlbOf, hbit (j := 1) (by decide) (by decide), hbit (j := 2) (by decide) (by decide), hbit (j := 3) (by decide) (by decide)]
      cases fe <;> cases wr <;> exact hright)
    (by rw [hframe]; exact hpa)
    (by
      rw [tlbOf]
      dsimp only
      rw [leafAfter_bitsAt e wr (by decide)]
      exact hkey)
    ((hbit (by decide) (by decide)).trans hmig)
  refine ⟨s1, ?_, hmem⟩
  rw [show exec (.pageTableWalk k va wr fe) s = execPageTableWalk k va wr fe s from rfl, execPageTableWalk, if_neg hv.not_ge, hwalk, hpass]

/-! ### What ends a wait (R100) -/

theorem exec_observe_holds {k c : Nat} (hr : (s.ctx k c).c.run = .waiting) (hh : s.holds k c (s.ctx k c).c.waitOn = true) :
    exec (.observe k c) s = .next (s.updCtx k c fun x => { x with c := { x.c with run := .ready, waitOn := leftOfWait x.c.waitOn } }) :=
  if_pos (by rw [hr, hh]; rfl)
theorem exec_observe_not {k c : Nat} (h : (s.ctx k c).c.run ≠ .waiting ∨ s.holds k c (s.ctx k c).c.waitOn = false) :
    exec (.observe k c) s = .next s := by
  refine if_neg ?_
  rw [Bool.and_eq_true, beq_iff_eq]
  rintro ⟨hr, hh⟩
  exact h.elim (fun hn => hn hr) fun hf => Bool.eq_false_iff.1 hf hh

/-! ### Watermarks (R132) -/

theorem State.slice_updSlice (s : State) (h j : Nat) (f : Slice → Slice) :
    (s.updSlice h f).slice j = if j = h then f (s.slice h) else s.slice j := by
  split
  · next e => rw [e]; exact SMap.get_set_same ..
  · next e => exact SMap.get_set_other _ _ _ e
theorem State.watermark_updSlice (s : State) {h o w : Nat} {f : Slice → Slice} (hf : (f (s.slice h)).wmark = (s.slice h).wmark.set o w) (o' : Nat) :
    (s.updSlice h f).watermark h o' = if o' = o then w else s.watermark h o' := by
  rw [State.watermark, State.slice_updSlice, if_pos rfl, hf]
  split
  · next e => rw [e]; exact SMap.get_set_same ..
  · next e => exact SMap.get_set_other _ _ _ e
theorem State.foldCells_watermark (s : State) (h o o' : Nat) (p : BitVec 64 → Bool) : (s.foldCells h o p).watermark h o' = s.watermark h o' := by
  rw [State.foldCells, State.watermark, State.slice_updSlice, if_pos rfl]
  rfl
/-- A watermark rises only, and no other owner's does. -/
theorem State.raiseMark_watermark (s : State) (h o w o' : Nat) :
    (s.raiseMark h o w).watermark h o' = if o' = o then max (s.watermark h o) w else s.watermark h o' := by
  unfold State.raiseMark
  split
  · next hlt =>
    rw [Nat.max_eq_right hlt.le]
    exact (State.foldCells_watermark ..).trans (s.watermark_updSlice (f := fun q => { q with wmark := q.wmark.set o w }) rfl o')
  · next hge =>
    rw [Nat.max_eq_left (Nat.not_lt.1 hge)]
    split
    · next e => rw [e]
    · rfl

theorem exec_settlingWatermarkAdvance_none {o h : Nat} (hf : (s.owner o).wmarks.find? (fun e => e.1 == h) = none) :
    exec (.settlingWatermarkAdvance o h) s = .next s := by
  rw [show exec (.settlingWatermarkAdvance o h) s = execSettlingWatermarkAdvance o h s from rfl, execSettlingWatermarkAdvance, hf]
theorem exec_settlingWatermarkAdvance_some {o h : Nat} {e : Nat × Nat} (hf : (s.owner o).wmarks.find? (fun e => e.1 == h) = some e) :
    ∃ l, exec (.settlingWatermarkAdvance o h) s = .next ((s.updOwner o fun q => { q with wmarks := l }).raiseMark h o e.2) := by
  rw [show exec (.settlingWatermarkAdvance o h) s = execSettlingWatermarkAdvance o h s from rfl, execSettlingWatermarkAdvance, hf]
  exact ⟨_, rfl⟩

/-! ### Collection windows (R181, R183) -/

/-- A mailbox takes a message, unless its tile is stopped (R325, R383). -/
theorem State.post_boxMsgs {b : Box} {m : Msg} (hm : m.here = false)
    (hstop : ∀ q, b = .forme q → (s.tile (s.serviceTile q)).hasStop = false) :
    (s.post b m).boxMsgs b = s.arrivals (s.boxMsgs b ++ [m]) := by
  cases b with
  | die d => exact congrArg Die.mailbox (SMap.get_set_same ..)
  | forme k =>
    let s1 := s.updForme k fun f => { f with mailbox := f.mailbox ++ [m] }
    have hforme : s1.forme k = { s.forme k with mailbox := (s.forme k).mailbox ++ [m] } := SMap.get_set_same ..
    have hnew : ¬ (s1.forme k).mailbox.all (·.here) = true := by simp [hforme, hm]
    have hgoing : (s1.tile (s1.serviceTile k)).hasStop = false := by
      rw [State.serviceTile, hforme]
      exact hstop k rfl
    change (s1.settleForme k).boxMsgs (.forme k) = _
    unfold State.settleForme
    dsimp only
    rw [if_neg hnew, hgoing, Bool.and_false, if_neg Bool.false_ne_true]
    refine (congrArg Forme.mailbox (SMap.get_set_same ..)).trans ?_
    rw [hforme]
    rfl
theorem State.owner_keeps (o : Nat) : Keeps fun s => s.owner o :=
  (keepsSems_module _ (fun _ _ => rfl) (fun _ _ => rfl) fun _ _ => rfl).toKeeps

/-- A window that is reported, that is open yet, or that cannot be reported. -/
theorem exec_collectionWindowClose_waits {o : Nat} {w : FpWindow} {e : FpExc} (hw : (s.owner o).windows = [w]) (he : leastKey w.excs = some e)
    (h : w.reported.isSome = true ∨ s.gtime.toNat < w.opened.toNat + 4096 ∨ s.canReport e.tile = false) :
    exec (.collectionWindowClose o) s = .next s := by
  change (.next (s.closeWindow o [] (s.owner o).windows) : Out) = _
  rw [hw]
  simp only [State.closeWindow, he]
  split
  · rfl
  · next hno =>
    rw [Bool.or_eq_true, decide_eq_true_eq, not_or] at hno
    rw [(h.resolve_left hno.1).resolve_left hno.2]
    rfl
/-- One that has closed. -/
theorem exec_collectionWindowClose_reports {o : Nat} {w : FpWindow} {e : FpExc} (hw : (s.owner o).windows = [w]) (he : leastKey w.excs = some e)
    (hr : w.reported = none) (ht : w.opened.toNat + 4096 ≤ s.gtime.toNat) (hc : s.canReport e.tile = true) :
    exec (.collectionWindowClose o) s =
      .next ((s.updOwner o fun x => { x with windows := [{ w with reported := some (e.tile, e.ctx % 4, e.engine) }] }).post (s.serviceBox e.tile)
        { body := (w.report e).message (s.ltileRead e.tile), src := e.tile, ctx := e.ctx, after := 0 }) := by
  change (.next (s.closeWindow o [] (s.owner o).windows) : Out) = _
  rw [hw]
  simp only [State.closeWindow, he, hr, hc, show ¬ s.gtime.toNat < w.opened.toNat + 4096 by omega]
  rfl

/-! ### Gateways (R278) -/

/-- A row that is stale or not valid. -/
theorem Row.bad_iff (v : Row) (x : BitVec 32) : (!v.valid || v.tag != x) = true ↔ ¬ (v.valid = true ∧ v.tag = x) := by
  rw [Bool.or_eq_true, Bool.not_eq_true', bne_iff_ne, not_and_or, Bool.not_eq_true]
theorem exec_gatewayIngress_at {n g row south east : Nat} {f : Flight} (hf : s.flight n = some f) (hsrc : f.src = gateBase + g)
    (hq : f.stage = .queued) (ho : s.hostOrder f = true) (ht : s.sinceTurn = false) (hrow : f.dest.ingressRow = some (row, south, east)) :
    ∃ r, exec (.gatewayIngress n) s =
      let v := (s.owner f.owner).ingress.get .reset (g * 208 + row)
      if !v.valid || v.tag != s.turns.setWidth 32 then
        if f.stamp = 1 then .next s else .next ((s.updFlight n fun f => { f with stamp := 1 }).gatewayFault f.owner g row)
      else .next (({ s with nextId := s.nextId + 1 } : State).updFlight n fun f => { f with route := r, stamp := 0, stage := .net s.nextId }) := by
  have hgo : ¬ (decide (f.src < gateBase) || f.stage != .queued || !s.hostOrder f || s.sinceTurn) = true := by
    simp [hsrc, hq, ho, ht]
  rw [show exec (.gatewayIngress n) s = execGatewayIngress n s from rfl, execGatewayIngress, hf]
  dsimp only
  rw [if_neg hgo, hrow]
  dsimp only
  rw [hsrc, Nat.add_sub_cancel_left]
  exact ⟨_, rfl⟩

/-! ### Die links (R282 to R284) -/

theorem State.link_updLink (s : State) (l : Nat) (f : Link → Link) : (s.updLink l f).link l = f (s.link l) := SMap.get_set_same ..
/-- A corrected error is counted, and changes nothing else of its module. -/
theorem State.link_linkError (s : State) (l : Nat) : (s.linkError l).link l = { s.link l with corrected := (s.link l).corrected + 1 } :=
  s.link_updLink l fun x => { x with corrected := x.corrected + 1 }
theorem State.carrier_retraining {l : Nat} (h : (s.link l).retraining = true) : s.carrier l ≠ l := by
  rw [State.carrier, if_pos h]
  split <;> omega
theorem State.carrier_self {l : Nat} (h : (s.link l).retraining = false) : s.carrier l = l := if_neg (Bool.eq_false_iff.1 h)

theorem exec_ucieFlitReceive_retraining {l : Nat} (q : Nat) (ok : Bool) (h : (s.link l).retraining = true) :
    exec (.ucieFlitReceive l q ok) s = .next s := if_pos (State.carrier_retraining h)
theorem exec_ucieFlitReceive_failed {l : Nat} (q : Nat) (h : (s.link l).retraining = false) :
    exec (.ucieFlitReceive l q false) s = .next ((s.countLink (linkPeer l) 0x0105).linkError l) :=
  if_neg (not_not.2 (State.carrier_self h))
theorem exec_ucieFlitReceive_good {l : Nat} (q : Nat) (h : (s.link l).retraining = false) :
    exec (.ucieFlitReceive l q true) s =
      let t := s.countLink (linkPeer l) 0x0105
      if q = (s.link l).expect then .next (t.updLink l fun x => { x with expect := x.expect + 1 }) else .next t :=
  if_neg (not_not.2 (State.carrier_self h))

/-- A module begins to retrain past its threshold alone, and in a pause one at a time and at most two. -/
def State.mayRetrain (s : State) (l : Nat) : Prop :=
  (s.link l).retraining = false ∧ (s.link l).narrow = false ∧ (s.die (linkDie l)).linkthr.toNat < (s.link l).corrected ∧
    (s.sinceTurn = true → s.retraining = 0 ∧ s.turn.retrains < 2)
theorem State.mayRetrain_iff {l : Nat} :
    s.mayRetrain l ↔ ¬ ((s.link l).retraining || (s.link l).narrow || (s.link l).corrected ≤ (s.die (linkDie l)).linkthr.toNat ||
      (s.sinceTurn && (0 < s.retraining || 2 ≤ s.turn.retrains))) = true := by
  simp only [State.mayRetrain, Bool.or_eq_true, Bool.and_eq_true, decide_eq_true_eq, not_or, not_and, Bool.not_eq_true, Nat.not_lt,
    Nat.le_zero, Nat.not_le, and_assoc]
theorem exec_linkRetrain_rests {l : Nat} (h : ¬ s.mayRetrain l) : exec (.linkRetrain l) s = .next s :=
  if_pos (not_not.1 (mt State.mayRetrain_iff.2 h))
theorem exec_linkRetrain_begins {l : Nat} (h : s.mayRetrain l) :
    ∃ t, exec (.linkRetrain l) s = .next t ∧ (t.link l).retraining = true :=
  ⟨_, if_neg (State.mayRetrain_iff.1 h),
    congrArg Link.retraining (s.link_updLink l fun x => { x with retraining := true, early := !s.sinceTurn })⟩

end Sys2Proof.Machine

namespace Sys2Proof.Proofs
open Sys2Proof Sys2Proof.Machine Sys2Proof.Claims

/-- Settles O48: each unit's step is decided by one test, and what it writes is read back. -/
theorem unitSteps : Obligations.UnitSteps := by
  refine ⟨fun s k c => ⟨exec_observe_holds, exec_observe_not⟩, fun s k va wr fe => ⟨exec_pageTableWalk_outside wr fe, fun l bad hv hw => ?_,
    fun at_ e l u hv hw he hwf hright hmig hpa hkey => ?_⟩, fun s o h => ⟨exec_settlingWatermarkAdvance_none, fun e hf => ?_⟩,
    fun s o w e hw he => ⟨exec_collectionWindowClose_waits hw he, fun hr ht hc => ?_⟩,
    fun s n g row south east f hf hsrc hq ho ht hrow => ?_, fun s l q => ⟨fun ok => exec_ucieFlitReceive_retraining q ok, fun hl => ?_,
      fun hl => ?_, fun ht hmore => ?_, fun hl hn hc ht => ?_, fun hc => ?_, fun hl => if_pos hl, fun hl => if_neg (Bool.eq_false_iff.1 hl), rfl⟩⟩
  · exact exec_pageTableWalk_stop wr fe hv hw
  · obtain ⟨t, hexec, hmem⟩ := exec_pageTableWalk_leaf hv hw hright hmig hpa hkey
    refine ⟨t, hexec, ?_, fun a ha => ?_⟩
    · rw [hmem, Memory.readN_writeN_same hwf, show 256 ^ 8 = 2 ^ 64 by decide, Nat.mod_eq_of_lt (leafAfter_lt he wr), leafAfter_eq]
    · rw [hmem, Memory.read_writeN_other _ _ ha]
  · obtain ⟨l, hexec⟩ := exec_settlingWatermarkAdvance_some hf
    refine ⟨_, hexec, ?_, fun o' ho' => ?_⟩
    · rw [State.raiseMark_watermark, if_pos rfl]
      rfl
    · rw [State.raiseMark_watermark, if_neg ho']
      rfl
  · refine ⟨_, exec_collectionWindowClose_reports hw he hr ht hc, fun hstop => State.post_boxMsgs rfl hstop, ?_⟩
    rw [(State.owner_keeps o).post]
    exact congrArg Owner.windows (SMap.get_set_same ..)
  · obtain ⟨r, hexec⟩ := exec_gatewayIngress_at hf hsrc hq ho ht hrow
    dsimp only at hexec ⊢
    exact ⟨fun hgood => ⟨r, hexec.trans (if_neg fun hb => (Row.bad_iff ..).1 hb hgood)⟩,
      fun hbad hstamp => hexec.trans ((if_pos ((Row.bad_iff ..).2 hbad)).trans (if_pos hstamp)),
      fun hbad hstamp => hexec.trans ((if_pos ((Row.bad_iff ..).2 hbad)).trans (if_neg hstamp))⟩
  · exact ⟨_, exec_ucieFlitReceive_failed q hl, congrArg Link.corrected (State.link_linkError ..), by rw [State.link_linkError]; rfl⟩
  · rw [exec_ucieFlitReceive_good q hl]
    dsimp only
    split
    · exact ⟨_, rfl, congrArg Link.expect (State.link_updLink ..)⟩
    · exact ⟨_, rfl, rfl⟩
  · exact exec_linkRetrain_rests fun ⟨_, _, _, hfew⟩ => by
      have := hfew ht
      omega
  · exact exec_linkRetrain_begins ⟨hl, hn, hc, fun h => absurd (ht.symm.trans h) Bool.false_ne_true⟩
  · exact exec_linkRetrain_rests fun ⟨_, _, hpast, _⟩ => by omega

end Sys2Proof.Proofs
end

section
/-! SUPPORT. An access on its way (R98 to R103, R263, R394): what a change of one access leaves of the others, when the head of a posting
queue leaves, when a packet is delivered, and what a reply or a refusal leaves of its context. -/

namespace Sys2Proof.Machine

open Sys2Proof.Claims

variable {s : State}

/-! ### Accesses in flight -/

theorem State.flight_id {n : Nat} {f : Flight} (h : s.flight n = some f) : f.id = n := by simpa using List.find?_some h
theorem State.flight_mem {n : Nat} {f : Flight} (h : s.flight n = some f) : f ∈ s.flights := List.mem_of_find?_eq_some h
/-- A change of one access under its name. -/
theorem State.flight_updFlight {n : Nat} {x : Flight → Flight} (hx : ∀ f, f.id = n → (x f).id = n) (s : State) (m : Nat) :
    (s.updFlight n x).flight m = (s.flight m).map fun f => if f.id = n then x f else f := by
  rw [State.flight, State.updFlight, List.find?_map, State.flight]
  congr 2
  funext f
  rw [Function.comp_apply]
  split
  · next h => rw [hx f h, h]
  · rfl
theorem State.flight_updFlight_same {n : Nat} {f : Flight} {x : Flight → Flight} (hx : ∀ f, f.id = n → (x f).id = n) (h : s.flight n = some f) :
    (s.updFlight n x).flight n = some (x f) := by
  rw [State.flight_updFlight hx, h, Option.map_some, if_pos (State.flight_id h)]
theorem State.flight_updFlight_other {n m : Nat} {x : Flight → Flight} (hx : ∀ f, f.id = n → (x f).id = n) (hm : m ≠ n) :
    (s.updFlight n x).flight m = s.flight m := by
  rw [State.flight_updFlight hx]
  cases h : s.flight m with
  | none => rfl
  | some f => rw [Option.map_some, if_neg (by rw [State.flight_id h]; exact hm)]
theorem State.flight_dropFlight_same (s : State) (n : Nat) : (s.dropFlight n).flight n = none := by
  simp [State.flight, State.dropFlight]
theorem State.flight_dropFlight_none {n : Nat} (h : s.flight n = none) (m : Nat) : (s.dropFlight m).flight n = none := by
  simp only [State.flight, State.dropFlight, List.find?_eq_none] at h ⊢
  exact fun f hf => h f (List.mem_of_mem_filter hf)
theorem State.flight_congr {s t : State} (h : t.flights = s.flights) (n : Nat) : t.flight n = s.flight n := by
  rw [State.flight, h]
  rfl

/-! ### Send (R98, R102, R106, R394) -/

/-- No earlier access of its posting queue is still in it. -/
def State.headOfQueue (s : State) (f : Flight) : Prop :=
  ∀ g ∈ s.flights, g.src = f.src → g.ctx < 8 → g.ctx % 4 = f.ctx % 4 → g.dest = f.dest → g.eng = f.eng → g.id < f.id → g.stage ≠ .queued
/-- A release waits for everything earlier of its context. -/
def State.releaseFree (s : State) (f : Flight) : Prop :=
  f.release = true → s.quiet f.src (f.ctx % 4) f.id = true ∧ s.quiet f.src (f.ctx % 4 + 4) f.id = true
/-- An access that is sent again does, too. -/
def State.againFree (s : State) (f : Flight) : Prop := f.resent ≠ none → s.accOpen f.src f.ctx f.id = false
/-- An engine thread waits for what its context's queue for the place held. -/
def State.threadFree (s : State) (f : Flight) : Prop :=
  ∀ m, f.eng = some m → ∀ g ∈ s.flights, g.src = f.src → g.eng = none → g.ctx < 8 → g.ctx % 4 = f.ctx % 4 → g.dest = f.dest → g.id < m →
    g.isOpen = false
theorem State.resendFree_iff {f : Flight} : s.resendFree f = true ↔ s.againFree f := by
  rw [State.resendFree, State.againFree, Bool.or_eq_true, Option.isNone_iff_eq_none, Bool.not_eq_true', ne_eq, ← or_iff_not_imp_left]
theorem State.engineFree_iff {f : Flight} : s.engineFree f = true ↔ s.threadFree f := by
  unfold State.engineFree State.threadFree
  cases f.eng with
  | none => simp
  | some m =>
    simp only [List.all_eq_true, Bool.not_eq_true', Bool.and_eq_false_imp, Bool.and_eq_true, beq_iff_eq, decide_eq_true_eq, and_imp,
      Option.some.injEq, forall_eq', Option.isNone_iff_eq_none]
theorem State.canSend_iff {f : Flight} :
    s.canSend f = true ↔ f.stage = .queued ∧ f.ctx < 8 ∧ f.src < gateBase ∧ s.headOfQueue f ∧ s.releaseFree f ∧ s.againFree f ∧ s.threadFree f := by
  have hhead : (s.flights.all fun g => !(g.sameQueue f && decide (g.id < f.id) && g.stage == .queued)) = true ↔ s.headOfQueue f := by
    simp only [Flight.sameQueue, State.headOfQueue, List.all_eq_true, Bool.not_eq_true', Bool.and_eq_false_imp, Bool.and_eq_true, beq_iff_eq,
      decide_eq_true_eq, and_imp, beq_eq_false_iff_ne, ne_eq]
  have hrelease : (!f.release || (s.quiet f.src (f.ctx % 4) f.id && s.quiet f.src (f.ctx % 4 + 4) f.id)) = true ↔ s.releaseFree f := by
    rw [State.releaseFree, Bool.or_eq_true, Bool.and_eq_true, Bool.not_eq_true', ← Bool.not_eq_true, imp_iff_not_or]
  rw [State.canSend, Bool.and_eq_true, Bool.and_eq_true, Bool.and_eq_true, Bool.and_eq_true, Bool.and_eq_true, Bool.and_eq_true,
    beq_iff_eq, decide_eq_true_eq, decide_eq_true_eq, hhead, hrelease, State.resendFree_iff, State.engineFree_iff]
  simp only [and_assoc]

theorem exec_postingQueueSend_at {n : Nat} {f : Flight} (hf : s.flight n = some f) :
    exec (.postingQueueSend n) s = .next (if s.canSend f then (if f.resent.isSome then s.sendRenewed f else s.sendNet f) else s) := by
  rw [show exec (.postingQueueSend n) s = execPostingQueueSend n s from rfl, execPostingQueueSend, hf]
/-- Its first sending, and one again to a place that no page table gives, takes the access as it stands. -/
theorem exec_postingQueueSend_leaves {n : Nat} {f : Flight} (hf : s.flight n = some f) (hc : s.canSend f = true)
    (hd : f.resent = none ∨ (∃ k, f.dest = .tile k) ∨ ∃ k, f.dest = .cluster k) : exec (.postingQueueSend n) s = .next (s.sendNet f) := by
  rw [exec_postingQueueSend_at hf, if_pos hc]
  rcases hd with hr | ⟨k, hk⟩ | ⟨k, hk⟩
  · rw [hr]
    rfl
  · rw [State.sendRenewed, hk]
    exact congrArg _ (ite_self _)
  · rw [State.sendRenewed, hk]
    exact congrArg _ (ite_self _)
theorem exec_postingQueueSend_migrates {n h : Nat} {f : Flight} {s1 : State} (hf : s.flight n = some f) (hc : s.canSend f = true)
    (hr : f.resent ≠ none) (hd : f.dest = .slice h) (hx : s.xlate f.src .data f.level f.va.toNat f.op.writes false = .mig s1) :
    exec (.postingQueueSend n) s = .next s1 := by
  rw [exec_postingQueueSend_at hf, if_pos hc, if_pos (Option.isSome_iff_ne_none.2 hr), State.sendRenewed, hd]
  dsimp only
  rw [hx]
theorem State.sendNet_flight {n : Nat} {f : Flight} (hf : s.flight n = some f) :
    (s.sendNet f).flight n = some { f with stage := .net s.nextId } ∧ ∀ m, m ≠ n → (s.sendNet f).flight m = s.flight m := by
  have hid := State.flight_id hf
  have hx (g : Flight) (_ : g.id = n) : ({ f with stage := .net s.nextId } : Flight).id = n := hid
  rw [show s.sendNet f = s.tickId.2.updFlight n fun _ => { f with stage := .net s.nextId } from
    congrArg (fun i => s.tickId.2.updFlight i fun _ => { f with stage := .net s.nextId }) hid]
  exact ⟨State.flight_updFlight_same hx hf, fun m hm => State.flight_updFlight_other hx hm⟩

/-! ### Deliver (R100, R264) -/

/-- No packet of its route and endpoints was sent earlier. -/
theorem State.canDeliver_of {m : Nat} {f : Flight}
    (h : ∀ g ∈ s.flights, ∀ j, g.stage = .net j → g.src = f.src → g.dest = f.dest → g.route = f.route → m ≤ j) : s.canDeliver f m = true := by
  rw [State.canDeliver, List.all_eq_true]
  intro g hg
  split
  · next j hj =>
    simp only [Bool.not_eq_true', Bool.and_eq_false_imp, beq_iff_eq, decide_eq_false_iff_not, Nat.not_lt, Bool.and_eq_true, and_imp]
    exact fun hsrc hdest hroute => h g hg j hj hsrc hdest hroute
  · rfl
theorem Flight.stopTile_none {f : Flight} (h : ∀ k, f.dest = .tile k → (s.tile k).hasStop = false) : f.stopTile s = none := by
  unfold Flight.stopTile
  split
  · next k hk => rw [h k hk]; rfl
  · rfl
/-- A packet that has not gone astray is at its endpoint, unless it is an event message for a stopped tile. -/
theorem State.arrive_home {f : Flight} (ha : s.astray f = false) (h : f.stopTile s = none ∨ ∀ l a g, f.op ≠ .ev l a g) :
    s.arrive f = { (s.setStage f.id (.home s.nextId)) with nextId := s.nextId + 1 } := by
  rw [State.arrive, ha, if_neg Bool.false_ne_true]
  dsimp only
  split
  · next l a g k hop hstop => exact h.elim (fun hn => by rw [hn] at hstop; cases hstop) fun hn => absurd hop (hn l a g)
  · rfl
theorem exec_packetDeliver_other {n : Nat} {f : Flight} (hf : s.flight n = some f) (hs : ∀ m, f.stage ≠ .net m) :
    exec (.packetDeliver n) s = .next s := by
  rw [show exec (.packetDeliver n) s = execPacketDeliver n s from rfl, execPacketDeliver, hf]
  dsimp only
  split
  · next m hm => exact absurd hm (hs m)
  · rfl
theorem exec_packetDeliver_arrives {n m : Nat} {f : Flight} (hf : s.flight n = some f) (hs : f.stage = .net m)
    (hu : (s.tile f.src).checked = false) (hstop : ∀ k, f.dest = .tile k → (s.tile k).hasStop = false) (hc : s.canDeliver f m = true) :
    exec (.packetDeliver n) s = .next (s.arrive f) := by
  have hroom : s.stopFull f = false := by rw [State.stopFull, Flight.stopTile_none hstop]
  rw [show exec (.packetDeliver n) s = execPacketDeliver n s from rfl, execPacketDeliver, hf]
  dsimp only
  rw [hs]
  exact if_pos (by rw [hc, hroom, hu]; rfl)

end Sys2Proof.Machine
end

section
/-! SUPPORT. Replies and refusals as their context sees them (R82, R100, R103, R394): the value in its registers, the answer that an
instruction waits for, and the stop at a boundary. -/

namespace Sys2Proof.Machine

open Sys2Proof.Claims

variable {s : State}

/-! ### Messages that arrive -/

/-- What neither a forme's mailbox nor the dies' show, the arrival of messages leaves. -/
theorem State.settleMail_keeps {α : Type} {p : State → α} (hf : ∀ s k, p (State.settleForme s k) = p s)
    (hd : ∀ (s : State) m, p { s with dies := m } = p s) (s : State) : p s.settleMail = p s := by
  unfold State.settleMail
  dsimp only
  split
  · exact (hd ..).trans (foldl_keeps hf ..)
  · exact foldl_keeps hf ..
theorem State.settleMail_ctx (s : State) (k c : Nat) : s.settleMail.ctx k c = s.ctx k c :=
  State.settleMail_keeps (p := fun s => s.ctx k c) (fun s j => s.settleForme_ctx j k c) (fun _ _ => rfl) s
theorem State.settleMail_xr (s : State) (k : Nat) : (s.settleMail.tile k).xr = (s.tile k).xr :=
  State.settleMail_keeps (p := fun s => (s.tile k).xr)
    (keepsSems_tile Tile.xr (fun _ _ => rfl) (fun _ _ => rfl) (fun _ _ => rfl) (fun _ _ => rfl) (fun _ _ => rfl) k).settleForme (fun _ _ => rfl) s

/-! ### A value that returns (R100) -/

theorem State.wphys_xr (s : State) (k p : Nat) (v : Word) : ((s.wphys k (some p) v).tile k).xr = (s.tile k).xr.set p v := by
  rw [State.wphys, State.tile_updTile]
/-- The state in which a reply has left `flights` and its marks have been taken. -/
def State.replyTaken (s : State) (f : Flight) : State :=
  (s.dropFlight f.id).updCtx f.src f.ctx fun x => { x with y := x.y.replied f ((s.dropFlight f.id).taken f.src f.scope false) }
theorem State.replyValue_flights (s : State) (f : Flight) (v : BitVec 128) : (s.replyValue f v).flights = s.flights := by
  have hw (s : State) (r : Option Nat) (w : Word) : (s.wphys f.src r w).flights = s.flights := by cases r <;> rfl
  unfold State.replyValue
  split
  · exact hw ..
  · exact (hw ..).trans (hw ..)
  · rfl
theorem State.armedTo_xr (s : State) (f : Flight) (p : Phase) : ((s.armedTo f p).tile f.src).xr = (s.tile f.src).xr := State.tile_updCtx_xr ..
theorem State.armedTo_armed {f : Flight} (p : Phase) (h : (s.ctx f.src f.ctx).c.phase = .armed f.id) :
    ((s.armedTo f p).ctx f.src f.ctx).c.phase = p := by
  rw [State.armedTo, State.ctx_updCtx, if_pos h]

section
variable {n : Nat} {f : Flight} {c : BitVec 8} {d : BitVec 64} {v : BitVec 128}

theorem exec_reply_runs {ok : Bool} (hf : s.flight n = some f) (hs : f.stage = .replying ok c d v) (hp : f.plainReply ok = true)
    (hfirst : s.replyFirst f = true) (hb : f.born ≠ s.gtime) : exec (.reply n) s = .next (s.reply f ok c d v) := by
  rw [show exec (.reply n) s = execReply n s from rfl, execReply, hf]
  dsimp only
  rw [hs]
  dsimp only
  rw [if_pos (by rw [hp, hfirst, Bool.and_true, Bool.true_and, bne_iff_ne]; exact hb)]
/-- A reply of a thread's own access. -/
theorem State.reply_value (hsrc : f.src < gateBase) (hctx : f.ctx < 4) (he : f.eng = none) :
    s.reply f true c d v = (((s.replyTaken f).replyValue f v).armedTo f (.granted v)).settleMail := by
  rw [State.reply, if_neg hsrc.not_ge, he, if_neg (by exact Bool.false_ne_true), if_neg hctx.not_ge]
  rfl
theorem State.reply_value_flight (hid : f.id = n) (hsrc : f.src < gateBase) (hctx : f.ctx < 4) (he : f.eng = none) :
    (s.reply f true c d v).flight n = none := by
  have hflights : (s.reply f true c d v).flights = (s.dropFlight f.id).flights := by
    rw [State.reply_value hsrc hctx he, State.settleMail_flights]
    exact (s.replyTaken f).replyValue_flights f v
  rw [State.flight_congr hflights, hid]
  exact s.flight_dropFlight_same n
theorem State.reply_value_xr (hsrc : f.src < gateBase) (hctx : f.ctx < 4) (he : f.eng = none) :
    ((s.reply f true c d v).tile f.src).xr = (((s.replyTaken f).replyValue f v).tile f.src).xr := by
  rw [State.reply_value hsrc hctx he, State.settleMail_xr, State.armedTo_xr]
/-- The instruction that waits for it is answered. -/
theorem State.reply_value_granted (hsrc : f.src < gateBase) (hctx : f.ctx < 4) (he : f.eng = none) (hret : f.ret = .gate)
    (ha : (s.ctx f.src f.ctx).c.phase = .armed f.id) : ((s.reply f true c d v).ctx f.src f.ctx).c.phase = .granted v := by
  have hvalue : (s.replyTaken f).replyValue f v = s.replyTaken f := by rw [State.replyValue, hret]
  rw [State.reply_value hsrc hctx he, State.settleMail_ctx, hvalue]
  refine State.armedTo_armed _ ?_
  rw [State.replyTaken, State.ctx_updCtx]
  exact ha

/-! ### A refusal (R82, R394) -/

/-- Out of a gang and on no checked pair a fault blocks its context, with its registers as they were. -/
theorem State.takeRec_ctx {k j : Nat} {r : FaultRec} (hg : (s.ctx k j).c.gang = none) (hu : (s.tile k).checked = false) :
    (s.takeRec k j r).ctx k j = { s.ctx k j with c := { (s.block (s.ctx k j)).c with fault := some r, phase := (s.ctx k j).c.phase.faulted } } := by
  have hgang (t : State) (ends : Bool) (ht : (t.ctx k j).c.gang = none) : t.faultGang k j ends false = t := by rw [State.faultGang, ht]
  rw [State.takeRec, State.takeFaultRec, hu, Bool.false_and, if_neg Bool.false_ne_true]
  dsimp only
  rw [hgang _ _ (by rw [State.ctx_updCtx]; exact (s.block_gang _).trans hg), State.post_ctx, State.ctx_updCtx]
/-- A context that can go on stops at once: alone, unfaulted, at a boundary, and in no pause. -/
structure CanStop (s : State) (k j : Nat) : Prop where
  run : (s.ctx k j).c.run = .ready
  fault : (s.ctx k j).c.fault = none
  phase : (s.ctx k j).c.phase = .fresh
  gang : (s.ctx k j).c.gang = none
  unchecked : (s.tile k).checked = false
  going : s.sinceTurn = false
theorem CanStop.raise {k j : Nat} (h : CanStop s k j) (r : FaultRec) : s.raise k j r = s.takeRec k j r := by
  have hturn : s.onTurn k j = true := by rw [State.onTurn, h.gang]
  simp [State.raise, h.run, h.fault, h.phase, h.going, hturn, Phase.waits]
/-- The report of an imprecise fault has the mark of its source (R82). -/
theorem faultRec_imprecise {k j : Nat} (hg : (s.ctx k j).c.gang = none) (pc : BitVec 64) (iw : BitVec 96) (a : FaultArg) :
    (s.faultRec k j pc iw 16 a).src.getLsbD 4 = true := by
  have hsrc : ∀ m < 4, (BitVec.ofNat 8 (m + 16)).getLsbD 4 = true := by decide
  rw [State.faultRec, hg]
  exact hsrc (j % 4) (Nat.mod_lt _ (by decide))
/-- Where an imprecise fault stops its context: blocked with the fault, its registers as they were. -/
def stoppedBy (s t : State) (k j : Nat) (c : BitVec 8) (va : BitVec 64) : Prop :=
  (t.ctx k j).c.run = .blocked ∧ (t.ctx k j).c.fault.map (·.cause) = some c ∧ (t.ctx k j).c.fault.map (·.address) = some va ∧
    (t.ctx k j).c.fault.map (fun q => q.src.getLsbD 4) = some true ∧ (t.ctx k j).r = (s.ctx k j).r
theorem CanStop.takeImprecise {k j : Nat} (h : CanStop s k j) (iw : BitVec 96) {a : FaultArg} (resend : Option Flight)
    (hc : a.cause = c.toNat) : stoppedBy s (s.takeImprecise k j iw a resend) k j c a.address := by
  have hctx := State.takeRec_ctx (r := { s.faultRec k j (s.ctx k j).r.pc iw 16 a with resend := resend }) h.gang h.unchecked
  rw [stoppedBy, State.takeImprecise, h.raise, hctx]
  refine ⟨rfl, congrArg some ?_, rfl, congrArg some (faultRec_imprecise h.gang (s.ctx k j).r.pc iw a), rfl⟩
  rw [State.faultRec, hc]
  simp
theorem CanStop.dropFlight {k j : Nat} (h : CanStop s k j) (i : Nat) : CanStop (s.dropFlight i) k j := ⟨h.1, h.2, h.3, h.4, h.5, h.6⟩
theorem stoppedBy.settleMail {t : State} {k j : Nat} {va : BitVec 64} (h : stoppedBy s t k j c va) : stoppedBy s t.settleMail k j c va := by
  rw [stoppedBy, State.settleMail_ctx]
  exact h

/-- The refusal of a load stops its context at the next boundary (R394). -/
theorem State.reply_refused (h : CanStop s f.src f.ctx) (hsrc : f.src < gateBase) (hctx : f.ctx < 4) (he : f.eng = none)
    (hw : f.watched = false) (hret : f.ret ≠ .gate) : stoppedBy s (s.reply f false c d v) f.src f.ctx c f.va := by
  have hwait : (s.dropFlight f.id).waitRefused f c d = (s.dropFlight f.id).refusedReply f c d := by
    rw [State.waitRefused, hw, Bool.false_and, if_neg Bool.false_ne_true]
    split
    · next hg => exact absurd hg hret
    · rfl
  have hreply : s.reply f false c d v = ((s.dropFlight f.id).refusedReply f c d).settleMail := by
    rw [State.reply, if_neg hsrc.not_ge, he, if_neg (by exact Bool.false_ne_true), if_neg hctx.not_ge, if_neg Bool.false_ne_true, hwait]
  rw [hreply]
  exact stoppedBy.settleMail ((h.dropFlight f.id).takeImprecise f.iword _ rfl)
/-- So does that of a posted access (R82). -/
theorem State.lateRefusal_stops (h : CanStop s f.src f.ctx) (hsrc : f.src < gateBase) (hctx : f.ctx < 4) (hw : f.watched = false) :
    stoppedBy s (s.lateRefusal f c d) f.src f.ctx c (f.lateAddress c) := by
  rw [State.lateRefusal, if_neg hsrc.not_ge, if_neg hctx.not_ge, hw, Bool.false_and, if_neg Bool.false_ne_true]
  exact stoppedBy.settleMail ((h.dropFlight f.id).takeImprecise f.iword _ rfl)
theorem exec_postedRefusal_runs (hf : s.flight n = some f) (hs : f.stage = .replying false c d v) (hr : f.ret = .none) (he : f.eng = none)
    (hfirst : s.replyFirst f = true) : exec (.postedRefusal n) s = .next (s.lateRefusal f c d) := by
  rw [show exec (.postedRefusal n) s = execPostedRefusal n s from rfl, execPostedRefusal, hf]
  dsimp only
  rw [hs]
  dsimp only
  rw [if_pos (by rw [hr, he, hfirst]; rfl)]

end

end Sys2Proof.Machine
end

section
/-! SUPPORT. The two copies of a checked pair's access (R279 to R281): the first is held, both go on as one or are discarded. -/

namespace Sys2Proof.Machine

open Sys2Proof.Claims

variable {s : State} {n m : Nat} {f g : Flight}

/-- A fault that reaches a context changes no access in flight. -/
theorem Keeps.raise {α : Type} {p : State → α} (hp : Keeps p) (s : State) (k c : Nat) (r : FaultRec) : p (s.raise k c r) = p s := by
  unfold State.raise
  dsimp only
  split
  · rfl
  · split
    · exact hp.post ..
    · split
      · exact hp.ctx _ _ _ (fun x => { x with c := { x.c with held := x.c.held ++ [r] } }) fun _ => ⟨rfl, rfl⟩
      · exact hp.takeFaultRec ..
theorem State.flights_keeps : Keeps State.flights := (keepsSems_module _ (fun _ _ => rfl) (fun _ _ => rfl) fun _ _ => rfl).toKeeps
theorem State.mismatch_flights (s : State) (f : Flight) : (s.mismatch f).flights = s.flights := by
  have hone (s : State) (k : Nat) (b : Bool) (r : FaultRec) :
      (if b then s.takeRec k (f.ctx % 4) r else s.raise k (f.ctx % 4) r).flights = s.flights :=
    Keeps.ite _ s _ _ (State.flights_keeps.takeFaultRec ..) (State.flights_keeps.raise ..)
  exact (hone ..).trans (hone ..)
/-- Of a pair that is discarded neither copy is left. -/
theorem State.dropPair_flight (s : State) (f : Flight) : (s.dropPair f).flight f.id = none := by
  rw [State.dropPair, State.flight_congr (State.settleMail_flights _)]
  split
  · exact State.flight_dropFlight_none (s.flight_dropFlight_same f.id) _
  · exact s.flight_dropFlight_same f.id
theorem State.dropPair_partner (hg : s.partner f = some g) : (s.dropPair f).flight g.id = none := by
  rw [State.dropPair, hg, State.flight_congr (State.settleMail_flights _)]
  exact State.flight_dropFlight_same ..
theorem State.discard_flight (s : State) (f : Flight) (i : Nat) : ((s.dropPair f).mismatch f).flight i = (s.dropPair f).flight i :=
  State.flight_congr (State.mismatch_flights ..) i

/-! ### A copy reaches the port (R281) -/

/-- A copy is at the port when it may be delivered. -/
theorem exec_twinCopyArrival_at (hf : s.flight n = some f) (hs : f.stage = .net m) (hc : (s.tile f.src).checked = true)
    (hd : s.canDeliver f m = true) (hr : s.stopFull f = false) :
    (s.partner f = none → s.portHeld f.dest < 32 → exec (.twinCopyArrival n) s = .next (s.setStage n (.twin s.gtime))) ∧
    (∀ g since, s.partner f = some g → g.stage = .twin since →
      (s.hash f = s.hash g → f.twin = false → exec (.twinCopyArrival n) s = .next (s.arrive f)) ∧
      (s.hash f ≠ s.hash g → exec (.twinCopyArrival n) s = .next ((s.dropPair f).mismatch f))) := by
  rw [show exec (.twinCopyArrival n) s = execTwinCopyArrival n s from rfl, execTwinCopyArrival, hf]
  dsimp only
  rw [hs]
  dsimp only
  rw [if_neg (by rw [hc, hd, hr]; exact Bool.false_ne_true)]
  refine ⟨fun hp hroom => ?_, fun g since hp hg => ⟨fun hh ht => ?_, fun hh => ?_⟩⟩
  · rw [hp]
    exact if_pos hroom
  · rw [hp]
    dsimp only
    rw [hg, if_neg (by exact Bool.false_ne_true), if_pos hh, ht, if_neg Bool.false_ne_true]
  · rw [hp]
    dsimp only
    rw [hg, if_neg (by exact Bool.false_ne_true), if_neg hh]

/-! ### A copy alone (R281) -/

theorem exec_twinTimeout_alone {since : BitVec 64} (hf : s.flight n = some f) (hs : f.stage = .twin since) (hp : s.partner f = none)
    (ht : s.sinceTurn = false) :
    exec (.twinTimeout n) s = if since.toNat + 50000 ≤ s.gtime.toNat then .next ((s.dropPair f).mismatch f) else .next s := by
  rw [show exec (.twinTimeout n) s = execTwinTimeout n s from rfl, execTwinTimeout, hf]
  dsimp only
  rw [hs]
  dsimp only
  rw [hp, ht]
  simp

end Sys2Proof.Machine

namespace Sys2Proof.Proofs
open Sys2Proof Sys2Proof.Machine Sys2Proof.Claims

/-- When an access is sent, waits, and is delivered: every clause on its own. As `AccessesAreSentAndAnswered` is bracketed, its first three
clauses on one access are premises of the fourth; here they are proved as well. -/
theorem accessIsSentAndDelivered (s : State) (n : Nat) (f : Flight) (hf : s.flight n = some f) :
    (f.stage = .queued → f.ctx < 8 → f.src < gateBase → s.headOfQueue f → s.releaseFree f → s.againFree f → s.threadFree f →
      ((f.resent = none ∨ (∃ k, f.dest = .tile k) ∨ ∃ k, f.dest = .cluster k) → ∃ t, exec (.postingQueueSend n) s = .next t ∧
        t.flight n = some { f with stage := .net s.nextId } ∧ t.nextId = s.nextId + 1 ∧ ∀ m, m ≠ n → t.flight m = s.flight m) ∧
      (∀ h s1, f.resent ≠ none → f.dest = .slice h → s.xlate f.src .data f.level f.va.toNat f.op.writes false = .mig s1 →
        exec (.postingQueueSend n) s = .next s1)) ∧
    ((f.stage ≠ .queued ∨ 8 ≤ f.ctx ∨ gateBase ≤ f.src ∨ ¬ s.headOfQueue f ∨ ¬ s.releaseFree f ∨ ¬ s.againFree f ∨ ¬ s.threadFree f) →
      exec (.postingQueueSend n) s = .next s) ∧
    (∀ m, f.stage = .net m → (s.tile f.src).checked = false → (∀ k, f.dest = .tile k → (s.tile k).hasStop = false) → s.astray f = false →
      (∀ g ∈ s.flights, ∀ j, g.stage = .net j → g.src = f.src → g.dest = f.dest → g.route = f.route → m ≤ j) → f.id = n →
      exec (.packetDeliver n) s = .next { (s.setStage n (.home s.nextId)) with nextId := s.nextId + 1 }) ∧
    ((∀ m, f.stage ≠ .net m) → exec (.packetDeliver n) s = .next s) := by
  refine ⟨fun hq hctx hsrc hfirst hfree hagain hbehind => ?_, fun hno => ?_, fun m hs hu hstop ha hearlier hid => ?_,
    exec_packetDeliver_other hf⟩
  · have hc : s.canSend f = true := State.canSend_iff.2 ⟨hq, hctx, hsrc, hfirst, hfree, hagain, hbehind⟩
    obtain ⟨hsent, hothers⟩ := State.sendNet_flight hf
    exact ⟨fun hd => ⟨s.sendNet f, exec_postingQueueSend_leaves hf hc hd, hsent, rfl, hothers⟩,
      fun h s1 hr hd hx => exec_postingQueueSend_migrates hf hc hr hd hx⟩
  · have hc : ¬ s.canSend f = true := by
      rw [State.canSend_iff, ← Nat.not_le, ← Nat.not_le]
      tauto
    rw [exec_postingQueueSend_at hf, if_neg hc]
  · rw [exec_packetDeliver_arrives hf hs hu hstop (State.canDeliver_of hearlier), State.arrive_home ha (.inl (Flight.stopTile_none hstop)), hid]

/-- A value that returns (R100). -/
theorem replyBringsItsValue {s : State} {n : Nat} {f : Flight} {v : BitVec 128} (hf : s.flight n = some f) (hs : f.stage = .replying true 0 0 v)
    (hsrc : f.src < gateBase) (hctx : f.ctx < 4) (he : f.eng = none) (hfirst : s.replyFirst f = true) (hborn : f.born ≠ s.gtime) :
    (∀ r bits e, f.ret = .reg (some r) bits e → ∃ t, exec (.reply n) s = .next t ∧
      (t.tile f.src).xr.get 0 r = e.extend (bits / 8) (v.toNat % 2 ^ bits) ∧ t.flight n = none) ∧
    (∀ r, f.ret = .pair r → ∃ t, exec (.reply n) s = .next t ∧ (t.tile f.src).xr.get 0 r = v.setWidth 64 ∧
      (t.tile f.src).xr.get 0 (r + 1) = (v >>> 64).setWidth 64 ∧ t.flight n = none) ∧
    (f.ret = .gate → (s.ctx f.src f.ctx).c.phase = .armed n → ∃ t, exec (.reply n) s = .next t ∧
      (t.ctx f.src f.ctx).c.phase = .granted v ∧ t.flight n = none) := by
  have hid := State.flight_id hf
  have hgone : (s.reply f true 0 0 v).flight n = none := State.reply_value_flight hid hsrc hctx he
  have hexec (hp : f.plainReply true = true) : exec (.reply n) s = .next (s.reply f true 0 0 v) := exec_reply_runs hf hs hp hfirst hborn
  have hctx8 : (decide (gateBase ≤ f.src) || decide (f.ctx < 8)) = true := by simp [show f.ctx < 8 by omega]
  refine ⟨fun r bits e hret => ⟨_, hexec ?_, ?_, hgone⟩, fun r hret => ⟨_, hexec ?_, ?_, ?_, hgone⟩, fun hret ha => ⟨_, hexec ?_, ?_, hgone⟩⟩
  · rw [Flight.plainReply, hret, hctx8]
    rfl
  · rw [State.reply_value_xr hsrc hctx he, State.replyValue, hret]
    dsimp only
    rw [State.wphys_xr, SMap.get_set_same]
  · rw [Flight.plainReply, hret, hctx8]
    rfl
  · rw [State.reply_value_xr hsrc hctx he, State.replyValue, hret]
    dsimp only
    rw [State.wphys_xr, State.wphys_xr, SMap.get_set_other _ _ _ (Nat.ne_of_lt (Nat.lt_succ_self r)), SMap.get_set_same]
  · rw [State.reply_value_xr hsrc hctx he, State.replyValue, hret]
    dsimp only
    rw [State.wphys_xr, SMap.get_set_same]
  · rw [Flight.plainReply, hret, hctx8]
    rfl
  · exact State.reply_value_granted hsrc hctx he hret (by rw [hid]; exact ha)

theorem accessesAreSentAndAnswered : AccessesAreSentAndAnswered := by
  refine ⟨fun s n f hf ⟨_, _, _, hstage⟩ => ?_, fun s n f v hf _ hs hsrc hctx he => replyBringsItsValue hf hs hsrc hctx he,
    fun s n f c d v hf _ hs hsrc hctx he hw hfirst hrun hfault hphase hgang hu hturn => ⟨fun r bits e hret hborn => ?_, fun hret => ?_⟩⟩
  · obtain ⟨-, -, -, hother⟩ := accessIsSentAndDelivered s n f hf
    exact hother hstage
  · have hplain : f.plainReply false = true := by
      rw [Flight.plainReply, hret]
      simp [show f.ctx < 8 by omega]
    exact ⟨_, exec_reply_runs hf hs hplain hfirst hborn,
      State.reply_refused ⟨hrun, hfault, hphase, hgang, hu, hturn⟩ hsrc hctx he hw (by rw [hret]; exact fun h => by cases h)⟩
  · exact ⟨_, exec_postedRefusal_runs hf hs hret he hfirst, State.lateRefusal_stops ⟨hrun, hfault, hphase, hgang, hu, hturn⟩ hsrc hctx hw⟩

theorem twinCopies : TwinCopies := by
  refine ⟨fun s n m f hf hid hs hc hd hr => ?_, fun s n f since hf hid hs hp ht => ?_⟩
  · obtain ⟨halone, hpair⟩ := exec_twinCopyArrival_at hf hs hc hd hr
    refine ⟨halone, fun g since hp hg hh htwin hop ha => ?_, fun g since hp hg hh hne => ?_⟩
    · have hev : ∀ l a b, f.op ≠ .ev l a b := fun l a b h => by rw [h] at hop; cases hop
      rw [(hpair g since hp hg).1 hh htwin, State.arrive_home ha (.inr hev), hid]
    · refine ⟨_, (hpair g since hp hg).2 hh, ?_, ?_⟩
      · rw [State.discard_flight, ← hid, State.dropPair_flight]
      · rw [State.discard_flight, State.dropPair_partner hp]
  · have hexec := exec_twinTimeout_alone hf hs hp ht
    refine ⟨fun hlate => ⟨_, hexec.trans (if_pos hlate), ?_⟩, fun hearly => hexec.trans (if_neg hearly.not_ge)⟩
    rw [State.discard_flight, ← hid, State.dropPair_flight]

/-- Settles O41: an access leaves when nothing of its queue, its order or its thread holds it, and its reply or refusal is seen by its own
context. -/
theorem accessesTravel : Obligations.AccessesTravel := ⟨accessesAreSentAndAnswered, twinCopies⟩

end Sys2Proof.Proofs
end

section
/-! SUPPORT. Atomics (R113 to R119): their functions on whole words, and what each scope makes of an access that nothing holds back. -/

namespace Sys2Proof.Machine

open Sys2Proof.Claims

variable {s s1 : State}

/-! ### The functions (R116, Table 2) -/

/-- A number that fits its width reads as the integer of its bits. -/
theorem signedOf_toNat {w : Nat} (v : BitVec w) : signedOf w v.toNat = v.toInt := by
  rw [signedOf, Nat.mod_eq_of_lt v.isLt, BitVec.toInt_eq_toNat_cond]
  cases w with
  | zero => simp
  | succ w =>
    have hpow : 2 ^ (w + 1) = 2 * 2 ^ w := by rw [Nat.pow_succ, Nat.mul_comm]
    rw [Nat.add_sub_cancel]
    split <;> split <;> omega

/-- The smaller of two words by a reading `v`, old where they read the same. -/
theorem ite_le_toNat {w : Nat} {α : Type} [LinearOrder α] (v : BitVec w → α) (old b : BitVec w) :
    (if v old ≤ v b then old.toNat else b.toNat) = (if v b < v old then b else old).toNat := by
  rw [apply_ite BitVec.toNat, ← ite_not]
  simp only [not_le]
/-- The larger of two words by a reading that tells words apart. -/
theorem ite_ge_toNat {w : Nat} {α : Type} [LinearOrder α] {v : BitVec w → α} (hv : Function.Injective v) (old b : BitVec w) :
    (if v old ≤ v b then b.toNat else old.toNat) = (if v old < v b then b else old).toNat := by
  rcases lt_trichotomy (v old) (v b) with h | h | h
  · rw [if_pos h.le, if_pos h]
  · rw [if_pos h.le, if_neg h.not_lt, hv h]
  · rw [if_neg h.not_ge, if_neg h.not_gt]

/-- An operation that compares nothing writes its function of the old value and b. -/
theorem AmoKind.newValue_of_ne_cas {k : AmoKind} (hk : k ≠ .cas) {n : Nat} (old : Nat) (b : BitVec (8 * n)) (x : Nat) :
    k.newValue n old b.toNat x = k.apply n old b.toNat := by
  simp [AmoKind.newValue, hk, Nat.mod_eq_of_lt b.isLt]
/-- `cas` writes b where the old value is the expected one. -/
theorem AmoKind.newValue_cas {n : Nat} (old b x : BitVec (8 * n)) :
    AmoKind.cas.newValue n old.toNat b.toNat x.toNat = (if old = x then b else old).toNat := by
  by_cases h : old = x
  · simp [newValue, apply, h, Nat.mod_eq_of_lt b.isLt, Nat.mod_eq_of_lt x.isLt]
  · have hne : old.toNat ≠ x.toNat := fun e => h (BitVec.eq_of_toNat_eq e)
    simp [newValue, h, hne, Nat.mod_eq_of_lt x.isLt]

/-- On words of n bytes every integer operation is its row of Table 2. -/
theorem AmoKind.newValue_amoFunctions {n : Nat} : ∀ row ∈ amoFunctions (8 * n), ∀ old b x : BitVec (8 * n),
    row.1.newValue n old.toNat b.toNat x.toNat = (row.2 old b x).toNat := by
  unfold amoFunctions
  refine List.forall_mem_cons.2 ⟨fun old b x => ?add, List.forall_mem_cons.2 ⟨fun old b x => ?and, List.forall_mem_cons.2 ⟨fun old b x => ?or,
    List.forall_mem_cons.2 ⟨fun old b x => ?xor, List.forall_mem_cons.2 ⟨fun old b x => ?min, List.forall_mem_cons.2 ⟨fun old b x => ?max,
    List.forall_mem_cons.2 ⟨fun old b x => ?minu, List.forall_mem_cons.2 ⟨fun old b x => ?maxu, List.forall_mem_cons.2 ⟨fun old b x => ?xchg,
    List.forall_mem_singleton.2 newValue_cas⟩⟩⟩⟩⟩⟩⟩⟩⟩
  all_goals rw [newValue_of_ne_cas AmoKind.noConfusion, apply]
  case add => exact (BitVec.toNat_add ..).symm
  case and => exact (BitVec.toNat_and ..).symm
  case or => exact (BitVec.toNat_or ..).symm
  case xor => exact (BitVec.toNat_xor ..).symm
  case min => simpa only [signedOf_toNat, BitVec.slt_iff_toInt_lt] using ite_le_toNat BitVec.toInt old b
  case max => simpa only [signedOf_toNat, BitVec.slt_iff_toInt_lt] using ite_ge_toNat (fun _ _ => BitVec.eq_of_toInt_eq) old b
  case minu => simpa only [BitVec.ult_iff_lt, BitVec.lt_def] using ite_le_toNat BitVec.toNat old b
  case maxu => simpa only [BitVec.ult_iff_lt, BitVec.lt_def] using ite_ge_toNat (fun _ _ => BitVec.eq_of_toNat_eq) old b

/-! ### An access to tile memory that performs at once (R70 to R78, R94) -/

/-- An address without a fault is aligned. -/
theorem spaceCheck_aligned {ea : Word} {n al limit : Nat} (h : spaceCheck ea n al limit = none) : ea.toNat % al = 0 := by
  by_contra hne
  rw [spaceCheck, if_pos hne] at h
  cases h
/-- A ready access has not begun, and is aligned. -/
theorem State.localReady_aligned {sp al : Nat} {ea : Word} {o : BitVec 2} {op : LocalOp} (hr : s.localReady sp ea al o op = true) :
    s.isFresh = true ∧ ea.toNat % al = 0 := by
  simp only [State.localReady, Bool.and_eq_true, Option.isNone_iff_eq_none] at hr
  obtain ⟨⟨⟨⟨⟨⟨⟨hf, -⟩, -⟩, -⟩, hspace⟩, -⟩, -⟩, -⟩ := hr
  exact ⟨hf, spaceCheck_aligned hspace⟩
/-- An access that nothing holds back performs. -/
theorem State.localAccess_ready {sp al : Nat} {ea : Word} {o : BitVec 2} {op : LocalOp} (hr : s.localReady sp ea al o op = true)
    (hdo : s.doLocal s.cur sp ea.toNat op = .ok s1) (scope : BitVec 2) :
    s.localAccess sp ea al o scope op = .ok (s1.localOrder sp ea.toNat op o scope (s.myTile.marksAt sp ea.toNat op.size)) := by
  simp only [State.localReady, Bool.and_eq_true, Bool.or_eq_true, Bool.not_eq_true', Option.isNone_iff_eq_none] at hr
  obtain ⟨⟨⟨⟨⟨⟨⟨hf, hacq⟩, hrel⟩, hvec⟩, hspace⟩, hwatch⟩, hmiss⟩, -⟩ := hr
  have hheld : ¬ (s.acqHeld || (isRel o && !s.allQuiet) || s.myTile.vecOpen s.curCtx) = true := by
    rcases hrel with h | h <;> simp [hacq, hvec, h]
  have htouch : (if sp = 0 then s.touch s.cur s.curCtx s.me.c.level .core ea.toNat op.size else .present) = Touched.present := by
    split
    · next h0 =>
      have hnone : s.myTile.missing ea.toNat op.size = [] := by simpa [h0] using hmiss
      rw [State.touch, ← State.myTile, hnone]
      rfl
    · rfl
  have hunmet : s.watched sp ea.toNat op.size op.reads op.writes = none := by
    rcases hwatch with h | h
    · rw [State.watched, if_pos h]
    · exact State.watched_unmet h
  rw [State.localAccess, State.resumed_fresh hf]
  dsimp only
  rw [if_neg hheld, hspace]
  dsimp only
  rw [htouch]
  dsimp only
  rw [hunmet, hdo]

/-- What a ready atomic does to tile memory and xd. -/
theorem State.doLocal_amo {sp al n : Nat} {ea : Word} {o : BitVec 2} {k : AmoKind} {b x : BitVec 64} {r : Option Nat}
    (hr : s.localReady sp ea al o (.amo k n b x r) = true) :
    s.doLocal s.cur sp ea.toNat (.amo k n b x r) =
      .ok ((s.tileWrite s.cur sp ea.toNat n (k.newValue n (s.tileRead s.cur sp ea.toNat n) b.toNat x.toNat)).wphys s.cur r
        (k.extend n (s.tileRead s.cur sp ea.toNat n))) := by
  have hpoison : s.tilePoison s.cur sp ea.toNat n = none := by
    simp only [State.localReady, Bool.and_eq_true] at hr
    simpa [LocalOp.reads, LocalOp.size] using hr.2
  simp [State.doLocal, LocalOp.reads, LocalOp.size, hpoison]

/-! ### An access of space 2 whose address translates (R72, R83, R111) -/

/-- An access on no watchpoint of space 2 is not stopped: what it reads and writes follows from what it asks for and from its operation. -/
theorem State.watched2_unmet {ea : Word} {q : Req2} {rd wr : Bool} (h : s.myTile.watchAt s.curCtx 2 ea.toNat q.op.size rd wr = none)
    (hrd : (q.isLoad || q.op.reads) = rd) (hwr : (q.isStore || q.op.writes) = wr) : s.watched2 ea q = none := by
  rw [State.watched2, hrd, hwr, State.watched_unmet h]
/-- It is sent, and held where its page is watched and the access is checked for races. -/
theorem State.sendGlobal_at {ea : Word} {write both checked w : Bool} {q : Dest → Nat → BitVec 128 → Req2} {fits : Dest → Bool} {pa slot : Nat}
    {d : Dest} {r : BitVec 128} (hr : s.reach ea.toNat write both fits = .at_ pa slot d r w s1) (hw : s.watched2 ea (q d pa r) = none) :
    s.sendGlobal ea write both checked q fits =
      if w && checked then s1.sendHeld { q d pa r with va := ea, slot := slot, watched := w && checked }
      else .ok (s1.send { q d pa r with va := ea, slot := slot, watched := w && checked }) := by
  have hplaced : s.watched2 ea { q d pa r with va := ea, slot := slot, watched := w && checked } = none := hw
  rw [State.sendGlobal, hr]
  dsimp only
  rw [hplaced]

/-- The instruction of a held access waits for its answer. -/
theorem conclude_sendHeld (s u : State) (h : Head) (t : Option STail) (g late : Bool) (q : Req2) :
    s.conclude h t g late (u.sendHeld q) = .next (waits u q) := by
  rw [State.sendHeld, conclude_wait, waits]
  simp only [beq_iff_eq]

/-! ### What each scope makes of an atomic (R113, R114) -/

variable {f : MDAB} {k : AmoKind}

/-- Every atomic is one issue around `State.amo`. -/
theorem exec_amoRows : ∀ row ∈ amoRows, ∀ (f : MDAB) (s : State),
    exec (row.1 f) s = s.issue f.h none .u [(f.d, row.2.2), (f.a, .rx), (f.b, .rx)] false false fun s _ => s.amo row.2.1 f := by
  unfold amoRows
  repeat refine List.forall_mem_cons.2 ⟨fun _ _ => rfl, ?_⟩
  exact List.forall_mem_nil _
theorem exec_amoRows_does {row : (MDAB → Instr) × AmoKind × Cls} (hrow : row ∈ amoRows)
    (hd : s.does f.h none .u [(f.d, row.2.2), (f.a, .rx), (f.b, .rx)] = true) :
    exec (row.1 f) s = s.conclude f.h none true false (s.amo row.2.1 f) := by
  rw [exec_amoRows row hrow, issue_does hd, passWait_none]

theorem State.ea_eq_eaOf (s : State) (a : Opnd) (m : MTail) : s.ea a m = eaOf s a m := rfl
theorem amoBytes_eq (m : MTail) : (if m.size = 0 then 4 else 8) = amoBytes m := rfl
/-- The places that fit a scope, as the statement and as the model says it. -/
theorem amoDestOk_toNat (scope : BitVec 2) : amoDestOk scope.toNat = scopeFits scope := by
  have hscope (n : BitVec 2) : (scope.toNat == n.toNat) = (scope == n) := by rw [Bool.eq_iff_iff, beq_iff_eq, beq_iff_eq, BitVec.toNat_inj]
  funext d
  cases d with
  | slice _ => exact hscope 2
  | gate _ => exact hscope 3
  | _ => rfl

/-- Context scope: an access to tile memory. -/
theorem State.amo_context (hf : s.isFresh = true) (ha : (eaOf s f.a f.m).toNat % amoBytes f.m = 0) (hscope : f.m.scope = 0)
    (hspace : f.m.space.toNat < 2) :
    s.amo k f = s.localAccess f.m.space.toNat (eaOf s f.a f.m) (amoBytes f.m) f.m.order f.m.scope
      (.amo k (amoBytes f.m) (s.rx f.b.num) (s.rx f.d.num) (s.place f.d.num)) := by
  have hok : amoSpaceOk 0 f.m.space.toNat = true := by
    obtain h | h : f.m.space.toNat = 0 ∨ f.m.space.toNat = 1 := by omega
    all_goals rw [h]; rfl
  have h0 : f.m.scope.toNat = 0 := congrArg BitVec.toNat hscope
  simp only [State.amo, State.resumed_fresh hf, State.ea_eq_eaOf, amoBytes_eq, ha, h0, hok, ne_eq, not_true_eq_false, if_false, Bool.not_true,
    Bool.false_eq_true]

/-- Cluster scope in the own tile. -/
theorem State.amo_own (hf : s.isFresh = true) (hacq : s.acqHeld = false) (hvec : s.myTile.vecOpen s.curCtx = false)
    (ha : (eaOf s f.a f.m).toNat % amoBytes f.m = 0) (hl : (eaOf s f.a f.m).toNat + amoBytes f.m ≤ 0x60000)
    (hw : s.myTile.watchAt s.curCtx 1 (eaOf s f.a f.m).toNat (amoBytes f.m) true true = none) (hscope : f.m.scope = 1) (hspace : f.m.space = 1) :
    s.amo k f = .ok (s.send (amoReq s k f (.tile s.ownTarget) (eaOf s f.a f.m).toNat 0 (mkRoute [0x80]) false)) := by
  have h1 : f.m.scope.toNat = 1 := congrArg BitVec.toNat hscope
  have hin : spaceCheck (eaOf s f.a f.m) (amoBytes f.m) (amoBytes f.m) (spaceLimit 1) = none := spaceCheck_passes ha hl
  have hok : amoSpaceOk 1 (1 : BitVec 2).toNat = true := rfl
  simp only [State.amo, State.resumed_fresh hf, State.ea_eq_eaOf, amoBytes_eq, ha, h1, hspace, hok, hacq, hin, State.watched_unmet hw, hvec,
    ne_eq, not_true_eq_false, if_false, if_true, Bool.not_true, Bool.false_eq_true]
  rfl

/-- Cluster scope by a route: the tile that it reaches lies in the same cluster. -/
theorem State.amo_cluster {r : BitVec 128} {t : Nat} (hf : s.isFresh = true) (hacq : s.acqHeld = false)
    (ha : (eaOf s f.a f.m).toNat % amoBytes f.m = 0) (hl : (eaOf s f.a f.m).toNat + amoBytes f.m ≤ 0x60000)
    (hr : s.injectReg f.m.rtn.toNat = .ok (r, some t, s1)) (hscope : f.m.scope = 1) (hspace : f.m.space = 3) :
    s.amo k f = if clusterKey t = clusterKey s.cur then .ok (s1.send (amoReq s k f (.tile t) (eaOf s f.a f.m).toNat 0 r false))
      else .trap { cause := 0x0E, address := eaOf s f.a f.m } := by
  have h1 : f.m.scope.toNat = 1 := congrArg BitVec.toNat hscope
  have hin : spaceCheck (eaOf s f.a f.m) (amoBytes f.m) (amoBytes f.m) (spaceLimit 1) = none := spaceCheck_passes ha hl
  have hok : amoSpaceOk 1 (3 : BitVec 2).toNat = true := rfl
  have h3 : ¬ (3 : BitVec 2) = 1 := by decide
  simp only [State.amo, State.resumed_fresh hf, State.ea_eq_eaOf, amoBytes_eq, ha, h1, hspace, hok, hacq, hin, hr, h3,
    ne_eq, not_true_eq_false, if_false, Bool.not_true, Bool.false_eq_true]
  rfl

/-- Owner and system scope: an access of space 2 to a place that fits. -/
theorem State.amo_global (hf : s.isFresh = true) (hacq : s.acqHeld = false)
    (ha : (eaOf s f.a f.m).toNat % amoBytes f.m = 0) (hl : (eaOf s f.a f.m).toNat + amoBytes f.m ≤ 2 ^ 57)
    (hscope : 2 ≤ f.m.scope.toNat) (hspace : f.m.space = 2) :
    s.amo k f = s.sendGlobal (eaOf s f.a f.m) true true true (fun d pa r => amoReq s k f d pa 0 r false) (scopeFits f.m.scope) := by
  have hin : spaceCheck (eaOf s f.a f.m) (amoBytes f.m) (amoBytes f.m) vaLimit = none := spaceCheck_passes ha hl
  obtain ⟨n, hn⟩ : ∃ n, f.m.scope.toNat = n + 2 := ⟨_, (Nat.sub_add_cancel hscope).symm⟩
  have hok : amoSpaceOk (n + 2) (2 : BitVec 2).toNat = true := rfl
  rw [← amoDestOk_toNat]
  simp only [State.amo, State.resumed_fresh hf, State.ea_eq_eaOf, amoBytes_eq, ha, hn, hspace, hok, hacq, hin,
    ne_eq, not_true_eq_false, if_false, Bool.not_true, Bool.false_eq_true]
  rfl

end Sys2Proof.Machine

namespace Sys2Proof.Proofs

open Sys2Proof Sys2Proof.Machine Sys2Proof.Claims

theorem atomicFunctions : AtomicFunctions := by
  refine ⟨fun old b x row hrow => AmoKind.newValue_amoFunctions (n := 8) row hrow old b x,
    fun old b x row hrow => AmoKind.newValue_amoFunctions (n := 4) row hrow old b x, fun old b x => ?_⟩
  exact AmoKind.newValue_of_ne_cas (n := 4) AmoKind.noConfusion old.toNat b x.toNat

theorem atomicAccesses : AtomicAccesses := by
  refine ⟨fun s f row hrow hd hscope hspace hr => ?context, fun s f row hrow hd hscope hspace hf hacq hvec ha hl hw => ?own,
    fun s s1 f r t row hrow hd hscope hspace hf hacq ha hl hr => ?cluster,
    fun s s1 f pa slot d r w row hrow hd hscope hspace ⟨hf, hacq, ha, hl, hw⟩ hr => ?global⟩
  all_goals rw [exec_amoRows_does hrow hd]
  case context =>
    obtain ⟨hf, ha⟩ := State.localReady_aligned hr
    rw [State.amo_context hf ha hscope hspace, State.localAccess_ready hr (State.doLocal_amo hr), conclude_ok]
    rfl
  case own => rw [State.amo_own hf hacq hvec ha hl hw hscope hspace, conclude_ok]; rfl
  case cluster =>
    rw [State.amo_cluster hf hacq ha hl hr hscope hspace, apply_ite (s.conclude _ _ _ _)]
    rfl
  case global =>
    have hunmet : s.watched2 (eaOf s f.a f.m) (amoReq s row.2.1 f d pa 0 r false) = none := State.watched2_unmet hw (Bool.or_true _) rfl
    rw [State.amo_global hf hacq ha hl hscope hspace, State.sendGlobal_at (q := fun d pa r => amoReq s row.2.1 f d pa 0 r false) hr hunmet,
      Bool.and_true]
    cases w with
    | false => rfl
    | true => exact conclude_sendHeld ..

/-- Settles O20: every integer atomic is its row of Table 2, and past its checks an atomic is decided by its scope. -/
theorem atomicResults : Obligations.AtomicResults := ⟨atomicFunctions, atomicAccesses⟩

end Sys2Proof.Proofs
end

section
/-! SUPPORT. Repair cells (R120 to R135): cell instructions as they leave their context, the stamp, and a stamped operation at its cell. -/

namespace Sys2Proof.Machine

open Sys2Proof.Claims

variable {s s1 : State}

/-! ### Cell instructions are sent (R125) -/

/-- A cell instruction that nothing holds back and whose address translates is sent, whatever pages are watched. -/
theorem State.cellSend_at {ea : Word} {q : Req2} {rd wr w : Bool} {pa slot : Nat} {d : Dest} {r : BitVec 128} (hl : Claims.leaves s 2 ea 8 rd wr)
    (hr : s.reach ea.toNat true true = .at_ pa slot d r w s1) (hsize : q.op.size = 8) (hrd : (q.isLoad || q.op.reads) = rd)
    (hwr : (q.isStore || q.op.writes) = wr) :
    s.cellSend ea q = .ok (s1.send { q with dest := d, addr := pa, va := ea, slot := slot, route := r, watched := false }) := by
  obtain ⟨-, hacq, ha, hin, hw⟩ := hl
  have hspace : spaceCheck ea 8 8 vaLimit = none := spaceCheck_passes ha hin
  have hunmet : s.watched2 ea { q with dest := d, addr := pa, route := r } = none :=
    State.watched2_unmet (q := { q with dest := d, addr := pa, route := r }) (hsize.symm ▸ hw) hrd hwr
  rw [State.cellSend, if_neg (by rw [hacq]; exact Bool.false_ne_true), hspace]
  dsimp only
  rw [State.sendGlobal_at (q := fun d pa r => { q with dest := d, addr := pa, route := r }) hr hunmet, Bool.and_false]
  rfl

/-- Every `rop` is one issue around `State.rop`. -/
theorem exec_ropRows : ∀ row ∈ ropRows, ∀ (f : MDAB) (s : State),
    exec (row.1 f) s = s.issue f.h none .u [(f.d, .wx), (f.a, .rx), (f.b, .rx)] false false fun s _ => s.rop row.2 f := by
  unfold ropRows
  repeat refine List.forall_mem_cons.2 ⟨fun _ _ => rfl, ?_⟩
  exact List.forall_mem_nil _

/-! ### The stamp (R121, Table 3) -/

/-- The stamp that the model computes has the fields of Table 3. -/
theorem State.stampOf_eq_stampWord (hc : s.curCtx < 4) : s.stampOf = stampWord s := by
  have hctx : (BitVec.ofNat 2 s.curCtx).toNat = s.curCtx := Nat.mod_eq_of_lt hc
  have htwin (b : Bool) : (BitVec.ofBool b).toNat = bit b := by cases b <;> rfl
  have hbit (b : Bool) : bit b < 2 := by cases b <;> decide
  have hzero : (0 : BitVec 1).toNat = 0 := rfl
  have hseq := s.me.r.seq.isLt
  have htwin' := hbit (s.myTile.checked && decide (16 ≤ rowOf s.cur))
  apply BitVec.eq_of_toNat_eq
  simp only [State.stampOf, stampWord, toNat_append_add, BitVec.toNat_ofNat, BitVec.toNat_setWidth, hctx, htwin, hzero]
  omega

/-! ### A stamped operation at its cell (R129) -/

/-- An entry is inserted behind the stamps that are not above its own. -/
theorem insHist_split (l : List (BitVec 64 × BitVec 64)) (e : BitVec 64 × BitVec 64) :
    ∃ a b, l = a ++ b ∧ insHist l e = a ++ e :: b ∧ (∀ x ∈ a, x.1.toNat ≤ e.1.toNat) ∧
      (b.head?.map fun x => decide (e.1.toNat < x.1.toNat)).getD true = true := by
  induction l with
  | nil => exact ⟨[], [], rfl, rfl, by simp, rfl⟩
  | cons x r ih =>
    by_cases hlt : e.1.toNat < x.1.toNat
    · exact ⟨[], x :: r, rfl, if_pos hlt, by simp, decide_eq_true hlt⟩
    · obtain ⟨a, b, rfl, hins, hbelow, habove⟩ := ih
      refine ⟨x :: a, b, rfl, ?_, List.forall_mem_cons.2 ⟨Nat.not_lt.1 hlt, hbelow⟩, habove⟩
      rw [insHist, if_neg hlt, hins]
      rfl

@[simp] theorem State.cellAt_setCell (s : State) (pa : Nat) (c : Cell) : (s.setCell pa (some c)).cellAt pa = some c := by
  rw [State.cellAt, State.setCell, State.slice_updSlice, if_pos rfl]
  exact SMap.get_set_same ..

/-- The step of a stamp is what lies above its low 40 bits. -/
theorem stampStep_eq (t : BitVec 64) : stampStep t = t.toNat / 2 ^ 40 := Nat.mod_eq_of_lt (by have := t.isLt; omega)

/-- The history of a cell holds a stamp, or it was folded last. -/
def Cell.knows (c : Cell) (t : BitVec 64) : Bool := c.hist.any (fun e => e.1 == t) || c.lastfold == some t
theorem Cell.knows_iff {c : Cell} {t : BitVec 64} : c.knows t = true ↔ (∃ e ∈ c.hist, e.1 = t) ∨ c.lastfold = some t := by
  simp [Cell.knows]

/-- On a cell of its owner and kind a stamped operation is one of R129's four cases. -/
theorem State.applyStamp_at {f : Flight} {c : Cell} (hc : s.cellAt f.addr = some c) (ho : c.owner = f.owner) (hk : f.op.kindOf = some c.kind) :
    let h := homeSlice f.addr
    let c1 := { c with hist := insHist c.hist (f.stamp, f.op.operand) }
    s.applyStamp f =
      if c.knows f.stamp then .dup (s.updSlice h fun q => { q with dups := q.dups.set f.owner (q.dups.get 0 f.owner + 1) }) c.chain
      else if f.stamp.toNat / 2 ^ 40 < (s.slice h).wmark.get 0 f.owner then .late
      else if c.hist.length = 15 ∨ (s.slice h).poolFree = 0 then
        .full (s.updSlice h fun q => { q with ovf := q.ovf.set f.owner (q.ovf.get 0 f.owner + 1) })
      else .inserted (s.setCell f.addr (some c1)) c1.chain := by
  have hmine : ¬ (decide (c.owner ≠ f.owner) || (f.op.kindOf.isSome && f.op.kindOf != some c.kind)) = true := by simp [ho, hk]
  dsimp only
  rw [State.applyStamp, hc]
  dsimp only
  rw [if_neg hmine, stampStep_eq, State.watermark, ho]
  simp only [Cell.knows, Bool.or_eq_true, decide_eq_true_eq]

/-- How a `rop` answers. -/
theorem State.applyStamped_rop {f : Flight} {kind : BitVec 2} {b : BitVec 64} (hop : f.op = .rop kind b) :
    s.applyStamped f =
      match s.applyStamp f with
      | .inserted t v => .done t (v.setWidth 128) []
      | .dup t v => .done t (v.setWidth 128) []
      | .full t => .refuse t 0x0B b
      | .late => .refuse s 0x0C b
      | .notCell => .refuse s 0x06 b := by
  rw [State.applyStamped, hop]
  rfl

end Sys2Proof.Machine

namespace Sys2Proof.Proofs

open Sys2Proof Sys2Proof.Machine Sys2Proof.Claims

theorem stampedOperationsAtTheirCell : StampedOperationsAtTheirCell := by
  intro s f c kind b hop hc ho hk h known old full
  have hop' : f.op.kindOf = some c.kind := by rw [hop, MemOp.kindOf, hk]
  have hknown : ¬ known → ¬ c.knows f.stamp = true := mt Cell.knows_iff.1
  rw [State.applyStamped_rop hop, State.applyStamp_at hc ho hop']
  refine ⟨fun h1 => ?dup, fun h1 h2 => ?late, fun h1 h2 h3 => ?full, fun h1 h2 h3 => ?inserted⟩
  case dup => rw [if_pos (Cell.knows_iff.2 h1)]
  case late => rw [if_neg (hknown h1), if_pos h2]
  case full => rw [if_neg (hknown h1), if_neg h2, if_pos h3]
  case inserted =>
    rw [if_neg (hknown h1), if_neg h2, if_neg h3, hop]
    obtain ⟨l, r, hhist, hins, hbelow, habove⟩ := insHist_split c.hist (f.stamp, b)
    exact ⟨_, _, l, r, rfl, State.cellAt_setCell .., rfl, hhist, hins, hbelow, habove⟩

theorem cellOperationsAreSent : CellOperationsAreSent := by
  refine ⟨fun s s1 f pa slot d r w hd hb hl hr => ?rcell, fun s s1 f pa slot d r w hd hl hr => ?rfree,
    fun s s1 f pa slot d r w hd hl hr => ?rstat, fun s s1 f pa slot d r w row hrow hd hc hl hr => ?rop,
    fun s s1 f pa slot d r w hd hl hr => ?rreissue⟩
  case rcell =>
    rw [show exec (.rcell f) s = execRcell f s from rfl, execRcell, issue_does hd, passWait_none]
    dsimp only
    rw [if_neg (Nat.not_le.2 hb), State.ea_eq_eaOf, State.cellSend_at hl hr rfl rfl rfl]
    rfl
  case rfree =>
    rw [show exec (.rfree f) s = execRfree f s from rfl, execRfree, issue_does hd, passWait_none, State.ea_eq_eaOf,
      State.cellSend_at hl hr rfl rfl rfl]
    rfl
  case rstat =>
    rw [show exec (.rstat f) s = execRstat f s from rfl, execRstat, issue_does hd, passWait_none, State.ea_eq_eaOf,
      State.cellSend_at hl hr rfl rfl rfl]
    rfl
  case rop =>
    rw [exec_ropRows row hrow, issue_does hd, passWait_none, State.rop, State.ea_eq_eaOf, State.cellSend_at hl hr rfl (Bool.or_true _) rfl,
      State.stampOf_eq_stampWord hc]
    dsimp only
    refine ⟨fun hseq => ?_, fun hseq => ?_⟩
    · rw [if_neg hseq]
      rfl
    · rw [if_pos hseq]
      rfl
  case rreissue =>
    rw [show exec (.rreissue f) s = execRreissue f s from rfl, execRreissue, issue_does hd, passWait_none, State.ea_eq_eaOf]
    dsimp only
    rw [State.cellSend_at hl hr rfl rfl rfl]
    dsimp only
    rw [apply_ite (s.conclude _ _ _ _)]
    rfl

/-- Settles O21: what passes its checks is sent, and a stamped operation at its cell is one of the four cases of R129. -/
theorem cellOperations : Obligations.CellOperations := ⟨cellOperationsAreSent, stampedOperationsAtTheirCell⟩

end Sys2Proof.Proofs
end

section
/-! SUPPORT. A system instruction that acts (R338), and the instructions of level M (R338, R347, R349, R350, R362). -/

namespace Sys2Proof.Machine

open Sys2Proof.Claims

variable {s : State}

/-! ### A system instruction that acts (R338) -/

/-- Nothing earlier holds a context that is free. -/
theorem State.not_held_of_free (h : s.free_ = true) : ¬ (s.acqHeld || !s.allQuiet) = true := by
  simp only [State.free_, Bool.and_eq_true, Bool.not_eq_true'] at h
  simp [h]

section
variable {need : Level}

/-- With legal operand words its Execute part is its body. -/
theorem sys_acts {h : Head} {t : STail} {ops : List Req} {ok : State → Bool} (body : State → Res) (ha : acts s h (some t) need ops)
    (hok : ok s = true) : s.sys h t need ops ok body = s.conclude h (some t) true false (body s) := by
  obtain ⟨hd, hfree, hw⟩ := ha
  rw [State.sys, issue_does hd, passWait_bare (hw t rfl)]
  rw [if_neg (by simp [hok]), if_neg (State.not_held_of_free hfree)]
theorem sysDA_acts {f : SDA} {ok : Word → Bool} (body : State → Word → Res) (ha : acts s f.h (some f.t) need (opsDA f))
    (hok : ok (s.rx f.a.num) = true) : s.sysDA f need ok body = s.conclude f.h (some f.t) true false (body s (s.rx f.a.num)) :=
  sys_acts _ ha hok
theorem sysDAB_acts {f : SDAB} {ok : Word → Word → Bool} (body : State → Word → Word → Res) (ha : acts s f.h (some f.t) need (opsDAB f))
    (hok : ok (s.rx f.a.num) (s.rx f.b.num) = true) :
    s.sysDAB f need ok body = s.conclude f.h (some f.t) true false (body s (s.rx f.a.num) (s.rx f.b.num)) :=
  sys_acts _ ha hok

end

theorem bitsAt_zero (n w : Nat) : bitsAt n 0 w = n % 2 ^ w := by rw [bitsAt, Nat.pow_zero, Nat.div_one]
/-- The bits from `lo` on of a number that has no more than `w` of them. -/
theorem bitsAt_top {n lo w : Nat} (h : n < 2 ^ (lo + w)) : bitsAt n lo w = n / 2 ^ lo :=
  Nat.mod_eq_of_lt (Nat.div_lt_of_lt_mul (Nat.pow_add .. ▸ h))

/-! ### Dies -/

@[simp] theorem State.die_updDie (s : State) (d : Nat) (f : Die → Die) : (s.updDie d f).die d = f (s.die d) := SMap.get_set_same ..
theorem State.die_updDie_other (s : State) {d e : Nat} (f : Die → Die) (h : e ≠ d) : (s.updDie d f).die e = s.die e := SMap.get_set_other _ _ _ h

@[simp] theorem State.tile_updDie (s : State) (d : Nat) (f : Die → Die) (k : Nat) : (s.updDie d f).tile k = s.tile k := rfl

/-! ### scrub and fencecore -/

theorem exec_scrub_at {f : SDA} (ha : acts s f.h (some f.t) .m (opsDA f)) (hlegal : (s.rx f.a.num).toNat < 2 ^ 17) :
    let a := s.rx f.a.num
    exec (.scrub f) s = completes ((s.updForme (formeKey (s.placeOf (a.toNat % 64) 0)) fun w =>
      { w with held := true, scrubs := insNat w.scrubs (if a.getLsbD 16 then 1024 else a.toNat / 64 % 1024) }).wx f.d.num 0) f.h (some f.t) := by
  dsimp only
  rw [show exec (.scrub f) s = execScrub f s from rfl, execScrub, sysDA_acts _ ha ((below_iff ..).2 hlegal)]
  dsimp only
  rw [bitsAt_zero]
  rfl

/-- A context without a thread has nothing to kill. -/
theorem State.killThread_idle {k c : Nat} (h : (s.ctx k c).c.run = .idle) : s.killThread k c = s := if_pos (beq_iff_eq.2 h)
/-- A fence marks its tile after the kills, and then its forme where it was the last. -/
theorem State.fenceTile_marks (s : State) (k : Nat) :
    ∃ l, s.fenceTile k = { (((List.range 4).foldl (fun s c => s.killThread k c) s).updTile k fun t => { t with fenced := true }) with formes := l } := by
  unfold State.fenceTile
  generalize (List.range 4).foldl (fun s c => s.killThread k c) s = u
  dsimp only
  split
  · exact ⟨_, rfl⟩
  · exact ⟨_, rfl⟩
theorem State.fenceTile_fenced (s : State) (k : Nat) : ((s.fenceTile k).tile k).fenced = true := by
  obtain ⟨l, h⟩ := s.fenceTile_marks k
  rw [h]
  generalize (List.range 4).foldl (fun s c => s.killThread k c) s = u
  exact congrArg Tile.fenced (u.tile_updTile k fun t => { t with fenced := true })
/-- The fence of a tile without a thread leaves every context. -/
theorem State.fenceTile_ctx {k : Nat} (h : ∀ c, c < 4 → (s.ctx k c).c.run = .idle) : (s.fenceTile k).me = s.me := by
  have hkills : (List.range 4).foldl (fun s c => s.killThread k c) s = s := by
    simp only [show List.range 4 = [0, 1, 2, 3] from rfl, List.foldl_cons, List.foldl_nil]
    rw [State.killThread_idle (h 0 (by decide)), State.killThread_idle (h 1 (by decide)), State.killThread_idle (h 2 (by decide)),
      State.killThread_idle (h 3 (by decide))]
  obtain ⟨l, hmarks⟩ := s.fenceTile_marks k
  rw [hmarks, hkills]
  exact s.ctx_updTile k (fun t => { t with fenced := true }) (fun _ => rfl) s.cur s.curCtx

/-- The mark on the site that the operand of `fencecore` names: die in bits 5:0, site above. -/
def State.markSite (s : State) (a : Word) : State :=
  s.updDie (a.toNat % 64) fun q => { q with fencedSites := insNat q.fencedSites (a.toNat / 64) }
/-- The tile at the site is fenced; a site without one is marked alone (log 52). -/
theorem exec_fencecore_at {f : SDA} (ha : acts s f.h (some f.t) .m (opsDA f)) (hlegal : (s.rx f.a.num).toNat < 2 ^ 17) {a : Word}
    (hrx : s.rx f.a.num = a) {r : Option Nat} (hr : (if a.toNat / 64 < 1056 then (s.markSite a).tileAtSite (a.toNat % 64) (a.toNat / 64) else none) = r) :
    exec (.fencecore f) s = s.conclude f.h (some f.t) true false
      (r.elim (.ok ((s.markSite a).wx f.d.num 0)) fun k => ((s.markSite a).fenceTile k).goOn f.d.num 0) := by
  have hdie : bitsAt a.toNat 0 6 = a.toNat % 64 := bitsAt_zero ..
  have hsite : bitsAt a.toNat 6 11 = a.toNat / 64 := bitsAt_top (hrx ▸ hlegal)
  unfold State.markSite at hr ⊢
  rw [show exec (.fencecore f) s = execFencecore f s from rfl, execFencecore, sysDA_acts _ ha ((below_iff ..).2 hlegal)]
  dsimp only
  rw [hrx, hdie, hsite, hr]
  cases r with
  | none => dsimp only [Option.elim]
  | some k => dsimp only [Option.elim]

/-! ### Keys (R362) -/

/-- The slot that `keyld` makes of a record: its data and tweak keys, for the owner of the die. -/
def State.keyRecord (s : State) (n : Nat) (v : BitVec 512) : KeySlot :=
  { s.keys.get .reset n with loaded := true, owner := (s.die (s.dieOf s.cur)).mown.toNat, data := v.extractLsb' 0 256, tweak := v.extractLsb' 256 256 }
theorem State.takeKeys_keyPair (s : State) (n : Nat) (q : KeySlot) (slot : Nat) :
    (s.takeKeys n q).keyPair slot = if slot = n then q.tweak ++ q.data else s.keyPair slot := by
  unfold State.keyPair State.takeKeys
  split
  · next e => rw [e, SMap.get_set_same]
  · next e => rw [SMap.get_set_other _ _ _ e]
/-- Through every other slot a line reads as before. -/
theorem State.takeKeys_lineRead_other (s : State) {n slot : Nat} (q : KeySlot) (l : Nat) (h : slot ≠ n) :
    (s.takeKeys n q).lineRead slot l = s.lineRead slot l := by
  have hmem : (s.takeKeys n q).mem = s.mem := rfl
  have hlines : (s.takeKeys n q).lineKeys = s.lineKeys := rfl
  rw [State.lineRead, State.lineRead, hmem, hlines, State.takeKeys_keyPair, if_neg h]
/-- A line written under the keys of a slot reads through it as it was written. -/
theorem State.lineRead_clear {slot l : Nat} (h : s.lineKeys.get none l = some (s.keyPair slot)) :
    s.lineRead slot l = BitVec.ofNat 512 (s.mem.readN (64 * l) 64) := by
  rw [State.lineRead, h]
  exact if_pos rfl

/-! ### Discovery (R350) -/

/-- The bytes of a number that a canonical memory holds. -/
theorem Memory.read_writeN_at {m : Memory} (h : m.wf = true) {n i : Nat} (hi : i < n) (a v : Nat) :
    (m.writeN a n v).read (a + i) = BitVec.ofNat 8 (v / 256 ^ i) := by
  induction n generalizing m a v i with
  | zero => omega
  | succ n ih =>
    rw [Memory.writeN]
    cases i with
    | zero =>
      rw [Memory.read_writeN_other _ _ (by omega), Nat.pow_zero, Nat.div_one]
      exact Memory.read_write_same (lo := 0) a _ h
    | succ i =>
      have := ih (Memory.wf_write a (BitVec.ofNat 8 v) h) (Nat.lt_of_succ_lt_succ hi) (a + 1) (v / 256)
      rw [Nat.div_div_eq_div_mul, ← Nat.pow_succ'] at this
      rw [← this]
      congr 1
      omega

theorem seesNoCopies_dies : SeesNoCopies State.dies := ⟨fun _ _ _ _ _ => rfl⟩
theorem State.tileWrite_die (s : State) (k sp off n v d : Nat) : (s.tileWrite k sp off n v).die d = s.die d :=
  congrArg (SMap.get Die.reset · d) (seesNoCopies_dies.noteUnits s k sp off n)
/-- The scratchpad after a write of it. -/
theorem State.tileWrite_pad (s : State) (k off n v : Nat) : ((s.tileWrite k 0 off n v).tile k).pad = (s.tile k).pad.writeN off n v := by
  have hnoted : (s.noteUnits k 0 off n).tile k = s.tile k := (seesNoCopies_tile k).noteUnits ..
  rw [State.tileWrite, State.tile_updTile, hnoted]
  rfl

/-- What the hardware fills in: the route's first byte, and the type and length in bytes 0x24 and 0x25. -/
theorem State.floodHeader_bytes (s : State) : s.floodHeader % 256 = 0xC0 ∧ s.floodHeader / 256 ^ 36 % 256 = 0x0E ∧ s.floodHeader / 256 ^ 37 % 256 = 0x10 := by
  have hroute : (mkRoute [0xC0]).toNat % 256 = 0xC0 := by decide
  have hshort := (mkRoute [0xC0]).isLt
  have hfirm : firmware = 64 := rfl
  rw [State.floodHeader, hfirm]
  omega

/-- The packet of a record, whose answers the sites behind its own do not owe. -/
def State.floodOf (s : State) (v : BitVec 512) : Flood :=
  { dtab := recField v 0x30 4, dbar := recField v 0x34 2, arriving := [],
    answered := (List.range 1056).filter fun i => decide (i / 33 < rowOf s.cur) || decide (i % 33 < colOf s.cur) }
/-- What `flood` leaves on its tile and on its die. -/
def State.flooded (s : State) (a : Word) : State :=
  (s.tileWrite s.cur 0 a.toNat 48 s.floodHeader).updDie (formeOf s.cur) fun d => { d with floods := d.floods ++ [s.floodOf (recordBits s a)] }
theorem State.flooded_floods (s : State) (a : Word) :
    ((s.flooded a).die (formeOf s.cur)).floods = (s.die (formeOf s.cur)).floods ++ [s.floodOf (recordBits s a)] := by
  rw [State.flooded, State.die_updDie, State.tileWrite_die]
theorem State.flooded_pad (s : State) (a : Word) {i : Nat} (hi : i < 48) (hw : s.myTile.pad.wf = true) :
    ((s.flooded a).tile s.cur).pad.read (a.toNat + i) = BitVec.ofNat 8 (s.floodHeader / 256 ^ i) := by
  rw [State.flooded, State.tile_updDie, State.tileWrite_pad]
  exact Memory.read_writeN_at hw hi ..
theorem State.flooded_route (s : State) (a : Word) (hw : s.myTile.pad.wf = true) : ((s.flooded a).tile s.cur).pad.read a.toNat = 0xC0 := by
  obtain ⟨hroute, -, -⟩ := s.floodHeader_bytes
  have hbyte := s.flooded_pad a (i := 0) (by decide) hw
  rw [Nat.add_zero, Nat.pow_zero, Nat.div_one] at hbyte
  rw [hbyte]
  exact BitVec.eq_of_toNat_eq ((BitVec.toNat_ofNat ..).trans hroute)
theorem State.flooded_word (s : State) (a : Word) (hw : s.myTile.pad.wf = true) :
    ((s.flooded a).tile s.cur).pad.readN (a.toNat + 0x24) 2 = 0x100E := by
  obtain ⟨-, hlow, hhigh⟩ := s.floodHeader_bytes
  rw [Memory.readN, Memory.readN, Memory.readN, Nat.add_assoc, s.flooded_pad a (by decide) hw, s.flooded_pad a (by decide) hw,
    BitVec.toNat_ofNat, BitVec.toNat_ofNat, hlow, hhigh]
theorem exec_flood_at {f : SDA} (ha : acts s f.h (some f.t) .m (opsDA f)) (hb : s.boot = true) (hr : recordAt s (s.rx f.a.num)) :
    exec (.flood f) s = completes ((s.flooded (s.rx f.a.num)).wx f.d.num 0) f.h (some f.t) := by
  rw [show exec (.flood f) s = execFlood f s from rfl, execFlood, sysDA_acts _ ha rfl]
  dsimp only
  rw [if_neg (by simp [hb]), State.readRecord_at _ hr]
  rfl

/-! ### halt (R338, R349) -/

/-- What `halt` writes before its end: `dstat`, and in boot mode the fail code of the first halt. -/
def State.halting (s : State) (v : Word) : State :=
  let s1 := s.updDie (s.dieOf s.cur) fun d => { d with dstat := v.setWidth 32 }
  if s.boot then { s1 with host := s1.host.failed (bitsAt v.toNat 8 8) (s.dieOf s.cur) } else s1
theorem State.halting_me (s : State) (v : Word) : (s.halting v).me = s.me := by
  unfold State.halting
  dsimp only
  split <;> rfl
theorem State.halting_dstat (s : State) (v : Word) : ((s.halting v).die (s.dieOf s.cur)).dstat = v.setWidth 32 := by
  have hdie : (s.halting v).die (s.dieOf s.cur) = (s.updDie (s.dieOf s.cur) fun d => { d with dstat := v.setWidth 32 }).die (s.dieOf s.cur) := by
    unfold State.halting
    dsimp only
    split <;> rfl
  rw [hdie, State.die_updDie]
/-- The first halt with a fail code is recorded. -/
theorem State.halting_host {v : Word} (hb : s.boot = true) (hp : s.host.phase ≠ 0xFF) (hv : v.toNat / 256 % 256 ≠ 0) :
    (s.halting v).host.phase = 0xFF ∧ (s.halting v).host.fcode.toNat = v.toNat / 256 % 256 := by
  have hcode : ¬ (s.host.phase = 0xFF ∨ bitsAt v.toNat 8 8 = 0) := not_or.2 ⟨hp, hv⟩
  have hhost : (s.halting v).host = s.host.failed (bitsAt v.toNat 8 8) (s.dieOf s.cur) := by
    rw [State.halting, if_pos hb]
    rfl
  rw [hhost, HostPort.failed, if_neg hcode]
  exact ⟨rfl, Nat.mod_eq_of_lt (Nat.mod_lt _ (by decide))⟩

theorem keepsSems_dstat (d : Nat) : KeepsSems fun s => (s.die d).dstat where
  ctx _ _ _ _ _ := rfl
  me _ _ _ := rfl
  mail _ _ _ := rfl
  die s e l := by
    by_cases h : d = e
    · rw [h, State.die_updDie]
    · rw [State.die_updDie_other _ _ h]
  stops _ _ _ := rfl
  trace _ _ _ := rfl
  sems _ _ := rfl
  times _ _ := rfl
theorem keepsSems_host : KeepsSems State.host := keepsSems_module _ (fun _ _ => rfl) (fun _ _ => rfl) fun _ _ => rfl

theorem exec_halt_at {f : SA} (ha : acts s f.h (some f.t) .m [(f.a, .rx)]) (hlegal : (s.rx f.a.num).toNat < 2 ^ 32) :
    let u := (s.halting (s.rx f.a.num)).finish f.h (some f.t) true false
    exec (.halt f) s = .next (if u.me.c.run == .ready then u.updC fun c => { c.stopRun s.gtime with run := .halted } else u) := by
  dsimp only
  rw [show exec (.halt f) s = execHalt f s from rfl, execHalt, sys_acts _ ha ((below_iff ..).2 hlegal)]
  rfl
/-- An instruction that goes on to the next word, out of a gang and a debug step. -/
theorem State.retire_plain {h : Head} (hg : s.me.c.gang = none) (hn : h.nas = 0) :
    (s.retire h true).me = { s.me with r := { s.me.r with pc := s.me.r.pc + 12 }, c := s.me.c.over } := by
  have hnext : nextPc h true s.me.r (s.rx (h.next.toNat % 128)) = .goto (s.me.r.pc + 12) false := by rw [nextPc, hn]; rfl
  rw [State.retire_eq_leave hg (by rw [hn]; rfl), State.leave_goto hg hnext, hn]
  rfl
/-- The end of a halt before the stop. -/
theorem State.halt_end {h : Head} {v : Word} (hg : s.me.c.gang = none) (hstep : s.me.c.stepping = false) (hn : h.nas = 0) :
    ((s.halting v).retire h true).me.r = { s.me.r with pc := s.me.r.pc + 12 } ∧ ((s.halting v).retire h true).me.c.run = .ready := by
  have hgang : (s.halting v).me.c.gang = none := by rw [State.halting_me, hg]
  rw [State.retire_plain hgang hn, State.halting_me]
  exact ⟨rfl, if_neg (by rw [hstep]; exact Bool.false_ne_true)⟩

/-! ### rflush (R132) -/

/-- Folding every entry empties a history. -/
theorem foldHist_all (l : List (BitVec 64 × BitVec 64)) (c : Cell) : (foldHist (fun _ => true) l c).hist = [] := by
  induction l generalizing c with
  | nil => rfl
  | cons e r ih => exact ih _

/-- A flushed slice: its watermark for the owner, and no entry of the owner's cells. -/
def State.flushed (s : State) (o w h : Nat) : Prop := (s.slice h).wmark.get 0 o = w ∧ (s.slice h).history o = 0
theorem State.flushSlice_flushes (s : State) (h o w : Nat) : (s.flushSlice h o w).flushed o w h := by
  have hslice : (s.flushSlice h o w).slice h = { (s.slice h) with
      cells := (s.slice h).cells.map (fun e => (e.1, e.2.map fun c => if c.owner = o then c.foldWhile fun _ => true else c)),
      wmark := (s.slice h).wmark.set o w } := by
    rw [State.flushSlice, State.slice_updSlice, if_pos rfl, State.foldCells, State.slice_updSlice, if_pos rfl]
  rw [State.flushed, hslice]
  refine ⟨SMap.get_set_same .., List.sum_eq_zero fun n hn => ?_⟩
  obtain ⟨e', he', rfl⟩ := List.mem_map.1 hn
  obtain ⟨e, -, rfl⟩ := List.mem_map.1 he'
  cases he : e.2 with
  | none => rfl
  | some c =>
    by_cases hc : c.owner = o
    · simp [hc, Cell.foldWhile, foldHist_all]
    · simp [hc]
theorem State.flushSlice_slice_other (s : State) {h j : Nat} (o w : Nat) (hj : j ≠ h) : (s.flushSlice h o w).slice j = s.slice j := by
  rw [State.flushSlice, State.slice_updSlice, if_neg hj, State.foldCells, State.slice_updSlice, if_neg hj]
/-- Each slice of a list is flushed, whatever comes after it. -/
theorem State.flushAll_flushes {o w h : Nat} {l : List Nat} (hl : h ∈ l) (s : State) :
    (l.foldl (fun s h => s.flushSlice h o w) s).flushed o w h := by
  induction l generalizing s with
  | nil => cases hl
  | cons a l ih =>
    by_cases hin : h ∈ l
    · exact ih hin _
    · have ha : h = a := (List.mem_cons.1 hl).resolve_right hin
      have hrest : ((a :: l).foldl (fun s h => s.flushSlice h o w) s).slice h = (s.flushSlice h o w).slice h := by
        rw [List.foldl_cons, ← ha]
        exact foldl_keeps_of_mem (p := fun s => s.slice h) l (fun s j hj => s.flushSlice_slice_other o w fun e => hin (e ▸ hj)) _
      rw [State.flushed, hrest]
      exact s.flushSlice_flushes h o w

theorem exec_rflush_all {f : MDA} (ha : acts s f.h none .s [(f.d, .wx), (f.a, .rx)]) (hscope : f.m.scope = 3) :
    ∃ n, exec (.rflush f) s = completes (((List.range 144).foldl
      (fun t h => t.flushSlice h (ownerOf s.cur) ((s.owner (ownerOf s.cur)).sstep.toNat % 2 ^ 24)) s).wx f.d.num n) f.h none := by
  obtain ⟨hd, hfree, -⟩ := ha
  rw [show exec (.rflush f) s = execRflush f s from rfl, execRflush, issue_does hd, passWait_none, if_neg (State.not_held_of_free hfree)]
  dsimp only
  rw [if_pos hscope, bitsAt_zero]
  exact ⟨_, rfl⟩
theorem exec_rflush_home {f : MDA} {pa slot h : Nat} {r : BitVec 128} {w : Bool} {s1 : State} (ha : acts s f.h none .s [(f.d, .wx), (f.a, .rx)])
    (hscope : f.m.scope ≠ 3) (hin : (eaOf s f.a f.m).toNat < 2 ^ 57)
    (hr : s.reach (eaOf s f.a f.m).toNat false false = .at_ pa slot (.slice h) r w s1) :
    ∃ n, exec (.rflush f) s = completes ((s1.flushSlice h (ownerOf s.cur) ((s.owner (ownerOf s.cur)).sstep.toNat % 2 ^ 24)).wx f.d.num n) f.h none := by
  obtain ⟨hd, hfree, -⟩ := ha
  have hspace : spaceCheck (eaOf s f.a f.m) 1 1 vaLimit = none := spaceCheck_passes (Nat.mod_one _) hin
  rw [show exec (.rflush f) s = execRflush f s from rfl, execRflush, issue_does hd, passWait_none, if_neg (State.not_held_of_free hfree)]
  dsimp only
  rw [if_neg hscope, bitsAt_zero, State.ea_eq_eaOf, hspace]
  dsimp only
  rw [hr]
  exact ⟨_, rfl⟩

end Sys2Proof.Machine

namespace Sys2Proof.Proofs

open Sys2Proof Sys2Proof.Machine Sys2Proof.Claims

/-- Settles O46: each instruction acts once nothing earlier of its context is open. -/
theorem masterInstructions : Obligations.MasterInstructions := by
  refine ⟨fun s f ha => ⟨fun hlegal => exec_scrub_at ha hlegal, fun hlegal => ⟨fun hnone => ?bareSite, fun k hsite htile => ⟨?fenced, ?idle⟩⟩,
      fun hb => ?noBoot, fun hb hrec => ?flood⟩,
    fun s f ha hlegal hrec => ?keyld, fun s f ha => ⟨fun hbad => ?haltBad, fun hlegal hn hsen hgang hstep => ?halt⟩,
    fun s f ha => ⟨fun hscope => ?flushAll, fun hscope pa slot h r w s1 hin hr => ?flushHome⟩⟩
  case bareSite =>
    rw [exec_fencecore_at ha hlegal rfl (ite_eq_right_iff.2 fun hsite => hnone.resolve_left hsite.not_ge)]
    rfl
  case fenced =>
    rw [exec_fencecore_at ha hlegal rfl ((if_pos hsite).trans htile)]
    refine ⟨(s.markSite (s.rx f.a.num)).fenceTile k, ?_, State.fenceTile_fenced _ k⟩
    rw [Option.elim_some, State.goOn]
    split
    · exact .inl rfl
    · exact .inr rfl
  case idle =>
    intro hk hrun hidle
    rw [exec_fencecore_at ha hlegal rfl ((if_pos hsite).trans htile)]
    refine ⟨(s.markSite (s.rx f.a.num)).fenceTile k, ?_, State.fenceTile_fenced _ k⟩
    have hme := State.fenceTile_ctx (s := s.markSite (s.rx f.a.num)) hidle
    rw [Option.elim_some, State.goOn, if_pos (by rw [hme]; exact beq_iff_eq.2 hrun)]
    rfl
  case noBoot =>
    rw [show exec (.flood f) s = execFlood f s from rfl, execFlood, sysDA_acts _ ha rfl, if_pos (by simp [hb]), conclude_trap]
  case flood =>
    exact ⟨_, _, exec_flood_at ha hb hrec, State.flooded_floods .., rfl, rfl, fun hw => ⟨State.flooded_route s _ hw, State.flooded_word s _ hw⟩⟩
  case keyld =>
    refine ⟨s.keyRecord (s.rx f.a.num).toNat (recordBits s (s.rx f.b.num)), ?_, rfl, rfl, rfl, rfl, rfl, rfl, rfl, fun l slot hslot => ?_, fun l hl => ?_⟩
    · rw [show exec (.keyld f) s = execKeyld f s from rfl, execKeyld, sysDAB_acts _ ha ((below_iff ..).2 hlegal)]
      dsimp only
      rw [State.readRecord_at _ hrec]
      rfl
    · exact s.takeKeys_lineRead_other _ l hslot
    · refine State.lineRead_clear ?_
      rw [State.takeKeys_keyPair, if_pos rfl]
      exact hl
  case haltBad =>
    obtain ⟨hd, -, hw⟩ := ha
    have hill : below 32 (s.rx f.a.num) = false := decide_eq_false hbad.not_gt
    rw [show exec (.halt f) s = execHalt f s from rfl, execHalt, State.sys, issue_does hd, passWait_bare (hw _ rfl), if_pos (by simp [hill]),
      conclude_trap]
  case halt =>
    obtain ⟨hregs, hready⟩ := State.halt_end (v := s.rx f.a.num) hgang hstep hn
    rw [exec_halt_at ha hlegal, finish_quiet hsen]
    refine ⟨_, rfl, ?_⟩
    rw [if_pos (beq_iff_eq.2 hready)]
    refine ⟨?_, ?_, ?_, fun hb hp hv => ?_⟩
    · rw [State.me_updC]
    · exact ((keepsSems_dstat _).toKeeps.retire ..).trans (s.halting_dstat _)
    · rw [State.me_updC]
      exact hregs
    · have hhost : ((s.halting (s.rx f.a.num)).retire f.h true).host = (s.halting (s.rx f.a.num)).host := keepsSems_host.toKeeps.retire ..
      have hfailed := State.halting_host hb hp hv
      rw [← hhost] at hfailed
      exact hfailed
  case flushAll =>
    obtain ⟨n, hexec⟩ := exec_rflush_all ha hscope
    exact ⟨_, n, hexec, fun h hh => State.flushAll_flushes (List.mem_range.2 hh) s⟩
  case flushHome =>
    obtain ⟨n, hexec⟩ := exec_rflush_home ha hscope hin hr
    exact ⟨_, n, hexec, s1.flushSlice_flushes h _ _⟩

end Sys2Proof.Proofs
end

section
/-! SUPPORT. Updates of a barrier object (R136 to R138, R143, R148): its sixteen bytes as fields and back, what a stored object reads as, whom
a completed phase answers, and the store that each update is. -/

namespace Sys2Proof.Machine

open Sys2Proof.Claims

variable {s : State} {k off : Nat} {b : BarObj}

/-! ### The fields of an object (R136) -/

/-- Every field fits its place in the sixteen bytes. -/
structure BarObj.Fits (b : BarObj) : Prop where
  gid : b.gid < 2 ^ 16
  ecode : b.ecode < 2 ^ 8
  outsec : b.outsec < 2 ^ 32
  insec : b.insec < 2 ^ 32
  gen : b.gen < 2 ^ 4
  expect : b.expect < 2 ^ 12
  pend : b.pend < 2 ^ 12
  rsv : b.rsv < 2 ^ 2
  rsv2 : b.rsv2 < 2 ^ 8

theorem bitsAt_lt (n lo w : Nat) : bitsAt n lo w < 2 ^ w := Nat.mod_lt _ (Nat.two_pow_pos w)
theorem bit_lt (c : Bool) : bit c < 2 := by cases c <;> decide
theorem BarObj.ofNat_fits (v : Nat) : (BarObj.ofNat v).Fits := by
  constructor <;> exact bitsAt_lt ..
theorem State.barObj_fits (s : State) (k off : Nat) : (s.barObj k off).Fits := BarObj.ofNat_fits _
theorem BarObj.word0_lt (h : b.Fits) : b.word0 < 2 ^ 32 := by
  obtain ⟨-, -, -, -, hgen, hexpect, hpend, hrsv, -⟩ := h
  have herr := bit_lt b.err
  have hwdn := bit_lt b.wdn
  unfold BarObj.word0
  omega
theorem BarObj.toNat_lt (h : b.Fits) : b.toNat < 256 ^ 16 := by
  have hword := BarObj.word0_lt h
  obtain ⟨hgid, hecode, hout, hin, -, -, -, -, hrsv2⟩ := h
  unfold BarObj.toNat
  omega
/-- The bytes of an object read back as its fields. -/
theorem BarObj.ofNat_toNat (h : b.Fits) : BarObj.ofNat b.toNat = b := by
  have hword := BarObj.word0_lt h
  obtain ⟨hgid, hecode, hout, hin, hgen, hexpect, hpend, hrsv, hrsv2⟩ := h
  obtain ⟨gid, ecode, outsec, insec, gen, err, wdn, expect, pend, rsv, rsv2⟩ := b
  have herr : bit err = 1 ↔ err = true := by cases err <;> decide
  have hwdn : bit wdn = 1 ↔ wdn = true := by cases wdn <;> decide
  have hbits := bit_lt err
  have hbits' := bit_lt wdn
  simp only [BarObj.ofNat, BarObj.mk.injEq, bitsAt, bitAt, BarObj.toNat, BarObj.word0] at *
  refine ⟨?_, ?_, ?_, ?_, ?_, ?_, ?_, ?_, ?_, ?_, ?_⟩
  case refine_6 => rw [Bool.eq_iff_iff, beq_iff_eq, ← herr]; omega
  case refine_7 => rw [Bool.eq_iff_iff, beq_iff_eq, ← hwdn]; omega
  all_goals omega

/-! ### What an object reads as -/

theorem State.tileRead_congr {s t : State} {n : Nat} (h : (t.tile k).pad = (s.tile k).pad) : t.tileRead k 0 off n = s.tileRead k 0 off n :=
  congrArg (fun m => Memory.readN m off n) h
theorem State.barObj_congr {s t : State} (h : (t.tile k).pad = (s.tile k).pad) : t.barObj k off = s.barObj k off :=
  congrArg BarObj.ofNat (State.tileRead_congr h)
theorem State.tileRead_tileWrite (hw : (s.tile k).pad.wf = true) (n v : Nat) :
    (s.tileWrite k 0 off n v).tileRead k 0 off n = v % 256 ^ n :=
  (congrArg (fun m => Memory.readN m off n) (s.tileWrite_pad k off n v)).trans (Memory.readN_writeN_same hw off n v)
theorem State.barObj_tileWrite (hw : (s.tile k).pad.wf = true) (hb : b.Fits) : (s.tileWrite k 0 off 16 b.toNat).barObj k off = b := by
  rw [State.barObj, State.tileRead_tileWrite hw, Nat.mod_eq_of_lt (BarObj.toNat_lt hb), BarObj.ofNat_toNat hb]

/-! ### Waiters (R138) -/

theorem seesNoObjects_barWait : SeesNoObjects Tile.barWait := ⟨fun _ _ _ _ _ _ _ _ _ _ => rfl⟩

/-- The party at p has been answered with v in the low 32 bits. -/
def State.answered (s : State) (p v : Nat) : Prop := ∃ x, (s.ctx (p / 1024) (p % 1024)).c.phase = .granted x ∧ x.toNat % 2 ^ 32 = v
theorem timed_toNat {v : Nat} (hv : v < 2 ^ 64) (t : BitVec 48) : (timed v t).toNat = v + t.toNat * 2 ^ 64 := by
  have := t.isLt
  rw [timed, BitVec.toNat_ofNat, Nat.mod_eq_of_lt (by omega)]
theorem timed_word {v : Nat} (hv : v < 2 ^ 32) (t : BitVec 48) : (timed v t).toNat % 2 ^ 32 = v := by
  rw [timed_toNat (by omega)]
  omega
theorem State.wakeWaiter_answers {v p : Nat} {w : BarWaiter} (hv : v < 2 ^ 32) (hp : w.ctx = some p) : (s.wakeWaiter v w).answered p v := by
  refine ⟨_, ?_, timed_word hv (s.gtime.setWidth 48)⟩
  rw [State.wakeWaiter, hp]
  dsimp only
  rw [State.ctx_updCtx]
/-- Waking a waiter leaves a party that has been answered so, or answers it so again. -/
theorem State.wakeWaiter_keeps_answered {v p : Nat} (hv : v < 2 ^ 32) (w : BarWaiter) (h : s.answered p v) : (s.wakeWaiter v w).answered p v := by
  cases hw : w.ctx with
  | none =>
    rw [State.wakeWaiter, hw]
    exact h
  | some q =>
    by_cases hq : p / 1024 = q / 1024 ∧ p % 1024 = q % 1024
    · have hpq : p = q := by omega
      exact State.wakeWaiter_answers hv (hpq ▸ hw)
    · rw [State.answered, State.wakeWaiter, hw]
      dsimp only
      rw [State.ctx_updCtx_other _ _ (by omega)]
      exact h
theorem State.wakeWaiters_answer {v p : Nat} (hv : v < 2 ^ 32) {w : BarWaiter} (hp : w.ctx = some p) {l : List BarWaiter} (hl : w ∈ l) (s : State) :
    (l.foldl (fun s w => s.wakeWaiter v w) s).answered p v := by
  have hkeeps (l : List BarWaiter) : ∀ s : State, s.answered p v → (l.foldl (fun s w => s.wakeWaiter v w) s).answered p v := by
    induction l with
    | nil => exact fun _ h => h
    | cons a l ih => exact fun s h => ih _ (State.wakeWaiter_keeps_answered hv a h)
  induction l generalizing s with
  | nil => cases hl
  | cons a l ih =>
    rcases List.mem_cons.1 hl with rfl | hin
    · exact hkeeps l _ (State.wakeWaiter_answers hv hp)
    · exact ih hin _
/-- Waking waiters changes of a tile nothing but its contexts. -/
theorem State.wakeWaiters_tile {β : Type} {q : Tile → β} (hq : ∀ t c, q { t with ctxs := c } = q t) (v : Nat) (l : List BarWaiter) (s : State)
    (j : Nat) : q ((l.foldl (fun s w => s.wakeWaiter v w) s).tile j) = q (s.tile j) := by
  refine foldl_keeps (p := fun s => q (s.tile j)) (fun s w => ?_) l s
  unfold State.wakeWaiter
  split
  · rw [State.tile_updCtx, hq]
  · rfl

/-! ### Storing an updated object (R138) -/

/-- The update completes the phase: nothing is pending. -/
def BarObj.done (b : BarObj) : Prop := b.pend = 0 ∧ b.insec = 0 ∧ b.outsec = 0
/-- The object of the next generation. -/
def BarObj.next (b : BarObj) : BarObj := { b with gen := (b.gen + 1) % 16, pend := b.expect }
/-- What a completed phase changes of its tile beside the object: no one waits on it any more, its next update is a generation's first, and
the present is the time at which it completed. -/
def State.phaseOver (s : State) (k off : Nat) : State :=
  s.updTile k fun t =>
    { t with barWait := t.barWait.filter (fun w => w.off != off), barFresh := insNat t.barFresh off,
             barTime := t.barTime.set off (s.gtime.setWidth 48) }
theorem State.phaseOver_pad (s : State) (k off : Nat) : ((s.phaseOver k off).tile k).pad = (s.tile k).pad := by
  rw [State.phaseOver, State.tile_updTile]
theorem State.phaseOver_barWait (s : State) (k off : Nat) :
    ((s.phaseOver k off).tile k).barWait = (s.tile k).barWait.filter fun w => w.off != off := by
  rw [State.phaseOver, State.tile_updTile]

theorem State.barStore_untested (s : State) (k off : Nat) (b : BarObj) : s.barStore k off b false = s.tileWrite k 0 off 16 b.toNat := rfl
theorem State.barStore_pending (h : ¬ b.done) : s.barStore k off b true = s.tileWrite k 0 off 16 b.toNat := by
  rw [BarObj.done] at h
  rw [State.barStore, if_neg (by simpa [and_assoc] using h)]
theorem State.barStore_done (h : b.done) :
    s.barStore k off b true =
      ((s.tile k).barWait.filter fun w => w.off == off).foldl (fun s w => s.wakeWaiter b.word0 w)
        ((s.tileWrite k 0 off 16 b.next.toNat).phaseOver k off) := by
  have hwait : ((s.tileWrite k 0 off 16 b.next.toNat).tile k).barWait = (s.tile k).barWait := seesNoObjects_barWait.tileWrite ..
  obtain ⟨hpend, hin, hout⟩ := h
  rw [State.barStore, if_pos (by simp [hpend, hin, hout]), ← hwait]
  rfl

theorem BarObj.next_fits (hb : b.Fits) : b.next.Fits := by
  obtain ⟨hgid, hecode, hout, hin, -, hexpect, -, hrsv, hrsv2⟩ := hb
  exact ⟨hgid, hecode, hout, hin, Nat.mod_lt (b.gen + 1) (y := 16) (by decide), hexpect, hexpect, hrsv, hrsv2⟩
theorem State.barStore_done_object (h : b.done) (hw : (s.tile k).pad.wf = true) (hb : b.Fits) :
    (s.barStore k off b true).barObj k off = b.next := by
  have hpad : ((s.barStore k off b true).tile k).pad = ((s.tileWrite k 0 off 16 b.next.toNat).tile k).pad := by
    rw [State.barStore_done h, State.wakeWaiters_tile (q := Tile.pad) fun _ _ => rfl, State.phaseOver_pad]
  rw [State.barObj_congr hpad, State.barObj_tileWrite hw (BarObj.next_fits hb)]
theorem State.barStore_done_waiters (h : b.done) : ∀ w ∈ ((s.barStore k off b true).tile k).barWait, w.off ≠ off := by
  have hleft : ((s.barStore k off b true).tile k).barWait = ((s.tile k).barWait).filter fun w => w.off != off := by
    rw [State.barStore_done h, State.wakeWaiters_tile (q := Tile.barWait) fun _ _ => rfl, State.phaseOver_barWait]
    exact congrArg (List.filter _) (seesNoObjects_barWait.tileWrite ..)
  rw [hleft]
  exact fun w hw => bne_iff_ne.1 (List.mem_filter.1 hw).2
theorem State.barStore_done_answers (h : b.done) (hb : b.Fits) {w : BarWaiter} (hw : w ∈ (s.tile k).barWait) (ho : w.off = off) {p : Nat}
    (hp : w.ctx = some p) : (s.barStore k off b true).answered p b.word0 := by
  rw [State.barStore_done h]
  exact State.wakeWaiters_answer (BarObj.word0_lt hb) hp (List.mem_filter.2 ⟨hw, (beq_iff_eq (a := w.off)).2 ho⟩) _

/-! ### The updates (R143, R148) -/

section
variable (hsettled : (s.tile k).barFresh.contains off = false)
include hsettled

/-- Once a generation has had its first update, the object is taken as it stands. -/
theorem State.barBegin_settled : s.barBegin k off = (s.barObj k off, s) := by
  rw [State.barBegin, hsettled]
  rfl
theorem State.barArrive_counted (hp : (s.barObj k off).pend ≠ 0) :
    (s.barArrive k off).2.1 = s.barStore k off { s.barObj k off with pend := (s.barObj k off).pend - 1 } true := by
  rw [State.barArrive, State.barBegin_settled hsettled]
  dsimp only
  rw [if_neg hp]
theorem State.barArrive_excess (hp : (s.barObj k off).pend = 0) :
    (s.barArrive k off).2.1 = s.tileWrite k 0 off 16 ((s.barObj k off).error 1).toNat := by
  rw [State.barArrive, State.barBegin_settled hsettled]
  dsimp only
  rw [if_pos hp, State.barStore_untested]
theorem State.barJoin_counted (he : (s.barObj k off).expect < 4095) :
    s.barJoin k off = (s.tileWrite k 0 off 16 ({ s.barObj k off with
      expect := (s.barObj k off).expect + 1, pend := min 4095 ((s.barObj k off).pend + 1) } : BarObj).toNat, true) := by
  have hfits := (s.barObj_fits k off).pend
  have hpend : (if (s.barObj k off).pend < 4095 then (s.barObj k off).pend + 1 else (s.barObj k off).pend) =
      min 4095 ((s.barObj k off).pend + 1) := by split <;> omega
  rw [State.barJoin, State.barBegin_settled hsettled]
  dsimp only
  rw [if_neg (by omega), hpend, State.barStore_untested]
theorem State.barJoin_overflows (he : (s.barObj k off).expect = 4095) :
    s.barJoin k off = (s.tileWrite k 0 off 16 ((s.barObj k off).error 5).toNat, false) := by
  rw [State.barJoin, State.barBegin_settled hsettled]
  dsimp only
  rw [if_pos he, State.barStore_untested]

end

/-- The first error of an object. -/
theorem BarObj.error_first (h : b.err = false) (n : Nat) : b.error n = { b with err := true, ecode := n } := by
  rw [BarObj.error, if_neg (by simp [h])]

end Sys2Proof.Machine

namespace Sys2Proof.Proofs

open Sys2Proof Sys2Proof.Machine Sys2Proof.Claims

/-- Settles O22: every update is one store of the object, and the store alone tells whether the phase is over. -/
theorem barrierObjectUpdates : Obligations.BarrierObjectUpdates := by
  intro s k off hsettled hw
  dsimp only
  have hfits := s.barObj_fits k off
  have herror (n : Nat) (hn : n < 2 ^ 8) (he : (s.barObj k off).err = false) :
      (s.tileWrite k 0 off 16 ((s.barObj k off).error n).toNat).barObj k off = { s.barObj k off with err := true, ecode := n } := by
    rw [BarObj.error_first he]
    exact State.barObj_tileWrite hw { hfits with ecode := hn }
  refine ⟨fun hp hopen => ?arrival, fun hp hin hout => ?completion, fun hp he => ?excess, fun he => ?join, fun he herr => ?overflow⟩
  case arrival =>
    have hopen' : ¬ ({ s.barObj k off with pend := (s.barObj k off).pend - 1 } : BarObj).done := by
      rw [BarObj.done]
      dsimp only
      omega
    rw [State.barArrive_counted hsettled hp, State.barStore_pending hopen']
    exact State.barObj_tileWrite hw { hfits with pend := (Nat.sub_le ..).trans_lt hfits.pend }
  case completion =>
    have hlast : ({ s.barObj k off with pend := (s.barObj k off).pend - 1 } : BarObj) = { s.barObj k off with pend := 0 } := by rw [hp]
    have hdone : ({ s.barObj k off with pend := 0 } : BarObj).done := ⟨rfl, hin, hout⟩
    have hzero : ({ s.barObj k off with pend := 0 } : BarObj).Fits := { hfits with pend := Nat.two_pow_pos 12 }
    rw [State.barArrive_counted hsettled (by omega), hlast]
    exact ⟨State.barStore_done_object hdone hw hzero, fun w hmem ho p hctx => State.barStore_done_answers hdone hzero hmem ho hctx,
      State.barStore_done_waiters hdone⟩
  case excess =>
    rw [State.barArrive_excess hsettled hp]
    exact herror 1 (by decide) he
  case join =>
    rw [State.barJoin_counted hsettled he]
    exact ⟨rfl, State.barObj_tileWrite hw { hfits with expect := by dsimp only; omega, pend := by dsimp only; omega }⟩
  case overflow =>
    rw [State.barJoin_overflows hsettled he]
    exact ⟨rfl, herror 5 (by decide) herr⟩

end Sys2Proof.Proofs
end

section
/-! SUPPORT. Barrier instructions on an object of the own scratchpad (R141 to R145): what each finds past its checks, and how a wait that is
answered ends. -/

namespace Sys2Proof.Machine

open Sys2Proof.Claims

variable {s : State}

/-! ### What stands before an access to an object (R141, R382) -/

theorem barCheck_passes {ea : Word} (ha : ea.toNat % 16 = 0) (hl : ea.toNat ≤ 0x7FF0) : barCheck ea = none := by
  rw [barCheck, if_neg (not_not.2 ha), if_neg hl.not_gt]
theorem State.barAccess_unmet {off : Nat} {rd wr : Bool} (h : s.myTile.watchAt s.curCtx 0 off 16 rd wr = none) (r : Res) :
    s.barAccess off rd wr r = r := by
  rw [State.barAccess, State.watched_unmet h]
  rfl

/-! ### A wait that passes (R110) -/

theorem timed_time {v : Nat} (hv : v < 2 ^ 64) (t : BitVec 48) : (timed v t >>> 64).setWidth 48 = t := by
  have := t.isLt
  refine BitVec.eq_of_toNat_eq ?_
  rw [BitVec.toNat_setWidth, BitVec.toNat_ushiftRight, timed_toNat hv, Nat.shiftRight_eq_div_pow]
  omega
theorem timed_value {v : Nat} (hv : v < 2 ^ 64) (t : BitVec 48) : (timed v t).setWidth 64 = BitVec.ofNat 64 v := by
  refine BitVec.eq_of_toNat_eq ?_
  rw [BitVec.toNat_setWidth, timed_toNat hv, BitVec.toNat_ofNat]
  omega
/-- An answer that carries its time gives its value to xd and the time to the clearance mark. -/
theorem State.passedAt_timed {v : Nat} (hv : v < 2 ^ 64) (t : BitVec 48) (d : Nat) :
    (s.passedAt (timed v t)).wx d ((timed v t).setWidth 64) = (s.updY (·.passed t)).wx d (BitVec.ofNat 64 v) := by
  rw [State.passedAt, timed_time hv, timed_value hv]

/-! ### bar.init (R142) -/

theorem seesNoCopies_curCtx : SeesNoCopies State.curCtx := ⟨fun _ _ _ _ _ => rfl⟩
theorem Tile.put_ctxs (t : Tile) (sp off n : Nat) (f : Memory → Memory) : (t.put sp off n f).ctxs = t.ctxs := by
  unfold Tile.put
  dsimp only
  split <;> rfl
theorem State.tileWrite_ctx (s : State) (k sp off n v j c : Nat) : (s.tileWrite k sp off n v).ctx j c = s.ctx j c := by
  have hnoted : (s.noteUnits k sp off n).tile j = s.tile j := (seesNoCopies_tile j).noteUnits ..
  rw [State.tileWrite, State.ctx_updTile _ _ _ fun t => t.put_ctxs .., State.ctx, hnoted]
  rfl
theorem State.tileWrite_curCtx (s : State) (k sp off n v : Nat) : (s.tileWrite k sp off n v).curCtx = s.curCtx := seesNoCopies_curCtx.noteUnits ..

/-- A new object: its count expected and pending, nothing else set. -/
def BarObj.made (expect gid : Nat) : BarObj :=
  { gid := gid, ecode := 0, outsec := 0, insec := 0, gen := 0, err := false, wdn := false, expect := expect, pend := expect, rsv := 0, rsv2 := 0 }
theorem BarObj.made_toNat (expect gid : Nat) : (BarObj.made expect gid).toNat = expect * 4097 + gid * 2 ^ 112 := by
  simp only [BarObj.toNat, BarObj.word0, BarObj.made, show bit false = 0 from rfl]
  omega
/-- An object that no one waits on, and whose next update is not a generation's first. -/
def State.unheld (s : State) (k off : Nat) : State :=
  s.updTile k fun t => { t with barWait := t.barWait.filter (fun w => w.off != off), barFresh := t.barFresh.filter (· != off) }
theorem State.unheld_pad (s : State) (k off : Nat) : ((s.unheld k off).tile k).pad = (s.tile k).pad := by
  rw [State.unheld, State.tile_updTile]
theorem State.unheld_xr (s : State) (k off j : Nat) : ((s.unheld k off).tile j).xr = (s.tile j).xr :=
  State.tile_updTile_keeps Tile.xr s k
    (fun t => { t with barWait := t.barWait.filter (fun w => w.off != off), barFresh := t.barFresh.filter (· != off) }) rfl j
theorem State.unheld_me (s : State) (k off : Nat) : (s.unheld k off).me = s.me :=
  s.ctx_updTile k
    (fun t => { t with barWait := t.barWait.filter (fun w => w.off != off), barFresh := t.barFresh.filter (· != off) }) (fun _ => rfl)
    s.cur s.curCtx

/-- The own tile with an object as `bar.init` leaves it. -/
def State.withObject (s : State) (off : Nat) (b : BarObj) : State := (s.tileWrite s.cur 0 off 16 b.toNat).unheld s.cur off
theorem State.barInit_unheld {off : Nat} (hin : (s.barObj s.cur off).insec = 0) (hout : (s.barObj s.cur off).outsec = 0)
    (hfree : ∀ w ∈ s.myTile.barWait, w.off ≠ off) (expect gid : Nat) :
    s.barInit s.cur off expect gid = some (s.withObject off (BarObj.made expect gid)) := by
  have hnone : (s.tile s.cur).barWait.filter (fun w => w.off == off) = [] :=
    List.filter_eq_nil_iff.2 fun w hw => by simpa using hfree w hw
  rw [State.barInit, if_neg (by simp [hin, hout])]
  dsimp only
  rw [hnone, if_pos rfl]
  rfl
theorem State.withObject_tileRead {off : Nat} (hw : s.myTile.pad.wf = true) (b : BarObj) :
    (s.withObject off b).tileRead s.cur 0 off 16 = b.toNat % 256 ^ 16 :=
  (State.tileRead_congr (State.unheld_pad ..)).trans (State.tileRead_tileWrite hw ..)
theorem State.withObject_me (s : State) (off : Nat) (b : BarObj) : (s.withObject off b).me = s.me := by
  rw [State.withObject, State.unheld_me, State.me, State.tileWrite_ctx, State.tileWrite_cur, State.tileWrite_curCtx, State.me]
theorem State.withObject_xr (s : State) (off : Nat) (b : BarObj) (k : Nat) : ((s.withObject off b).tile k).xr = (s.tile k).xr :=
  (State.unheld_xr ..).trans (seesNoObjects_xr.tileWrite ..)

theorem exec_barInit_at {f : MAB} {s1 : State} {b : Nat} (hd : s.does f.h none .u [(f.a, .rx), (f.b, .rx)] = true)
    (hr : barReady s (eaOf s f.a f.m) true) (hb : (s.rx f.b.num).toNat = b) (hlt : b < 2 ^ 32) (hzero : b / 2 ^ 12 % 16 = 0)
    (hi : s.barInit s.cur (eaOf s f.a f.m).toNat (b % 4096) (b / 65536) = some s1) : exec (.barInit f) s = completes s1 f.h none := by
  obtain ⟨-, hacq, hvec, ha, hl, hw⟩ := hr
  have hcount : bitsAt b 0 12 = b % 4096 := bitsAt_zero ..
  have hgid : bitsAt b 16 16 = b / 65536 := bitsAt_top hlt
  have hhigh : bitsAt b 32 32 = 0 := by rw [bitsAt, Nat.div_eq_of_lt hlt, Nat.zero_mod]
  have hmid : bitsAt b 12 4 = 0 := hzero
  rw [show exec (.barInit f) s = execBarInit f s from rfl, execBarInit, issue_does hd, passWait_none]
  dsimp only
  rw [State.ea_eq_eaOf, hb, hmid, hhigh, if_neg (by simp), hacq, hvec, if_neg (by simp), barCheck_passes ha hl]
  dsimp only
  rw [State.barAccess_unmet hw, hcount, hgid, hi]
  rfl

/-! ### Arrivals (R143, R145) -/

/-- An arrival reports word 0 as it stood. -/
theorem State.barArrive_word (s : State) (k off : Nat) : (s.barArrive k off).1 = (s.barObj k off).word0 := by
  unfold State.barArrive
  dsimp only
  split <;> rfl
theorem State.barBegin_pend (s : State) (k off : Nat) : (s.barBegin k off).1.pend = (s.barObj k off).pend := by
  unfold State.barBegin
  dsimp only
  split <;> rfl
/-- One at an object with something pending counts. -/
theorem State.barArrive_counts {k off : Nat} (h : (s.barObj k off).pend ≠ 0) : (s.barArrive k off).2.2 = true := by
  unfold State.barArrive
  dsimp only
  rw [if_neg (by rw [State.barBegin_pend]; exact h)]
theorem State.barArrive_eq {k off : Nat} {w : Nat} (hw : (s.barObj k off).word0 = w) :
    s.barArrive k off = (w, (s.barArrive k off).2.1, (s.barArrive k off).2.2) := by
  rw [← hw, ← State.barArrive_word]
theorem State.holdOn_barObj (s : State) (k off off' : Nat) : (s.holdOn off').barObj k off = s.barObj k off :=
  State.barObj_congr (State.tile_updTile_keeps Tile.pad _ _ _ rfl k)

theorem exec_barArr_ready {f : MDA} (hd : s.does f.h none .u [(f.d, .wx), (f.a, .rx)] = true) (hs : f.m.space ≠ 3)
    (hr : barReady s (eaOf s f.a f.m) true) (hq : s.quietBut s.cur (eaOf s f.a f.m).toNat = true) :
    let off := (eaOf s f.a f.m).toNat
    let w := (s.barObj s.cur off).word0
    exec (.barArr f) s = completes ((((s.barArrive s.cur off).2.1).noteArrival s.cur s.curCtx false 0 off w).wx f.d.num
      (BitVec.ofNat 64 w)) f.h none := by
  obtain ⟨hf, hacq, -, ha, hl, hw⟩ := hr
  have hown : (f.m.space == 3) = false := beq_false_of_ne hs
  rw [show exec (.barArr f) s = execBarArr f s from rfl, execBarArr, issue_does hd, passWait_none]
  dsimp only
  rw [State.resumed_fresh hf]
  dsimp only
  rw [State.ea_eq_eaOf, barCheck_passes ha hl, hown]
  dsimp only
  rw [if_neg Bool.false_ne_true, if_neg Bool.false_ne_true, hacq, hq, if_neg (by simp), State.barAccess_unmet hw, State.barArrive_eq rfl]
  rfl
/-- `bar.arw` once nothing earlier holds it: the context is held, arrives, and is answered or not. -/
theorem exec_barArw_ready {f : MDA} {s1 : State} (hd : s.does f.h none .u [(f.d, .wx), (f.a, .rx)] = true) (hs : f.m.space ≠ 3)
    (hr : barReady s (eaOf s f.a f.m) true) (hq : s.quietBut s.cur (eaOf s f.a f.m).toNat = true)
    (hp : (s.barObj s.cur (eaOf s f.a f.m).toNat).pend ≠ 0)
    (h1 : ((s.holdOn (eaOf s f.a f.m).toNat).barArrive s.cur (eaOf s f.a f.m).toNat).2.1.noteArrival s.cur s.curCtx false 0
      (eaOf s f.a f.m).toNat (s.barObj s.cur (eaOf s f.a f.m).toNat).word0 = s1) :
    exec (.barArw f) s = match s1.me.c.phase with
      | .granted v => completes ((s1.passedAt v).wx f.d.num (v.setWidth 64)) f.h none
      | _ => .next (armed s1 0) := by
  obtain ⟨hf, hacq, -, ha, hl, hw⟩ := hr
  have hown : (f.m.space == 3) = false := beq_false_of_ne hs
  have hcounts : ((s.holdOn (eaOf s f.a f.m).toNat).barArrive s.cur (eaOf s f.a f.m).toNat).2.2 = true :=
    State.barArrive_counts (by rw [State.holdOn_barObj]; exact hp)
  rw [show exec (.barArw f) s = execBarArw f s from rfl, execBarArw, issue_does hd, passWait_none]
  dsimp only
  rw [State.resumed_fresh hf]
  dsimp only
  rw [State.ea_eq_eaOf, barCheck_passes ha hl, hown]
  dsimp only
  rw [if_neg Bool.false_ne_true, if_neg Bool.false_ne_true, hacq, hq, if_neg (by simp), State.barAccess_unmet hw,
    State.barArrive_eq (congrArg BarObj.word0 (State.holdOn_barObj ..)), hcounts]
  dsimp only
  rw [h1]
  cases s1.me.c.phase with
  | granted v => rfl
  | _ => exact conclude_armWait ..

/-! ### bar.wait and bar.st (R144, R141) -/

theorem exec_barWait_ready {f : MDAB} (hd : s.does f.h none .u [(f.d, .wx), (f.a, .rx), (f.b, .rx)] = true) (hs : f.m.space ≠ 3)
    (hb : (s.rx f.b.num).toNat < 16) (hr : barReady s (eaOf s f.a f.m) false) :
    let off := (eaOf s f.a f.m).toNat
    let b := s.barObj s.cur off
    exec (.barWait f) s =
      if b.gen ≠ (s.rx f.b.num).toNat then
        completes ((s.updY (·.passed (s.myTile.barTime.get 0 off))).wx f.d.num (BitVec.ofNat 64 b.word0)) f.h none
      else .next (armed (s.holdOn off) 0) := by
  obtain ⟨hf, hacq, hvec, ha, hl, hw⟩ := hr
  have hword : (s.barObj s.cur (eaOf s f.a f.m).toNat).word0 < 2 ^ 64 := (BarObj.word0_lt (s.barObj_fits ..)).trans (by decide)
  rw [show exec (.barWait f) s = execBarWait f s from rfl, execBarWait, issue_does hd, passWait_none]
  dsimp only
  rw [State.resumed_fresh hf]
  dsimp only
  rw [if_neg hb.not_ge, State.ea_eq_eaOf, barCheck_passes ha hl, hacq, hvec]
  dsimp only
  rw [if_neg (by simp), if_neg hs, State.barAccess_unmet hw, State.passedAt_timed hword]
  split
  · rfl
  · exact conclude_armWait ..

/-- The bytes of a run are those of its two parts. -/
theorem Memory.readN_add (m : Memory) (a n k : Nat) : m.readN a (n + k) = m.readN a n + 256 ^ n * m.readN (a + n) k := by
  induction n generalizing a with
  | zero => simp [Memory.readN]
  | succ n ih =>
    have hnext : a + 1 + n = a + (n + 1) := by omega
    rw [Nat.add_right_comm, Memory.readN, Memory.readN, ih, hnext]
    ring
/-- A quadword as its two doublewords. -/
theorem State.tileRead_quad (s : State) (k sp off : Nat) :
    (BitVec.ofNat 128 (s.tileRead k sp off 16)).setWidth 64 = BitVec.ofNat 64 (s.tileRead k sp off 8) ∧
    (BitVec.ofNat 128 (s.tileRead k sp off 16) >>> 64).setWidth 64 = BitVec.ofNat 64 (s.tileRead k sp (off + 8) 8) := by
  have hsplit : s.tileRead k sp off 16 = s.tileRead k sp off 8 + 256 ^ 8 * s.tileRead k sp (off + 8) 8 := Memory.readN_add _ off 8 8
  have hlow : s.tileRead k sp off 8 < 256 ^ 8 := Memory.readN_lt ..
  have hhigh : s.tileRead k sp (off + 8) 8 < 256 ^ 8 := Memory.readN_lt ..
  rw [hsplit]
  constructor <;> refine BitVec.eq_of_toNat_eq ?_
  · simp only [BitVec.toNat_setWidth, BitVec.toNat_ofNat]
    omega
  · simp only [BitVec.toNat_setWidth, BitVec.toNat_ofNat, BitVec.toNat_ushiftRight, Nat.shiftRight_eq_div_pow]
    omega
theorem exec_barSt_ready {f : MDA} (hd : s.does f.h none .u [(f.d, .wpair), (f.a, .rx)] = true) (hs : f.m.space ≠ 3)
    (hr : barReady s (eaOf s f.a f.m) false) :
    exec (.barSt f) s = completes ((s.wx f.d.num (BitVec.ofNat 64 (s.tileRead s.cur 0 (eaOf s f.a f.m).toNat 8))).wx (f.d.num + 1)
      (BitVec.ofNat 64 (s.tileRead s.cur 0 ((eaOf s f.a f.m).toNat + 8) 8))) f.h none := by
  obtain ⟨hf, hacq, hvec, ha, hl, hw⟩ := hr
  obtain ⟨hlow, hhigh⟩ := s.tileRead_quad s.cur 0 (eaOf s f.a f.m).toNat
  rw [show exec (.barSt f) s = execBarSt f s from rfl, execBarSt, issue_does hd, passWait_none]
  dsimp only
  rw [State.resumed_fresh hf]
  dsimp only
  rw [State.ea_eq_eaOf, barCheck_passes ha hl, hacq, hvec]
  dsimp only
  rw [if_neg (by simp), if_neg hs, State.barAccess_unmet hw, hlow, hhigh]
  rfl

/-! ### A held instruction that has been answered -/

section
variable {v : BitVec 128} (hp : s.me.c.phase = .granted v)
include hp

theorem exec_barArr_granted {f : MDA} (hd : s.does f.h none .u [(f.d, .wx), (f.a, .rx)] = true) :
    exec (.barArr f) s = completes (s.wx f.d.num (v.setWidth 64)) f.h none := by
  rw [show exec (.barArr f) s = execBarArr f s from rfl, execBarArr, issue_does hd, passWait_none]
  dsimp only
  rw [State.resumed_granted hp]
  rfl
theorem exec_barArw_granted {f : MDA} (hd : s.does f.h none .u [(f.d, .wx), (f.a, .rx)] = true) :
    exec (.barArw f) s = completes ((s.passedAt v).wx f.d.num (v.setWidth 64)) f.h none := by
  rw [show exec (.barArw f) s = execBarArw f s from rfl, execBarArw, issue_does hd, passWait_none]
  dsimp only
  rw [State.resumed_granted hp]
  rfl
theorem exec_barWait_granted {f : MDAB} (hd : s.does f.h none .u [(f.d, .wx), (f.a, .rx), (f.b, .rx)] = true) :
    exec (.barWait f) s = completes ((s.passedAt v).wx f.d.num (v.setWidth 64)) f.h none := by
  rw [show exec (.barWait f) s = execBarWait f s from rfl, execBarWait, issue_does hd, passWait_none]
  dsimp only
  rw [State.resumed_granted hp]
  rfl

end

end Sys2Proof.Machine

namespace Sys2Proof.Proofs

open Sys2Proof Sys2Proof.Machine Sys2Proof.Claims

/-- Settles O23: past their checks the instructions are the object's updates, and one that has been answered looks at nothing else. -/
theorem barrierInstructionResults : Obligations.BarrierInstructionResults := by
  refine ⟨fun s f hd => ?init, fun s f hd hs => exec_barArr_ready hd hs, fun s f hd hs hb => exec_barWait_ready hd hs hb,
    fun s f hd hs => ?arriveAndWait,
    fun s v hp => ⟨fun f hd => ⟨exec_barArr_granted hp hd, exec_barArw_granted hp hd⟩, fun f hd => exec_barWait_granted hp hd⟩,
    fun s f hd hs => exec_barSt_ready hd hs⟩
  case init =>
    dsimp only
    intro hr hw hlt hzero hin hout hfree
    refine ⟨_, exec_barInit_at hd hr rfl hlt hzero (State.barInit_unheld hin hout hfree ..), ?_, s.withObject_me ..,
      fun k n _ => by rw [s.withObject_xr]⟩
    rw [State.withObject_tileRead hw, BarObj.made_toNat, Nat.mod_eq_of_lt]
    omega
  case arriveAndWait =>
    dsimp only
    intro hr hq hp
    have hexec := exec_barArw_ready hd hs hr hq hp rfl
    refine ⟨fun v hv => ?_, fun hv => ?_⟩
    · rw [hexec, hv]
    · rw [hexec, hv]

end Sys2Proof.Proofs
end

section
/-! SUPPORT. Group membership (R147 to R151): what `gjoin` and `gleave` make of an operand, whichever form gives it. -/

namespace Sys2Proof.Machine

open Sys2Proof.Claims

variable {s : State} {op : BitVec 16} {d : Nat}

/-- The object that an operand names. -/
def groupOff (op : BitVec 16) : Nat := op.toNat % 2048 * 16
theorem Member.off_eq (m : Member) : m.off = groupOff m.op := by rw [Member.off, bitsAt_zero]; rfl
/-- The thread holds a membership of the operand. -/
def State.isMember (s : State) (op : BitVec 16) : Prop := ∃ m ∈ s.me.y.members, m.op = op
theorem State.isMember_iff : s.me.y.members.any (fun q => q.op == op) = true ↔ s.isMember op := by
  simp [State.isMember]

/-- What holds where a thread can update an object of its own scratchpad at once. -/
structure GroupReady (s : State) (op : BitVec 16) : Prop where
  fresh : s.isFresh = true
  acq : s.acqHeld = false
  vec : s.myTile.vecOpen s.curCtx = false
  unwatched : s.myTile.watchAt s.curCtx 0 (groupOff op) 16 true true = none

/-- The state in which a local join ends: the membership joins the table with status 0, or the count overflows with status 3. -/
def State.joinedGroup (s : State) (op : BitVec 16) (d : Nat) : State :=
  let j := s.barJoin s.cur (groupOff op)
  if j.2 then (j.1.updY fun y => { y with members := y.members ++ [{ op := op, route := 0, gen := 0, arrived := false }] }).wx d 0
  else j.1.wx d 3

theorem State.gjoin_member (hr : GroupReady s op) (hm : s.isMember op) : s.gjoin d op = .ok (s.wx d 1) := by
  unfold State.gjoin
  dsimp only
  rw [State.resumed_fresh hr.fresh]
  dsimp only
  rw [if_pos (State.isMember_iff.2 hm)]
theorem State.gjoin_full (hr : GroupReady s op) (hm : ¬ s.isMember op) (hfull : 8 ≤ s.me.y.members.length) : s.gjoin d op = .ok (s.wx d 2) := by
  unfold State.gjoin
  dsimp only
  rw [State.resumed_fresh hr.fresh]
  dsimp only
  rw [if_neg (mt State.isMember_iff.1 hm), if_pos hfull]
theorem State.gjoin_joins (hr : GroupReady s op) (hm : ¬ s.isMember op) (hroom : s.me.y.members.length < 8) (hl : op.getLsbD 11 = false) :
    s.gjoin d op = .ok (s.joinedGroup op d) := by
  have hoff (m : Member) (h : m.op = op) : m.off = groupOff op := by rw [Member.off_eq, h]
  unfold State.gjoin
  dsimp only
  rw [State.resumed_fresh hr.fresh]
  dsimp only
  rw [if_neg (mt State.isMember_iff.1 hm), if_neg hroom.not_ge, hr.acq, hr.vec, if_neg (by simp), Member.remote, hl, if_neg (by simp),
    hoff _ rfl, State.barAccess_unmet hr.unwatched, State.joinedGroup]

/-- What R148 says of the end of a local `gjoin`. -/
def State.joinEnds (s : State) (op : BitVec 16) (d : Nat) (t : State) : Prop :=
  (s.isMember op → t = s.wx d 1) ∧ (¬ s.isMember op → 8 ≤ s.me.y.members.length → t = s.wx d 2) ∧
  (¬ s.isMember op → s.me.y.members.length < 8 → op.getLsbD 11 = false → t = s.joinedGroup op d)
theorem State.gjoin_ends (hr : GroupReady s op) (hplain : op.getLsbD 11 = false ∨ s.isMember op ∨ 8 ≤ s.me.y.members.length) :
    ∃ t, s.gjoin d op = .ok t ∧ s.joinEnds op d t := by
  by_cases hm : s.isMember op
  · exact ⟨_, State.gjoin_member hr hm, fun _ => rfl, fun h => absurd hm h, fun h => absurd hm h⟩
  · by_cases hfull : 8 ≤ s.me.y.members.length
    · exact ⟨_, State.gjoin_full hr hm hfull, fun h => absurd h hm, fun _ _ => rfl, fun _ h => absurd hfull h.not_ge⟩
    · have hl : op.getLsbD 11 = false := (hplain.resolve_right fun h => h.elim hm hfull)
      exact ⟨_, State.gjoin_joins hr hm (Nat.lt_of_not_ge hfull) hl, fun h => absurd h hm, fun _ h => absurd h hfull, fun _ _ _ => rfl⟩

/-- The state in which a local withdrawal ends: the entry is gone, and the object has its withdrawal. -/
def State.leftGroup (s : State) (op : BitVec 16) (m : Member) (d : Nat) : State :=
  ((s.updY fun y => { y with members := y.members.filter fun q => q.op != op }).barWithdraw s.cur (groupOff op) m.gen m.arrived).wx d 0
theorem State.gleave_nonmember (hfind : s.me.y.members.find? (fun q => q.op == op) = none) : s.gleave d op = .ok (s.wx d 1) := by
  rw [State.gleave, hfind]
theorem State.gleave_withdraws {m : Member} (hr : GroupReady s op) (hq : s.allQuiet = true)
    (hfind : s.me.y.members.find? (fun q => q.op == op) = some m) (hl : op.getLsbD 11 = false) :
    s.gleave d op = .ok (s.leftGroup op m d) := by
  have hop : m.op = op := by simpa using List.find?_some hfind
  have hnear : m.remote = false := by rw [Member.remote, hop, hl]
  have hoff : m.off = groupOff op := by rw [Member.off_eq, hop]
  rw [State.gleave, hfind]
  dsimp only
  rw [hr.acq, hq, if_neg (by simp), hnear, if_neg (by simp), hoff, State.barAccess_unmet hr.unwatched, State.withdraw, hnear,
    if_pos (by simp), hoff]
  rfl

/-- What R150 says of the end of a local `gleave`. -/
def State.leaveEnds (s : State) (op : BitVec 16) (d : Nat) (t : State) : Prop :=
  ((∀ m ∈ s.me.y.members, m.op ≠ op) → t = s.wx d 1) ∧
  ∀ m, s.me.y.members.find? (fun q => q.op == op) = some m → op.getLsbD 11 = false → t = s.leftGroup op m d
theorem State.gleave_ends (hr : GroupReady s op) (hq : s.allQuiet = true) (hlocal : op.getLsbD 11 = false ∨ ∀ m ∈ s.me.y.members, m.op ≠ op) :
    ∃ t, s.gleave d op = .ok t ∧ s.leaveEnds op d t := by
  cases hfind : s.me.y.members.find? (fun q => q.op == op) with
  | none => exact ⟨_, State.gleave_nonmember hfind, fun _ => rfl, fun m hm => by rw [hfind] at hm; cases hm⟩
  | some m =>
    have hmember : ¬ ∀ m ∈ s.me.y.members, m.op ≠ op := fun h =>
      h m (List.mem_of_find?_eq_some hfind) (by simpa using List.find?_some hfind)
    refine ⟨_, State.gleave_withdraws hr hq hfind (hlocal.resolve_right hmember), fun h => absurd h hmember, fun m' hm' _ => ?_⟩
    rw [hfind] at hm'
    cases hm'
    rfl

/-! ### The two forms -/

/-- A word that holds a legal operand passes the check of the S-form (Table 3). -/
theorem joinOk_operand {w : Word} (hw : w = op.setWidth 64) (hlegal : op.getLsbD 11 = true ∨ op.toNat < 4096) :
    joinOk w = true ∧ w.setWidth 16 = op := by
  have hlt : w.toNat = op.toNat := by
    rw [hw, BitVec.toNat_setWidth, Nat.mod_eq_of_lt (op.isLt.trans (by decide))]
  have hbit : w.getLsbD 11 = op.getLsbD 11 := by rw [hw, BitVec.getLsbD_setWidth]; simp
  refine ⟨?_, ?_⟩
  · have := op.isLt
    rw [joinOk, hbit, hlt, decide_eq_true (by omega), Bool.true_and, Bool.or_eq_true, decide_eq_true_iff]
    exact hlegal
  · rw [hw]
    exact BitVec.setWidth_setWidth_of_le op (by decide)
theorem execGjoin_operand {f : SDA} (hd : s.does f.h (some f.t) .u [(f.d, .wx), (f.a, .rx)] = true) (hq : f.t.wen = false)
    (hw : s.rx f.a.num = op.setWidth 64) (hlegal : op.getLsbD 11 = true ∨ op.toNat < 4096) :
    exec (.gjoin f) s = s.conclude f.h (some f.t) true false (s.gjoin f.d.num op) := by
  obtain ⟨hok, hop⟩ := joinOk_operand hw hlegal
  rw [show exec (.gjoin f) s = execGjoin f s from rfl, execGjoin, issue_does hd, passWait_bare hq]
  dsimp only
  rw [hok, hop]
  rfl
theorem execGleave_operand {f : SDA} (hd : s.does f.h (some f.t) .u [(f.d, .wx), (f.a, .rx)] = true) (hq : f.t.wen = false)
    (hw : s.rx f.a.num = op.setWidth 64) (hlegal : op.getLsbD 11 = true ∨ op.toNat < 4096) :
    exec (.gleave f) s = s.conclude f.h (some f.t) true false (s.gleave f.d.num op) := by
  obtain ⟨hok, hop⟩ := joinOk_operand hw hlegal
  rw [show exec (.gleave f) s = execGleave f s from rfl, execGleave, issue_does hd, passWait_bare hq]
  dsimp only
  rw [hok, hop]
  rfl
theorem immediate_operand {i : BitVec 32} (hi : i = op.setWidth 32) : i.setWidth 16 = op := by
  rw [hi]
  exact BitVec.setWidth_setWidth_of_le op (by decide)
theorem execGjoinImm_operand {f : ID} (hd : s.does f.h none .u [(f.d, .wx)] = true) (hi : f.imm = op.setWidth 32) :
    exec (.gjoinImm f) s = s.conclude f.h none true false (s.gjoin f.d.num op) := by
  rw [show exec (.gjoinImm f) s = execGjoinImm f s from rfl, execGjoinImm, issue_does hd, passWait_none, immediate_operand hi]
theorem execGleaveImm_operand {f : ID} (hd : s.does f.h none .u [(f.d, .wx)] = true) (hi : f.imm = op.setWidth 32) :
    exec (.gleaveImm f) s = s.conclude f.h none true false (s.gleave f.d.num op) := by
  rw [show exec (.gleaveImm f) s = execGleaveImm f s from rfl, execGleaveImm, issue_does hd, passWait_none, immediate_operand hi]

/-- An instruction whose Execute part ends in a state of a kind completes in one of that kind. -/
theorem completes_of_ok {i : Instr} {h : Head} {t : Option STail} {r : Res} {p : State → Prop} (he : exec i s = s.conclude h t true false r)
    (hr : ∃ u, r = .ok u ∧ p u) : ∃ u, exec i s = completes u h t ∧ p u := by
  obtain ⟨u, rfl, hp⟩ := hr
  exact ⟨u, he, hp⟩

end Sys2Proof.Machine

namespace Sys2Proof.Proofs

open Sys2Proof Sys2Proof.Machine Sys2Proof.Claims

/-- Settles O24: both forms read the same operand, and the table and the object alone decide the status. -/
theorem groupMembership : Obligations.GroupMembership := by
  intro s op hf hacq hvec hw
  have hr : GroupReady s op := ⟨hf, hacq, hvec, hw⟩
  refine ⟨fun f hd hq ha hlegal => ⟨fun hplain => ?_, fun ⟨hquiet, hlocal⟩ => ?_⟩,
    fun f hd hi => ⟨fun hplain => ?_, fun ⟨hquiet, hlocal⟩ => ?_⟩⟩
  · exact completes_of_ok (execGjoin_operand hd hq ha hlegal) (State.gjoin_ends hr hplain)
  · exact completes_of_ok (execGleave_operand hd hq ha hlegal) (State.gleave_ends hr hquiet hlocal)
  · exact completes_of_ok (execGjoinImm_operand hd hi) (State.gjoin_ends hr hplain)
  · exact completes_of_ok (execGleaveImm_operand hd hi) (State.gleave_ends hr hquiet hlocal)

end Sys2Proof.Proofs
end

section
/-! SUPPORT. Event lines (R152 to R154): what `evsig` makes of a word, whichever form gives it, and how `evw` ends on each kind of line. -/

namespace Sys2Proof.Machine

open Sys2Proof.Claims

variable {s : State}

/-! ### evsig (R153) -/

/-- A mutex release by a context that is not the holder. -/
def State.badRelease (s : State) (w : Nat) : Prop :=
  w / 16384 % 4 = 1 ∧ (s.line (clusterKey s.cur) (w % 64)).holder ≠ some (partyOf s.cur s.curCtx)
/-- What R153 says of the end of a local `evsig`. -/
def State.evsigEnds (s : State) (w : Nat) (t : State) : Prop :=
  let ck := clusterKey s.cur
  let n := w % 64
  let act := w / 16384 % 4
  (act = 2 → t = s.setLine ck n { s.line ck n with expected := w / 65536 % 256, count := 0 }) ∧
  (act = 0 → n < 16 → t = (s.lineArrive ck n).1) ∧ (act = 0 → 32 ≤ n → t = s.lineSignal ck n) ∧ (act = 1 → t = s.lineRelease ck n false)
theorem State.lineAct_ends {w : Nat} (h : w / 16384 % 4 ≠ 1) :
    s.evsigEnds w (s.lineAct (clusterKey s.cur) (w % 64) (w / 16384 % 4) (w / 65536 % 256)) := by
  refine ⟨fun h2 => ?_, fun h0 hn => ?_, fun h0 hn => ?_, fun h1 => absurd h1 h⟩
  · rw [h2]
    rfl
  · rw [h0, State.lineAct, if_neg (by decide), if_pos hn]
  · rw [h0, State.lineAct, if_neg (by decide), if_neg (by omega)]

section
variable {w : Nat} (hlocal : w / 512 % 2 = 0)
include hlocal

theorem State.evsig_refused (hbad : s.badRelease w) : s.evsig w = .trap { cause := 0x06 } := by
  obtain ⟨hact, hholder⟩ := hbad
  have hnear : bitAt w 9 = false := by rw [bitAt, show w / 2 ^ 9 % 2 = 0 from hlocal]; rfl
  have hline : bitsAt w 0 6 = w % 64 := bitsAt_zero ..
  have hrelease : bitsAt w 14 2 = 1 := hact
  rw [State.evsig, hnear, hline, hrelease, if_neg Bool.false_ne_true, if_pos rfl, if_neg hholder]
theorem State.evsig_acts (hgood : ¬ s.badRelease w) : ∃ t, s.evsig w = .ok t ∧ s.evsigEnds w t := by
  have hnear : bitAt w 9 = false := by rw [bitAt, show w / 2 ^ 9 % 2 = 0 from hlocal]; rfl
  have hline : bitsAt w 0 6 = w % 64 := bitsAt_zero ..
  by_cases hact : w / 16384 % 4 = 1
  · have hholder : (s.line (clusterKey s.cur) (w % 64)).holder = some (partyOf s.cur s.curCtx) := by
      by_contra hother
      exact hgood ⟨hact, hother⟩
    have hrelease : bitsAt w 14 2 = 1 := hact
    refine ⟨s.lineRelease (clusterKey s.cur) (w % 64) false, ?_, fun h => ?_, fun h => ?_, fun h => ?_, fun _ => rfl⟩
    · rw [State.evsig, hnear, hline, hrelease, if_neg Bool.false_ne_true, if_pos rfl, if_pos hholder]
    all_goals omega
  · have hother : ¬ bitsAt w 14 2 = 1 := hact
    refine ⟨_, ?_, State.lineAct_ends hact⟩
    rw [State.evsig, hnear, hline, if_neg Bool.false_ne_true, if_neg hother]
    rfl

end

theorem exec_evsig_word {f : SA} {w : Nat} (hd : s.does f.h (some f.t) .u [(f.a, .rx)] = true) (hq : f.t.wen = false)
    (hw : (s.rx f.a.num).toNat = w) (hok : evsigWordOk w = true) :
    exec (.evsig f) s = s.conclude f.h (some f.t) true false (s.evsig w) := by
  rw [show exec (.evsig f) s = execEvsig f s from rfl, execEvsig, issue_does hd, passWait_bare hq]
  dsimp only
  rw [hw, hok, if_neg (by simp)]
theorem exec_evsigImm_word {f : I0} {w : Nat} (hd : s.does f.h none .u [] = true) (hw : f.imm.toNat = w) :
    exec (.evsigImm f) s = s.conclude f.h none true false (s.evsig w) := by
  rw [show exec (.evsigImm f) s = execEvsigImm f s from rfl, execEvsigImm, issue_does hd, passWait_none, hw]

/-! ### evw (R154, Table 7) -/

/-- Party p waits at the end of a line's queue. -/
def State.queueOn (s : State) (ck n p : Nat) : State := s.setLine ck n { s.line ck n with queue := (s.line ck n).queue ++ [p] }
/-- A wait passes with a value for xd and the time of what completed it. -/
def State.passes (s : State) (d v : Nat) (time : BitVec 48) : Res := .ok ((s.updY (·.passed time)).wx d (BitVec.ofNat 64 v))
/-- How `evw` ends on a line of its cluster: a barrier line by its arrival, a mutex line by its holder, an event line by its latch. -/
def State.evwEnds (s : State) (d n : Nat) : Res :=
  let ck := clusterKey s.cur
  let l := s.line ck n
  let p := partyOf s.cur s.curCtx
  if n < 16 then
    if l.expected ≤ l.count + 1 then (s.lineArrive ck n).1.passes d (bit (!l.gen)) (s.gtime.setWidth 48)
    else ((s.lineArrive ck n).1.queueOn ck n p).armWait
  else if n < 32 then
    if l.holder = none then (s.setLine ck n { l with holder := some p, abandoned := false }).passes d (bit l.abandoned * 2 + 1) l.time
    else (s.queueOn ck n p).armWait
  else if l.latch then (s.setLine ck n { l with latch := false }).passes d 1 l.time else (s.queueOn ck n p).armWait

/-- The last of a barrier line to arrive is given the bit of the new generation, and every other none. -/
theorem State.lineArrive_value (s : State) (ck n : Nat) :
    (s.lineArrive ck n).2 = if (s.line ck n).expected ≤ (s.line ck n).count + 1 then some (bit (!(s.line ck n).gen)) else none := by
  unfold State.lineArrive
  dsimp only
  split <;> rfl
theorem bit_lt_word (c : Bool) : bit c < 2 ^ 64 := (bit_lt c).trans (by decide)

section
variable {f : MDA} (hd : s.does f.h none .u [(f.d, .wx), (f.a, .rx)] = true)
include hd

theorem exec_evw_granted {v : BitVec 128} (hp : s.me.c.phase = .granted v) :
    exec (.evw f) s = completes ((s.passedAt v).wx f.d.num (v.setWidth 64)) f.h none := by
  rw [show exec (.evw f) s = execEvw f s from rfl, execEvw, issue_does hd, passWait_none]
  dsimp only
  rw [State.resumed_granted hp]
  rfl
theorem exec_evw_outside (hf : s.isFresh = true) (hn : 64 ≤ (eaOf s f.a f.m).toNat) :
    exec (.evw f) s = .next (s.takeFault { cause := 0x14, address := eaOf s f.a f.m }) := by
  rw [show exec (.evw f) s = execEvw f s from rfl, execEvw, issue_does hd, passWait_none]
  dsimp only
  rw [State.resumed_fresh hf]
  dsimp only
  rw [State.ea_eq_eaOf, if_pos (by omega), conclude_trap]
theorem exec_evw_line {n : Nat} (hf : s.isFresh = true) (hea : (eaOf s f.a f.m).toNat = n) (hn : n < 64) :
    exec (.evw f) s = s.conclude f.h none true false (s.evwEnds f.d.num n) := by
  have htwo : bit (s.line (clusterKey s.cur) n).abandoned * 2 + 1 < 2 ^ 64 := by
    have := bit_lt (s.line (clusterKey s.cur) n).abandoned
    omega
  have hvalue := s.lineArrive_value (clusterKey s.cur) n
  rw [show exec (.evw f) s = execEvw f s from rfl, execEvw, issue_does hd, passWait_none]
  dsimp only
  rw [State.resumed_fresh hf]
  dsimp only
  rw [State.ea_eq_eaOf, hea, if_neg (by omega), State.passedAt_timed htwo, State.passedAt_timed (by decide), State.evwEnds]
  by_cases hbarrier : n < 16
  · rw [if_pos hbarrier, if_pos hbarrier]
    generalize s.lineArrive (clusterKey s.cur) n = r at hvalue ⊢
    obtain ⟨s1, v⟩ := r
    dsimp only at hvalue ⊢
    rw [hvalue]
    by_cases hlast : (s.line (clusterKey s.cur) n).expected ≤ (s.line (clusterKey s.cur) n).count + 1
    · rw [if_pos hlast, if_pos hlast]
      dsimp only
      rw [State.passedAt_timed (bit_lt_word _), State.passes]
    · rw [if_neg hlast, if_neg hlast]
      rfl
  · rw [if_neg hbarrier, if_neg hbarrier]
    split
    · split
      · next hfree => rw [if_pos hfree, State.passes]
      · next hheld => rw [if_neg (by rw [hheld]; exact Option.some_ne_none _), State.queueOn]
    · rfl

end

end Sys2Proof.Machine
end

section
/-! SUPPORT. Wired tree barriers (R156, R157): the checks of `gbar` and its arrival. -/

namespace Sys2Proof.Machine

open Sys2Proof.Claims

variable {s : State} {d g : Nat} {ss : Bool} {at_ : Option Word}

/-- The moving context takes part in a tree of its owner. -/
def State.takesPart (s : State) (g : Nat) : Prop := s.treeOwner g = ownerOf s.cur ∧ (s.partSet s.cur g).getLsbD s.curCtx = true

theorem State.gbar_granted {v : BitVec 128} (hp : s.me.c.phase = .granted v) : s.gbar d g ss at_ = .ok ((s.passedAt v).wx d (v.setWidth 64)) := by
  unfold State.gbar
  rw [hp]
theorem State.gbar_firmware (hf : s.isFresh = true) (hg : 56 ≤ g) (hl : s.me.c.level ≠ .m) : s.gbar d g ss at_ = .trap { cause := 0x03 } := by
  rcases State.isFresh_cases hf with hp | hp <;>
  · unfold State.gbar
    rw [hp]
    dsimp only
    rw [if_pos (by simp [hg, hl])]
theorem State.gbar_stranger (hf : s.isFresh = true) (hg : g < 56) (hno : ¬ s.takesPart g) : s.gbar d g ss at_ = .trap { cause := 0x06 } := by
  have hmine : (s.treeOwner g == ownerOf s.cur && (s.partSet s.cur g).getLsbD s.curCtx) = false :=
    Bool.eq_false_iff.2 (by simpa [State.takesPart] using hno)
  rcases State.isFresh_cases hf with hp | hp <;>
  · unfold State.gbar
    rw [hp]
    dsimp only
    rw [if_neg (by simp [hg.not_ge]), hmine, if_pos (by rfl)]
/-- Once everything earlier has performed a context that takes part arrives, and waits under the tree's name. -/
theorem conclude_gbar (h : Head) (hf : s.isFresh = true) (hg : g < 56) (hpart : s.takesPart g) (hfree : s.free_ = true)
    (hstamped : ss = true → s.stampedOpen s.cur s.curCtx = false) (hat : ∀ r, at_ = some r → r.toNat % 32 = 0 ∧ r.toNat ≤ 0x7FE0) :
    s.conclude h none true false (s.gbar d g ss at_) =
      .next (armed (s.updMyTile fun t => t.arrive g s.curCtx ss (at_.map (·.toNat)) s.gtime) (treeWait g ss)) := by
  obtain ⟨howner, hin⟩ := hpart
  simp only [State.free_, Bool.and_eq_true, Bool.not_eq_true'] at hfree
  obtain ⟨hacq, hquiet⟩ := hfree
  have hheld : ¬ (s.acqHeld || !s.allQuiet || (ss && s.stampedOpen s.cur s.curCtx)) = true := by
    cases ss with
    | false => simp [hacq, hquiet]
    | true => simp [hacq, hquiet, hstamped rfl]
  have harrives : s.gbar d g ss at_ =
      .wait ((s.updMyTile fun t => t.arrive g s.curCtx ss (at_.map (·.toNat)) s.gtime).updC fun c => { c with phase := .armed (treeWait g ss) })
        .answer := by
    cases at_ with
    | none =>
      rcases State.isFresh_cases hf with hp | hp <;>
      · unfold State.gbar
        rw [hp]
        dsimp only
        rw [if_neg (by simp [hg.not_ge]), if_neg (by simp [howner, hin]), if_neg hheld]
    | some r =>
      obtain ⟨haligned, hinside⟩ := hat r rfl
      rcases State.isFresh_cases hf with hp | hp <;>
      · unfold State.gbar
        rw [hp]
        dsimp only
        rw [if_neg (by simp [hg.not_ge]), if_neg (by simp [howner, hin]), if_neg (not_not.2 haligned), if_neg hinside.not_gt]
        dsimp only
        rw [if_neg hheld]
  rw [harrives, conclude_wait, State.updC_updC]
  rfl

theorem exec_gbar_tree {f : ID} (hd : s.does f.h none .u [(f.d, .wx)] = true) (hg : f.imm.toNat = g) (hlt : g < 64) :
    exec (.gbar f) s = s.conclude f.h none true false (s.gbar f.d.num g false none) := by
  have htree : bitsAt f.imm.toNat 0 6 = g := by rw [bitsAt_zero, hg]; exact Nat.mod_eq_of_lt hlt
  rw [show exec (.gbar f) s = execGbar f s from rfl, execGbar, issue_does hd, passWait_none, htree]
theorem exec_gbarSs_tree {f : IDA} (hd : s.does f.h none .u [(f.d, .wx), (f.a, .rx)] = true) (hg : f.imm.toNat % 64 = g) :
    exec (.gbarSs f) s = s.conclude f.h none true false
      (s.gbar f.d.num g true (if f.a.num = 0 then none else some (s.rx f.a.num))) := by
  have htree : bitsAt f.imm.toNat 0 6 = g := (bitsAt_zero ..).trans hg
  rw [show exec (.gbarSs f) s = execGbarSs f s from rfl, execGbarSs, issue_does hd, passWait_none, htree]

end Sys2Proof.Machine

namespace Sys2Proof.Proofs

open Sys2Proof Sys2Proof.Machine Sys2Proof.Claims

theorem eventUnitResults : EventUnitResults := by
  refine ⟨fun s w hok hlocal => ⟨fun f hd hq hw => ⟨fun hgood => ?_, fun hbad => ?_⟩, fun f hd hw => ⟨fun hgood => ?_, fun hbad => ?_⟩⟩,
    fun s f hd => ⟨exec_evw_outside hd, fun hf hn hopen => ?arrives, fun hf hn hlast => ?completes, fun hf hlo hhi => ?mutex,
      fun hf hlo hhi => ?event, fun v hp => exec_evw_granted hd hp⟩⟩
  · exact completes_of_ok (exec_evsig_word hd hq hw hok) (State.evsig_acts hlocal hgood)
  · rw [exec_evsig_word hd hq hw hok, State.evsig_refused hlocal hbad, conclude_trap]
  · exact completes_of_ok (exec_evsigImm_word hd hw) (State.evsig_acts hlocal hgood)
  · rw [exec_evsigImm_word hd hw, State.evsig_refused hlocal hbad, conclude_trap]
  case arrives =>
    rw [exec_evw_line hd hf rfl (by omega), State.evwEnds]
    dsimp only
    rw [if_pos hn, if_neg (by omega), conclude_armWait]
    rfl
  case completes =>
    rw [exec_evw_line hd hf rfl (by omega), State.evwEnds]
    dsimp only
    rw [if_pos hn, if_pos hlast]
    rfl
  case mutex =>
    rw [exec_evw_line hd hf rfl (by omega), State.evwEnds]
    dsimp only
    rw [if_neg hlo.not_gt, if_pos hhi]
    by_cases hfree : (s.line (clusterKey s.cur) (eaOf s f.a f.m).toNat).holder = none
    · rw [if_pos hfree, if_pos hfree]
      rfl
    · rw [if_neg hfree, if_neg hfree]
      exact conclude_armWait ..
  case event =>
    rw [exec_evw_line hd hf rfl hhi, State.evwEnds]
    dsimp only
    rw [if_neg (by omega), if_neg hlo.not_gt]
    by_cases hset : (s.line (clusterKey s.cur) (eaOf s f.a f.m).toNat).latch = true
    · rw [if_pos hset, if_pos hset]
      rfl
    · rw [if_neg hset, if_neg hset]
      exact conclude_armWait ..

theorem treeBarrierResults : TreeBarrierResults := by
  refine ⟨fun s f hd hlt => ⟨fun v hp => ?_, fun hf hg hl => ?_, fun hf hg hno => ?_, fun hf hg howner hin hfree => ?_⟩,
    fun s f hd hg => ⟨fun v hp => ?_, fun hf howner hin hfree hstamped hat => ?_⟩⟩
  · rw [exec_gbar_tree hd rfl hlt, State.gbar_granted hp]
    rfl
  · rw [exec_gbar_tree hd rfl hlt, State.gbar_firmware hf hg hl, conclude_trap]
  · have hstranger : ¬ s.takesPart f.imm.toNat := fun ⟨howner, hin⟩ =>
      hno.elim (fun h => h howner) fun h => Bool.false_ne_true (h.symm.trans hin)
    rw [exec_gbar_tree hd rfl hlt, State.gbar_stranger hf hg hstranger, conclude_trap]
  · exact (exec_gbar_tree hd rfl hlt).trans (conclude_gbar f.h hf hg ⟨howner, hin⟩ hfree (fun h => by cases h) fun _ h => by cases h)
  · rw [exec_gbarSs_tree hd rfl, State.gbar_granted hp]
    rfl
  · rw [exec_gbarSs_tree hd rfl]
    by_cases hnone : f.a.num = 0
    · rw [if_pos hnone, if_pos hnone]
      exact conclude_gbar f.h hf hg ⟨howner, hin⟩ hfree (fun _ => hstamped) fun _ h => by cases h
    · rw [if_neg hnone, if_neg hnone]
      exact conclude_gbar f.h hf hg ⟨howner, hin⟩ hfree (fun _ => hstamped) fun r h => Option.some.inj h ▸ hat.resolve_left hnone

/-- Settles O25: the line's kind decides how `evw` ends, and a context arrives at a tree only where it takes part. -/
theorem eventAndTreeResults : Obligations.EventAndTreeResults := ⟨eventUnitResults, treeBarrierResults⟩

end Sys2Proof.Proofs
end

section
/-! SUPPORT. Semaphore and tag instructions (R29, R160, R162): what each does with its operand word, whichever form gives it, and what a signal
leaves. -/

namespace Sys2Proof.Machine

open Sys2Proof.Claims

variable {s : State}

/-! ### Signals (R29) -/

theorem State.addSem_eq (s : State) (n i : Nat) : s.addSem s.cur n i = (signalled s n i, decide (0xFFFF < s.sem s.cur n + i)) := by
  refine Prod.ext ?_ (State.addSem_saturates ..)
  have ht : (s.updTile s.cur fun t => { t with semTime := t.semTime.set n (s.gtime.setWidth 48) }).sem s.cur n = s.sem s.cur n := by
    simp [State.sem]
  unfold State.addSem
  simp only [ht]
  by_cases h : 0xFFFF < s.sem s.cur n + i
  · rw [if_pos h, signalled, Nat.min_eq_right h.le]
    rfl
  · rw [if_neg h, signalled, Nat.min_eq_left (Nat.le_of_not_lt h)]
    rfl
/-- The end of an effect that came with a signal: past 0xFFFF it stands, and the fault is raised. -/
theorem conclude_saturates (s t : State) (h : Head) (q : Option STail) (sum : Nat) :
    s.conclude h q true false (if decide (0xFFFF < sum) then .ends (t.takeFault { cause := 0x0F }) else .ok t) =
      if sum ≤ 0xFFFF then completes t h q else .next (t.takeFault { cause := 0x0F }) := by
  by_cases hle : sum ≤ 0xFFFF
  · rw [if_pos hle, if_neg (by simpa using hle)]
    rfl
  · rw [if_neg hle, if_pos (by simpa using hle)]
    rfl
theorem conclude_semsg (h : Head) (q : Option STail) (w : Word) :
    s.conclude h q true false (s.semsg w) =
      if s.sem s.cur (w.toNat % 256) + w.toNat / 256 % 65536 ≤ 0xFFFF then completes (signalled s (w.toNat % 256) (w.toNat / 256 % 65536)) h q
      else .next ((signalled s (w.toNat % 256) (w.toNat / 256 % 65536)).takeFault { cause := 0x0F }) := by
  have hno : semNo w = w.toNat % 256 := bitsAt_zero ..
  have hval : semVal w = w.toNat / 256 % 65536 := rfl
  rw [State.semsg, hno, hval, State.addSem_eq]
  exact conclude_saturates ..

/-- Whether an instruction goes through does not depend on its tail's signal. -/
theorem does_signal (b : Bool) {h : Head} {q : STail} {need : Level} {ops : List Req} :
    s.does h (some { q with sen := b }) need ops = s.does h (some q) need ops := by
  have hblocked : s.waitBlocked (some { q with sen := b }) = s.waitBlocked (some q) := by
    cases hw : q.wen && s.me.c.phase == .fresh <;> simp [State.waitBlocked, State.waitOf, hw]
  rw [State.does, State.does, State.runs, State.runs, hblocked]
/-- A tail without a signal ends an instruction as no tail does. -/
theorem conclude_unsignalled (h : Head) (q : STail) (g late : Bool) (r : Res) :
    s.conclude h (some { q with sen := false }) g late r = s.conclude h none g late r := by
  cases r with
  | ok t => simp only [State.conclude, State.finish, Bool.false_and, Bool.false_eq_true, if_false]
  | _ => rfl

/-! ### Operand words (Table 9) -/

theorem semOk_consuming (w : Word) : semOk w true false = true ↔ w.toNat < 2 ^ 25 := by simp [semOk]
theorem semOk_plain (w : Word) : semOk w false false = true ↔ w.toNat < 2 ^ 24 := by
  rw [semOk, ← BitVec.testBit_toNat, Nat.testBit_eq_decide_div_mod_eq]
  simp only [Bool.false_or, Bool.not_false, Bool.true_or, Bool.and_true, Bool.and_eq_true, Bool.not_eq_true', decide_eq_true_eq,
    decide_eq_false_iff_not]
  omega
theorem semOk_number (w : Word) : semOk w false true = true ↔ w.toNat < 256 := by
  have hplain := semOk_plain w
  simp only [semOk, Bool.not_false, Bool.true_or, Bool.and_true] at hplain
  rw [semOk, Bool.and_eq_true, hplain, Bool.not_true, Bool.false_or, beq_iff_eq, bitsAt]
  omega

/-! ### Instructions of one operand word -/

/-- A word passes, and then has its effect; or the context waits for what does not hold yet. -/
def WordEnds (passes : State → Word → Prop) (effect : State → Nat → Word → State) (body : State → Nat → Word → Res) : Prop :=
  ∀ (s : State) (d : Nat) (w : Word), (passes s w → body s d w = .ok (effect s d w)) ∧
    (¬ passes s w → ∃ o, body s d w = .wait s o ∧ s.holds s.cur s.curCtx o = false)

theorem semwt_ends : WordEnds (fun s w => w.toNat / 256 % 65536 ≤ s.sem s.cur (w.toNat % 256))
    (fun s d w =>
      let s1 := (s.passedSem (w.toNat % 256)).wx d (BitVec.ofNat 64 (s.sem s.cur (w.toNat % 256)))
      if w.getLsbD 24 then s1.setSem s.cur (w.toNat % 256) (s.sem s.cur (w.toNat % 256) - w.toNat / 256 % 65536) else s1) State.semwt := by
  intro s d w
  have hno : semNo w = w.toNat % 256 := bitsAt_zero ..
  have hval : semVal w = w.toNat / 256 % 65536 := rfl
  refine ⟨fun hp => ?_, fun hp => ⟨.sem (w.toNat % 256) (w.toNat / 256 % 65536), ?_, decide_eq_false hp⟩⟩
  · rw [State.semwt, hno, hval, if_neg hp.not_gt]
  · rw [State.semwt, hno, hval, if_pos (Nat.lt_of_not_le hp)]
theorem semrd_ends : WordEnds (fun _ _ => True) (fun s d w => s.wx d (BitVec.ofNat 64 (s.sem s.cur (w.toNat % 256)))) State.semrd := by
  intro s d w
  have hno : semNo w = w.toNat % 256 := bitsAt_zero ..
  exact ⟨fun _ => by rw [State.semrd, hno], fun h => absurd trivial h⟩
theorem semset_ends : WordEnds (fun _ _ => True) (fun s d w =>
    (s.setSem s.cur (w.toNat % 256) (w.toNat / 256 % 65536)).wx d (BitVec.ofNat 64 (s.sem s.cur (w.toNat % 256)))) State.semset := by
  intro s d w
  have hno : semNo w = w.toNat % 256 := bitsAt_zero ..
  have hval : semVal w = w.toNat / 256 % 65536 := rfl
  exact ⟨fun _ => by rw [State.semset, hno, hval], fun h => absurd trivial h⟩
theorem tagwa_ends : WordEnds (fun s w => s.myTile.tagbits &&& w ≠ 0 ∨ w = 0) (fun s d w =>
    (if w = 0 then s else s.updY (·.passed (s.myTile.tagsTime (s.myTile.tagbits &&& w)))).wx d (s.myTile.tagbits &&& w)) State.tagwa := by
  intro s d w
  have hcond : (s.myTile.tagbits &&& w != 0 || w == 0) = true ↔ s.myTile.tagbits &&& w ≠ 0 ∨ w = 0 := by simp
  refine ⟨fun hp => ?_, fun hp => ⟨.tagAny w, ?_, Bool.eq_false_iff.2 fun h => hp (hcond.1 h)⟩⟩
  · rw [State.tagwa, if_pos (hcond.2 hp), State.tagsPass]
  · rw [State.tagwa, if_neg (mt hcond.1 hp)]
theorem tagwl_ends : WordEnds (fun s w => s.myTile.tagbits &&& w = w) (fun s d w =>
    (if w = 0 then s else s.updY (·.passed (s.myTile.tagsTime (s.myTile.tagbits &&& w)))).wx d (s.myTile.tagbits &&& w)) State.tagwl := by
  intro s d w
  have hcond : (s.myTile.tagbits &&& w == w) = true ↔ s.myTile.tagbits &&& w = w := beq_iff_eq
  refine ⟨fun hp => ?_, fun hp => ⟨.tagAll w, ?_, Bool.eq_false_iff.2 fun h => hp (hcond.1 h)⟩⟩
  · rw [State.tagwl, if_pos (hcond.2 hp), State.tagsPass]
  · rw [State.tagwl, if_neg (mt hcond.1 hp)]
theorem tagff_ends : WordEnds (fun _ _ => True) (fun s d w =>
    s.wx d (match (List.range 64).find? fun i => (s.myTile.tagbits &&& w).getLsbD i with
      | some i => BitVec.ofNat 64 i
      | none => BitVec.allOnes 64)) State.tagff := by
  intro s d w
  refine ⟨fun _ => ?_, fun h => absurd trivial h⟩
  rw [State.tagff, findFrom_zero]
  dsimp only
  cases (List.range 64).find? fun i => (s.myTile.tagbits &&& w).getLsbD i with
  | none => rfl
  | some i => rfl

/-- What R160 and R162 say of an instruction of one operand word, in its two forms. -/
def WordRowHolds (row : (SDA → Instr) × (ID → Instr) × Bool × (Word → Prop) × (State → Word → Prop) × (State → Nat → Word → State)) : Prop :=
  (∀ (s : State) (f : SDA), s.does f.h (some f.t) .u [(f.d, .wx), (f.a, .rx)] = true → f.t.wen = false →
    let w := s.rx f.a.num
    let legal := row.2.2.2.1 w
    let passes := row.2.2.2.2.1 s w
    let effect (s : State) : State := row.2.2.2.2.2 s f.d.num w
    (legal → passes → row.2.2.1 = false ∨ f.t.sen = false → exec (row.1 f) s = completes (effect s) f.h (some f.t)) ∧
    (legal → passes → row.2.2.1 = true → f.t.sen = true →
      let t := effect (signalled s f.t.ssem.toNat f.t.inc)
      exec (row.1 f) s =
        if s.sem s.cur f.t.ssem.toNat + f.t.inc ≤ 0xFFFF then completes t f.h none else .next (t.takeFault { cause := 0x0F })) ∧
    (legal → ¬ passes →
      ∃ w, exec (row.1 f) s = .next (s.updC fun c => { c with run := .waiting, waitOn := w }) ∧ s.holds s.cur s.curCtx w = false) ∧
    (¬ legal → exec (row.1 f) s = .next (s.takeFault { cause := 0x02 }))) ∧
  (∀ (s : State) (f : ID), s.does f.h none .u [(f.d, .wx)] = true → row.2.2.2.2.1 s (f.imm.setWidth 64) →
    exec (row.2.1 f) s = completes (row.2.2.2.2.2 s f.d.num (f.imm.setWidth 64)) f.h none)

section
variable {mk : SDA → Instr} {mi : ID → Instr} {ok : Word → Bool} {body : State → Nat → Word → Res} {legal : Word → Prop}
  {passes : State → Word → Prop} {effect : State → Nat → Word → State} (hi : ∀ f s, exec (mi f) s = wordI f body s)
  (hok : ∀ w, ok w = true ↔ legal w)
include hi hok

/-- An instruction that acts before the signals of its clock. -/
theorem wordRow_first (hs : ∀ f s, exec (mk f) s = wordS ok f body s) (hb : WordEnds passes effect body) :
    WordRowHolds (mk, mi, false, legal, passes, effect) := by
  have hlegal {s : State} {f : SDA} (hd : s.does f.h (some f.t) .u [(f.d, .wx), (f.a, .rx)] = true) (hq : f.t.wen = false)
      (hl : legal (s.rx f.a.num)) : exec (mk f) s = s.conclude f.h (some f.t) true false (body s f.d.num (s.rx f.a.num)) := by
    rw [hs, wordS, issue_does hd, passWait_bare hq]
    dsimp only
    rw [(hok _).2 hl, if_neg (by simp)]
  refine ⟨fun s f hd hq => ⟨fun hl hp _ => ?_, fun _ _ h => (Bool.false_ne_true h).elim, fun hl hp => ?_, fun hl => ?_⟩, fun s f hd hp => ?_⟩
  · rw [hlegal hd hq hl, (hb ..).1 hp]
    rfl
  · obtain ⟨o, hwait, hno⟩ := (hb s f.d.num _).2 hp
    exact ⟨o, by rw [hlegal hd hq hl, hwait, conclude_wait], hno⟩
  · rw [hs, wordS, issue_does hd, passWait_bare hq]
    dsimp only
    rw [if_pos (by rw [Bool.eq_false_iff.2 (mt (hok _).1 hl)]; rfl), conclude_trap]
  · rw [hi, wordI, issue_does hd, passWait_none, immZ, (hb ..).1 hp]
    rfl
/-- One that acts after them, the signal of its own tail among them (R30), and passes at once. -/
theorem wordRow_last (hs : ∀ f s, exec (mk f) s = wordLast ok f body s) (hb : WordEnds (fun _ _ => True) effect body) :
    WordRowHolds (mk, mi, true, legal, fun _ _ => True, effect) := by
  have hbody (s : State) (d : Nat) (w : Word) : body s d w = .ok (effect s d w) := (hb s d w).1 trivial
  have hissue {s : State} {f : SDA} (hd : s.does f.h (some f.t) .u [(f.d, .wx), (f.a, .rx)] = true) (hq : f.t.wen = false) :
      exec (mk f) s = s.conclude f.h none true false (
        if !ok (s.rx f.a.num) then .trap { cause := 0x02 }
        else if !f.t.sen then .ok (effect s f.d.num (s.rx f.a.num))
        else if decide (0xFFFF < s.sem s.cur f.t.ssem.toNat + f.t.inc) then
          .ends ((effect (signalled s f.t.ssem.toNat f.t.inc) f.d.num (s.rx f.a.num)).takeFault { cause := 0x0F })
        else .ok (effect (signalled s f.t.ssem.toNat f.t.inc) f.d.num (s.rx f.a.num))) := by
    rw [hs, wordLast, issue_does ((does_signal false).trans hd), passWait_signal, passWait_bare hq, State.addSem_eq]
    dsimp only
    rw [hbody, hbody]
    exact conclude_unsignalled ..
  refine ⟨fun s f hd hq => ⟨fun hl _ h => ?_, fun hl _ _ hsen => ?_, fun _ h => absurd trivial h, fun hl => ?_⟩, fun s f hd _ => ?_⟩
  · have hsen : f.t.sen = false := h.resolve_left Bool.noConfusion
    rw [hissue hd hq, (hok _).2 hl, hsen, completes, finish_quiet hsen]
    rfl
  · rw [hissue hd hq, (hok _).2 hl, hsen]
    exact conclude_saturates ..
  · rw [hissue hd hq, Bool.eq_false_iff.2 (mt (hok _).1 hl)]
    rfl
  · rw [hi, wordI, issue_does hd, passWait_none, immZ, hbody]
    rfl

end

/-- The legal words of an instruction that takes every word. -/
theorem every_word_legal (w : Word) : (fun _ : Word => true) w = true ↔ (fun _ : Word => True) w := iff_of_true rfl trivial
theorem wordRows_hold : ∀ row ∈ wordRows, WordRowHolds row := by
  unfold wordRows
  refine List.forall_mem_cons.2 ⟨wordRow_first (fun _ _ => rfl) semOk_consuming (fun _ _ => rfl) semwt_ends, ?_⟩
  refine List.forall_mem_cons.2 ⟨wordRow_last (fun _ _ => rfl) semOk_number (fun _ _ => rfl) semrd_ends, ?_⟩
  refine List.forall_mem_cons.2 ⟨wordRow_last (fun _ _ => rfl) semOk_plain (fun _ _ => rfl) semset_ends, ?_⟩
  refine List.forall_mem_cons.2 ⟨wordRow_first (fun _ _ => rfl) every_word_legal (fun _ _ => rfl) tagwa_ends, ?_⟩
  refine List.forall_mem_cons.2 ⟨wordRow_first (fun _ _ => rfl) every_word_legal (fun _ _ => rfl) tagwl_ends, ?_⟩
  exact List.forall_mem_singleton.2 (wordRow_first (fun _ _ => rfl) every_word_legal (fun _ _ => rfl) tagff_ends)

end Sys2Proof.Machine

namespace Sys2Proof.Proofs

open Sys2Proof Sys2Proof.Machine Sys2Proof.Claims

/-- Settles O26: a row's two forms give one word to one body, before or after the signal of its own tail. -/
theorem semaphoreAndTagResults : Obligations.SemaphoreAndTagResults := by
  refine ⟨wordRows_hold, fun s w => ⟨fun f hd hq hw hlegal => ?_, fun f hd hw => ?_⟩, fun s w => ⟨fun f hd hw => ?_, fun f hd hw => ?_⟩⟩
  · rw [show exec (.semsg f) s = execSemsg f s from rfl, execSemsg, issue_does hd, passWait_bare hq]
    dsimp only
    rw [hw, (semOk_plain w).2 hlegal, if_neg (by simp)]
    exact conclude_semsg ..
  · rw [show exec (.semsgImm f) s = execSemsgImm f s from rfl, execSemsgImm, issue_does hd, passWait_none, immZ, hw]
    exact conclude_semsg ..
  · rw [show exec (.tagclr f) s = execTagclr f s from rfl, execTagclr, issue_does hd, State.passWait_rx, hw]
    rfl
  · rw [show exec (.tagclrImm f) s = execTagclrImm f s from rfl, execTagclrImm, issue_does hd, passWait_none, immZ, hw]
    rfl

end Sys2Proof.Proofs
end

section
/-! SUPPORT. What the instructions of TLBs, trees, watchdog times, proofs, counters and the trace unit do at an idle context (R156, R317, R334,
R372, R384, R385). -/

namespace Sys2Proof.Machine

open Sys2Proof.Claims

variable {s : State}

/-- An I-form system instruction with legal operand words does its body. -/
theorem sysIDA_acts {f : IDA} {ok : Word → Bool} (body : State → Word → Word → Res) (ha : acts s f.h none .s [(f.d, .wx), (f.a, .rx)])
    (hok : ok (s.rx f.a.num) = true) :
    s.sysIDA f ok body = s.conclude f.h none true false (body s (s.rx f.a.num) (f.imm.signExtend 64)) := by
  obtain ⟨hd, hfree, -⟩ := ha
  rw [State.sysIDA, issue_does hd, passWait_none]
  rw [if_neg (by simp [hok]), if_neg (State.not_held_of_free hfree)]
  rfl

/-! ### tlbi (R334) -/

/-- What `tlbi` of an operation does with legal operands: it waits for nothing, or is granted once its drop has been made. -/
def tlbiBody (s : State) (d op : Nat) (all : Bool) (a : Word) : Res :=
  let freed (u : State) : State := (u.freeHeld (s.inScope all) (migFrees op a.toNat)).updY Sync.ordered
  match s.me.c.phase with
  | .granted n =>
    if s.translatedOpen all n.toNat then .stall else .ok ((freed s).wx d (BitVec.ofNat 64 (bit (s.pageHasCell a.toNat))))
  | _ =>
    let t := s.dropTlb (s.inScope all) (tlbDrops op a.toNat) (tlbGone op a.toNat)
    if op = 3 then .wait (t.updC fun c => { c with phase := .granted (BitVec.ofNat 128 s.nextId) }) .nothing else .ok ((freed t).wx d 0)
theorem exec_tlbi_acts {f : SDAB} (ha : acts s f.h (some f.t) .s (opsDAB f)) (hb : (s.rx f.b.num).toNat < 16) (hop : (s.rx f.b.num).toNat % 8 < 4) :
    exec (.tlbi f) s = s.conclude f.h (some f.t) true false
      (tlbiBody s f.d.num ((s.rx f.b.num).toNat % 8) ((s.rx f.b.num).getLsbD 3) (s.rx f.a.num)) := by
  have hok : (below 4 (s.rx f.b.num) && decide (bitsAt (s.rx f.b.num).toNat 0 3 < 4)) = true := by
    rw [Bool.and_eq_true, below_iff, bitsAt_zero, decide_eq_true_iff]
    exact ⟨hb, hop⟩
  have hnum : bitsAt (s.rx f.b.num).toNat 0 3 = (s.rx f.b.num).toNat % 8 := bitsAt_zero ..
  rw [← hnum]
  rw [show exec (.tlbi f) s = execTlbi f s from rfl, execTlbi,
    sysDAB_acts (ok := fun _ b => below 4 b && decide (bitsAt b.toNat 0 3 < 4)) _ ha hok]
  rfl
theorem tlbiBody_granted {v : BitVec 128} {d op : Nat} {all : Bool} {a : Word} (hp : s.me.c.phase = .granted v)
    (hopen : s.translatedOpen all v.toNat = false) :
    tlbiBody s d op all a =
      .ok (((s.freeHeld (s.inScope all) (migFrees op a.toNat)).updY Sync.ordered).wx d (if s.pageHasCell a.toNat then 1 else 0)) := by
  rw [tlbiBody, hp]
  dsimp only
  rw [hopen, if_neg Bool.false_ne_true]
  cases s.pageHasCell a.toNat <;> rfl
theorem tlbiBody_drops {d op : Nat} {all : Bool} {a : Word} (hp : ∀ v, s.me.c.phase ≠ .granted v) (hop : op ≠ 3) :
    tlbiBody s d op all a = .ok ((((s.dropTlb (s.inScope all) (tlbDrops op a.toNat) (tlbGone op a.toNat)).freeHeld (s.inScope all)
      (migFrees op a.toNat)).updY Sync.ordered).wx d 0) := by
  unfold tlbiBody
  split
  · exact absurd ‹_› (hp _)
  · exact if_neg hop
/-- What a drop leaves of a tile. -/
def droppedTile (drops : TlbEntry → Bool) (t : Tile) : Tile :=
  let keep (l : List TlbEntry) : List TlbEntry := l.filter fun e => !drops e
  { t with itlb := keep t.itlb, dtlb := keep t.dtlb, mtlb := keep t.mtlb, ctlb := keep t.ctlb }
theorem State.dropTlb_tile (s : State) (pick : Nat → Bool) (drops : TlbEntry → Bool) (gone : Nat → Bool) (k : Nat) :
    (s.dropTlb pick drops gone).tile k = if pick k then droppedTile drops (s.tile k) else s.tile k := by
  have hmap : (s.dropTlb pick drops gone).tiles = s.tiles.map fun e => (e.1, if pick e.1 then droppedTile drops e.2 else e.2) :=
    List.map_congr_left fun e _ => by split <;> rfl
  rw [State.tile, hmap]
  exact SMap.get_map (f := fun j t => if pick j then droppedTile drops t else t) (ite_self _) s.tiles
/-- A drop takes the matching entries of the tiles that the test picks, and of no others. -/
theorem State.dropTlb_dtlb (s : State) (pick : Nat → Bool) (drops : TlbEntry → Bool) (gone : Nat → Bool) (k : Nat) :
    ((s.dropTlb pick drops gone).tile k).dtlb = if pick k then (s.tile k).dtlb.filter fun e => !drops e else (s.tile k).dtlb := by
  rw [State.dropTlb_tile, apply_ite Tile.dtlb]
  rfl

/-! ### gpart (R156, R159) -/

theorem State.partSet_setParts_of_none {k g : Nat} (new : BitVec 4) (h : s.partSet k g = 0) : (s.setParts k g new).partSet k g = 0 := by
  have hparts : ((s.setParts k g new).tile k).parts = (s.tile k).parts := by rw [State.setParts, State.tile_updTile, if_pos h]
  rw [← h, State.partSet, hparts]
  rfl
theorem State.partSet_setParts_of_some {k g : Nat} (new : BitVec 4) (h : s.partSet k g ≠ 0) : (s.setParts k g new).partSet k g = new := by
  have hparts : ((s.setParts k g new).tile k).parts = (s.tile k).parts.set g new := by rw [State.setParts, State.tile_updTile, if_neg h]
  rw [State.partSet, hparts, SMap.get_set_same]
theorem State.partsNext_setParts {k g : Nat} {new : BitVec 4} (h : s.partSet k g = 0) (hnew : new ≠ 0) :
    ((s.setParts k g new).tile k).partsNext.get 0 g = new := by
  rw [State.setParts, State.tile_updTile, if_pos h, if_neg hnew, SMap.get_set_same]
theorem exec_gpart_acts {f : SDAB} (ha : acts s f.h (some f.t) .s (opsDAB f)) (hla : (s.rx f.a.num).toNat < 2 ^ 22)
    (hlb : (s.rx f.b.num).toNat < 16) :
    exec (.gpart f) s =
      let k := s.named ((s.rx f.a.num).toNat % 65536)
      let g := (s.rx f.a.num).toNat / 65536
      s.conclude f.h (some f.t) true false
        (if 56 ≤ g ∧ s.me.c.level ≠ .m then .trap { cause := 0x03 }
        else if s.treeOwner g ≠ ownerOf s.cur then .trap { cause := 0x06 }
        else .ok ((s.setParts k g ((s.rx f.b.num).setWidth 4)).wx f.d.num ((s.partSet k g).setWidth 64))) := by
  have hok : (below 22 (s.rx f.a.num) && below 4 (s.rx f.b.num)) = true := by
    rw [Bool.and_eq_true, below_iff, below_iff]
    exact ⟨hla, hlb⟩
  have hk : bitsAt (s.rx f.a.num).toNat 0 16 = (s.rx f.a.num).toNat % 65536 := bitsAt_zero ..
  have hg : bitsAt (s.rx f.a.num).toNat 16 6 = (s.rx f.a.num).toNat / 65536 := bitsAt_top hla
  rw [show exec (.gpart f) s = execGpart f s from rfl, execGpart, sysDAB_acts _ ha hok, hk, hg]

/-! ### wdog (R317) -/

theorem State.wdogSet_eq (s : State) (d : Nat) {a : Word} (v : Word) (ha : a.toNat < 2 ^ 10) :
    s.wdogSet d a v = .ok ((s.updForme (formeKey s.cur) fun w => { w with wdog := w.wdog.set (a.toNat % 256 * 4 + a.toNat / 256) v }).wx d
      ((s.forme (formeKey s.cur)).wdog.get (if a.toNat / 256 = 2 then 100000 else 1000) (a.toNat % 256 * 4 + a.toNat / 256))) := by
  have hg : bitsAt a.toNat 0 8 = a.toNat % 256 := bitsAt_zero ..
  have hstep : bitsAt a.toNat 8 2 = a.toNat / 256 := bitsAt_top ha
  have hown : ¬ 256 ≤ a.toNat % 256 := (Nat.mod_lt _ (by decide)).not_ge
  rw [State.wdogSet, hg, hstep, State.wdogOf, if_neg hown, BitVec.ofNat_toNat, BitVec.setWidth_eq, formeKey]

/-! ### proof (R372) -/

/-- Arming when no proof is armed, when the armed one is not taken yet, and while one is being taken. -/
theorem Proof.arm_idle {p : Proof} (h : p.live = false) : p.arm = (1, { p with live := true, number := 1, state := 0 }) := by
  rw [Proof.arm, h]
  rfl
theorem Proof.arm_armed {p : Proof} (h : p.live = true) (h0 : p.state = 0) : p.arm = (p.number, p) := by
  rw [Proof.arm, h, if_pos h0]
  rfl
theorem Proof.arm_again {p : Proof} (h : p.live = true) (h0 : p.state ≠ 0) :
    p.arm = (p.number + 1,
      if p.queued then p else if p.state = 1 then { p with queued := true } else { p with number := p.number + 1, state := 0 }) := by
  rw [Proof.arm, h, if_neg (by decide : ¬ (!true) = true), if_neg h0]
  split_ifs <;> rfl
/-- What arming answers and leaves: a proof while one is being taken is queued. -/
theorem Proof.arm_spec (p : Proof) :
    p.arm.1 = (if p.live = false then 1 else if p.state = 0 then p.number else p.number + 1) ∧ p.arm.2.live = true ∧
    (p.live = false ∨ p.state = 0 ∨ (p.state ≠ 1 ∧ p.queued = false) → p.arm.2.number = p.arm.1 ∧ p.arm.2.state = 0) ∧
    (p.live = true → p.state = 1 → p.arm.2.queued = true) := by
  by_cases h : p.live = false
  · rw [Proof.arm_idle h, if_pos h]
    exact ⟨rfl, rfl, fun _ => ⟨rfl, rfl⟩, fun hl => Bool.noConfusion (h.symm.trans hl)⟩
  have hl : p.live = true := Bool.eq_true_of_not_eq_false h
  rw [if_neg h]
  by_cases h0 : p.state = 0
  · rw [Proof.arm_armed hl h0, if_pos h0]
    exact ⟨rfl, hl, fun _ => ⟨rfl, h0⟩, fun _ h1 => absurd (h0.symm.trans h1) (by decide)⟩
  rw [Proof.arm_again hl h0, if_neg h0]
  by_cases hq : p.queued = true
  · rw [if_pos hq]
    exact ⟨rfl, hl, fun hn => hn.elim (absurd · h) (·.elim (absurd · h0) fun hn => Bool.noConfusion (hn.2.symm.trans hq)), fun _ _ => hq⟩
  rw [if_neg hq]
  by_cases h1 : p.state = 1
  · rw [if_pos h1]
    exact ⟨rfl, hl, fun hn => hn.elim (absurd · h) (·.elim (absurd · h0) fun hn => absurd h1 hn.1), fun _ _ => rfl⟩
  · rw [if_neg h1]
    exact ⟨rfl, hl, fun _ => ⟨rfl, rfl⟩, fun _ he => absurd he h1⟩
theorem exec_proof_acts {f : ID} (ha : acts s f.h none .s [(f.d, .wx)]) :
    exec (.proof f) s = completes (((s.updOwner (ownerOf s.cur) fun w => { w with proof := (s.owner (ownerOf s.cur)).proof.arm.2 }).proofRecord
      (ownerOf s.cur)).wx f.d.num ((s.owner (ownerOf s.cur)).proof.arm.1.setWidth 64)) f.h none := by
  obtain ⟨hd, hfree, -⟩ := ha
  rw [show exec (.proof f) s = execProof f s from rfl, execProof, issue_does hd, passWait_none, if_neg (State.not_held_of_free hfree)]
  rfl

/-! ### Counters and trace (R384, R385) -/

theorem State.claim_eq (s : State) (d : Nat) (a b : Word) : s.claim d a b = .ok (claims s d a b) := by
  have hevent : bitsAt b.toNat 0 16 = b.toNat % 65536 := bitsAt_zero ..
  have hlink (e : Nat) : (0x104 ≤ e ∧ e ≤ 0x105) ↔ (e = 0x104 ∨ e = 0x105) := by omega
  have hm : ((s.counterOf a).claimed && (s.counterOf a).byM && !(s.me.c.level == .m)) = true ↔
      (s.counterOf a).claimed = true ∧ (s.counterOf a).byM = true ∧ s.me.c.level ≠ .m := by simp [and_assoc]
  rw [State.claim, claims, hevent]
  simp only [eventOk, hlink, hm, apply_ite Res.ok]
theorem trcOk_iff (a : Word) : trcOk a = true ↔ a.toNat / 16 % 256 = 0 := beq_iff_eq
theorem State.traceSet_eq (s : State) (d : Nat) (a b : Word) : s.traceSet d a b = .ok (traces s d a b) := by
  have hm : (s.myTile.trace.on && s.myTile.trace.byM && !(s.me.c.level == .m)) = true ↔
      s.myTile.trace.on = true ∧ s.myTile.trace.byM = true ∧ s.me.c.level ≠ .m := by simp [and_assoc]
  have hlg : bitsAt a.toNat 0 4 = a.toNat % 16 := bitsAt_zero ..
  rw [State.traceSet, traces, hlg]
  simp only [hm, apply_ite Res.ok]
theorem exec_cntr_acts {f : SDA} (ha : acts s f.h (some f.t) .u (opsDA f)) (hlegal : (s.rx f.a.num).toNat < 64) :
    exec (.cntr f) s =
      let a := s.rx f.a.num
      let q := s.counterOf a
      completes (s.wx f.d.num (if !q.claimed || !eventOk (a.getLsbD 5) (onEdge s.cur) q.event.toNat then BitVec.allOnes 64
        else s.counterValue a)) f.h (some f.t) := by
  rw [show exec (.cntr f) s = execCntr f s from rfl, execCntr, sysDA_acts _ ha ((below_iff ..).2 hlegal)]
  rfl
theorem eventOk_tile {edge : Bool} {e : Nat} (hlo : 1 ≤ e) (hhi : e ≤ 9) : eventOk false edge e = true := decide_eq_true ⟨hlo, hhi⟩
theorem eventOk_cluster {edge : Bool} {e : Nat} (hlo : 0x100 ≤ e) (hhi : e ≤ 0x103) : eventOk true edge e = true :=
  Bool.or_eq_true_iff.2 (.inl (decide_eq_true ⟨hlo, hhi⟩))
/-- A claimed counter of an event of its bank reads its value. -/
theorem exec_cntr_claimed {f : SDA} (ha : acts s f.h (some f.t) .u (opsDA f)) (hlegal : (s.rx f.a.num).toNat < 64)
    (hc : (s.counterOf (s.rx f.a.num)).claimed = true)
    (he : eventOk ((s.rx f.a.num).getLsbD 5) (onEdge s.cur) (s.counterOf (s.rx f.a.num)).event.toNat = true) :
    exec (.cntr f) s = completes (s.wx f.d.num (s.counterValue (s.rx f.a.num))) f.h (some f.t) := by
  rw [exec_cntr_acts ha hlegal]
  dsimp only
  rw [if_neg (by rw [hc, he]; decide)]
theorem timedEvent_iff (e : Nat) : timedEvent e = true ↔ 2 ≤ e ∧ e ≤ 4 := by
  simp only [timedEvent, Bool.or_eq_true, beq_iff_eq]
  omega
theorem State.counterValue_tile {a : Word} (h : a.getLsbD 5 = false) :
    s.counterValue a = if (s.counterOf a).enabled = true ∧ 2 ≤ (s.counterOf a).event.toNat ∧ (s.counterOf a).event.toNat ≤ 4 then
      (s.counterOf a).value +
        Config.eventCycles (s.counterOf a).event.toNat s.cur (s.counterCtx (a.toNat % 32 % 8)) (s.counterOf a).since s.gtime
    else (s.counterOf a).value := by
  have hn : bitsAt a.toNat 0 5 = a.toNat % 32 := bitsAt_zero ..
  rw [State.counterValue, h, hn, if_neg Bool.false_ne_true, State.tileCount]
  simp only [Bool.and_eq_true, timedEvent_iff]
theorem State.counterValue_cluster {a : Word} (h : a.getLsbD 5 = true) :
    s.counterValue a = if (s.counterOf a).enabled = true ∧ (s.counterOf a).event.toNat = 0x100 then
      (s.counterOf a).value + (s.cyc s.cur - Config.cycles (s.dieOf s.cur) (clusterIn s.cur) (s.counterOf a).since)
    else (s.counterOf a).value := by
  have hevent : (s.counterOf a).event = 0x100 ↔ (s.counterOf a).event.toNat = 0x100 := BitVec.toNat_inj.symm
  rw [State.counterValue, h, if_pos rfl, State.clusterCount]
  simp only [Bool.and_eq_true, beq_iff_eq, hevent]

end Sys2Proof.Machine

namespace Sys2Proof.Proofs

open Sys2Proof Sys2Proof.Machine Sys2Proof.Claims

/-- Settles O45: each instruction's body at legal operand words, and what its update leaves. -/
theorem treesTimesAndCounters : Obligations.TreesTimesAndCounters := by
  refine ⟨fun s f ha => ⟨?tlbi, ?gpart, ?cntc, ?trc⟩, ?wdog, ?proof, ?immediates, ?cntr⟩
  case tlbi =>
    refine fun hb hop => ⟨fun hp hne => ?_, fun v hp hopen => ?_, fun k => State.dropTlb_dtlb .., rfl, rfl⟩
    · rw [exec_tlbi_acts ha hb hop, tlbiBody_drops hp hne]
      rfl
    · rw [exec_tlbi_acts ha hb hop, tlbiBody_granted hp hopen]
      rfl
  case gpart =>
    intro hla hlb
    rw [exec_gpart_acts ha hla hlb]
    refine ⟨fun hg ho => ?_, fun hg hm => ?_, fun hg ho => ?_, State.partSet_setParts_of_some _,
      fun h0 => ⟨State.partSet_setParts_of_none _ h0, State.partsNext_setParts h0⟩⟩ <;> dsimp only
    · rw [if_neg fun h => hg.elim h.1.not_gt h.2, if_neg (not_not_intro ho)]
      rfl
    · rw [if_pos ⟨hg, hm⟩]
      rfl
    · rw [if_neg fun h => h.1.not_gt hg, if_pos ho]
      rfl
  case cntc =>
    intro hla hlb
    have hok : (below 6 (s.rx f.a.num) && below 18 (s.rx f.b.num)) = true :=
      Bool.and_eq_true_iff.2 ⟨(below_iff ..).2 hla, (below_iff ..).2 hlb⟩
    rw [show exec (.cntc f) s = execCntc f s from rfl, execCntc,
      sysDAB_acts (ok := fun a b => below 6 a && below 18 b) _ ha hok, State.claim_eq]
    rfl
  case trc =>
    intro hla hlb
    have hok : (trcOk (s.rx f.a.num) && below 4 (s.rx f.b.num)) = true :=
      Bool.and_eq_true_iff.2 ⟨(trcOk_iff _).2 hla, (below_iff ..).2 hlb⟩
    rw [show exec (.trc f) s = execTrc f s from rfl, execTrc,
      sysDAB_acts (ok := fun a b => trcOk a && below 4 b) _ ha hok, State.traceSet_eq]
    rfl
  case wdog =>
    refine fun s a v hlegal hstep => ⟨fun f ha hwa hwv => ?_, fun f ha hwa hwv => ?_⟩
    · subst hwa hwv
      rw [show exec (.wdog f) s = execWdog f s from rfl, execWdog,
        sysDAB_acts (ok := fun a _ => wdogOk a) _ ha ((wdogOk_iff _).2 ⟨hlegal, hstep⟩), State.wdogSet_eq _ _ _ hlegal]
      rfl
    · subst hwa hwv
      rw [show exec (.wdogImm f) s = execWdogImm f s from rfl, execWdogImm,
        sysIDA_acts _ ha ((wdogOk_iff _).2 ⟨hlegal, hstep⟩), State.wdogSet_eq _ _ _ hlegal]
      rfl
  case proof =>
    intro s f ha
    obtain ⟨hn, hlive, hstate, hqueued⟩ := Proof.arm_spec (s.owner (ownerOf s.cur)).proof
    refine ⟨(s.owner (ownerOf s.cur)).proof.arm.2, ?_, hlive, fun h => hn ▸ hstate h, hqueued⟩
    rw [exec_proof_acts ha, hn]
  case immediates =>
    refine fun s f ha => ⟨fun hlegal => ?_, fun hlegal => ?_⟩
    · rw [show exec (.cntcImm f) s = execCntcImm f s from rfl, execCntcImm, sysIDA_acts _ ha ((below_iff ..).2 hlegal), State.claim_eq]
      rfl
    · rw [show exec (.trcImm f) s = execTrcImm f s from rfl, execTrcImm, sysIDA_acts _ ha ((trcOk_iff _).2 hlegal), State.traceSet_eq]
      rfl
  case cntr =>
    refine fun s f ha hlegal => ⟨fun hc => ?_, fun hc hbank hlo hhi => ?_, fun hc hbank hlo hhi => ?_⟩
    · rw [exec_cntr_acts ha hlegal]
      dsimp only
      rw [hc, if_pos (by rfl)]
    · rw [exec_cntr_claimed ha hlegal hc (hbank ▸ eventOk_tile hlo hhi), State.counterValue_tile hbank]
      refine ⟨fun h => ?_, fun hlo' hhi' hen => ?_⟩
      · rw [if_neg (by rintro ⟨hen, hlo', hhi'⟩; rcases h with h | h | h <;> [omega; omega; exact Bool.noConfusion (h.symm.trans hen)])]
      · rw [if_pos ⟨hen, hlo', hhi'⟩]
    · rw [exec_cntr_claimed ha hlegal hc (hbank ▸ eventOk_cluster hlo hhi), State.counterValue_cluster hbank]
      refine ⟨fun h => ?_, fun h hen => ?_⟩
      · rw [if_neg fun hc => h.elim (absurd hc.2) fun hoff => Bool.noConfusion (hoff.symm.trans hc.1)]
      · rw [if_pos ⟨hen, h⟩]

end Sys2Proof.Proofs
end
